-- ==== Sys2Proof/Word.lean ====
section
/-! DEFINITION. The words of the machine and their plainest arithmetic: bytes and byte strings, the
little-endian reading of a byte string (R74, R564), a bit field of a number, and a total square root. -/

namespace Sys2Proof

/-- One byte. -/
abbrev Byte := BitVec 8

/-- A string of bytes, lowest address first. -/
abbrev Bytes := List Byte

/-- The number that a byte string holds, little-endian (R74, R564). -/
def leNat : Bytes → Nat
  | [] => 0
  | b :: bs => b.toNat + 256 * leNat bs

/-- `n` bytes of a number, little-endian (R74, R564). -/
def leBytes : Nat → Nat → Bytes
  | 0, _ => []
  | n + 1, v => BitVec.ofNat 8 v :: leBytes n (v / 256)

/-- The number that a byte string holds, first byte highest. -/
def beNat (bs : Bytes) : Nat := leNat bs.reverse

/-- `n` bytes of a number, highest byte first. -/
def beBytes (n v : Nat) : Bytes := (leBytes n v).reverse

/-- Bits `[hi:lo]` of a number (the bit-field notation of 00_scope.md). -/
def bits (v hi lo : Nat) : Nat := (v >>> lo) % 2 ^ (hi + 1 - lo)

/-- Bit `i` of a number. -/
def bit (v i : Nat) : Bool := v.testBit i

/-- A truth value as a number. -/
def b2n (b : Bool) : Nat := if b then 1 else 0

end Sys2Proof
end

