-- ==== Sys2Proof/Syntax.lean ====
section
/-! DEFINITION. The commands of the module: one constructor per row of spec/opcode_table.json. The table
gives the rows no operands; the operands below are those that the rule of each row names (log 3). -/

namespace Sys2Proof

/-- The words of a command of a STEP record, less OPCODE and LEN, which the row fixes (R82, R366):
TAIL, PSEL, the operand bits [47:0] of word 0, and words 1 to 3. -/
structure Cw where
  tail : Bool
  psel : BitVec 4
  w0 : BitVec 48
  w1 : BitVec 64
  w2 : BitVec 64
  w3 : BitVec 64
  deriving DecidableEq, Repr

/-- Who executes a CL command: the caller of a logical cluster, or a die's routine sequencer (R401). -/
inductive Site where
  | lc (n : Fin 48)
  | seq (d : Fin 2)
  deriving DecidableEq, Repr

/-- What the module senses in one beat (R596, R601, R613): 32 sensor samples in 0.1 °C (sensor `i` of
region `r` at 4r + i), the eight core rails in mV, the mean input power of the last bar in W, and the
filtered input voltage in mV. -/
structure Sense where
  temps : List Int
  rails : List Nat
  power : Nat
  vin : Nat
  deriving DecidableEq, Repr

/-- What forward error correction makes of the codeword that a received slot or half of a beat block is the first to touch (R450, R453). -/
inductive Fec where
  | clean
  | corrected
  | uncorrectable
  deriving DecidableEq, Repr

/-- Which signal word in flight applies: the first due timed one of an issue domain, or the
untimed one at a place in the list of those that have not yet arrived (R308, R310). -/
inductive SignalSel where
  | timed (d : Fin 10)
  | untimed (k : Nat)
  deriving DecidableEq, Repr

/-- What an SPDM requester says of its own authentication in KEY_EXCHANGE and FINISH (R536). -/
structure SpdmPeer where
  mutual_ : Bool
  rootDigest : Nat
  deriving DecidableEq, Repr

/-- The BAR through which a host reads (R516): the bank window, the function page and control space, the doorbells. -/
inductive Bar where
  | window
  | page
  | bells
  deriving DecidableEq, Repr

/-- How a dictionary message comes (R566, R571): its path; whether it arrives before the response to the previous one has been sent; on path 0 the
destination address and the EtherType of its frame; on path 1 the type and the vendor of the MCTP message and its destination endpoint. -/
structure Carrier where
  path : Fin 4
  early : Bool := false
  dst : BitVec 48 := 0
  etherType : BitVec 16 := 0x88B5
  msgType : Byte := 0x7E
  vendor : BitVec 16 := 0
  eid : Byte := 0
  deriving DecidableEq, Repr

/-- A part of the snapshot of a neighbour whose buddy this module is: the slot, the offset in it, the bytes (R648, R651). -/
structure BuddyPart where
  slot : Fin 2
  off : Nat
  data : Bytes
  deriving DecidableEq, Repr

/-- The commands: one constructor per row of spec/opcode_table.json, in the table's order. -/
inductive Instr where
  -- the beat reference (02_beats_and_bars.md)
  | beatsyncRun (f : BitVec 128) (e : Sense)
  | beatsyncHold (f : BitVec 128) (e : Sense)
  | beatsyncResume (f : BitVec 128) (e : Sense)
  | beatsyncInvalidFrame (f : BitVec 128) (onTime : Bool) (e : Sense)
  | invalidFrameLimit (f : BitVec 128) (onTime : Bool) (e : Sense)
  | beatLock (f : BitVec 128) (e : Sense)
  | safeSettingDeadline (r : Fin 8)
  | regionStop (d : Fin 10)
  -- the step stream (03_routine.md)
  | stepRecord (d : Fin 10)
  | restRecord (run : Fin 10 × Nat)
  | beatRecord (d : Fin 10)
  | openRecord (d : Fin 10)
  | closeRecord (d : Fin 10)
  | routineBegin
  | routineEnd
  | stop (arg : BitVec 32)
  -- the matrix array (04_matrix_array.md)
  | tload (n : Fin 48) (c : Cw)
  | tloadDelayedStart (n : Fin 48)
  | mstream (n : Fin 48) (c : Cw)
  | matrixOperandsReady (n : Fin 48)
  | arrayWindDown (n : Fin 48)
  | mdset (n : Fin 48) (c : Cw)
  | mdrain (n : Fin 48) (c : Cw)
  | drainDelivery (n : Fin 48)
  -- the vector engine and training (06, 07)
  | figure (n : Fin 48) (c : Cw)
  | figureStart (n : Fin 48)
  | figureLanding (n : Fin 48)
  | ftload (n : Fin 48) (c : Cw)
  | stepCmd (n : Fin 48) (c : Cw)
  | amaxBind (n : Fin 48) (c : Cw)
  | amaxUnbind (n : Fin 48) (c : Cw)
  | amaxSave (n : Fin 48) (c : Cw)
  | amaxLoad (n : Fin 48) (c : Cw)
  | amaxMerge (n : Fin 48) (c : Cw)
  | amaxRecordArrival (n : Fin 48)
  | vkey (s : Site) (c : Cw)
  -- the floor (08_floor.md)
  | count (n : Fin 48) (c : Cw)
  | countResult (n : Fin 48)
  | scrubWriteBack (n : Fin 48)
  | residentSetWrite (k : Fin 64) (sub : BitVec 8) (v : BitVec 64)
  | residentLoad (k : Fin 64) (arg : BitVec 32)
  | residentLoadDone (k : Fin 64)
  | residentRecord (k : Fin 64) (arg : BitVec 32)
  | residentVerify (k : Fin 64) (arg : BitVec 32)
  | residentClear (k : Fin 64) (arg : BitVec 32)
  -- movers, streams and bank reads (09, 14)
  | inCmd (n : Fin 48) (m : Fin 2) (c : Cw)
  | outCmd (n : Fin 48) (m : Fin 2) (c : Cw)
  | xfer (n : Fin 48) (m : Fin 2) (c : Cw)
  | rotate (n : Fin 48) (m : Fin 2) (c : Cw)
  | granuleRequest (n : Fin 48) (m : Fin 2)
  | granuleArrival (n : Fin 48) (inbound : Bool) (k : Nat)
  | bankReread (n : Fin 48) (k : Nat)
  | bankPatrolScrub (sc : Fin 256)
  | bankRefresh (sc : Fin 256) (bank : Fin 16)
  | waitStream (n : Fin 48) (c : Cw)
  | waitRelease (n : Fin 48)
  | waitDeadline (d : Fin 10)
  | waitHoldTimeout (d : Fin 10)
  | rotatePlace (n : Fin 48)
  | hput (n : Fin 48) (c : Cw)
  | htake (n : Fin 48) (c : Cw)
  | bulkCompletion (k : Nat)
  | bmove (d : Fin 2) (k : Fin 16) (c : Cw)
  -- synchronisation (10_memory_model.md)
  | cueSet (s : Site) (c : Cw)
  | cueClear (s : Site) (c : Cw)
  | tallyAdd (n : Fin 48) (c : Cw)
  | tallyReset (n : Fin 48) (c : Cw)
  | roundBind (s : Site) (c : Cw)
  | roundUnbind (s : Site) (c : Cw)
  | roundArrive (s : Site) (c : Cw)
  | signalApply (w : SignalSel)
  | waitCue (n : Fin 48) (c : Cw)
  | waitModuleCue (s : Site) (c : Cw)
  | waitTally (n : Fin 48) (c : Cw)
  | waitRound (s : Site) (c : Cw)
  | waitComplete (s : Site)
  | fence (n : Fin 48) (c : Cw)
  | fenceComplete (n : Fin 48)
  | writeAck (k : Nat)
  | remoteWriteLand (n : Fin 48)
  | finalHoldTimeout (n : Fin 48) (tid : Fin 64)
  | landingRelease (d : Fin 10)
  -- channels and check units (11_channels.md)
  | chsend (n : Fin 48) (c : Cw)
  | recordLanded (n : Fin 48)
  | chtake (n : Fin 48) (c : Cw)
  | chfree (n : Fin 48) (c : Cw)
  | creditApply (n : Fin 48)
  | ckinit (n : Fin 48) (c : Cw)
  | ckfeed (n : Fin 48) (c : Cw)
  | ckread (n : Fin 48) (c : Cw)
  -- the caller's own commands (12_commands.md)
  | rset (s : Site) (c : Cw)
  | rcalc (s : Site) (c : Cw)
  | pbind (s : Site) (c : Cw)
  | ticket (n : Fin 48) (c : Cw)
  | put (n : Fin 48) (c : Cw)
  -- module-level slots (12_commands.md, 16_service_layer.md)
  | mckInit (d : Fin 2) (c : Cw)
  | mckFeed (d : Fin 2) (c : Cw)
  | mckRead (d : Fin 2) (c : Cw)
  | take (c : Cw)
  | slot (c : Cw)
  | egress (c : Cw)
  | page (c : Cw)
  | isuComplete
  | lsend (l : Fin 16) (c : Cw)
  -- partner links (15_partner_links.md)
  | flitData (l : Fin 16) (head : BitVec 48) (body : Bytes) (fec : Fec)
  | flitReplay (l : Fin 16) (head : BitVec 48) (body : Bytes) (fec : Fec)
  | flitIdle (l : Fin 16) (head : BitVec 48) (body : Bytes) (fec : Fec)
  | beatBlock (l : Fin 16) (block : Bytes) (fecs : Fec × Fec)
  | tagCheck (l : Fin 16)
  | laneLockLoss (l : Fin 16 × Bool)
  | codewordErrorLimit (l : Fin 16)
  | linkRetrainTimeout (l : Fin 16)
  | linkLaneLock (l : Fin 16) (latencyNs : Nat)
  | linkKeyed (l : Fin 16) (neighbour : BitVec 10)
  -- debug access (13_compiler_contract.md)
  | extest (die : Fin 2)
  | idcode (die : Fin 2)
  | samplePreload (die : Fin 2)
  | clamp (die : Fin 2)
  | highz (die : Fin 2)
  | bypass (die : Fin 2) (code : BitVec 8)
  | dbgStatus (die : Fin 2)
  | dbgAddr (die : Fin 2) (v : BitVec 64)
  | dbgDataWrite (v : BitVec 64)
  | dbgDataRead (v : BitVec 64)
  | jtagReset
  -- the host port (17_host_interface.md)
  | bar2Read (fn : Fin 64) (at_ : Bar × Nat) (len : Nat) (ide : Bool)
  | bar2Write (fn : Fin 64) (off : Nat) (data : Bytes) (ide : Bool) (requester : BitVec 16)
  | windowBase (fn : Fin 64) (v : BitVec 64) (ide : Bool)
  | doorbellWrite (fn : Fin 64) (off : Nat) (v : BitVec 32) (ide : Bool) (requester : BitVec 16)
  | doorbellApply
  | mbxGo (fn : Fin 64) (v : BitVec 64) (ide : Bool)
  | mbxDone (fn : Fin 64)
  | eqCtrl (fn : Fin 64) (v : BitVec 64) (ide : Bool)
  | registerWrite (fn : Fin 64) (off : Nat) (v : BitVec 64) (ide : Bool)
  | functionLevelReset (fn : Fin 64)
  | perstN (level : Bool)
  | doeDiscovery (index : BitVec 8)
  | getVersion
  | getCapabilities (version : BitVec 8)
  | negotiateAlgorithms (sm2 sm3 sm2kex sm4gcm : Bool)
  | getDigests
  | getCertificate (slot : BitVec 4) (off len : BitVec 16)
  | challenge (slot : BitVec 4) (nonce : Bytes)
  | getMeasurements (index : BitVec 8) (nonce : Bytes)
  | keyExchange (nonce : Bytes) (peer : SpdmPeer)
  | finish (peer : SpdmPeer) (verified : Bool)
  | keyUpdate
  | heartbeat
  | endSession
  | vendorDefinedRequest (stream : BitVec 3) (coversFns : BitVec 64) (key : Bytes)
  -- security (18_security.md)
  | fwImage (data : Bytes)
  | fwCommit (arg : BitVec 32)
  | coBuffer (data : Bytes)
  | coStore (arg : BitVec 32)
  | complementCheck
  -- the dictionary, modes and persistent settings (19_dictionary.md)
  | dictRead (p : Carrier) (fn : Fin 64) (msg : Bytes)
  | dictWrite (p : Carrier) (fn : Fin 64) (msg : Bytes)
  | segmentTimeout (p : Fin 4) (fn : Fin 64)
  | load (arg : BitVec 32)
  | loadComplete
  | start (arg : BitVec 32)
  | mode (v : BitVec 8)
  | modeTakesEffect
  | userOverlay (v : BitVec 8)
  | userOverlayTakesEffect
  | overlayPut (k : Fin 8) (data : Bytes)
  | overlayRemove (k : Fin 8) (v : BitVec 32)
  | store (arg : BitVec 32)
  | storeDone (ok : Bool)
  | defaults (arg : BitVec 32)
  | clearAll (arg : BitVec 32)
  | commanded (n : Fin 48) (v : BitVec 8)
  | clusterDrained (n : Fin 48)
  | clusterFenceDisable (n : Fin 48)
  -- faults, snapshots and restore (22_faults.md)
  | abortAtBar
  | faultAck (arg : BitVec 32)
  | snapshot (arg : BitVec 32)
  | snapshotDone (part : Option BuddyPart := none)
  | restore (arg : BitVec 32)
  | restoreDone
  | snapResume (arg : BitVec 32)
  | snapDiscard (arg : BitVec 32)
  -- resets and bring-up (21_reset.md)
  | coldReset (vin : Nat)
  | moduleReset (arg : BitVec 32)
  | warmReset (arg : BitVec 32)
  | clusterReset (arg : BitVec 32)
  | linkReset (arg : BitVec 32)
  | modrstN (lowUs : Nat)
  | warmrstN (lowUs : Nat)
  | powerStageDone (inRegulation : Bool)
  | bootDone
  | selftestDone (failed : List (BitVec 16))
  | clusterSelftestDone (n : Fin 48) (failed : Option (Fin 8))
  | memtrainDone (failed : List (Fin 32))
  | linktrainDone
  -- power, clocks and thermal (20_power_clocks.md, 23_module_signals.md)
  | powerLoss (vin : Nat)
  | thermalStepRelease (r : Fin 8)
  | thermtripRelease (lowMs : Nat)
  | sensorFailed (r : Fin 8) (i : Fin 4)
  | droopStretch (d : Fin 10) (railMv : Nat)
  | droopStepRelease (r : Fin 8)
  | generatorLockLoss (r : Fin 8)
  | ref100Loss
  | ref100Valid
  | filteredRisingEdge (warm : Bool)
  | cblPrsntN (l : Fin 16) (present : Bool)
  | powerStepRelease
  | residentVerifyDone (k : Fin 64)
  | residentRecordDone (k : Fin 64)
  | coStoreDone (ok : Bool)
  | configurationRequest (resize : Option (Bool × Fin 7) := none)
  | endpointIdAssignment (eid : BitVec 8) (dynAddr : BitVec 7)
  deriving DecidableEq, Repr

end Sys2Proof
end

