-- ==== Sys2Proof/Config.lean ====
section
/-! DEFINITION. What a part or an outside standard fixes and the manual does not state: constants
without a body, so that every statement holds whatever they are. -/

namespace Sys2Proof.Config

/-- The `k`-th free draw, `w` bits wide: a value that the manual leaves open after a step that goes on
(random keys and nonces of R548 and R553, the outcome of a floor read beyond the code of R264, the
relock loss of R58, SM2 signatures of R546). `State.free` counts the draws. Log 5. -/
opaque freeBits (k w : Nat) : BitVec w

/-- Whether an SM2 signature over a message verifies under a public key. The manual names SM2
and SM3 with the default user identifier (R539, R554) and defines no curve arithmetic. Log 11. -/
opaque sm2Verify (key : Nat) (msg : Bytes) (sig : Nat) : Bool

/-- The intake key that an INTAKE_KEY ciphertext unwraps to under the transport key, if it does
(R555, R562). Log 11. -/
opaque unwrapIntakeKey (cipher : Nat) : Option Nat

/-- SM3 of the identity public key, the IDENTITY_DIGEST entry (R562). Log 12. -/
opaque identityDigest : Nat

/-- SM3 of the transport public key (R547). Log 12. -/
opaque transportDigest : Nat

/-- The 48-bit serial number in the identity fuses (R538, R573). Log 12. -/
opaque serial : BitVec 48

/-- The locally administered MAC address that is derived from a serial number (R573). Log 12. -/
opaque macOf (serial : BitVec 48) : BitVec 48

/-- The boot ROM's own digest, the first value of MR0 (R540, R543). Log 12. -/
opaque romDigest : Nat

/-- The images in the firmware store as shipped: slot A's security and management firmware, then slot B's (R539). Log 12. -/
opaque shippedImage (k : Nat) : Bytes

/-- The certificate chain of SPDM slot 0; the subject of its device certificate carries the ordering number and the serial number (R538). Log 12. -/
opaque certChain (ordering : Nat) (serial : BitVec 48) : Bytes

/-- Whether the known-answer tests of SM2, SM3 and SM4 pass at a boot (R540). Log 63. -/
opaque knownAnswers (k : Nat) : Bool

/-- The vendor ID of the module's PCIe configuration space (R566), which the manual does not give. Log 12. -/
opaque vendorId : BitVec 16

/-- The transport-key certificate (R538, R546). Log 12. -/
opaque transportCert : Bytes

/-- The die revision of IDCODE and HIF_ID (R425, R526). Log 12. -/
opaque dieRevision : BitVec 4

/-- SNAP_RECV_FIRST and SNAP_RECV_COUNT of a buddy by its module id; a count of 0 where it takes no traffic now (R648, R651, R654). Log 37. -/
opaque buddyArea (id : Nat) : Nat × Nat

/-- The Risiba firmware public key that has a given SM3 digest, if the ROM names one (R539, R540). Log 11. -/
opaque firmwareKey (signer : Nat) : Option Nat

/-- The outcome of a read of a floor lane with three or more wrong bits among its 64 and its 8 check bits: nothing where it finds the word
uncorrectable, otherwise the lane as returned and whether it is counted as corrected (R264 promises none of these). Log 13. -/
opaque floorBeyondCode (k : Nat) (lane : BitVec 64) (flips : BitVec 72) : Option (BitVec 64 × Bool)

/-- What a lane without an element holds as a vector enters stage 0 (R182 gives it no element): of the figure's place in the routine, the
vector and the operand, the vector's elements, and the lane. It is no draw of `freeBits`, so that a replay of a routine meets the same value (R7, R415).
Log 15. -/
opaque openLane (place : List Nat) (elems : List (BitVec 16)) (lane : Nat) : BitVec 16

/-- The 32 check bits of a burst of 32 bytes as stored: a Reed-Solomon code over GF(2^8) whose polynomials the manual does not give
(R443). Log 80. -/
opaque checkCode (data : Bytes) : BitVec 32

/-- The outcome of a read of a burst with four or more wrong symbols: what it delivers as corrected, or nothing where it finds
the burst uncorrectable (R443 promises neither). Log 80. -/
opaque burstBeyondCode (k : Nat) (data : Bytes) (wrong : BitVec 36) : Option Bytes

end Sys2Proof.Config
end

