-- ==== Sys2Proof/Machine/State.lean ====
section
/-! DEFINITION. The state of the module as plain data: 48 clusters, ten issue domains, the synchronisation
objects, the module-level units, memory, the links, the lead die's management blocks, and the queue of commands. -/

namespace Sys2Proof.Machine

/-- Memory, as the cells that differ from 0, addresses strictly rising (log 8). -/
abbrev Mem := List Host.Cell

/-- A sparse table of values by number, numbers strictly rising. -/
abbrev Table (α : Type) := List (Nat × α)

/-- The bytes of a floor write: address, byte, and the mask of its bits that are written (08_floor.md R242). -/
abbrev Writes := List (Nat × Byte × Byte)

/-! ## The issue of a command -/

/-- The issue of one command: its step stamp and where it stands in the routine (03_routine.md R101, R118). -/
structure Ctx where
  t : Nat := 0
  bar : Nat := 0
  beat : Nat := 0
  cyc : Nat := 0
  step : Nat := 0
  seg : Nat := 0
  run : Nat := 0
  idx : List Nat := [0, 0, 0, 0]
  pbit : Nat := 0
  op : Nat := 0
  tail : Bool := false
  deriving DecidableEq, Repr

/-- A command of a STEP record on its way to its push (03_routine.md R82, R101). -/
structure Handed where
  ctx : Ctx
  len : Nat
  cw : Cw
  /-- Its predicate as sampled in the cycle of its push, once that cycle has begun (R109). -/
  go : Option Bool := none
  deriving DecidableEq, Repr

/-! ## Synchronisation objects -/

/-- The last signal of an object, as its status record shows it (10_memory_model.md R341). -/
structure LastSig where
  bar : Nat := 0
  beat : Nat := 0
  cyc : Nat := 0
  module : Nat := 0
  loc : Nat := 0
  step : Nat := 0
  op : Nat := 0
  deriving DecidableEq, Repr

/-- A cue or a module cue; scope and location word of the out-of-scope signal that set MISMATCH last (10_memory_model.md R318, R327, R341). -/
structure Cue where
  set : Bool := false
  merged : Bool := false
  mismatch : Bool := false
  scope : Nat := 0
  mscope : Nat := 0
  mloc : Nat := 0
  last : LastSig := {}
  deriving DecidableEq, Repr

/-- A tally (10_memory_model.md R327, R341). -/
structure Tally where
  count : BitVec 16 := 0
  overF : Bool := false
  mismatch : Bool := false
  mscope : Nat := 0
  mloc : Nat := 0
  last : LastSig := {}
  deriving DecidableEq, Repr

/-- A round (10_memory_model.md R327, R333, R341). -/
structure Round where
  bound : Bool := false
  gen : BitVec 8 := 0
  fault : Bool := false
  scope : Nat := 0
  expect : BitVec 48 := 0
  arrived : BitVec 48 := 0
  ahead : BitVec 48 := 0
  remote : BitVec 10 := 0
  rArrived : BitVec 10 := 0
  rAhead : BitVec 10 := 0
  last : LastSig := {}
  deriving DecidableEq, Repr

/-- The object of a signal (10_memory_model.md R307). -/
inductive SigObj where
  | cue (lc num : Nat)
  | mcue (num : Nat)
  | tally (lc num : Nat)
  | round (q : Nat)
  deriving DecidableEq, Repr

/-- The operation of a signal and its value (10_memory_model.md R305, R307). -/
inductive SigOp where
  | set
  | clear
  | add (v : Nat)
  | reset
  | bind (expect : BitVec 48) (remote : BitVec 10) (scope : Nat)
  | unbind
  | arriveLc (n : Nat)
  | arriveSeq
  | bulk
  deriving DecidableEq, Repr

/-- A signal word (10_memory_model.md R307): object, operation, scope, origin, and who signals
(`src`: a logical cluster, 48 or 49 for a sequencer, 50 for a remote module, 51 for a bulk completion). -/
structure Sig where
  obj : SigObj
  op : SigOp
  scope : Nat
  src : Nat
  last : LastSig
  /-- The writes that it releases, by the numbers of the hazard detector (R320, R322). -/
  rel : List Nat := []
  /-- SEGMENT and RUN of its command (13_compiler_contract.md R420); 0 for a signal of another module. -/
  seg : Nat := 0
  run : Nat := 0
  /-- Cycles by which a burst of its crossing holds it back (R339). -/
  held : Nat := 0
  deriving DecidableEq, Repr

/-- The forms of a WAIT (09_movers_and_streams.md R283, 10_memory_model.md R315). -/
inductive WaitForm where
  | stream (st first count faddr tkt : Nat)
  | cue (num : Nat) (keep : Bool)
  | mcue (num : Nat) (keep : Bool)
  | tally (num n : Nat) (take : Bool)
  | round (q g : Nat)
  deriving DecidableEq, Repr

/-- A pending wait: its release `r`, DEADLINE, the stalled cycles it has caused, and whether it has
raised hold, at which beat-boundary count (R283-R286, R313-R318). -/
structure Wait where
  ctx : Ctx
  form : WaitForm
  guard : Nat
  r : Nat
  deadline : Nat
  stalls : Nat := 0
  held : Option Nat := none
  deriving DecidableEq, Repr

/-- A predicate binding (03_routine.md R107, R108; 12_commands.md R388). -/
inductive PredKind where
  | unbound
  | cue (num : Nat)
  | mcue (num : Nat)
  | tally (num h : Nat)
  | vdep
  | fcount
  deriving DecidableEq, Repr

/-- A predicate source: what it is bound to, the last value deposited to it, and the stamp at whose end the binding took effect
(12_commands.md R388). -/
structure Pred where
  kind : PredKind := .unbound
  val : Bool := false
  since : Nat := 0
  deriving DecidableEq, Repr

/-- Commands of a synchronisation and message queue, operands evaluated at the push (12_commands.md R394-R398). -/
inductive SyCmd where
  | sig (s : Sig) (tmod link : Nat)
  | fence (id engines scope plan deadline : Nat)
  | chsend (ch len : Nat) (tag : BitVec 32) (src id : Nat)
  | chfree (ch : Nat)
  | hput (hq : Nat) (handle : BitVec 64)
  | put (final : Option (Nat × Nat)) (src dst id : Nat)
  deriving DecidableEq, Repr

/-- A FENCE that has started and not completed (10_memory_model.md R323). -/
structure Fence where
  ctx : Ctx
  id : Nat
  engines : Nat
  scope : Nat
  r : Nat
  deadline : Nat
  stalls : Nat := 0
  held : Option Nat := none
  deriving DecidableEq, Repr

/-- A caller: a cluster's, or a routine sequencer's for the module-level slots (03_routine.md R103, R107, R111;
07_training_numerics.md R239; 12_commands.md R401). -/
structure Caller where
  /-- Address registers a0-a31, 48 bits each. 03_routine.md R103. Reset 0 (at the start of a routine; else log 7). -/
  regs : Vector (BitVec 48) 32 := Vector.replicate 32 0
  /-- Predicate sources P0-P15; P0 reads true always. 03_routine.md R107. Reset unbound, reading false. -/
  preds : Vector Pred 16 := Vector.replicate 16 {}
  /-- The wait queue, 32 entries. 09_movers_and_streams.md R283. Reset empty. -/
  waits : List Wait := []
  /-- The synchronisation and message queue, 8 commands. 03_routine.md R111. Reset empty. -/
  syq : List (Ctx × SyCmd) := []
  /-- The stamp from which the next command of that queue may start. 10_memory_model.md R306. Reset 0. -/
  syFree : Nat := 0
  /-- The FENCE in progress. 10_memory_model.md R323. Reset none. -/
  fence : Option Fence := none
  /-- The seeds of key slots 0-3, 64 bits each. 07_training_numerics.md R239. Reset seed 0. -/
  keys : Vector (BitVec 64) 4 := Vector.replicate 4 0
  deriving DecidableEq, Repr

/-! ## The matrix array -/

/-- A whole-sum register with its flags; the anchor stands with its position (05_formats_and_whole_sums.md R165, R170). -/
structure Sum where
  s : BitVec 112 := 0
  flags : BitVec 8 := 0
  deriving DecidableEq, Repr

/-- The drain registers (04_matrix_array.md R137). -/
structure DrainRegs where
  dest : Nat := 0
  sdest : Nat := 0
  osc : Nat := 0
  tkt : Nat := 0
  deriving DecidableEq, Repr

/-- An MSTREAM whose push check has passed (12_commands.md R373). -/
structure MsJob where
  buf : Nat
  axis : Bool
  tfmt : Nat
  sfmt : Nat
  v : Nat
  sb : Nat
  p0 : Nat
  add : Bool
  fin : Bool
  fform : Nat
  tkt : Nat
  consume : Bool
  anchor : Nat
  whdr : Option Nat
  scl : Nat
  str : Nat
  loScl : Nat
  loStr : Nat
  deriving DecidableEq, Repr

/-- Commands of the matrix queue (12_commands.md R372-R377). -/
inductive MxCmd where
  | tload (buf tkt : Nat) (consume : Bool) (fmt scl tile : Nat)
  | mstream (j : MsJob)
  | mdset (d : DrainRegs)
  | mdrain (sb p0 n form : Nat)
  deriving DecidableEq, Repr

/-- A tile buffer: FMT of the loading TLOAD, the bytes of the tile image in floor order, the scale bytes, the stamp from which it serves
an MSTREAM, and the stamp up to which it is in use (04_matrix_array.md R120, R125-R128). -/
structure Tile where
  fmt : Nat := 0
  w : Mem := []
  sc : Mem := []
  ready : Nat := 0
  free : Nat := 0
  deriving DecidableEq, Repr

/-- A vector on its way through the array: the operands read, the tile they meet, and where the
results go (04_matrix_array.md R131, R133, R142). -/
structure Flow where
  sb : Nat
  pos : Nat
  clear : Bool
  anchor : Nat
  a4 : Bool
  axis : Bool
  tfmt : Nat
  sfmt : Nat
  elems : Bytes
  scales : Bytes
  w : Mem
  sc : Mem
  deriving DecidableEq, Repr

/-- The matrix array of a cluster (04_matrix_array.md R120). -/
structure Matrix where
  /-- The matrix queue, 8 commands. 03_routine.md R111. Reset empty. -/
  q : List (Ctx × MxCmd) := []
  /-- The start cycle of the command started last; later ones start no earlier. 12_commands.md R370. Reset 0. -/
  last : Nat := 0
  /-- Start cycles of the commands started in a stop, ahead of step time; until then each still has its place in the queue. 04_matrix_array.md
  R149, 03_routine.md R113. Reset none. -/
  begun : List Nat := []
  /-- The head command's operands were not at hand at its start cycle. 04_matrix_array.md R146. Reset false. -/
  starved : Bool := false
  /-- Tile buffers B0 and B1. 04_matrix_array.md R120, R129. Reset zero weights, scale code 0, ready. -/
  tiles : Vector Tile 2 := Vector.replicate 2 {}
  /-- The stamp from which the tile port is free. 04_matrix_array.md R127. Reset 0. -/
  tpFree : Nat := 0
  /-- The stamp from which the stream port is free. 04_matrix_array.md R134. Reset 0. -/
  spFree : Nat := 0
  /-- The stamp of the last stream read; none is an idle count of 64 or more. 04_matrix_array.md R129, R150. Reset none. -/
  lastRead : Option Nat := none
  /-- The enabled row groups. 04_matrix_array.md R150, R151. Reset all disabled. -/
  groups : BitVec 8 := 0
  /-- The array ramps up in the beat that a RESUME frame opened. 04_matrix_array.md R152. Reset false. -/
  rampUp : Bool := false
  /-- Sum blocks SB0 and SB1: the 256 registers of each position, absent all 0. 04_matrix_array.md R120, R129. Reset 0. -/
  sums : Vector (Table (List Sum)) 2 := Vector.replicate 2 []
  /-- The anchor recorded for each position of a sum block. 04_matrix_array.md R135. Reset 0. -/
  anchors : Vector (Table (BitVec 8)) 2 := Vector.replicate 2 []
  /-- The drain registers. 04_matrix_array.md R129, R137. Reset 0. -/
  drain : DrainRegs := {}
  /-- The drain registers as the last MDSET pushed leaves them. 12_commands.md R367. Reset 0. -/
  drainNext : DrainRegs := {}
  /-- FINISH reads of started commands that have not happened: stamp and position (sum block x 256 + position), for R149. Reset none. -/
  finAwait : List Nat := []
  deriving DecidableEq, Repr

/-- An MSTREAM that has started: its issue, its operands with their anchor, and its copy of the drain registers (04_matrix_array.md R133; 12_commands.md R376). -/
structure Stream where
  ctx : Ctx
  job : MsJob
  dr : DrainRegs
  deriving DecidableEq, Repr

/-- A drain read of one position: for a FINISH or an MDRAIN, and whether it is the last of its command (04_matrix_array.md R133, R139). -/
structure DrainJob where
  ctx : Ctx
  sb : Nat
  pos : Nat
  form : Nat
  dr : DrainRegs
  fin : Bool
  final : Bool
  deriving DecidableEq, Repr

/-- What a drain delivery carries: the registers of one position and how they are delivered; `second` marks the
second half of a WSUM position (04_matrix_array.md R138). -/
structure Delivery where
  ctx : Ctx
  second : Bool
  form : Nat
  pos : Nat
  anchor : Nat
  sums : List Sum
  dr : DrainRegs
  final : Bool
  deriving DecidableEq, Repr

/-! ## The vector engine -/

/-- A FIGURE whose push check has passed (12_commands.md R378-R381). -/
structure FigJob where
  ctx : Ctx
  entry : Nat
  v : Nat
  lastN : Nat
  xmode : Nat
  xfmt : Nat
  yfmt : Nat
  dfmt : Nat
  wall : Bool
  block : Bool
  tileOrder : Bool
  amx : Bool
  tkt : Nat
  x : Nat
  y : Nat
  d : Nat
  d2 : Nat
  xs : Nat
  ys : Nat
  ds : Nat
  d2s : Nat
  osc : Nat
  side : Nat
  final : Option (Nat × Nat)
  tensor : BitVec 32
  base : BitVec 64
  pitch : BitVec 32
  preds : BitVec 16
  /-- Predicates whose sampling breaks R319, as the hazard detector sees it (13_compiler_contract.md R419). -/
  unkept : BitVec 16 := 0
  stepReg : BitVec 32
  keys : Vector (BitVec 64) 4
  /-- The number of its writes into another floor; 0 for none. -/
  wid : Nat
  deriving DecidableEq, Repr

/-- The running result of a reduction or TOPK of one group, over the vectors so far (06_vector_engine.md R210). -/
structure Acc where
  num : Int := 0
  exp : Int := 0
  cnt : Nat := 0
  best : List (BitVec 16 × Nat) := []
  sat : Bool := false
  deriving DecidableEq, Repr

/-- A figure in the pipeline: its job, the entry it copied, the vectors read, the carried results per
stage and group, the largest magnitude so far, and the delayed vectors of a band (R181, R191, R193, R210). -/
structure Fig where
  id : Nat
  job : FigJob
  moves : List (BitVec 64)
  consts : List (BitVec 16)
  start : Nat
  kr : Nat
  /-- Bytes read so far for each vector that has not landed. -/
  xin : Table Bytes := []
  /-- The deliveries taken by a VX figure, not landed: vector and whole sums with their anchor. -/
  vxin : Table (Nat × List Sum) := []
  taken : Nat := 0
  accs : Table Acc := []
  amax : BitVec 16 := 0
  band : List (Nat × List (BitVec 16 × Bool)) := []
  /-- The number of its writes into another floor. -/
  wid : Nat := 0
  /-- Cycles by which the write stage is still behind with the band of an earlier figure (R191, R197). -/
  delay : Nat := 0
  deriving DecidableEq, Repr

/-- Commands of the vector queue (12_commands.md R378, R382). -/
inductive VxCmd where
  | figure (j : FigJob)
  | ftload (first n src : Nat)
  deriving DecidableEq, Repr

/-- A part of the delayed writes of a band (06_vector_engine.md R191): the floor it goes to, its bytes, whether it counts as
a write of R325, FINAL, and the ticket that it sets. -/
structure BandOut where
  ctx : Ctx
  dst : Nat
  writes : Writes
  counts : Bool
  final : Option (Nat × Nat)
  tkt : Nat
  wid : Nat
  /-- The vector whose writes these are. -/
  part : Nat := 0
  /-- The destination was given as a cluster-qualified address, so that the writes are DIRECT traffic (R378). -/
  direct : Bool := false
  deriving DecidableEq, Repr

/-- The vector engine of a cluster (06_vector_engine.md R177). -/
structure Vx where
  /-- The vector queue, 8 commands. 03_routine.md R111. Reset empty. -/
  q : List (Ctx × VxCmd) := []
  /-- The stamp from which the next command may start. 06_vector_engine.md R180, R194. Reset 0. -/
  free : Nat := 0
  /-- The figure table E0-E63, 128 bytes each. 06_vector_engine.md R178, R179. Reset 0. -/
  entries : Vector (BitVec 1024) 64 := Vector.replicate 64 0
  /-- The stamp from which no delayed write of a band is left. 06_vector_engine.md R191. Reset 0. -/
  wfree : Nat := 0
  /-- Stamps of the VX deliveries to come of commands that have started. 06_vector_engine.md R194. Reset none. -/
  plan : List Nat := []
  /-- Stamps of the VX deliveries of MDRAINs that have been handed over or queued and have not started. 06_vector_engine.md R194. Reset none. -/
  ahead : List Nat := []
  /-- The figures in the pipeline. 06_vector_engine.md R194. Reset none. -/
  figs : List Fig := []
  /-- VX_STATUS FIGURE: entry of the figure in progress or the last figure. 06_vector_engine.md R216. Reset 0. -/
  figure : BitVec 6 := 0
  /-- VX_STATUS MERGE. 06_vector_engine.md R216. Reset 0. -/
  merge : Bool := false
  /-- VX_STATUS VNEXT: next vector to be read. 06_vector_engine.md R216. Reset 0. -/
  vnext : BitVec 8 := 0
  /-- VX_STATUS bits [11:7] VXLOST, CLAMP, ANCHOR, IDXSAT, INVALID. 06_vector_engine.md R216. Reset 0. -/
  sticky : BitVec 5 := 0
  deriving DecidableEq, Repr

/-- A slot of the amax store (07_training_numerics.md R228). -/
structure AmaxSlot where
  tensor : BitVec 32
  window : Nat
  margin : Nat
  cur : BitVec 16
  hist : Vector (BitVec 16) 16
  deriving DecidableEq, Repr

/-! ## Movers, count unit, check unit -/

/-- A completion cue of a BULK command: the cue, its scope (12_commands.md R383). -/
structure Done where
  obj : SigObj
  scope : Nat
  deriving DecidableEq, Repr

/-- Commands of a mover queue (12_commands.md R383, R384). -/
inductive MvCmd where
  | inC (list nent kd guard stream : Nat) (done : Option Done)
  | outC (list nent kd src ngran : Nat) (done : Option Done)
  | xfer (src didx stream ngran : Nat) (dests : List Nat) (done : Option Done)
  | rotate (set lat deadline : Nat) (done : Option Done)
  deriving DecidableEq, Repr

/-- One run of granules of a block list: first byte address, and the number of granules (09 R275). -/
structure Run where
  addr : Nat
  n : Nat
  bad : Bool
  entry : Nat := 0
  deriving DecidableEq, Repr

/-- A granule that a mover requests or has requested: stream, index, guard, bank address (none for a bad entry), repetition and
block, whether it opens its block, the bursts that its first read did not decode (`again`, R445), whether it keeps the reservation of a discarded
granule (R288), and the number of its IN (09_movers_and_streams.md R275, R276, R280). -/
structure Req where
  stream : Nat
  index : Nat
  guard : Nat
  addr : Option Nat
  rep : Nat
  block : Nat
  opens : Bool
  again : List Nat := []
  kept : Bool := false
  job : Nat := 0
  deriving DecidableEq, Repr

/-- A granule in staging or on a path towards it: stream, index, guard, its bytes, and the request that fetched it
(09_movers_and_streams.md R278, R288). -/
structure Staged where
  stream : Nat
  index : Nat
  guard : Nat
  data : Bytes
  src : Option Req := none
  mover : Nat := 0
  /-- BULK writes acknowledged before it arrived, as the hazard detector counts them (13_compiler_contract.md R419). -/
  born : Nat := 0
  deriving DecidableEq, Repr

/-- A floor-side command: the first stamp at which it may begin, its granules done, and its list
(09_movers_and_streams.md R272, R277, R281, R293). -/
structure FloorJob where
  ctx : Ctx
  cmd : MvCmd
  id : Nat
  start : Nat
  n : Nat := 0
  list : List Run := []
  deriving DecidableEq, Repr

/-- A mover (09_movers_and_streams.md R271, R272). -/
structure Mover where
  /-- The mover's queue, 8 commands. 03_routine.md R111. Reset empty. -/
  q : List (Ctx × MvCmd) := []
  /-- The stamp from which the next list read may start. 09_movers_and_streams.md R272. Reset 0. -/
  listFree : Nat := 0
  /-- A block list is being read. 09_movers_and_streams.md R272. Reset false. -/
  reading : Bool := false
  /-- Floor-side commands whose list is read, the first of them in progress. 09_movers_and_streams.md R272. Reset none. -/
  floor : List FloorJob := []
  /-- The stamp from which the next floor-side command may begin. 09_movers_and_streams.md R272. Reset 0. -/
  floorFree : Nat := 0
  /-- Granule requests not yet issued, re-requests first. 09_movers_and_streams.md R280, R288. Reset none. -/
  reqs : List Req := []
  /-- Requests issued whose granule has not reached staging. 09_movers_and_streams.md R280. Reset none. -/
  out : List Req := []
  deriving DecidableEq, Repr

/-- A released stream WAIT whose granules have not all landed: its number, stream, the index of the next granule and how many are left,
where that one goes, the ticket, and DEADLINE with the stalled cycles and the hold of granules that a discard took away since
(09_movers_and_streams.md R284, R285, R288). -/
structure Placing where
  id : Nat
  /-- Its release. -/
  r : Nat
  st : Nat
  first : Nat
  count : Nat
  faddr : Nat
  tkt : Nat
  ctx : Ctx := {}
  deadline : Nat := 0
  stalls : Nat := 0
  held : Option Nat := none
  deriving DecidableEq, Repr

/-- A ROTATE that awaits incoming granules: its number, set, next granule and their total, the floor address of the shard,
DEADLINE, the stalled cycles it has caused, and whether it has raised hold (09_movers_and_streams.md R293, R294). -/
structure Rotating where
  ctx : Ctx
  id : Nat
  mover : Nat
  set : Nat
  next : Nat
  total : Nat
  base : Nat
  deadline : Nat
  stalls : Nat := 0
  held : Option Nat := none
  deriving DecidableEq, Repr

/-- A COUNT whose push check has passed (08_floor.md R252, 12_commands.md R385). -/
structure CountJob where
  width : Nat
  interp : Nat
  cond : Nat
  pmode : Nat
  pred : Nat
  tkt : Nat
  nelem : Nat
  src : Nat
  dst : Nat
  keyLo : Nat
  keyHi : Nat
  thresh : Nat
  ctx : Ctx := {}
  deriving DecidableEq, Repr

/-- Commands of a check-unit queue (12_commands.md R399). -/
inductive CkCmd where
  | init (alg : Nat)
  | feedFloor (n src : Nat)
  | feedReg (data : Bytes)
  | read (tkt dst : Nat)
  deriving DecidableEq, Repr

/-- A programmable check unit: algorithm and running state (11_channels.md R363-R365). -/
structure Check where
  alg : BitVec 2 := 0
  state : BitVec 64 := 0xFFFFFFFF
  deriving DecidableEq, Repr

/-- A write on its way to the floor of a cluster (10_memory_model.md R321, R325): its command, its origin, its bytes with their
masks, FINAL with TID and N, whether R325 counts it, and its number at its sender. -/
structure Landing where
  ctx : Ctx
  origin : Nat
  writes : Writes
  final : Option (Nat × Nat)
  counts : Bool
  id : Nat
  /-- The number of the word that carries it over the paths, 0 for none. -/
  word : Nat := 0
  /-- Which of its command's writes it is. -/
  part : Nat := 0
  /-- UNIT of the block of its origin that sends it (01_levels.md R22). -/
  eng : Nat := 6
  deriving DecidableEq, Repr

/-- A FINAL write held in a transfer slot (10_memory_model.md R325, R326), and the beat boundary at which it arrived. -/
structure Held where
  l : Landing
  n : Nat
  since : Nat
  deriving DecidableEq, Repr

/-- Writes of one command that are not acknowledged at their sender (10_memory_model.md R320-R323): their number, the engine
(bit of R323), their destination and its floor address, and how many are left. Numbers rise in the order of pushing. -/
structure OutWrite where
  id : Nat
  engine : Nat
  dst : Nat
  addr : Nat
  left : Nat
  deriving DecidableEq, Repr

/-! ## The cluster -/

/-- A logical cluster (01_levels.md R13): its floor, caller and units. -/
structure Cluster where
  /-- The floor, 16 MiB of bytes. 08_floor.md R242. Reset 0 (DESIGN CHOICE, log 8; R251 clears it at every invocation). -/
  floor : Mem := []
  /-- Wrong bits in the floor, by 64-bit lane number: [63:0] of the lane, [71:64] of its check bits. 08_floor.md R264. Reset none. -/
  upsets : Table (BitVec 72) := []
  /-- Port uses of the current step stamp: port x 32 + bank, and the unit that uses it. 08_floor.md R245, R248. Reset none. -/
  ports : Nat × List (Nat × Nat × Ctx) := (0, [])
  /-- Words that the scrubber has corrected and not written back: by address, what it read, and the stamp of the write-back in a working
  beat. 08_floor.md R266. Reset none. -/
  scrub : Table (Bytes × Option Nat) := []
  /-- The word offset that the scrubber visits next in each bank. 08_floor.md R266. Reset 0. -/
  scrubNext : BitVec 13 := 0
  /-- The caller. 03_routine.md R103-R111. Reset as its own fields. -/
  caller : Caller := {}
  /-- Operand tickets T0-T31; T0 reads set. 04_matrix_array.md R143, R129. Reset all clear but T0. -/
  tickets : BitVec 32 := 1
  /-- The matrix array. 04_matrix_array.md R120. Reset as its own fields. -/
  mx : Matrix := {}
  /-- The vector engine. 06_vector_engine.md R177. Reset as its own fields. -/
  vx : Vx := {}
  /-- The STEP register, 32 bits. 07_training_numerics.md R227. Reset 0. -/
  stepReg : BitVec 32 := 0
  /-- The amax store, 32 slots. 07_training_numerics.md R228. Reset unbound. -/
  amax : Vector (Option AmaxSlot) 32 := Vector.replicate 32 none
  /-- Movers 0 and 1. 09_movers_and_streams.md R271. Reset as their own fields. -/
  movers : Vector Mover 2 := Vector.replicate 2 {}
  /-- Issue counters of local streams 0-15. 09_movers_and_streams.md R279, R287. Reset 0. -/
  issue : Vector Nat 16 := Vector.replicate 16 0
  /-- Collect counters of streams 0-31. 09_movers_and_streams.md R283, R287. Reset 0. -/
  collect : Vector Nat 32 := Vector.replicate 32 0
  /-- The staging buffer: granules in staging. 09_movers_and_streams.md R278, R287. Reset empty. -/
  staging : List Staged := []
  /-- Stream placements in progress. 09_movers_and_streams.md R284. Reset none. -/
  placing : List Placing := []
  /-- ROTATE placements in progress. 09_movers_and_streams.md R293. Reset none. -/
  rotating : List Rotating := []
  /-- The count queue, 8 commands. 03_routine.md R111. Reset empty. -/
  cntq : List (Ctx × CountJob) := []
  /-- The stamp from which the next COUNT may start. 08_floor.md R255. Reset 0. -/
  cntFree : Nat := 0
  /-- The COUNT in progress: its job, words read, and the elements that met the condition. 08_floor.md R255. Reset none. -/
  counting : List (CountJob × Nat × Nat) := []
  /-- The check-unit queue, 8 commands. 03_routine.md R111. Reset empty. -/
  ckq : List (Ctx × CkCmd) := []
  /-- The stamp from which the next check command may start. 11_channels.md R364. Reset 0. -/
  ckFree : Nat := 0
  /-- The check unit. 11_channels.md R365. Reset ALG 0 at its initial value. -/
  check : Check := {}
  /-- Cues 0-255. 10_memory_model.md R327, R328. Reset clear. -/
  cues : Table Cue := []
  /-- Tallies 0-63. 10_memory_model.md R327, R328. Reset 0. -/
  tallies : Table Tally := []
  /-- Landing unit: writes landed per origin since its last FINAL. 10_memory_model.md R325. Reset 0. -/
  landed : Table Nat := []
  /-- Landing unit: transfer slots, one per TID 0-63. 10_memory_model.md R325. Reset empty. -/
  slots : Table Held := []
  /-- Writes of this cluster not yet acknowledged. 10_memory_model.md R321. Reset none. -/
  unacked : List OutWrite := []
  /-- The cluster is fenced after a unit fault. 22_faults.md R634. Reset false. -/
  fenced : Bool := false
  deriving DecidableEq, Repr

/-- A granule of a channel record on its way: channel, offset in the ring, pad header or not, first and last of its record, its bytes,
the CRC of the record as sent (with the last), the word that carries it, and the number of its record at its sender
(11_channels.md R347-R352). -/
structure ChWord where
  ctx : Ctx
  ch : Nat
  off : Nat
  pad : Bool
  first : Bool
  last : Bool
  data : Bytes
  crc : BitVec 32
  word : Nat
  id : Nat
  /-- Its number within its record. -/
  part : Nat := 0
  deriving DecidableEq, Repr

/-- A record that a CHSEND sends, diverts or drops: its number, length, TAG and ALIVE, its offset (none where it is dropped),
whether it goes to the spill area, the offset of a pad before it, the stamp of its first granule, its source, and the bytes read so far
(11_channels.md R350-R353). -/
structure ChOut where
  ctx : Ctx
  id : Nat
  len : Nat
  tag : BitVec 32
  alive : Byte
  off : Option Nat
  spill : Bool
  pad : Option Nat
  send : Nat
  src : Nat
  data : Bytes := []
  deriving DecidableEq, Repr

/-! ## Events of step time -/

/-- What happens at a step stamp. Phase order within a stamp: starts and reads before signals, signals before
VW writes, VW writes before GW writes, and those before deposits (08_floor.md R247, 04_matrix_array.md R144). -/
inductive EvK where
  /-- The head of a matrix queue reaches its start cycle (R126, R132, R139, R370). -/
  | mxStart (n : Nat)
  /-- A header byte of ASEL = 1 is read (R374): cluster, the MSTREAM's step stamp, both addresses, SMAX(X) once it is read. -/
  | mxHdr (n t xhdr whdr : Nat) (smax : Option Nat) (x : Ctx)
  /-- A TLOAD read cycle (R126): cluster, buffer, cycle 0-31, tile address, scale address. -/
  | tileRead (n buf r tile scl : Nat) (x : Ctx)
  /-- A stream read (R133, R142): vector, pass, and the word of stream scales read last (R678). -/
  | msRead (n : Nat) (j : Stream) (v p : Nat) (word : Bytes)
  /-- A contribution lands in the sum registers (R133). -/
  | msLand (n : Nat) (f : Flow)
  /-- A FINISH or MDRAIN read of a position (R133, R139). -/
  | drainRead (n : Nat) (r : DrainJob)
  /-- A result leaves the drain (R133, R139). -/
  | deliver (n : Nat) (d : Delivery)
  /-- A row group is enabled in a ramp (R150). -/
  | group (n g : Nat)
  /-- The Y read of a VX figure for the delivery 10 cycles later (R194). -/
  | vxRead (n : Nat)
  /-- A vector of a figure leaves its last stage and lands (R194). -/
  | figLand (n id v : Nat)
  /-- A part of the delayed writes of a band of a BLOCK figure lands (R191). -/
  | bandOut (n : Nat) (o : BandOut)
  /-- The head of a vector queue reaches its start cycle (R180, R194). -/
  | figStart (n : Nat)
  /-- A figure's source reads of one cycle: figure, vector, part (R194, R197). -/
  | figRead (n id v part : Nat)
  /-- A read cycle of an FTLOAD: first entry of the cycle, entries left, source address (R180). -/
  | ftRead (n first left src : Nat) (x : Ctx)
  /-- Entries become usable (R180). -/
  | ftSet (n first : Nat) (data : List (BitVec 1024))
  /-- A COUNT reaches its start cycle, reads a word, lands its result (R255). -/
  | cntStart (n : Nat)
  | cntRead (n k : Nat)
  | cntLand (n : Nat) (j : CountJob) (count left : Nat)
  /-- A mover command reaches its start cycle and reads its list (R272). -/
  | mvStart (n m : Nat)
  | mvList (n m k : Nat) (x : Ctx) (c : MvCmd) (acc : List Run)
  /-- The first floor-side command of a mover makes its accesses of one mover cycle (R272). -/
  | mvFloor (n m : Nat)
  /-- A granule sent over a path arrives (R281, R293): the word that carries it, and the number of its command. -/
  | arrive (n : Nat) (g : Staged) (word bulk : Nat)
  /-- Staged granules land in the floor, 32 per mover cycle (R284); `left` mover cycles until then. -/
  | place (n left id : Nat)
  /-- The head of a synchronisation queue reaches its start cycle (R306); 48, 49 are the sequencers. -/
  | syStart (n : Nat)
  /-- A timed signal applies (R308). -/
  | sig (s : Sig)
  /-- A wait that has completed clears a module cue in another replica (R315). -/
  | mcueClear (num : Nat)
  /-- Carried arrivals complete the next generation of a round (R335). -/
  | roundGen (q : Nat)
  /-- A PUT reads its granule, and ten cycles later issues its write (R398). -/
  | putRead (n src dst : Nat) (final : Option (Nat × Nat)) (id : Nat) (x : Ctx)
  | putSend (n dst : Nat) (data : Bytes) (final : Option (Nat × Nat)) (id : Nat) (x : Ctx)
  /-- A handle enters a queue (R290). -/
  | hput (n hq : Nat) (handle : BitVec 64) (x : Ctx)
  /-- A write from another cluster lands in a floor (R249, R321). -/
  | land (n : Nat) (l : Landing)
  /-- A source granule of a channel record is read at its sender; its pad header, or a granule of it, is sent (R352). -/
  | chRead (n ch j : Nat)
  | chPad (n ch : Nat)
  | chSend (n ch j : Nat)
  /-- A granule of a record, or a pad header, lands at its receiver (R352). -/
  | chLand (n : Nat) (w : ChWord)
  /-- A credit word applies (R357). -/
  | credit (ch bytes : Nat)
  /-- A check command starts, reads, lands (R364). -/
  | ckStart (n : Nat)
  | ckRead (n left src : Nat) (x : Ctx)
  | ckLand (n dst tkt : Nat) (data : Bytes) (x : Ctx)
  /-- An amax record is read through GR, and arrives (R392): cluster, slot, MERGE or LOAD, address, record once read, the command. -/
  | amaxGot (n q : Nat) (merge : Bool) (addr : Nat) (data : Option Bytes) (x : Ctx)
  /-- A floor write of the caller lands (R246, R392, R398): cluster, address, bytes, and its number. -/
  | store (n addr : Nat) (data : Bytes) (id : Nat) (x : Ctx)
  /-- The scrubber's read and its write-back (R266). -/
  | scrubRead (n : Nat)
  | scrubWrite (n : Nat)
  /-- A ROTATE's next placement is due after `left` more mover cycles (R293). -/
  | rotPlace (n id left : Nat)
  /-- A module-level unit's queue head reaches its start cycle (R400): 0-15 bank movers, 16-23 slot engines,
  24 module check units, 25 intake. -/
  | unitStart (d u : Nat)
  /-- A module-level unit takes its next step: a granule or a page of a BMOVE, a granule of a FEED (R402, R405). -/
  | unitStep (d u : Nat)
  deriving DecidableEq, Repr

/-- An event: its step stamp, its phase and rank within the stamp, and whether its stamp is a mover
stamp, which step cycles 0 and 10 of a beat defer (09_movers_and_streams.md R270). -/
structure Ev where
  t : Nat
  ph : Nat
  rank : Nat
  mover : Bool
  k : EvK
  deriving DecidableEq, Repr

/-! ## The issue domains -/

/-- An open repeat block (03_routine.md R87-R89). -/
structure Rep where
  idx : Nat
  start : Nat
  left : Nat
  j : Nat
  deriving DecidableEq, Repr

/-- A place in a section of the routine (03_routine.md R79-R93). -/
structure Cursor where
  pc : Nat
  map : BitVec 256 := 0
  rest : Nat := 0
  reps : List Rep := []
  beats : Nat := 0
  deriving DecidableEq, Repr

/-- An issue domain: a region (0-7, die x 4 + region code) or a die clock (8, 9) (01_levels.md R14, 03_routine.md R100). -/
structure Dom where
  /-- The stamp of the next step cycle, counted from the start of the invocation. 04_matrix_array.md R121, 10_memory_model.md R679. Reset 0 (log 4). -/
  nt : Nat := 0
  /-- The working beat being issued. 02_beats_and_bars.md R49. Reset 0. -/
  bar : Nat := 0
  beat : Nat := 0
  /-- The step cycle within the beat that issues next. 03_routine.md R85. Reset 0. -/
  cyc : Nat := 0
  /-- Step words of the open beat remain. 02_beats_and_bars.md R86. Reset false. -/
  words : Bool := false
  /-- Cycles that the open beat still delivers. 02_beats_and_bars.md R47, R51. Reset 0. -/
  left : Nat := 0
  /-- Stalled cycles of the open beat. 02_beats_and_bars.md R50. Reset 0. -/
  stalls : Nat := 0
  /-- Stalled cycles since the last step cycle. 02_beats_and_bars.md R50, 04_matrix_array.md R148. Reset 0. -/
  waited : Nat := 0
  /-- Stretched periods of the open beat. 02_beats_and_bars.md R51. Reset 0. -/
  stretched : Nat := 0
  /-- The region stops at its next step boundary. 02_beats_and_bars.md R61. Reset false. -/
  stopPend : Bool := false
  /-- The region has stopped issuing. 02_beats_and_bars.md R63. Reset false. -/
  stopped : Bool := false
  /-- First stamps of the working beats issued, newest first, with bar and beat (for R118 and R679). Reset none. -/
  marks : List (Nat × Nat × Nat) := []
  /-- Effects stamped at later step cycles, in order. 10_memory_model.md R679. Reset none. -/
  evs : List Ev := []
  /-- Landing registers that await data: the planned release and the number of the write. 01_levels.md R30, 02_beats_and_bars.md R50. Reset none. -/
  gates : List (Nat × Nat) := []
  /-- Commands handed to the callers and not yet pushed. 03_routine.md R101. Reset none. -/
  handed : List Handed := []
  /-- The place in the segment body. 03_routine.md R91. Reset none. -/
  head : Option Cursor := none
  /-- The place in the tail section being merged or issued. 03_routine.md R92, R94. Reset none. -/
  tailc : Option Cursor := none
  /-- Segment, run within the segment, and times the loop was taken. 03_routine.md R91. Reset 0. -/
  seg : Nat := 0
  segRun : Nat := 0
  loops : Nat := 0
  /-- RUN of the segment, counted across loops, and how many runs have ended. 03_routine.md R95, R118. Reset 0. -/
  run : Nat := 0
  runNo : Nat := 0
  /-- Segment and RUN of the tail section. 03_routine.md R92, R118. Reset 0. -/
  tseg : Nat := 0
  trun : Nat := 0
  /-- The last step of the routine has issued. 03_routine.md R94. Reset false. -/
  last : Bool := false
  /-- Granules of its die's copy of routine space that the routine buffer of the sequencer holds, by number; used in the two die clocks. 03_routine.md R96, R97. Reset none. -/
  buffer : List Nat := []
  /-- Replica of module cues 0-1,023. 10_memory_model.md R309, R327. Reset clear. -/
  mcues : Table Cue := []
  /-- Replica of rounds 0-31. 10_memory_model.md R309, R327. Reset unbound. -/
  rounds : Table Round := []
  deriving DecidableEq, Repr

/-! ## Channels, handle queues, resident sets -/

/-- A VALID entry of the route table (11_channels.md R344). -/
structure Route where
  src : Nat
  dst : Nat
  ring : Nat
  ringBase : Nat
  spill : Nat
  spillBase : Nat
  lat : Nat
  deriving DecidableEq, Repr

/-- A descriptor of a landed record: its offset in the ring, LENGTH, landing status bits, TAG, the stamp at which it entered (11_channels.md R355, R356). -/
structure Desc where
  off : Nat
  len : Nat
  status : BitVec 3
  tag : BitVec 32
  entered : Nat
  deriving DecidableEq, Repr

/-- A channel (11_channels.md R346, R350, R360). -/
structure Chan where
  free : BitVec 21 := 0
  wptr : BitVec 20 := 0
  rptr : BitVec 20 := 0
  sendAlive : Byte := 0
  recvAlive : Byte := 0
  arrivals : List Desc := []
  slots : BitVec 5 := 16
  spilled : Bool := false
  spillFull : Bool := false
  crcBad : Bool := false
  repeatF : Bool := false
  skipF : Bool := false
  spillWptr : BitVec 21 := 0
  /-- Ends of the records taken and not freed, oldest first (R357). -/
  taken : List Nat := []
  /-- Bytes of the record that is landing (R354). -/
  landing : Bytes := []
  /-- The record that its sender is sending (R352). -/
  out : Option ChOut := none
  deriving DecidableEq, Repr

/-- STATE of a resident set (08_floor.md R258). -/
inductive RsState where
  | empty
  | loading
  | settled
  | dirty
  | unsettled
  | failed
  deriving DecidableEq, Repr

/-- A resident-set entry (08_floor.md R258, 19_dictionary.md R592). -/
structure Resident where
  state : RsState := .empty
  kd : BitVec 8 := 0
  flags : BitVec 8 := 0
  base : BitVec 32 := 0
  length : BitVec 32 := 0
  members : BitVec 64 := 0
  rotation : BitVec 8 := 0
  digest : BitVec 256 := 0
  source : BitVec 64 := 0
  /-- The action in progress, if one is: 1 LOAD, 2 RECORD, 3 VERIFY (R592). -/
  action : Nat := 0
  /-- Members whose last incoming granule of the ROTATE in progress has landed (R294). -/
  turned : BitVec 48 := 0
  deriving DecidableEq, Repr

/-! ## The routine and the invocation -/

/-- A segment-table entry (03_routine.md R78). -/
structure Seg where
  body : Nat
  tail : Nat
  bars : Nat
  runs : Nat
  deriving DecidableEq, Repr

/-- The header of the loaded routine and what the load took from its tables (03_routine.md R75-R78). -/
structure Header where
  budget : Nat := 0
  lc : Nat := 0
  overlap : Nat := 0
  links : BitVec 16 := 0
  loopFrom : Nat := 0
  loopCount : Nat := 0
  segs : List Seg := []
  /-- Latency-table entries: source x 64 + destination, latency (R76). -/
  lats : Table Nat := []
  digest : BitVec 256 := 0
  deriving DecidableEq, Repr

/-- The routine that is loaded and the invocation that runs it (03_routine.md; 19_dictionary.md R573, R574). -/
structure Routine where
  /-- Routine space: the 64-bit words of the loaded image; both dies hold the same words. 03_routine.md R73, R114. Reset empty. -/
  words : List (BitVec 64) := []
  /-- Header fields of the loaded image. 03_routine.md R75. Reset 0. -/
  hdr : Header := {}
  /-- Routes of channels 0-255 that are VALID. 11_channels.md R344. Reset none. -/
  routes : Table Route := []
  /-- DOMAINS mask accepted by the load. 18_security.md R551. Reset 0. -/
  domains : BitVec 64 := 0
  /-- LOAD_STATUS 0x1100:05. 19_dictionary.md R573. Reset 0. -/
  loadStatus : BitVec 8 := 0
  /-- REFUSAL 0x1100:06. 19_dictionary.md R573. Reset 0. -/
  refusal : BitVec 8 := 0
  /-- RUN_STATE 0x1100:0A. 19_dictionary.md R573. Reset 0 IDLE. -/
  runState : BitVec 8 := 0
  /-- INVOCATIONS 0x1100:0B. 19_dictionary.md R573. Reset 0. -/
  invocations : BitVec 32 := 0
  /-- The bar that an accepted START armed, with the start segment and run. 19_dictionary.md R574, 22_faults.md R655. Reset 0. -/
  armedBar : Nat := 0
  armedSeg : Nat := 0
  armedRun : Nat := 0
  /-- A STOP has been written and waits for the next beat boundary. 03_routine.md R95. Reset false. -/
  stopAsked : Bool := false
  /-- The STOP was accepted: the current run is the last. 03_routine.md R95. Reset false. -/
  stopping : Bool := false
  /-- The number of the current run at the acceptance, and the segment and run that R91 would run after the last one. 03_routine.md R95, 22_faults.md R655. Reset 0. -/
  stopAt : Nat := 0
  resumeAt : Nat × Nat := (0, 0)
  /-- An abort at the end of a bar is pending: the bar, and the location word of the fault. 22_faults.md R635, 17_host_interface.md R529. Reset none. -/
  abortAt : Option (Nat × Nat) := none
  /-- The count of beat boundaries at the last abort. 22_faults.md R639. Reset 0. -/
  abortEdge : Nat := 0
  /-- First bar of the invocation. 03_routine.md R117. Reset 0. -/
  firstBar : Nat := 0
  /-- The routine's last bar, once its last step has issued. 03_routine.md R94. Reset none. -/
  lastBar : Option Nat := none
  /-- ABORT_BAR 0x1330:02 and ABORT_CLASS 0x1330:03. 22_faults.md R637, R654. Reset 0. -/
  abortBar : BitVec 40 := 0
  abortClass : BitVec 8 := 0
  /-- The report of R637 stands until FAULT_ACK. 22_faults.md R637. Reset false. -/
  faultReport : Bool := false
  /-- FAULT_ACK was accepted; HOLD_REQ falls at the first RUN frame after RESUME. 22_faults.md R637. Reset false. -/
  faultAcked : Bool := false
  deriving DecidableEq, Repr

/-- A completed contribution to a bar signature: bar, cluster or 48, 49 for a sequencer, the order of its command
(stamp and presence-map bit), and its bytes (22_faults.md R643). -/
structure Contrib where
  bar : Nat
  who : Nat
  t : Nat
  pbit : Nat
  data : Bytes
  deriving DecidableEq, Repr

/-- A BULK command whose completion cue or signature waits for acknowledgements (10_memory_model.md R320; 22_faults.md R643): number,
who issued it (cluster, or 64 + die x 32 + unit), its issue, its completion cue, writes sent and not acknowledged, whether all are sent, and its granules. -/
structure Bulk where
  id : Nat
  who : Nat
  ctx : Ctx
  loc : Nat
  /-- The clusters whose floors or staging it writes; none for bank memory. -/
  dsts : List Nat
  done : Option Done
  left : Nat
  /-- Of those left, how many go to each cluster. -/
  owed : Table Nat := []
  sent : Bool
  signs : Bool
  count : Nat
  /-- Its granules by index. -/
  data : Table Bytes
  deriving DecidableEq, Repr

/-- An acknowledgement on its way to its sender: of a DIRECT write of a cluster, or of a granule of a BULK command, with the cluster that
it went to (48 for none) and the bank address that it wrote, if it did. -/
inductive Ack where
  | direct (n id : Nat)
  | bulk (id dst : Nat) (addr : Option Nat)
  deriving DecidableEq, Repr

/-- A skip-log record (03_routine.md R118). -/
structure SkipRec where
  ctx : Ctx
  reason : Nat
  loc : Nat
  deriving DecidableEq, Repr

/-- An error-log record (22_faults.md R640). -/
structure ErrRec where
  seq : Nat
  cls : Nat
  cause : Nat
  loc : Nat
  bar : Nat
  beat : Nat
  cyc : Nat
  step : Nat
  seg : Nat
  other : Nat
  detail : Bytes
  deriving DecidableEq, Repr

/-- A hazard-log record (13_compiler_contract.md R420). -/
structure HazRec where
  ctx : Ctx
  kind : Nat
  sub : Nat
  loc : Nat
  other : Nat
  resource : Nat
  deriving DecidableEq, Repr

/-- A command whose floor writes have not all landed: its cluster, the cluster it writes into, and of each write its number within
the command, its address and its length (13_compiler_contract.md R419, READ_BEFORE_WRITE). -/
structure OwedWrite where
  origin : Nat
  dst : Nat
  ctx : Ctx
  loc : Nat
  parts : List (Nat × Nat × Nat)
  deriving DecidableEq, Repr

/-- A command with remote writes, as a release may cover it (10_memory_model.md R320-R323): twice the number of its writes, and one
more for a BULK command; its cluster, its engine (bit of R323), the clusters written into, none for bank memory, and the floor address
written, none for staging. -/
structure FarCmd where
  key : Nat
  origin : Nat
  engine : Nat
  dsts : List Nat
  addr : Option Nat := none
  ctx : Ctx
  loc : Nat
  deriving DecidableEq, Repr

/-- The last remote write of a word: its command, the channel that carried it, and whether it is the word's last write at all
(13_compiler_contract.md R419, MISSING_FENCE). -/
structure FarWrite where
  key : Nat
  origin : Nat
  chan : Option Nat
  loc : Nat
  live : Bool
  deriving DecidableEq, Repr

/-- The range that a matrix command reads in a floor, from its start cycle to its last read (04_matrix_array.md R147). -/
structure OperandSpan where
  lc : Nat
  addr : Nat
  len : Nat
  first : Nat
  last : Nat
  deriving DecidableEq, Repr

/-- What the hazard detector keeps of an invocation (13_compiler_contract.md R417, R419); nothing else reads it (R418). It is empty
at the start of an invocation. -/
structure Detector where
  /-- Commands whose floor writes have not all landed. -/
  todo : List OwedWrite := []
  /-- Commands with remote writes. -/
  far : List FarCmd := []
  /-- The last remote write of each word, by its RESOURCE. -/
  last : Table FarWrite := []
  /-- Writes that completed FENCEs cover, by caller x 8 + scope. -/
  fenced : Table (List Nat) := []
  /-- Writes that the signals of an object release, by its RESOURCE x 16 + the domain that holds it. -/
  rel : Table (List Nat) := []
  /-- Writes that releases acquired by a caller cover. -/
  know : Table (List Nat) := []
  /-- Writes that a completed release and acquire have passed. -/
  passed : List Nat := []
  /-- Objects whose last signal a keeping wait of a caller has seen: caller, object (R319). -/
  seen : List (Nat × Nat) := []
  /-- Acknowledged BULK writes, and the number and the unit of the last one of each bank granule. -/
  ackNo : Nat := 0
  acks : Table (Nat × Nat) := []
  /-- The operand ranges of matrix commands that have started (04_matrix_array.md R147). -/
  spans : List OperandSpan := []
  deriving DecidableEq, Repr

/-- A word slot that a word takes, or its place in the buffer of a stop (09_movers_and_streams.md R268, R269): the segment or stop, the
planned stamp, for a stop the stamp of its own clock at which the word comes in, source cluster, the word, the location word of the unit that sent
it, and its command. -/
structure PathSlot where
  seg : Nat
  t : Nat
  arr : Nat
  src : Nat
  word : Nat
  loc : Nat
  ctx : Ctx
  deriving DecidableEq, Repr

/-! ## Beat reference and hold -/

/-- A cause of hold that has not cleared: its CAUSE code (02_beats_and_bars.md R46) and whose it is: a logical
cluster, 48 or 49 for a sequencer, or 50 where the cause belongs to the module. -/
structure LiveCause where
  cause : Nat
  who : Nat
  deriving DecidableEq, Repr

/-- The beat reference of the module (02_beats_and_bars.md). -/
structure BeatRef where
  /-- Consecutive valid frames, up to 8. 02_beats_and_bars.md R45. Reset 0. -/
  valid : Nat := 0
  /-- Consecutive invalid frames. 02_beats_and_bars.md R43. Reset 0. -/
  invalid : Nat := 0
  /-- Beat lock, BEAT_LOCK 0x2000:06. 02_beats_and_bars.md R45, 19_dictionary.md R575. Reset false. -/
  locked : Bool := false
  /-- ORDER of the last frame: 0 RUN, 1 HOLD, 2 RESUME. 02_beats_and_bars.md R40, R43. Reset 1 (DESIGN CHOICE, log 7). -/
  order : BitVec 4 := 1
  /-- BAR and BEAT of the last frame, 0x2000:07 and 0x2000:08. 19_dictionary.md R575. Reset 0. -/
  bar : BitVec 40 := 0
  beat : BitVec 6 := 0
  /-- Setting in force, 0x2000:04. 02_beats_and_bars.md R58, 19_dictionary.md R575, before beat lock 21_reset.md R624. Reset 1. -/
  setting : BitVec 2 := 1
  /-- NEXT_SETTING and NEXT_BAR of the last frame. 02_beats_and_bars.md R40, R57. Reset 0. -/
  nextSetting : BitVec 2 := 0
  nextBar : BitVec 16 := 0
  /-- Hold horizon field of the last frame; H, 0x2000:09, is one more. 02_beats_and_bars.md R40. Reset 0. -/
  horizon : BitVec 4 := 0
  /-- The last valid frame (BEATSYNC record of R641). 22_faults.md R641. Reset 0. -/
  frame : BitVec 128 := 0
  /-- Beat boundaries so far, for the 4,096 of R286 and R326. Reset 0. -/
  boundaries : Nat := 0
  /-- The BEATREPORT frame sent last. 02_beats_and_bars.md R46. Reset 0 (none sent; log 7). -/
  report : BitVec 128 := 0
  /-- HOLD_REQ. 02_beats_and_bars.md R46. Reset true: until beat lock (R45). -/
  holdReq : Bool := true
  /-- CAUSE of the first hold raised. 02_beats_and_bars.md R46. Reset 6 FAULT (R45). -/
  cause : BitVec 3 := 6
  /-- HOLD_CAUSE 0x2000:0A, the cause of the last hold. 19_dictionary.md R575. Reset 0. -/
  lastCause : BitVec 3 := 0
  /-- Causes of hold that have not cleared. 02_beats_and_bars.md R46 (READY). Reset none. -/
  live : List LiveCause := []
  /-- A change of setting that was announced and has not taken effect: the setting and NEXT_BAR. 02_beats_and_bars.md R57, R58. Reset none. -/
  announced : Option (Nat × Nat) := none
  /-- A hold has reached the module and no RESUME frame has come since. 02_beats_and_bars.md R64, R69, 22_faults.md R638. Reset false. -/
  inHold : Bool := false
  deriving DecidableEq, Repr

/-! ## Power, clocks, thermal, resets -/

/-- A thermal sensor (20_power_clocks.md R601, R602): its last three valid samples, consecutive beats without one, failed. -/
structure Sensor where
  recent : List Int := []
  missed : Nat := 0
  failed : Bool := false
  deriving DecidableEq, Repr

/-- A step of R603 or R605: in force, and the consecutive beats towards its release. -/
structure StepReq where
  on : Bool := false
  cool : Nat := 0
  deriving DecidableEq, Repr

/-- The monitors of a region (20_power_clocks.md R600-R605, R613). -/
structure Monitor where
  /-- Four thermal sensors. 20_power_clocks.md R601. Reset no sample. -/
  sensors : Vector Sensor 4 := Vector.replicate 4 {}
  /-- A sensor of the region failed since the last module reset. 20_power_clocks.md R602. Reset false. -/
  anyFailed : Bool := false
  /-- TEMP 0x7010 + r:01 in 0.1 C. 20_power_clocks.md R613. Reset 0. -/
  temp : Int := 0
  /-- Steps of R603 in its order: TEMP_STEP1, TEMP_STEP2, 103 C, 108 C. 20_power_clocks.md R603. Reset off. -/
  steps : Vector StepReq 4 := Vector.replicate 4 {}
  /-- The droop step. 20_power_clocks.md R605. Reset off. -/
  droop : StepReq := {}
  /-- The setting that the droop step requires. 20_power_clocks.md R605. Reset 3. -/
  droopSet : Nat := 3
  /-- SAFE 0x7010 + r:02. 20_power_clocks.md R613. Reset 0. -/
  safe : BitVec 2 := 0
  /-- The bar in which the region first reported a safe setting below the setting in force. 02_beats_and_bars.md R59. Reset none. -/
  below : Option Nat := none
  /-- Stretched periods of the bar in progress, and STRETCH 0x7010 + r:03 of the last bar. 20_power_clocks.md R613. Reset 0. -/
  stretchNow : BitVec 32 := 0
  stretch : BitVec 32 := 0
  /-- VCORE 0x7010 + r:04. 20_power_clocks.md R613. Reset 0. -/
  vcore : BitVec 16 := 0
  /-- The generator has lock. 20_power_clocks.md R597. Reset true (DESIGN CHOICE, log 7). -/
  lock : Bool := true
  /-- The core set point of the region's rail in mV, which follows the setting. 20_power_clocks.md R598, R599. Reset 620, that of setting 0b01 (R621). -/
  corePoint : BitVec 16 := 620
  /-- Four failed sensors have faulted the region. 20_power_clocks.md R602. Reset false. -/
  faulted : Bool := false
  /-- The event of the 108 C row has been recorded since the region reached it. 20_power_clocks.md R604. Reset false. -/
  hot : Bool := false
  /-- The hardware bounds overridden in the last report, each with the setting applied, so that each is recorded once as it begins: row 2 (103 C) or
  3 (108 C) of R603, 4 the mode maximum or the cap of R594. 20_power_clocks.md R607. Reset none. -/
  overriding : List (Nat × Nat) := []
  /-- The software bounds unmet in the last report, by sub-index. 20_power_clocks.md R608. Reset none. -/
  unmetting : List Nat := []
  deriving DecidableEq, Repr

/-- Power input, trip and resets (20_power_clocks.md, 21_reset.md, 23_module_signals.md). -/
structure Power where
  /-- The conversion runs. 20_power_clocks.md R595. Reset true (log 9). -/
  on : Bool := true
  /-- PWRGD. 23_module_signals.md R669. Reset false. -/
  pwrgd : Bool := false
  /-- THERMTRIP latch. 23_module_signals.md R672. Reset false. -/
  trip : Bool := false
  /-- INPUT_VOLTAGE 0x7000:01 in mV. 20_power_clocks.md R613. Reset 0. -/
  vin : BitVec 16 := 0
  /-- INPUT_POWER 0x7000:02 in W. 20_power_clocks.md R613. Reset 0. -/
  watts : BitVec 16 := 0
  /-- The power step of R606, and the setting it requires. 20_power_clocks.md R606. Reset off, 3. -/
  step : Bool := false
  stepSet : Nat := 3
  /-- OVERRIDES 0x7000:0A and UNMET 0x7000:0B. 20_power_clocks.md R613. Reset 0. -/
  overrides : BitVec 32 := 0
  unmet : BitVec 32 := 0
  /-- REF100 has been valid for 1 ms. 23_module_signals.md R668, R671. Reset false. -/
  ref100 : Bool := false
  /-- Monitors of regions 0-7. 20_power_clocks.md R600. Reset as their own fields. -/
  mon : Vector Monitor 8 := Vector.replicate 8 {}
  /-- BRINGUP 0x1200:07. 21_reset.md R620, R632. Reset 1 POWER (log 9). -/
  bringup : BitVec 8 := 1
  /-- BRINGUP_FAULT 0x1200:08. 21_reset.md R632. Reset 0. -/
  bringupFault : BitVec 16 := 0
  /-- LAST_RESET 0x1200:05. 21_reset.md R632. Reset 1 cold. -/
  lastReset : BitVec 8 := 1
  /-- RESET_CAUSE 0x1200:06. 21_reset.md R632. Reset 1 power. -/
  resetCause : BitVec 8 := 1
  /-- Boot has ended and bring-up waits for REF100. 23_module_signals.md R668. Reset false. -/
  booted : Bool := false
  /-- Bring-up runs its warm form (R626). 21_reset.md R626. Reset false. -/
  warm : Bool := false
  /-- Filtered levels of MODRST_N and WARMRST_N. 21_reset.md R615. Reset high. -/
  modrst : Bool := true
  warmrst : Bool := true
  /-- PERST_N. 21_reset.md R615. Reset low (DESIGN CHOICE, log 7). -/
  perst : Bool := false
  /-- The PCIe port has trained since PERST_N rose. 23_module_signals.md R670. Reset false. -/
  trained : Bool := false
  /-- Clusters in self-test after a CLUSTER_RESET. 21_reset.md R628. Reset none. -/
  testing : List Nat := []
  /-- Entries of index 0x7000 written in the beat, by sub-index, with the values in force until the next boundary. 20_power_clocks.md R613. Reset none. -/
  held : Table Nat := []
  deriving DecidableEq, Repr

/-! ## Module-level units -/

/-- A BMOVE whose push check has passed (12_commands.md R402). -/
structure BmJob where
  snent : Nat
  dnent : Nat
  kd : Nat
  ssp : Nat
  dsp : Nat
  slist : Nat
  dlist : Nat
  done : Option Done
  deriving DecidableEq, Repr

/-- An LSEND whose push check has passed (12_commands.md R403). -/
structure LsJob where
  nent : Nat
  kd : Nat
  lstream : Nat
  group : Nat
  list : Nat
  lidx : Nat
  done : Option Done
  deriving DecidableEq, Repr

/-- An MCK whose push check has passed (12_commands.md R404): 0 INIT, 1 FEED, 2 READ. -/
structure MckJob where
  inst : Nat
  op : Nat
  alg : Nat
  nent : Nat
  kd : Nat
  addr : Nat
  done : Option Done
  deriving DecidableEq, Repr

/-- A command of the intake slot (12_commands.md R406): opcode 1 TAKE, 2 SLOT, 3 EGRESS, 4 PAGE. -/
structure IsJob where
  op : Nat
  addr : Nat
  count : Nat
  done : Option Done
  deriving DecidableEq, Repr

/-- Commands of module-level units. -/
inductive UnitCmd where
  | bmove (j : BmJob)
  | lsend (j : LsJob)
  | mck (j : MckJob)
  | isu (j : IsJob)
  deriving DecidableEq, Repr

/-- A BMOVE or a FEED in progress: its issue, its number, its lists, and the granules done and in all (12_commands.md R402, R405). -/
structure UnitRun where
  ctx : Ctx
  cmd : UnitCmd
  id : Nat
  src : List Run
  dst : List Run
  n : Nat
  total : Nat
  deriving DecidableEq, Repr

/-- A module-level unit: its queue of 8 commands and the stamp from which its next one may start (12_commands.md R400). -/
structure MUnit where
  q : List (Ctx × UnitCmd) := []
  free : Nat := 0
  /-- The command that runs (12_commands.md R402, R405). -/
  run : Option UnitRun := none
  deriving DecidableEq, Repr

/-! ## Partner links -/

/-- STATE of a link (15_partner_links.md R481). -/
inductive LinkSt where
  | down
  | training
  | keying
  | up
  | retrain
  | disabled
  deriving DecidableEq, Repr

/-- A flit in a replay buffer: its sequence counted across epochs, its body before encryption, the number of its LSEND, its data slot, its
number within the LSEND, and whether its own link has acknowledged it (15_partner_links.md R457, R461, R469). -/
structure TxFlit where
  seq : Nat
  body : Bytes
  bulk : Nat
  slot : Nat
  idx : Nat
  acked : Bool
  deriving DecidableEq, Repr

/-- A transfer a link has announced: first sequence, granules, group, landing stream, key domain, landing index, and
the granules that have landed (15_partner_links.md R460, R466, R467). -/
structure Xfr where
  first : Nat
  count : Nat
  group : Nat
  stream : Nat
  kd : Nat
  lidx : Nat
  landed : Nat := 0
  deriving DecidableEq, Repr

/-- A control word that waits for an ACK of its frame: OPEN or SIGNAL, with the SEQ_END of the frame it went in (R460). -/
inductive CtlWord where
  | openW (x : Xfr)
  | signalW (op obj num tlc value tmod smod sloc step : Nat)
  deriving DecidableEq, Repr

/-- A control word with the SEQ_END of the frame that carried it, none until one has, and whether an ACK has come since that did
not cover it (15_partner_links.md R459, R460). -/
structure CtlEntry where
  w : CtlWord
  sent : Option Nat := none
  passed : Bool := false
  deriving DecidableEq, Repr

/-- An LSEND that has started: what it announces, its granules still to load, the first working beat of the invocation in whose data
slots it may stand, the flits that it has loaded, and the links of its group (15_partner_links.md R461, R463). -/
structure Sending where
  id : Nat
  what : Xfr
  data : List Bytes
  firstBeat : Nat
  next : Nat
  links : List Nat
  deriving DecidableEq, Repr

/-- A landed granule that has not been collected: landing granule number, its bytes, key domain tag (15_partner_links.md R466). -/
structure Landed where
  pos : Nat
  data : Bytes
  kd : Nat
  deriving DecidableEq, Repr

/-- A partner link (15_partner_links.md). -/
structure Link where
  /-- STATE. 15_partner_links.md R481. Reset 0 DOWN. -/
  st : LinkSt := .down
  /-- HOLD_TX and HOLD_RX. 15_partner_links.md R481. Reset 0. -/
  holdTx : Bool := false
  /-- The wire slot of the frame in progress from which heads carry HOLD. 15_partner_links.md R471. Reset 0. -/
  holdAt : Nat := 0
  holdRx : Bool := false
  /-- NEIGHBOUR and MISMATCH. 15_partner_links.md R481. Reset 0. -/
  neighbour : BitVec 10 := 0
  mismatch : Bool := false
  /-- TX_SEQ and the sender's epoch. 15_partner_links.md R457, R481. Reset 0. -/
  txSeq : BitVec 32 := 0
  txEpoch : BitVec 32 := 0
  /-- PEER_ACK. 15_partner_links.md R481. Reset 0. -/
  peerAck : BitVec 32 := 0
  /-- RX_ACK: the lowest sequence not landed; SEEN; the receiver's epoch. 15_partner_links.md R460, R481. Reset 0. -/
  rxAck : BitVec 32 := 0
  rxSeen : BitVec 32 := 0
  rxEpoch : BitVec 32 := 0
  /-- One past the last accepted sequence, and the last accepted ALIVE. 11_channels.md R362; 15_partner_links.md R465. Reset 0, 255 (none yet). -/
  rxBase : Nat := 0
  rxLast : Byte := 255
  /-- Wire slots and codewords of the frame received so far; the last codeword was uncorrectable. 15_partner_links.md R453, R454. Reset 0, false. -/
  rxSlot : Nat := 0
  cwSeen : Nat := 0
  cwBad : Bool := false
  /-- Sequences listed as missing, ascending. 15_partner_links.md R465. Reset none. -/
  missing : List Nat := []
  /-- The replay buffer. 15_partner_links.md R469. Reset empty. -/
  replay : List TxFlit := []
  /-- Sequences that the last ACK calls for. 15_partner_links.md R469. Reset none. -/
  wanted : List Nat := []
  /-- Transfers in progress in the slot engine, the first loading. 15_partner_links.md R461. Reset none. -/
  sending : List Sending := []
  /-- Flits loaded in the open beat, which the next frame carries. 15_partner_links.md R462. Reset none. -/
  loaded : List TxFlit := []
  /-- Data slots of the open beat that have passed, and transfers begun in it. 15_partner_links.md R461, R462. Reset 0. -/
  slotsDone : Nat := 0
  begun : Nat := 0
  /-- Control words not covered by an ACK. 15_partner_links.md R460. Reset none. -/
  ctl : List CtlEntry := []
  /-- Announced transfers of the receiving direction. 15_partner_links.md R460, R466. Reset none. -/
  opens : List Xfr := []
  /-- Bodies as received, by sequence, kept for the tags pending. 15_partner_links.md R472. Reset none. -/
  bodies : Table Bytes := []
  /-- Tags pending: first sequence, end, tag. 15_partner_links.md R472. Reset none. -/
  tags : List (Nat × Nat × BitVec 128) := []
  /-- SEQ_END of the last two blocks received; none where the block was lost. 15_partner_links.md R459, R472. Reset 0. -/
  rxEnd : Option Nat := some 0
  prevEnd : Option Nat := some 0
  /-- Data flits of the frame sent last, and its SEQ_END. 15_partner_links.md R472. Reset none. -/
  txPrev : List TxFlit := []
  txPrevEnd : Nat := 0
  /-- That frame was a PART frame. 15_partner_links.md R459, R469. Reset false. -/
  txPart : Bool := false
  /-- A training link has lane lock and waits for beat lock. 21_reset.md R623. Reset false. -/
  lane : Bool := false
  /-- Keys of the sending and the receiving direction. 15_partner_links.md R458. Reset none (destroyed, R618). -/
  txKey : Option (BitVec 128) := none
  rxKey : Option (BitVec 128) := none
  /-- Uncorrectable codewords of this beat. 15_partner_links.md R475. Reset 0. -/
  badCw : Nat := 0
  /-- The boundary count at which the link left service. 15_partner_links.md R475. Reset none. -/
  outSince : Option Nat := none
  /-- A cable is present; CBL_3V3 is switched on. 23_module_signals.md R664. Reset false. -/
  cable : Bool := false
  /-- The frame sent last: its beat block, and the flits that are not IDLE: wire slot, first two head bytes without HOLD, body as sent.
  15_partner_links.md R454, R456. Reset none. -/
  frame : Option (Bytes × List (Nat × Nat × Bytes)) := none
  deriving DecidableEq, Repr

/-! ## Intake and slotting unit -/

/-- States of a session (16_service_layer.md R491). -/
inductive SesSt where
  | prefill
  | decode
  | idle
  | moving
  | out
  | closing
  deriving DecidableEq, Repr

/-- A card with its session (16_service_layer.md R489-R497). -/
structure Card where
  session : Nat
  kd : Nat
  pinned : Bool
  st : SesSt
  /-- The state before MOVING, and the direction of the move: true is out (R497, R619). -/
  prior : SesSt
  outward : Bool
  /-- Input tokens not yet run, and the position of the next token (R495, R504). -/
  prompt : List (BitVec 32)
  pos : Nat
  next : BitVec 32
  maxNew : Nat
  stop : BitVec 32
  seed : BitVec 64
  /-- Tokens of the reply so far (R504). -/
  reply : Nat
  alive : Nat
  egress : Nat
  wraps : Nat
  digest : BitVec 256
  key : BitVec 128
  /-- Bank pages and host pages held, in page order (R496, R497). -/
  pages : List Nat
  hostPages : List Nat
  /-- Input pages, and the bytes of plaintext stored in them (R490). -/
  input : List Nat
  inBytes : Nat
  /-- Pages on their way to the other side, as (source, destination) of a scheduled move (R498). -/
  moves : List (Nat × Nat)
  /-- The bar in which the session last ran (R494); the item that awaits output: POS, NTOK, sampled, digest at the SLOT (R504, R508). -/
  lastRun : Nat
  item : Option (Nat × Nat × Bool × BitVec 256)
  /-- One more than the bar whose lists hold its item; 0 for none (R494). -/
  itemBar : Nat
  /-- A record kept for want of room: kind, POS, token, reason, ticket (R505). -/
  kept : Option (Nat × Nat × BitVec 32 × Nat × BitVec 256)
  reason : Nat
  victim : Bool
  deriving DecidableEq, Repr

/-- The intake and slotting unit (16_service_layer.md). -/
structure Isu where
  /-- Cards 0-8,191 in use. 16_service_layer.md R492. Reset none. -/
  cards : Table Card := []
  /-- The ring at which the previous TAKE stopped. 16_service_layer.md R487. Reset 63, so that the first TAKE starts at ring 0 (DESIGN CHOICE, log 7). -/
  ring : Nat := 63
  /-- Reject queues: domain, records (the envelope header fields and the reason). 16_service_layer.md R507. Reset empty. -/
  rejects : List (Nat × Nat × Nat × Nat) := []
  /-- The command that runs: its issue and its completion cue. 16_service_layer.md R509, R510. Reset none. -/
  busy : Option (Ctx × IsJob) := none
  /-- EGRESS events of the command that runs: function, section, new WPTR. 17_host_interface.md R529. Reset none. -/
  tell : List (Nat × Nat × Nat) := []
  /-- Values still in force of service entries that were written while a routine runs, by index x 256 + sub. 16_service_layer.md R511. Reset none. -/
  held : Table Nat := []
  deriving DecidableEq, Repr

/-! ## Host port -/

/-- How a request from the host port completes (17_host_interface.md R518, R521; 23_module_signals.md R670). -/
inductive Cpl where
  | none
  | data (bs : Bytes)
  | written
  | dropped
  | unsupported
  | abort
  | retryLater
  deriving DecidableEq, Repr

/-- The page of a function (17_host_interface.md R526). -/
structure HostFn where
  /-- HIF_ERR [5:0]. 17_host_interface.md R526. Reset 0. -/
  err : BitVec 6 := 0
  /-- WINDOW_BASE. 17_host_interface.md R526. Reset 0. -/
  window : BitVec 64 := 0
  /-- MBX REQ_LEN, RSP_LEN, BUSY, DONE. 17_host_interface.md R526. Reset 0. -/
  reqLen : BitVec 13 := 0
  rspLen : BitVec 13 := 0
  busy : Bool := false
  done : Bool := false
  /-- EQ_BASE. 17_host_interface.md R526. Reset 0. -/
  eqBase : BitVec 64 := 0
  /-- EQ_CTRL ORDER, ENABLE, IEN, PHASE. 17_host_interface.md R526. Reset 0. -/
  order : BitVec 5 := 0
  enable : Bool := false
  ien : Bool := false
  phase : Bool := false
  /-- EQ_HEAD and EQ_TAIL. 17_host_interface.md R526. Reset 0. -/
  head : BitVec 16 := 0
  tail : BitVec 16 := 0
  /-- EQ_BASE and ORDER were written while ENABLE was 0. 17_host_interface.md R528. Reset false. -/
  eqSet : Bool := false
  orderSet : Bool := false
  /-- MBX_REQ, 4 KiB. 17_host_interface.md R526. Reset x: 0 (DESIGN CHOICE, log 7). -/
  req : Mem := []
  /-- MBX_RSP, 4 KiB. 17_host_interface.md R526. Reset 0. -/
  rsp : Mem := []
  /-- MSI-X messages sent. 17_host_interface.md R528. Reset 0. -/
  msix : Nat := 0
  deriving DecidableEq, Repr

/-- The attributes of a request to host memory, No Snoop and Relaxed Ordering (17_host_interface.md R513). -/
structure Tlp where
  noSnoop : Bool
  relaxed : Bool
  deriving DecidableEq, Repr

/-- A doorbell that waits for the requester's posted writes (17_host_interface.md R531). -/
structure Bell where
  fn : Nat
  ring : Nat
  v : BitVec 32
  requester : BitVec 16
  deriving DecidableEq, Repr

/-- A selective or link IDE stream, and the functions it covers (17_host_interface.md R534). -/
structure IdeStream where
  id : Nat
  fns : BitVec 64
  key : Bytes
  deriving DecidableEq, Repr

/-- The answer to an SPDM or DOE request, with its content (17_host_interface.md R535, R536; 18_security.md R546). -/
inductive SpdmRsp where
  | none
  | discovery (vendor proto next : Nat)
  | version (vs : List Nat)
  | capabilities (v : Nat)
  | algorithms (sm2 sm3 sm2kex sm4gcm : Bool)
  | digests (slotMask : Nat) (d : BitVec 256)
  | certificate (slot : Nat) (portion : Bytes) (remainder : Nat)
  | challengeAuth (slot : Nat) (measured : BitVec 256) (nonce : BitVec 256) (signature : BitVec 512)
  | measurements (index : Nat) (content : Bytes) (nonce : BitVec 256) (signature : BitVec 512)
  | keyExchange (nonce : BitVec 256) (signature : BitVec 512)
  | finished
  | keyUpdated
  | heartbeat
  | ended
  | vendor
  | error (code : Nat)
  deriving DecidableEq, Repr

/-- An SPDM secured session (17_host_interface.md R536). -/
structure Session where
  mutual_ : Bool
  rootOk : Bool
  secured : Bool
  secret : BitVec 256
  updates : Nat
  deriving DecidableEq, Repr

/-- The PCIe port (17_host_interface.md). -/
structure Port where
  /-- Function pages 0-63. 17_host_interface.md R514, R526. Reset as their own fields. -/
  fns : Vector HostFn 64 := Vector.replicate 64 {}
  /-- Doorbells received and not applied. 17_host_interface.md R531. Reset none. -/
  bells : List Bell := []
  /-- Mailbox requests in the order of their GO: the function, and the doorbells received before it that have not applied. 17_host_interface.md
  R532; 19_dictionary.md R572. Reset none. -/
  mail : List (Nat × Nat) := []
  /-- SPEED, WIDTH and FLIT of HIF_STATUS. 17_host_interface.md R526. Reset 0. -/
  speed : BitVec 3 := 0
  width : BitVec 5 := 0
  flit : Bool := false
  /-- Bits of the BAR2 size of the physical function: 30-36. 17_host_interface.md R516. Reset 36 (64 GiB). -/
  bar2 : Nat := 36
  /-- Bits of the BAR2 size of every virtual function. 17_host_interface.md R516. Reset 36 (64 GiB). -/
  bar2v : Nat := 36
  /-- IDE streams established. 17_host_interface.md R534. Reset none. -/
  streams : List IdeStream := []
  /-- The last completion the port returned. Reset none. -/
  cpl : Cpl := .none
  /-- SPDM version negotiated (0x10 once GET_VERSION is answered), SM2 and SM3 agreed, key exchange and SM4-GCM agreed, session. 17_host_interface.md R535. Reset none. -/
  spdmVer : Nat := 0
  spdmAlg : Bool := false
  spdmKex : Bool := false
  session : Option Session := none
  /-- The last answer of the DOE mailbox. Reset none. -/
  answer : SpdmRsp := .none
  /-- Running SM3 transcript of the connection, as the bytes so far of what was answered. Reset none. -/
  transcript : BitVec 256 := 0
  deriving DecidableEq, Repr

/-! ## Security unit -/

/-- An entry of the measurement log (18_security.md R544). -/
structure LogEntry where
  seq : Nat
  mr : Nat
  kind : Nat
  bar : Nat
  beat : Nat
  detail : Nat
  digest : BitVec 256
  deriving DecidableEq, Repr

/-- The security unit (18_security.md). -/
structure Security where
  /-- MR0-MR7. 18_security.md R543. Reset 0. -/
  mr : Vector (BitVec 256) 8 := Vector.replicate 8 0
  /-- The measurement log, oldest first, 4,096 entries at most. 18_security.md R544, R545. Reset empty. -/
  log : List LogEntry := []
  /-- CO_NONCE. 18_security.md R553, R562. Reset: drawn; before the draw 0 (DESIGN CHOICE, log 7). -/
  nonce : BitVec 256 := 0
  /-- The staged order. 18_security.md R555. Reset none. -/
  staged : Option Bytes := none
  /-- The order that a CO_STORE in progress applies. 18_security.md R557, 19_dictionary.md R585. Reset none. -/
  storing : Option Bytes := none
  /-- CO_STATUS. 18_security.md R562. Reset 0. -/
  status : BitVec 32 := 0
  /-- The unit is locked. 18_security.md R561. Reset false. -/
  locked : Bool := false
  /-- RECOVERY. 18_security.md R540. Reset false. -/
  recovery : Bool := false
  /-- Firmware store: images of slot A (security, management), slot B (security, management). 18_security.md R539. Reset kept; as shipped, which the manual does not give (log 12). -/
  images : Vector Bytes 4 := Vector.ofFn fun i => Config.shippedImage i
  /-- The slot that runs: 0 A, 1 B. 18_security.md R540. Reset 0. -/
  slot : Fin 2 := 0
  /-- The inactive slot is marked to be tried at the next module reset. 18_security.md R541. Reset false. -/
  marked : Bool := false
  /-- Kinds of the new images written into the inactive slot and not committed: bit 0 security, bit 1 management firmware. 18_security.md R541. Reset kept; 0 as first made. -/
  filled : Nat := 0
  /-- FW_SVN and VERSION of the running firmware. 18_security.md R562, 19_dictionary.md R573. Reset 0 until boot (log 7). -/
  svn : BitVec 8 := 0
  version : BitVec 32 := 0
  /-- The fuse counter of FW_MIN_SVN. 18_security.md R542. Reset kept; 0 as first made (DESIGN CHOICE, log 6). -/
  minSvn : BitVec 8 := 0
  /-- The complement of the fuse counter. 18_security.md R560. Reset kept; the complement of 0 as first made (DESIGN CHOICE, log 6). -/
  minSvnC : BitVec 8 := 0xFF
  /-- Domain XTS pairs, 256 bits each. 18_security.md R548. Reset kept; none as first made. -/
  xts : Table (BitVec 256) := []
  /-- Intake keys. 18_security.md R548. Reset kept; none as first made. -/
  intake : Table (BitVec 256) := []
  /-- The routine key. 14_bank_memory.md R441, 18_security.md R548. Reset cleared. -/
  routineKey : Option (BitVec 256) := none
  /-- Working keys have been cleared. 18_security.md R549, 13_compiler_contract.md R427. Reset true. -/
  cleared : Bool := true
  deriving DecidableEq, Repr

/-! ## Dictionary -/

/-- A management path of the dictionary, or the mailbox of one virtual function (19_dictionary.md R570, R571). -/
structure Path where
  rxAlive : Byte := 0
  rxTag : BitVec 16 := 0
  txAlive : Byte := 0
  rsp : Bytes := []
  /-- The response sent last, BUSY among them. 19_dictionary.md R571. Reset none. -/
  said : Bytes := []
  /-- An open segmented write: entry (index x 256 + sub), bytes so far. 19_dictionary.md R569. -/
  segs : Option (Nat × Bytes) := none
  deriving DecidableEq, Repr

/-- A load in progress: the refusal code that its checks gave, 0 for none, and the digest of its route table (03_routine.md R114;
11_channels.md R345). -/
structure LoadJob where
  code : Nat
  routeDigest : BitVec 256
  deriving DecidableEq, Repr

/-- The dictionary and the persistent-settings memory (19_dictionary.md). -/
structure Dict where
  /-- Working values by index x 256 + sub, where they differ from their default. 19_dictionary.md R565. Reset defaults. -/
  vals : Table Nat := []
  /-- Values whose complement is held beside the entries marked (C), where they differ from the default. 18_security.md R559. Reset defaults. -/
  compl : Table Nat := []
  /-- Items of overlays 0-7. 19_dictionary.md R578, R582. Reset none. -/
  overlays : Vector (Table Nat) 8 := Vector.replicate 8 []
  /-- The overlays' values in force: the mode whose overlay applies, and the user overlay in use. 19_dictionary.md R578, R579. Reset 2, 0. -/
  userOverlay : Nat := 0
  /-- A MODE or USER_OVERLAY write waits for the next bar boundary. 19_dictionary.md R576, R579. Reset none. -/
  modeNext : Option (Nat × Nat) := none
  userNext : Option (Nat × Nat) := none
  /-- STORE_STATUS 0x1010:03. 19_dictionary.md R573. Reset 0. -/
  storeStatus : BitVec 8 := 0
  /-- The image taken by a STORE in progress. 19_dictionary.md R585. Reset none. -/
  storing : Option Bytes := none
  /-- STORE_COUNT 0x1010:05. 19_dictionary.md R573. Reset kept; 0 as first made. -/
  storeCount : BitVec 32 := 0
  /-- Persistent-settings memory: banks 0, 1 and commit slots C0, C1. 19_dictionary.md R583, R584. Reset kept; empty as first made (log 6). -/
  banks : Vector Bytes 2 := Vector.replicate 2 []
  commits : Vector Bytes 2 := Vector.replicate 2 []
  /-- Per bank, the values whose complements are held there beside the entries marked (C). 18_security.md R559, R560. Reset kept; empty as
  first made (log 6). -/
  bankCompl : Vector (Table Nat) 2 := Vector.replicate 2 []
  /-- The commit slot whose record is in force. 19_dictionary.md R586. Reset none. -/
  inForce : Option (Fin 2) := none
  /-- Paths 0-2, and 64 + f for the mailbox of virtual function f. 19_dictionary.md R570. Reset as their own fields. -/
  paths : Table Path := []
  /-- I3C_EID and the I3C dynamic address. 19_dictionary.md R566, R573. Reset 0. -/
  eid : Byte := 0
  dynAddr : BitVec 7 := 0
  /-- A load in progress. 03_routine.md R114. Reset none. -/
  load : Option LoadJob := none
  deriving DecidableEq, Repr

/-- A directory entry of a snapshot (22_faults.md R649): KIND, KD, whether written, SOURCE, LENGTH, OFFSET, TAG, DIGEST. -/
structure Chunk where
  shard : Bool
  kd : Nat
  written : Bool
  source : Nat
  len : Nat
  at_ : Nat
  tag : BitVec 128
  digest : BitVec 256
  deriving DecidableEq, Repr

/-- A snapshot, a restore or their remains (22_faults.md R646-R654). -/
structure Snap where
  /-- SNAP_STATUS, SNAP_PROGRESS, SNAP_GEN. 22_faults.md R654. Reset 0. -/
  status : BitVec 8 := 0
  progress : BitVec 32 := 0
  gen : BitVec 32 := 0
  /-- The slot in use, its generation, and the action: 1 snapshot, 2 restore. 22_faults.md R648. Reset 0. -/
  slot : Nat := 0
  slotGen : Nat := 0
  action : Nat := 0
  /-- The target of the slot in use is a buddy, and the address of the slot at the target. 22_faults.md R648. Reset false, 0. -/
  buddy : Bool := false
  place : Nat := 0
  /-- The directory of the snapshot in progress. 22_faults.md R649. Reset none. -/
  chunks : List Chunk := []
  /-- An interrupted snapshot may be resumed; one that a fault stopped may be once a warm reset has followed. 22_faults.md R652. Reset false. -/
  resumable : Bool := false
  stopped : Bool := false
  /-- The set entries of the snapshot that the module took last, entry, BASE and MEMBERS, and its GENERATION. 22_faults.md R653. Reset none, 0. -/
  sets : List (Nat × Nat × BitVec 64) := []
  setsGen : Nat := 0
  deriving DecidableEq, Repr

/-- The wrong symbols of a burst, of its 36 (pin x 3 + window of 8 bit times): those stored wrong, and those that a defect may spoil in any
read (14_bank_memory.md R443, R444). -/
structure BurstErr where
  stored : BitVec 36 := 0
  defect : BitVec 36 := 0
  deriving DecidableEq, Repr

/-- The test access port of a die (13_compiler_contract.md R424-R430). -/
structure Tap where
  /-- Instruction register. 13_compiler_contract.md R424. Reset 0x01 IDCODE (DESIGN CHOICE, log 7). -/
  ir : BitVec 8 := 1
  /-- The value that the selected data register captured last. Reset 0. -/
  dr : BitVec 65 := 0
  /-- What the instruction register captured at the last scan of an instruction. 13_compiler_contract.md R424. Reset 0b0000_0001. -/
  irScan : BitVec 8 := 1
  deriving DecidableEq, Repr

/-! ## The module -/

/-- The state of the module. -/
structure State where
  /-- The commands that wait, first in, first out. The model's own field. Reset empty. -/
  pending : List Instr := []
  /-- How many free values have been drawn. The model's own field. Reset 0 (DESIGN CHOICE, log 5). -/
  free : Nat := 0
  /-- The number that the next write, figure or bulk command takes. The model's own field. Reset 0 (log 4). -/
  uid : Nat := 0
  /-- Grade code. 00_scope.md R3. Reset 1 EL48-F (DESIGN CHOICE, log 6). -/
  grade : BitVec 8 := 1
  /-- Physical indices that the fuse map fuses. 01_levels.md R27. Reset none (log 6). -/
  fused : List Nat := []
  /-- The ten issue domains. 01_levels.md R14, 03_routine.md R100. Reset as their own fields. -/
  dom : Vector Dom 10 := Vector.replicate 10 {}
  /-- Logical clusters 0-47. 01_levels.md R13. Reset as their own fields. -/
  cl : Vector Cluster 48 := Vector.replicate 48 {}
  /-- The callers of the two routine sequencers. 03_routine.md R99. Reset as their own fields. -/
  seqs : Vector Caller 2 := Vector.replicate 2 {}
  /-- Module-level units: die x 29 + bank mover 0-15, slot engine 16-23, module check unit 24-27, intake 28. 03_routine.md R82, 12_commands.md R400. Reset empty. -/
  units : Vector MUnit 58 := Vector.replicate 58 {}
  /-- Module check units 0-3 of each die, die x 4 + INST. 12_commands.md R404. Reset ALG 0 at its initial value. -/
  mck : Vector Check 8 := Vector.replicate 8 {}
  /-- The routine. 03_routine.md. Reset none loaded. -/
  rt : Routine := {}
  /-- Channels 0-255. 11_channels.md R343. Reset as R346. -/
  chans : Table Chan := []
  /-- Handle queues: region x 64 + queue, oldest handle first. 09_movers_and_streams.md R289, R292. Reset empty. -/
  hqs : Table (List (Nat × BitVec 64)) := []
  /-- Resident sets 0x8400-0x843F. 08_floor.md R258. Reset EMPTY. -/
  residents : Vector Resident 64 := Vector.replicate 64 {}
  /-- Acknowledgements on their way. 10_memory_model.md R321. Reset none. -/
  acks : List Ack := []
  /-- BULK commands not complete. 10_memory_model.md R320. Reset none. -/
  bulks : List Bulk := []
  /-- Word slots of the paths and places in stop buffers taken at recent stamps. 09_movers_and_streams.md R268, R269. Reset none. -/
  paths : List PathSlot := []
  /-- Words in flight that have become void. 09_movers_and_streams.md R268. Reset none. -/
  voids : List Nat := []
  /-- Stamps of the signal words of the last 16 cycles of each crossing, by sender x 16 + receiver. 10_memory_model.md R339. Reset none. -/
  crossings : Table (List Nat) := []
  /-- Untimed signals on their way. 10_memory_model.md R310. Reset none. -/
  untimed : List Sig := []
  /-- Contributions to bar signatures not closed, and the bars closed so far. 22_faults.md R643, R644. Reset none. -/
  contribs : List Contrib := []
  closed : Nat := 0
  /-- SIG_WPTR 0x1300:03. 22_faults.md R654. Reset 0. -/
  sigWptr : BitVec 32 := 0
  /-- Counters by index x 256 + sub. 19_dictionary.md R593, 22_faults.md R642. Reset 0. -/
  counters : Table (BitVec 64) := []
  /-- DISCREPANCIES 0x8000 + n:05. 19_dictionary.md R587. Reset 0. -/
  discrepancies : Vector (BitVec 32) 48 := Vector.replicate 48 0
  /-- Clusters whose discrepancy has been recorded and lasts. 19_dictionary.md R591. Reset none. -/
  discrepant : List Nat := []
  /-- Discrepancies that have begun and are not recorded yet: cluster, and the detail of its event. 19_dictionary.md R591. Reset none. -/
  discrepancyDue : List (Nat × Bytes) := []
  /-- Clusters drained for reason DISABLED: 1 DRAINING, 7 DRAINING once a bar boundary has come, 2 counts as drained, 3 has drained, 4 fenced by DISABLE, 5 fenced with UNIT_FAULT, 6 with REGION_FAULT; absent is ACTIVE. 19_dictionary.md R587, R588. Reset none. -/
  actual : Table Nat := []
  /-- The skip log, newest first, 4,096 records at most. 03_routine.md R118, R119. Reset empty. -/
  skips : List SkipRec := []
  /-- The hazard log, newest first, 8,192 records at most. 13_compiler_contract.md R420, R422. Reset empty. -/
  hazards : List HazRec := []
  /-- The working state of the hazard detector. 13_compiler_contract.md R417, R419. Reset empty. -/
  det : Detector := {}
  /-- The error log, newest first, 16,384 records at most, and SEQ. 22_faults.md R640. Reset empty, 0. -/
  errs : List ErrRec := []
  errSeq : BitVec 32 := 0
  /-- Bank memory as it is stored, the pages of key domains and of routine space encrypted. 14_bank_memory.md R436, R441, 10_memory_model.md R301. Reset 0 (DESIGN CHOICE, log 8). -/
  bank : Mem := []
  /-- Wrong symbols of the bursts of bank memory, by burst number (address / 32). 14_bank_memory.md R443-R445. Reset none. -/
  bankErr : Table BurstErr := []
  /-- Bursts asked for in this beat, those that a share could not serve in earlier beats included, by subchannel x 8 + share. 14_bank_memory.md R433, R435. Reset 0. -/
  bankUse : Table Nat := []
  /-- Bursts corrected by the patrol scrub with what they hold, waiting for their write-back; and the next scrub burst of each subchannel. 14_bank_memory.md R446. Reset none, 0. -/
  bankScrub : Table Bytes := []
  bankScrubNext : Vector Nat 256 := Vector.replicate 256 0
  /-- Banks being refreshed: subchannel x 16 + bank. 14_bank_memory.md R447. Reset none. -/
  refreshing : List Nat := []
  /-- The bank that a subchannel refreshes next in this beat, 16 once all have been. 14_bank_memory.md R447. Reset 0. -/
  refreshNext : Table Nat := []
  /-- TRAINED of packages LP00-LP31 where it is not 0: 1 trained, 2 failed. 19_dictionary.md R577. Reset 0. -/
  pkgs : Table Nat := []
  /-- Host memory, which is outside the module: bank movers, events and snapshots reach it. Reset 0 (log 8). -/
  host : Mem := []
  /-- The bank memory of a buddy module, which holds the slots of this one in its receive area; outside the module (22_faults.md R648, R651). Reset 0 (log 8). -/
  buddy : Mem := []
  /-- The attributes of the request that the module sent to host memory last. 17_host_interface.md R513. Reset none. -/
  tlp : Option Tlp := none
  /-- Landed granules of each die's links, not collected. 15_partner_links.md R466. Reset none. -/
  landing : Vector (List Landed) 2 := Vector.replicate 2 []
  /-- The beat reference and hold. 02_beats_and_bars.md. Reset as its own fields. -/
  beat : BeatRef := {}
  /-- ACTUAL_MODE 0x2000:02. 19_dictionary.md R575. Reset 2 BALANCED. -/
  mode : BitVec 8 := 2
  /-- Power, clocks, resets. 20_power_clocks.md, 21_reset.md. Reset as its own fields. -/
  pow : Power := {}
  /-- Partner links 0-15. 15_partner_links.md. Reset as their own fields. -/
  links : Vector Link 16 := Vector.replicate 16 {}
  /-- The intake and slotting unit. 16_service_layer.md. Reset as its own fields. -/
  isu : Isu := {}
  /-- The PCIe port. 17_host_interface.md. Reset as its own fields. -/
  port : Port := {}
  /-- The security unit. 18_security.md. Reset as its own fields. -/
  sec : Security := {}
  /-- The dictionary. 19_dictionary.md. Reset as its own fields. -/
  dict : Dict := {}
  /-- Snapshot and restore. 22_faults.md. Reset as its own fields. -/
  snap : Snap := {}
  /-- Test access ports of D0, D1. 13_compiler_contract.md R424. Reset as their own fields. -/
  taps : Vector Tap 2 := Vector.replicate 2 {}
  /-- DBG_ADDR. 13_compiler_contract.md R429. Reset 0 (DESIGN CHOICE, log 7). -/
  dbgAddr : BitVec 64 := 0
  /-- ERR of DBG_STATUS. 13_compiler_contract.md R427. Reset 0. -/
  dbgErr : BitVec 8 := 0
  /-- Read data that the next Capture-DR of DBG_DATA returns. 13_compiler_contract.md R429. Reset 0. -/
  dbgData : BitVec 64 := 0
  /-- The instruction (EXTEST, CLAMP, HIGHZ) by which the boundary-scan register of D0, D1 has taken the pins. 13_compiler_contract.md R425. Reset none. -/
  scanned : Vector (Option (BitVec 8)) 2 := Vector.replicate 2 none
  deriving DecidableEq, Repr

/-- The module at the beginning of a cold reset: every field at its reset value (log 9). -/
def State.reset : State := {}

/-- Why a run stops with a fault: the model has no such case. -/
inductive Fault where
  /-- Raised by no command: every meaning answers a next state (safe). -/
  | none
  deriving DecidableEq, Repr

/-- Why a command has no meaning. -/
inductive Refusal where
  /-- Raised by an arm of `exec` whose command is not modelled yet, by its mnemonic (safe). -/
  | notModelled (mnemonic : String)
  deriving DecidableEq, Repr

end Sys2Proof.Machine
end

