-- ==== Sys2Proof/Machine/Ops.lean ====
section
/-! DEFINITION. Named operations over the state: sparse tables and memory, places and location words, counters
and logs, events of step time, tickets, holds and faults. -/

namespace Sys2Proof.Machine

/-! ## Tables and memory -/

/-- The entry of a table at a number. -/
def tGet {α : Type} : Table α → Nat → Option α
  | [], _ => none
  | (k, v) :: t, a => if k = a then some v else tGet t a

/-- A table with an entry replaced or added, in order. -/
def tPut {α : Type} : Table α → Nat → α → Table α
  | [], a, v => [(a, v)]
  | (k, w) :: t, a, v =>
    if a < k then (a, v) :: (k, w) :: t else if a = k then (a, v) :: t else (k, w) :: tPut t a v

/-- A table without the entry at a number. -/
def tDel {α : Type} (t : Table α) (a : Nat) : Table α := t.filter fun e => e.1 != a

/-- A table with the entry at `a` changed from its present value, or from `d` where it has none. -/
def tMod {α : Type} (t : Table α) (a : Nat) (d : α) (f : α → α) : Table α := tPut t a (f ((tGet t a).getD d))

/-- The byte at an address: 0 where the memory lists none (log 8). -/
def readByte : Mem → Nat → Byte
  | [], _ => 0
  | (k, v) :: m, a => if k = a then v else readByte m a

/-- The listed bytes of a range. -/
def cutMem (m : Mem) (a n : Nat) : Mem := m.filter fun c => decide (a ≤ c.1) && decide (c.1 < a + n)

/-- `n` bytes from an address, lowest first. -/
def readMem (m : Mem) (a n : Nat) : Bytes :=
  let sl := cutMem m a n
  (List.range n).map fun i => readByte sl (a + i)

/-- The cells of a byte string from an address upward, the bytes 0 left out. -/
def cellsOf : Nat → Bytes → Mem
  | _, [] => []
  | a, b :: bs => if b = 0 then cellsOf (a + 1) bs else (a, b) :: cellsOf (a + 1) bs

/-- A memory with bytes written from an address upward. -/
def writeMem (m : Mem) (a : Nat) (bs : Bytes) : Mem :=
  (m.filter fun c => decide (c.1 < a)) ++ cellsOf a bs ++ m.filter fun c => decide (a + bs.length ≤ c.1)

/-- A memory with one byte written. -/
def writeByte (m : Mem) (a : Nat) (v : Byte) : Mem := writeMem m a [v]

/-- A memory with the bytes of a range zeroed. -/
def zeroMem (m : Mem) (a n : Nat) : Mem := m.filter fun c => decide (c.1 < a) || decide (a + n ≤ c.1)

/-- The bytes of a range, moved to start at address 0. -/
def sliceMem (m : Mem) (a n : Nat) : Mem :=
  (cutMem m a n).map fun c => (c.1 - a, c.2)

/-- A memory is in its canonical form: addresses strictly rise and no listed byte is 0. -/
def memWf : Mem → Bool
  | [] => true
  | [(_, v)] => v != 0
  | (a, v) :: (b, w) :: m => v != 0 && a < b && memWf ((b, w) :: m)

/-- The bytes of a write as masked bytes, all bits written. -/
def fullWrites : Nat → Bytes → Writes
  | _, [] => []
  | a, b :: bs => (a, b, 0xFF) :: fullWrites (a + 1) bs

/-- A list of bytes cut to `n` bytes, padded with zeros. -/
def padTo (n : Nat) (bs : Bytes) : Bytes := (bs ++ List.replicate (n - bs.length) 0).take n

/-- Puts a number into an ascending list without repeats. -/
def insertNat (v : Nat) : List Nat → List Nat
  | [] => [v]
  | x :: xs => if v < x then v :: x :: xs else if v = x then x :: xs else x :: insertNat v xs

/-- The numbers of a list in ascending order, each once. -/
def ascending (l : List Nat) : List Nat := l.foldr insertNat []

/-- Pieces of `n` elements of a list, at most `fuel` of them. -/
def chunks {α : Type} (n : Nat) : Nat → List α → List (List α)
  | 0, _ => []
  | fuel + 1, l => if l.isEmpty then [] else l.take n :: chunks n fuel (l.drop n)

/-! ## Clusters, domains, links by number -/

/-- A vector with one place changed; unchanged where the place is beyond it. -/
def vmod {α : Type} {k : Nat} (v : Vector α k) (n : Nat) (f : α → α) : Vector α k := if h : n < k then v.set n (f v[n]) else v

/-- The logical cluster with a number. -/
def State.clus (s : State) (n : Nat) : Cluster := if h : n < 48 then s.cl[n] else {}

/-- Changes the logical cluster with a number. -/
def State.modCl (s : State) (n : Nat) (f : Cluster → Cluster) : State :=
  { s with cl := vmod s.cl n f }

/-- The issue domain with a number. -/
def State.domN (s : State) (d : Nat) : Dom := if h : d < 10 then s.dom[d] else {}

/-- Changes the issue domain with a number. -/
def State.modDom (s : State) (d : Nat) (f : Dom → Dom) : State :=
  { s with dom := vmod s.dom d f }

/-- Changes every issue domain. -/
def State.modDoms (s : State) (f : Dom → Dom) : State := { s with dom := s.dom.map f }

/-- Changes every cluster. -/
def State.modCls (s : State) (f : Cluster → Cluster) : State := { s with cl := s.cl.map f }

/-- The caller of a cluster, or of a sequencer at 48 and 49. -/
def State.caller (s : State) (w : Nat) : Caller :=
  if w < 48 then (s.clus w).caller else if h : w - 48 < 2 then s.seqs[w - 48] else {}

/-- Changes the caller of a cluster, or of a sequencer at 48 and 49. -/
def State.modCaller (s : State) (w : Nat) (f : Caller → Caller) : State :=
  { s with cl := if w < 48 then vmod s.cl w fun c => { c with caller := f c.caller } else s.cl
           seqs := if w < 48 then s.seqs else vmod s.seqs (w - 48) f }

/-- The partner link with a number. -/
def State.link (s : State) (l : Nat) : Link := if h : l < 16 then s.links[l] else {}

/-- Changes the partner link with a number. -/
def State.modLink (s : State) (l : Nat) (f : Link → Link) : State :=
  { s with links := vmod s.links l f }

/-- The monitor of a region. -/
def State.monN (s : State) (r : Nat) : Monitor := if h : r < 8 then s.pow.mon[r] else {}

/-- Changes the monitor of a region. -/
def State.modMon (s : State) (r : Nat) (f : Monitor → Monitor) : State :=
  { s with pow := { s.pow with mon := vmod s.pow.mon r f } }

/-- The channel with a number. -/
def State.chan (s : State) (h : Nat) : Chan := (tGet s.chans h).getD {}

/-- Changes the channel with a number. -/
def State.modChan (s : State) (h : Nat) (f : Chan → Chan) : State := { s with chans := tPut s.chans h (f (s.chan h)) }

/-- A module-level unit: die x 29 + unit. -/
def State.unitN (s : State) (u : Nat) : MUnit := if h : u < 58 then s.units[u] else {}

/-- Changes a module-level unit. -/
def State.modUnit (s : State) (u : Nat) (f : MUnit → MUnit) : State :=
  { s with units := vmod s.units u f }

/-- The resident-set entry with a number. -/
def State.resident (s : State) (k : Nat) : Resident := if h : k < 64 then s.residents[k] else {}

/-- Changes the resident-set entry with a number. -/
def State.modResident (s : State) (k : Nat) (f : Resident → Resident) : State :=
  { s with residents := vmod s.residents k f }

/-- The function page with a number. -/
def State.fn (s : State) (f : Nat) : HostFn := if h : f < 64 then s.port.fns[f] else {}

/-- Changes the function page with a number. -/
def State.modFn (s : State) (f : Nat) (g : HostFn → HostFn) : State :=
  { s with port := { s.port with fns := vmod s.port.fns f g } }

/-! ## Places -/

/-- Logical clusters that the grade and its fuse map offer (R3, R28). -/
def State.lcMax (s : State) : Nat := ((List.range 48).filter fun p => !s.fused.contains p).length

/-- The physical index of a logical cluster (R28). -/
def State.phys (s : State) (n : Nat) : Nat := (((List.range 48).filter fun p => !s.fused.contains p)[n]?).getD 48

/-- The region of a logical cluster, die x 4 + region code (R21). -/
def State.regionOf (s : State) (n : Nat) : Nat := s.phys n / 6

/-- The issue domain of a caller: the region of a cluster, or the die clock of a sequencer (R14, R100). -/
def State.domOf (s : State) (w : Nat) : Nat := if w < 48 then s.regionOf w else 8 + (w - 48)

/-- Logical clusters of a region. -/
def State.ofRegion (s : State) (r : Nat) : List Nat := (List.range s.lcMax).filter fun n => s.regionOf n == r

/-- Whether the grade enables a partner link (R3, R35). -/
def State.linkEnabled (s : State) (l : Nat) : Bool := l < 16 && !(s.grade == 3 && [6, 7, 14, 15].contains l)

/-- A location word (R22). -/
def locWord (die region pos unit inst : Nat) : Nat := die * 32768 + region * 8192 + pos * 1024 + unit * 64 + inst

/-- The location word of a unit of a logical cluster (R22). -/
def State.locLc (s : State) (n unit inst : Nat) : Nat :=
  let p := s.phys n
  locWord (p / 24) (p / 6 % 4) (p % 6) unit inst

/-- The location word of a region-level block (R22). -/
def locRegion (r unit inst : Nat) : Nat := locWord (r / 4) (r % 4) 6 unit inst

/-- The location word of a die-level block (R22). -/
def locDie (d unit inst : Nat) : Nat := locWord d 0 7 unit inst

/-- Blocks of a unit kind at a position (R22). -/
def unitCount (pos unit : Nat) : Nat :=
  ((if pos < 6 then [1, 1, 1, 32, 2, 1, 1, 1] else if pos = 6 then [1, 1, 4, 1, 64] else [1, 16, 8, 16, 1, 1, 8, 1, 1, 1, 1, 1, 1])[unit]?).getD 0

/-- Whether a location word names a block: its unit and its instance exist, a die-level word carries region code 0, and the blocks that only
D0 activates are D0's (R22, R23, R25). -/
def locNames (loc : Nat) : Bool :=
  let pos := bits loc 12 10
  decide (loc < 65536) && decide (bits loc 5 0 < unitCount pos (bits loc 9 6))
    && (pos != 7 || (bits loc 14 13 == 0 && !(8 ≤ bits loc 9 6 && bit loc 15)))

/-- Planned minimum latency of the path between two logical clusters (R267). -/
def State.pathLat (s : State) (a b : Nat) : Nat :=
  let p := s.phys a
  let q := s.phys b
  let ps := p % 6
  let pd := q % 6
  if p / 6 = q / 6 then 10 + 2 * (if ps < pd then pd - ps else ps - pd)
  else if p / 24 = q / 24 then
    let opposite := (p / 6 % 4) + (q / 6 % 4) = 3
    10 + 2 * ps + 16 * (if opposite then 2 else 1) + 2 * pd
  else 66 + 2 * (ps + pd)

/-- The latency-table entry of an ordered pair (R76, R77). -/
def State.latEntry (s : State) (a b : Nat) : Option Nat := tGet s.rt.hdr.lats (a * 64 + b)

/-! ## Free values, numbers -/

/-- Draws a free value of `w` bits (log 5). -/
def State.draw (s : State) (w : Nat) : BitVec w × State := (Config.freeBits s.free w, { s with free := s.free + 1 })

/-- Takes the next number. -/
def State.fresh (s : State) : Nat × State := (s.uid, { s with uid := s.uid + 1 })

/-! ## Counters, dictionary values, event queue -/

/-- Adds to a counter, saturating at 2^64 - 1 (R593). -/
def State.count (s : State) (idx sub n : Nat) : State :=
  let key := idx * 256 + sub
  let v := ((tGet s.counters key).getD 0).toNat + n
  { s with counters := tPut s.counters key (BitVec.ofNat 64 (min v (2 ^ 64 - 1))) }

/-- A working base value of the dictionary, with its default (R565). -/
def State.base (s : State) (idx sub dflt : Nat) : Nat := (tGet s.dict.vals (idx * 256 + sub)).getD dflt

/-- An overlay's value of an entry, while the overlay is in use (R578). -/
def State.overlayVal (s : State) (k idx sub : Nat) : Option Nat :=
  if h : k < 8 then
    if s.base (0xA000 + k) 1 0 = 1 then tGet s.dict.overlays[k] (idx * 256 + sub) else none
  else none

/-- The value in force of an entry (R578). -/
def State.val (s : State) (idx sub dflt : Nat) : Nat :=
  match (if 4 ≤ s.dict.userOverlay then s.overlayVal s.dict.userOverlay idx sub else none) with
  | some v => v
  | none => (s.overlayVal (s.mode.toNat - 1) idx sub).getD (s.base idx sub dflt)

/-- Whether a routine runs: RUN_STATE is RUNNING or STOPPING (R573). -/
def State.running (s : State) : Bool := s.rt.runState == 2 || s.rt.runState == 3

/-- The module's id (R480). -/
def State.moduleId (s : State) : Nat := s.val 0x4000 1 0

/-- Writes host memory with No Snoop = 0 and Relaxed Ordering = 0 (R513). -/
def State.hostPut (s : State) (a : Nat) (bs : Bytes) : State :=
  { s with host := writeMem s.host a bs, tlp := some { noSnoop := false, relaxed := false } }

/-- Reads host memory with the same attributes; the module keeps no copy (R513). -/
def State.hostGet (s : State) (a n : Nat) : Bytes × State :=
  (readMem s.host a n, { s with tlp := some { noSnoop := false, relaxed := false } })

/-- Queues an event for a function: an entry in host memory, then the MSI-X message (R528). -/
def State.hostEvent (s : State) (f kind source d0 d1 : Nat) : State :=
  let g := s.fn f
  if !g.enable then s
  else if !(g.eqSet && g.orderSet) then s
  else
    let n := 2 ^ g.order.toNat
    if (g.tail.toNat + 1) % n = g.head.toNat then
      (s.modFn f fun g => { g with err := g.err ||| 8 }).count 0x9009 2 1
    else
      let e := b2n g.phase + 2 * kind + 256 * source + 65536 * s.beat.beat.toNat + 2 ^ 22 * s.beat.bar.toNat
        + 2 ^ 64 * d0 + 2 ^ 96 * d1
      let t := (g.tail.toNat + 1) % n
      let s := s.hostPut (g.eqBase.toNat + 16 * g.tail.toNat) (leBytes 16 e)
      s.modFn f fun g =>
        { g with tail := BitVec.ofNat 16 t, phase := if t = 0 then !g.phase else g.phase
                 msix := g.msix + b2n g.ien }

/-! ## Logs -/

/-- The stamp at which a domain stands: bar, beat, cycle of its next step. -/
def State.ctxNow (s : State) (d pbit op : Nat) : Ctx :=
  let x := s.domN d
  { t := x.nt - 4, bar := x.bar, beat := x.beat, cyc := x.cyc, seg := x.seg
    run := x.run, pbit := pbit, op := op
    step := (x.head.map (·.pc)).getD 0
    idx := match x.head with
      | some c => [0, 1, 2, 3].map fun i => ((c.reps.find? (·.idx == i)).map (·.j)).getD 0
      | none => [0, 0, 0, 0] }

/-- Bar, beat and cycle of a step stamp that a domain has issued or will issue next (R679). -/
def Dom.stamp (x : Dom) (t : Nat) : Nat × Nat × Nat :=
  match x.marks.find? (·.1 ≤ t) with
  | some (b, bar, beat) => (bar, beat, t - b)
  | none => (x.bar, x.beat, t)

/-- Writes a skip-log record and counts its reason (R118, R119). -/
def State.skipLog (s : State) (x : Ctx) (reason loc : Nat) : State :=
  { s.count 0x9001 reason 1 with
    skips := if s.skips.length < 4096 then { ctx := x, reason := reason, loc := loc } :: s.skips else s.skips }

/-- The counter of a hazard kind (R422). -/
def State.hazard (s : State) (x : Ctx) (kind sub loc other resource : Nat) : State :=
  let off := s.mode != 4 || !s.running
  let again := s.hazards.any fun h => h.ctx.bar == x.bar && h.kind == kind && h.sub == sub && h.ctx.step == x.step
    && h.resource == resource
  { s with
    counters := if off then s.counters else (s.count 0x9006 kind 1).counters
    hazards := if off || again || s.hazards.length ≥ 8192 then s.hazards
      else { ctx := x, kind, sub, loc, other, resource } :: s.hazards }

/-- A fault of a cycle whose record has just been written takes its place among those of that cycle by its location word: the records keep their
numbers and exchange what they say (R639). -/
def settleRec (r : ErrRec) : List ErrRec → List ErrRec
  | q :: l =>
    if 3 ≤ r.cls && 3 ≤ q.cls && q.bar == r.bar && q.beat == r.beat && q.cyc == r.cyc && decide (r.loc < q.loc) then
      { q with seq := r.seq } :: settleRec { r with seq := q.seq } l
    else r :: q :: l
  | [] => [r]

/-- Writes an error-log record and counts its class (R640-R642); a class 0 record is an EVENT for the PF (R529). -/
def State.errLog (s : State) (cls cause loc : Nat) (x : Ctx) (other : Nat) (detail : Bytes) : State :=
  let r : ErrRec := { seq := s.errSeq.toNat, cls, cause, loc, bar := x.bar, beat := x.beat, cyc := x.cyc
                      step := x.step, seg := x.seg, other, detail := padTo 32 detail }
  let s := { s with errs := (r :: s.errs).take 16384, errSeq := s.errSeq + 1 }
  let s := (s.count 0x9100 (cls + 1) 1).count (0x9110 + cls) cause 1
  if cls = 0 then s.hostEvent 0 7 0 r.seq 0 else s

/-- The stamp of an event that no step stamp names: the current bar and beat (R612: 0 before lock). -/
def State.nowCtx (s : State) : Ctx := { bar := s.beat.bar.toNat, beat := s.beat.beat.toNat }

/-- Records an event (class 0) with the current stamp. -/
def State.event (s : State) (cause loc : Nat) (detail : Bytes) : State := s.errLog 0 cause loc s.nowCtx loc detail

/-! ## Events of step time -/

/-- Whether an event comes before another: by stamp, phase, rank. -/
def Ev.before (a b : Ev) : Bool := a.t < b.t || (a.t == b.t && (a.ph < b.ph || (a.ph == b.ph && a.rank < b.rank)))

/-- Puts an event in its place, after those of the same stamp, phase and rank. -/
def insertEv (e : Ev) : List Ev → List Ev
  | [] => [e]
  | x :: xs => if e.before x then e :: x :: xs else x :: insertEv e xs

/-- Schedules an event in a domain. -/
def State.post (s : State) (d t ph rank : Nat) (k : EvK) (mover : Bool := false) : State :=
  s.modDom d fun x => { x with evs := insertEv { t, ph, rank, mover, k } x.evs }

/-- Phases within a step stamp: starts, reads, signals, VW writes, GW writes, deposits (R247, R144, R307). -/
def phStart : Nat := 0
def phRead : Nat := 1
def phSig : Nat := 2
def phVw : Nat := 3
def phGw : Nat := 4
def phEnd : Nat := 5

/-- The cluster whose engine an event belongs to, if a fence of the cluster stops it (R634). -/
def EvK.engineOf : EvK → Option Nat
  | .mxStart n => some n | .mxHdr n .. => some n | .tileRead n .. => some n | .msRead n .. => some n
  | .msLand n _ => some n | .drainRead n .. => some n | .deliver n _ => some n | .figLand n .. => some n
  | .group n _ => some n | .vxRead n => some n | .bandOut n _ => some n
  | .figStart n => some n | .figRead n .. => some n | .ftRead n .. => some n | .ftSet n .. => some n
  | .cntStart n => some n | .cntRead n _ => some n | .cntLand n .. => some n | .mvStart n _ => some n
  | .mvList n .. => some n | .mvFloor n _ => some n | .place n .. => some n | .syStart n => some n
  | .putSend n .. => some n | .putRead n .. => some n | .hput n .. => some n | .chRead n .. => some n | .chPad n _ => some n | .chSend n .. => some n | .ckStart n => some n
  | .ckRead n .. => some n | .ckLand n .. => some n | .amaxGot n .. => some n | .store n .. => some n
  | .rotPlace n .. => some n
  | _ => none

/-! ## Tickets -/

/-- Sets an operand ticket (R143). -/
def State.setTicket (s : State) (n t : Nat) : State :=
  s.modCl n fun c => { c with tickets := c.tickets ||| (1 <<< t) }

/-- Clears an operand ticket; T0 reads set at all times (R143, R144). -/
def State.clearTicket (s : State) (n t : Nat) : State :=
  s.modCl n fun c => { c with tickets := (c.tickets &&& ~~~((1 : BitVec 32) <<< t)) ||| 1 }

/-- Whether an operand ticket is set. -/
def Cluster.ticket (c : Cluster) (t : Nat) : Bool := t == 0 || c.tickets.getLsbD t

/-- Takes the events that meet a condition out of a domain. -/
def State.dropEvs (s : State) (d : Nat) (p : Ev → Bool) : State :=
  s.modDom d fun x => { x with evs := x.evs.filter fun e => !p e }

/-! ## Skip and log -/

/-- Carries out a command whose checks give no reason; otherwise it is skipped and logged (R116-R118). -/
def State.judge (s : State) (x : Ctx) (loc : Nat) (why : Option Nat) (act : State → State) : State :=
  match why with
  | some r => s.skipLog x r loc
  | none => act s

/-! ## Hold -/

/-- Hold reaches the link units: from a wire slot of the frame in progress on, which the rules leave open, heads and blocks carry HOLD
(R471; log 82). -/
def State.holdLinks (s : State) : State :=
  if s.links.toList.all (·.holdTx) then s
  else
    let (r, s) := s.draw 144
    { s with links := Vector.ofFn fun (l : Fin 16) =>
        let k := s.links[l]
        if k.holdTx then k else { k with holdTx := true, holdAt := min 488 (r.toNat / 2 ^ (9 * l.val) % 512) } }

/-- Raises hold for a cause (R46, R53, R61): the first cause is reported, one class 2 record is written unless the cause holds already (R633), and the
domain that raises it stops at its next step boundary. -/
def State.raiseHold (s : State) (cause who loc : Nat) (dom : Option Nat) (x : Ctx) : State :=
  let s := if cause = 6 || s.beat.live.contains { cause, who } then s else s.errLog 2 cause loc x loc []
  let b := s.beat
  let s : State := { s with beat := { b with
    holdReq := true, inHold := true
    cause := if b.holdReq then b.cause else BitVec.ofNat 3 cause
    lastCause := BitVec.ofNat 3 cause
    live := if b.live.contains { cause, who } then b.live else b.live ++ [{ cause, who }] } }
  let s := s.holdLinks
  match dom with
  | some d => s.modDom d fun x => { x with stopPend := true }
  | none => s

/-- What a commit of a command keeps: the queue of waiting commands, the grade and the fuse map, which no command
changes (R3, R27); everything else is as the command leaves it. -/
def commit (s t : State) : Host.Outcome State Fault Refusal :=
  .next { t with pending := s.pending, grade := s.grade, fused := s.fused }

/-- A cause of hold clears (R46 READY). -/
def State.clearCause (s : State) (cause who : Nat) : State :=
  { s with beat := { s.beat with live := s.beat.live.filter fun l => !(l.cause == cause && l.who == who) } }

/-- Every region of the module has stopped issuing (R46 FROZEN); the die clocks issue with them (R100). -/
def State.frozen (s : State) : Bool := s.dom.toList.all fun d => d.stopped

/-- FROZEN with the causes of hold cleared, or with the fault acknowledged (R46, R459, R637). -/
def State.ready (s : State) : Bool := s.frozen && (if s.rt.faultReport then s.rt.faultAcked else s.beat.live.isEmpty)

/-- Bars from one bar number up to another, which wraps at 40 bits (R40). -/
def barGap (a b : Nat) : Nat := (b + 2 ^ 40 - a % 2 ^ 40) % 2 ^ 40

/-- Working beats from bar `from_` up to a beat of a bar. -/
def beatGap (from_ bar beat : Nat) : Nat := barGap from_ bar * 64 + beat

/-- The earlier of two working beats, counted from a bar. -/
def earlier (from_ : Nat) (a b : Nat × Nat) : Nat × Nat := if beatGap from_ b.1 b.2 < beatGap from_ a.1 a.2 then b else a

/-- The earliest working beat in which a region has stopped, once all have (R46 FROZEN_BAR, FROZEN_BEAT). -/
def State.frozenAt (s : State) : Nat × Nat :=
  (s.dom.toList.map fun x => (x.bar, x.beat)).foldl (earlier s.rt.firstBar) ((s.domN 0).bar, (s.domN 0).beat)

end Sys2Proof.Machine
end

