-- ==== Sys2Proof/Machine/Crypto.lean ====
section
/-! DEFINITION. Check values and ciphers: the CRCs of R363, and SM3, SM4, SM4-GCM and SM4-XTS, which the manual names
and does not define (PRESUMED from their public standards, log 10). -/

namespace Sys2Proof.Machine

/-- `n` times a step. -/
def iter {α : Type} (f : α → α) : Nat → α → α
  | 0, a => a
  | n + 1, a => iter f n (f a)

/-! ## Cyclic redundancy checks (R363) -/

/-- One byte of CRC-32C, reflected. -/
def crc32cByte (s : BitVec 32) (b : Byte) : BitVec 32 :=
  iter (fun s => if s.getLsbD 0 then (s >>> 1) ^^^ 0x82F63B78 else s >>> 1) 8 (s ^^^ b.setWidth 32)

/-- CRC-32C over bytes (ALG 0). -/
def crc32c (bs : Bytes) : BitVec 32 := bs.foldl crc32cByte 0xFFFFFFFF ^^^ 0xFFFFFFFF

/-- One byte of CRC-16/CCITT. -/
def crc16Byte (s : BitVec 16) (b : Byte) : BitVec 16 :=
  iter (fun s => if s.getMsbD 0 then (s <<< 1) ^^^ 0x1021 else s <<< 1) 8 (s ^^^ (b.setWidth 16 <<< 8))

/-- CRC-16/CCITT over bytes (ALG 1). -/
def crc16 (bs : Bytes) : BitVec 16 := bs.foldl crc16Byte 0xFFFF

/-- One byte of CRC-64/ECMA. -/
def crc64Byte (s : BitVec 64) (b : Byte) : BitVec 64 :=
  iter (fun s => if s.getMsbD 0 then (s <<< 1) ^^^ 0x42F0E1EBA9EA3693 else s <<< 1) 8 (s ^^^ (b.setWidth 64 <<< 56))

/-- CRC-64/ECMA over bytes (ALG 2). -/
def crc64 (bs : Bytes) : BitVec 64 := bs.foldl crc64Byte 0

/-- The initial running state of an algorithm of a check unit (R363). -/
def checkInit (alg : Nat) : BitVec 64 := if alg = 0 then 0xFFFFFFFF else if alg = 1 then 0xFFFF else 0

/-- A check unit fed one byte (R364). -/
def checkByte (c : Check) (b : Byte) : Check :=
  { c with state :=
      if c.alg = 0 then (crc32cByte (c.state.setWidth 32) b).setWidth 64
      else if c.alg = 1 then (crc16Byte (c.state.setWidth 16) b).setWidth 64
      else crc64Byte c.state b }

/-- The value that a check unit's READ gives: reflection and XOR out applied, zero-extended (R364). -/
def checkValue (c : Check) : BitVec 64 := if c.alg = 0 then c.state ^^^ 0xFFFFFFFF else c.state

/-! ## SM3 -/

/-- Message expansion: the words so far, newest first. -/
def sm3Expand : Nat → List (BitVec 32) → List (BitVec 32)
  | 0, w => w
  | n + 1, w =>
    let g := fun i => (w[i]?).getD 0
    let p := fun (x : BitVec 32) => x ^^^ x.rotateLeft 15 ^^^ x.rotateLeft 23
    sm3Expand n ((p (g 15 ^^^ g 8 ^^^ (g 2).rotateLeft 15) ^^^ (g 12).rotateLeft 7 ^^^ g 5) :: w)

/-- One round on the eight words, with W and W'. -/
def sm3Round (j : Nat) (v : List (BitVec 32)) (w w' : BitVec 32) : List (BitVec 32) :=
  match v with
  | [a, b, c, d, e, f, g, h] =>
    let t : BitVec 32 := if j < 16 then 0x79CC4519 else 0x7A879D8A
    let ss1 := (a.rotateLeft 12 + e + t.rotateLeft (j % 32)).rotateLeft 7
    let ss2 := ss1 ^^^ a.rotateLeft 12
    let ff := if j < 16 then a ^^^ b ^^^ c else (a &&& b) ||| (a &&& c) ||| (b &&& c)
    let gg := if j < 16 then e ^^^ f ^^^ g else (e &&& f) ||| (~~~e &&& g)
    let tt1 := ff + d + ss2 + w'
    let tt2 := gg + h + ss1 + w
    [tt1, a, b.rotateLeft 9, c, tt2 ^^^ tt2.rotateLeft 9 ^^^ tt2.rotateLeft 17, e, f.rotateLeft 19, g]
  | _ => v

/-- The rounds from `j` on, over the words that remain. -/
def sm3Rounds : Nat → Nat → List (BitVec 32) → List (BitVec 32) → List (BitVec 32)
  | 0, _, _, v => v
  | n + 1, j, w, v =>
    match w with
    | x :: xs => sm3Rounds n (j + 1) xs (sm3Round j v x (x ^^^ (xs[3]?).getD 0))
    | [] => v

/-- The compression of one block of 64 bytes. -/
def sm3Block (v : List (BitVec 32)) (blk : Bytes) : List (BitVec 32) :=
  let w0 := (chunks 4 16 blk).map fun c => BitVec.ofNat 32 (beNat c)
  let w := (sm3Expand 52 w0.reverse).reverse
  List.zipWith (· ^^^ ·) (sm3Rounds 64 0 w v) v

/-- The padded message. -/
def sm3Pad (m : Bytes) : Bytes :=
  let z := (119 - m.length % 64) % 64
  m ++ [0x80] ++ List.replicate z 0 ++ beBytes 8 (8 * m.length)

/-- The initial value of SM3. -/
def sm3Iv : List (BitVec 32) :=
  [0x7380166F, 0x4914B2B9, 0x172442D7, 0xDA8A0600, 0xA96F30BC, 0x163138AA, 0xE38DEE4D, 0xB0FB0E4E]

/-- The SM3 digest, as 32 bytes. -/
def sm3Bytes (m : Bytes) : Bytes :=
  let p := sm3Pad m
  ((chunks 64 (p.length / 64) p).foldl sm3Block sm3Iv).flatMap fun w => beBytes 4 w.toNat

/-- The SM3 digest, as a number whose little-endian bytes are the digest bytes in order. -/
def sm3 (m : Bytes) : BitVec 256 := BitVec.ofNat 256 (leNat (sm3Bytes m))

/-! ## SM4 -/

/-- The substitution box of SM4. -/
def sm4Sbox : List Byte :=
  [0xD6, 0x90, 0xE9, 0xFE, 0xCC, 0xE1, 0x3D, 0xB7, 0x16, 0xB6, 0x14, 0xC2, 0x28, 0xFB, 0x2C, 0x05,
   0x2B, 0x67, 0x9A, 0x76, 0x2A, 0xBE, 0x04, 0xC3, 0xAA, 0x44, 0x13, 0x26, 0x49, 0x86, 0x06, 0x99] ++
  [0x9C, 0x42, 0x50, 0xF4, 0x91, 0xEF, 0x98, 0x7A, 0x33, 0x54, 0x0B, 0x43, 0xED, 0xCF, 0xAC, 0x62,
   0xE4, 0xB3, 0x1C, 0xA9, 0xC9, 0x08, 0xE8, 0x95, 0x80, 0xDF, 0x94, 0xFA, 0x75, 0x8F, 0x3F, 0xA6] ++
  [0x47, 0x07, 0xA7, 0xFC, 0xF3, 0x73, 0x17, 0xBA, 0x83, 0x59, 0x3C, 0x19, 0xE6, 0x85, 0x4F, 0xA8,
   0x68, 0x6B, 0x81, 0xB2, 0x71, 0x64, 0xDA, 0x8B, 0xF8, 0xEB, 0x0F, 0x4B, 0x70, 0x56, 0x9D, 0x35] ++
  [0x1E, 0x24, 0x0E, 0x5E, 0x63, 0x58, 0xD1, 0xA2, 0x25, 0x22, 0x7C, 0x3B, 0x01, 0x21, 0x78, 0x87,
   0xD4, 0x00, 0x46, 0x57, 0x9F, 0xD3, 0x27, 0x52, 0x4C, 0x36, 0x02, 0xE7, 0xA0, 0xC4, 0xC8, 0x9E] ++
  [0xEA, 0xBF, 0x8A, 0xD2, 0x40, 0xC7, 0x38, 0xB5, 0xA3, 0xF7, 0xF2, 0xCE, 0xF9, 0x61, 0x15, 0xA1,
   0xE0, 0xAE, 0x5D, 0xA4, 0x9B, 0x34, 0x1A, 0x55, 0xAD, 0x93, 0x32, 0x30, 0xF5, 0x8C, 0xB1, 0xE3] ++
  [0x1D, 0xF6, 0xE2, 0x2E, 0x82, 0x66, 0xCA, 0x60, 0xC0, 0x29, 0x23, 0xAB, 0x0D, 0x53, 0x4E, 0x6F,
   0xD5, 0xDB, 0x37, 0x45, 0xDE, 0xFD, 0x8E, 0x2F, 0x03, 0xFF, 0x6A, 0x72, 0x6D, 0x6C, 0x5B, 0x51] ++
  [0x8D, 0x1B, 0xAF, 0x92, 0xBB, 0xDD, 0xBC, 0x7F, 0x11, 0xD9, 0x5C, 0x41, 0x1F, 0x10, 0x5A, 0xD8,
   0x0A, 0xC1, 0x31, 0x88, 0xA5, 0xCD, 0x7B, 0xBD, 0x2D, 0x74, 0xD0, 0x12, 0xB8, 0xE5, 0xB4, 0xB0] ++
  [0x89, 0x69, 0x97, 0x4A, 0x0C, 0x96, 0x77, 0x7E, 0x65, 0xB9, 0xF1, 0x09, 0xC5, 0x6E, 0xC6, 0x84,
   0x18, 0xF0, 0x7D, 0xEC, 0x3A, 0xDC, 0x4D, 0x20, 0x79, 0xEE, 0x5F, 0x3E, 0xD7, 0xCB, 0x39, 0x48]

/-- The substitution of a word, byte by byte. -/
def sm4Sub (x : BitVec 32) : BitVec 32 :=
  BitVec.ofNat 32 (leNat ((leBytes 4 x.toNat).map fun b => (sm4Sbox[b.toNat]?).getD 0))

/-- The round keys of a key of 16 bytes. -/
def sm4Keys (key : Bytes) : List (BitVec 32) :=
  let fk : List (BitVec 32) := [0xA3B1BAC6, 0x56AA3350, 0x677D9197, 0xB27022DC]
  let k0 := List.zipWith (· ^^^ ·) ((chunks 4 4 (padTo 16 key)).map fun c => BitVec.ofNat 32 (beNat c)) fk
  let step := fun (st : List (BitVec 32) × List (BitVec 32)) (i : Nat) =>
    let ck := BitVec.ofNat 32 (beNat ((List.range 4).map fun j => BitVec.ofNat 8 ((4 * i + j) * 7)))
    match st.1 with
    | [a, b, c, d] =>
      let t := sm4Sub (b ^^^ c ^^^ d ^^^ ck)
      let k := a ^^^ t ^^^ t.rotateLeft 13 ^^^ t.rotateLeft 23
      ([b, c, d, k], st.2 ++ [k])
    | _ => st
  ((List.range 32).foldl step (k0, [])).2

/-- SM4 of one block of 16 bytes under round keys. -/
def sm4Rounds (ks : List (BitVec 32)) (blk : Bytes) : Bytes :=
  let x0 := (chunks 4 4 (padTo 16 blk)).map fun c => BitVec.ofNat 32 (beNat c)
  let x := ks.foldl (fun x k =>
    match x with
    | [a, b, c, d] =>
      let t := sm4Sub (b ^^^ c ^^^ d ^^^ k)
      [b, c, d, a ^^^ t ^^^ t.rotateLeft 2 ^^^ t.rotateLeft 10 ^^^ t.rotateLeft 18 ^^^ t.rotateLeft 24]
    | _ => x) x0
  x.reverse.flatMap fun w => beBytes 4 w.toNat

/-- SM4 encryption of one block. -/
def sm4Enc (key blk : Bytes) : Bytes := sm4Rounds (sm4Keys key) blk

/-- SM4 decryption of one block. -/
def sm4Dec (key blk : Bytes) : Bytes := sm4Rounds (sm4Keys key).reverse blk

/-- Byte strings combined bit by bit. -/
def xorBytes (a b : Bytes) : Bytes := List.zipWith (· ^^^ ·) a b

/-- SM4 in counter mode from a counter block, its last 32 bits counting. -/
def sm4Ctr (key : Bytes) (ctr : Nat) (m : Bytes) : Bytes :=
  let ks := sm4Keys key
  let hi := ctr / 2 ^ 32
  ((chunks 16 (m.length / 16 + 1) m).zipIdx.map fun (c, i) =>
    xorBytes c (sm4Rounds ks (beBytes 16 (hi * 2 ^ 32 + (ctr + i) % 2 ^ 32)))).flatten

/-! ## SM4-GCM -/

/-- The product in GF(2^128) of GCM, over the bits of the first factor from its most significant bit. -/
def gfMul (x y : BitVec 128) : BitVec 128 :=
  ((List.range 128).foldl (fun (zv : BitVec 128 × BitVec 128) i =>
    (if x.getMsbD i then zv.1 ^^^ zv.2 else zv.1,
     if zv.2.getLsbD 0 then (zv.2 >>> 1) ^^^ 0xE1000000000000000000000000000000 else zv.2 >>> 1)) (0, y)).1

/-- GHASH of additional data and ciphertext. -/
def ghash (h : BitVec 128) (aad c : Bytes) : BitVec 128 :=
  let blocks := fun (m : Bytes) => (chunks 16 (m.length / 16 + 1) m).map fun b => BitVec.ofNat 128 (beNat (padTo 16 b))
  let lens := BitVec.ofNat 128 (8 * aad.length * 2 ^ 64 + 8 * c.length)
  (blocks aad ++ blocks c ++ [lens]).foldl (fun y b => gfMul (y ^^^ b) h) 0

/-- The tag of SM4-GCM over additional data and ciphertext: the counter block is the IV followed by 1 where the IV has 12 bytes,
otherwise its GHASH. -/
def gcmTag (key iv aad c : Bytes) : Bytes :=
  let h := BitVec.ofNat 128 (beNat (sm4Enc key (List.replicate 16 0)))
  let j0 := if iv.length = 12 then iv ++ [0, 0, 0, 1] else beBytes 16 (ghash h [] iv).toNat
  xorBytes (beBytes 16 (ghash h aad c).toNat) (sm4Enc key j0)

/-- Encryption, and decryption, of SM4-GCM. -/
def gcmCrypt (key iv m : Bytes) : Bytes := sm4Ctr key (beNat (padTo 12 iv) * 2 ^ 32 + 2) m

/-! ## SM4-XTS (R441, R442) -/

/-- A tweak multiplied by alpha, least significant byte first. -/
def xtsAlpha (t : Bytes) : Bytes :=
  let v := leNat t
  leBytes 16 (if v ≥ 2 ^ 127 then (2 * v % 2 ^ 128) ^^^ 0x87 else 2 * v)

/-- The blocks of a page under a tweak. -/
def xtsBlocks (f : Bytes → Bytes) : Nat → Bytes → Bytes → Bytes
  | 0, _, _ => []
  | n + 1, t, m =>
    if m.isEmpty then [] else xorBytes (f (xorBytes (padTo 16 m) t)) t ++ xtsBlocks f n (xtsAlpha t) (m.drop 16)

/-- SM4-XTS encryption of a page under a key pair of 32 bytes, with a tweak number. -/
def xtsEnc (keys : Bytes) (tweak : Nat) (m : Bytes) : Bytes :=
  let ks := sm4Keys (keys.take 16)
  xtsBlocks (sm4Rounds ks) (m.length / 16 + 1) (sm4Enc (keys.drop 16) (leBytes 16 tweak)) m

/-- SM4-XTS decryption of a page. -/
def xtsDec (keys : Bytes) (tweak : Nat) (m : Bytes) : Bytes :=
  let ks := (sm4Keys (keys.take 16)).reverse
  xtsBlocks (sm4Rounds ks) (m.length / 16 + 1) (sm4Enc (keys.drop 16) (leBytes 16 tweak)) m

/-- One 64-byte granule of a page under a tweak number, encrypted or decrypted: blocks `4 g` to `4 g + 3` of the page (R441). -/
def xtsGranule (enc : Bool) (keys : Bytes) (tweak g : Nat) (m : Bytes) : Bytes :=
  let ks := sm4Keys (keys.take 16)
  xtsBlocks (sm4Rounds (if enc then ks else ks.reverse)) 4 (iter xtsAlpha (4 * g) (sm4Enc (keys.drop 16) (leBytes 16 tweak))) m

/-- ASCII text as bytes. -/
def ascii (t : String) : Bytes := t.toList.map fun c => BitVec.ofNat 8 c.toNat

end Sys2Proof.Machine
end

