-- ==== Sys2Proof/Machine/Formats.lean ====
section
/-! DEFINITION. Number formats, whole sums, conversions and the functions of the vector engine, over exact dyadic
values n x 2^k (05_formats_and_whole_sums.md, 06_vector_engine.md, 07_training_numerics.md). -/

namespace Sys2Proof.Machine

/-! ## Dyadic values -/

/-- An exact value n x 2^k. -/
structure Dy where
  n : Int
  k : Int
  deriving DecidableEq, Repr

/-- The value scaled by 2^j. -/
def Dy.scale (a : Dy) (j : Int) : Dy := { a with k := a.k + j }

/-- The numerators of two values over the smaller exponent. -/
def dyAlign (a b : Dy) : Int × Int × Int :=
  if a.k ≤ b.k then (a.n, b.n * 2 ^ (b.k - a.k).toNat, a.k) else (a.n * 2 ^ (a.k - b.k).toNat, b.n, b.k)

/-- The exact sum. -/
def Dy.add (a b : Dy) : Dy := let (x, y, k) := dyAlign a b; { n := x + y, k := k }

/-- The exact product. -/
def Dy.mul (a b : Dy) : Dy := { n := a.n * b.n, k := a.k + b.k }

/-- The negated value. -/
def Dy.neg (a : Dy) : Dy := { a with n := -a.n }

/-- Whether a value is below another. -/
def Dy.lt (a b : Dy) : Bool := let (x, y, _) := dyAlign a b; x < y

/-- Whether two values are equal. -/
def Dy.eq (a b : Dy) : Bool := let (x, y, _) := dyAlign a b; x == y

/-- The largest integer not above a value. -/
def Dy.floor (a : Dy) : Int := if 0 ≤ a.k then a.n * 2 ^ a.k.toNat else a.n.fdiv (2 ^ (-a.k).toNat)

/-! ## Elements (R155, R156, R157) -/

/-- Fraction bits, exponent bits and bias of a floating format by its code (R155, R163). -/
def fmtPar (fmt : Nat) : Nat × Nat × Nat :=
  if fmt = 1 then (1, 2, 1) else if fmt = 2 then (3, 4, 7) else if fmt = 3 then (2, 5, 15) else (9, 6, 31)

/-- A byte as a signed integer. -/
def signed8 (c : Nat) : Int := if c % 256 < 128 then (c % 256 : Int) else (c % 256 : Int) - 256

/-- The unscaled value of an element (R156). -/
def elemVal (fmt c : Nat) : Dy :=
  if fmt = 4 then { n := signed8 c, k := 0 }
  else
    let (fb, eb, bias) := fmtPar fmt
    let f := c % 2 ^ fb
    let e := c / 2 ^ fb % 2 ^ eb
    let m : Int := if e = 0 then f else 2 ^ fb + f
    { n := if c.testBit (fb + eb) then -m else m, k := (max e 1 : Int) - bias - fb }

/-- Whether a format carries block scales (R155). -/
def scaled (fmt : Nat) : Bool := 1 ≤ fmt && fmt ≤ 4

/-- The value of an element under a block scale code (R156). -/
def scaledVal (fmt c scale : Nat) : Dy := if scaled fmt then (elemVal fmt c).scale ((scale : Int) - 127) else elemVal fmt c

/-- The value of an H16 code. -/
def h16 (c : BitVec 16) : Dy := elemVal 5 c.toNat

/-! ## Conversion and rounding (R174, R175) -/

/-- Bits needed for a number. -/
def bitLen (a : Nat) : Nat := if a = 0 then 0 else Nat.log2 a + 1

/-- Rounds `a / 2^sh` to nearest, ties to even. -/
def roundHalfEven (a : Nat) (sh : Int) : Nat :=
  if sh ≤ 0 then a * 2 ^ (-sh).toNat
  else
    let d := 2 ^ sh.toNat
    let q := a / d
    let r := a % d
    let half := d / 2
    if half < r || (r == half && q % 2 == 1) then q + 1 else q

/-- Conversion into A4, A8, B8 or H16 (R174). -/
def convert (v : Dy) (fmt : Nat) : Nat :=
  let (fb, eb, bias) := fmtPar fmt
  let code := fun (s : Bool) (e m : Nat) => b2n s * 2 ^ (fb + eb) + e * 2 ^ fb + m
  let top : Int := 2 ^ eb - 1 - (bias : Int)
  if v.n = 0 then 0
  else
    let s := v.n < 0
    let a := v.n.natAbs
    let e := max ((bitLen a : Int) - 1 + v.k) (1 - (bias : Int))
    let m := roundHalfEven a (e - fb - v.k)
    let (m, e) := if m = 2 ^ (fb + 1) then (2 ^ fb, e + 1) else (m, e)
    if top < e then code s (2 ^ eb - 1) (2 ^ fb - 1)
    else if m = 0 then 0
    else if m < 2 ^ fb then code s 0 m
    else code s (e + bias).toNat (m - 2 ^ fb)

/-- Conversion into I8 (R175). -/
def convertI8 (v : Dy) : Nat :=
  let q : Int := roundHalfEven v.n.natAbs (-v.k)
  let q := if v.n < 0 then -q else q
  ((max (-128) (min 127 q)) % 256).toNat

/-- Conversion into a stored format at a scale code; H16 takes 127 (R156, R174-R176). -/
def convertAt (v : Dy) (fmt scale : Nat) : Nat :=
  let v := if scaled fmt then v.scale (127 - (scale : Int)) else v
  if fmt = 4 then convertI8 v else convert v fmt

/-- A value rounded into H16. -/
def toH16 (v : Dy) : BitVec 16 := BitVec.ofNat 16 (convert v 5)

/-- A canonical H16 code: no negative zero (R184). -/
def canon (c : BitVec 16) : BitVec 16 := if c = 0x8000 then 0 else c

/-! ## Whole sums (R165-R173) -/

/-- The term of a product at an anchor, and whether it was limited (R167, R168). -/
def term (p : Dy) (anchor : Nat) : Int × Bool :=
  let t := (p.scale (180 - (anchor : Int))).floor
  if t.natAbs < 2 ^ 87 then (t, false) else (if t < 0 then -(2 ^ 87 - 1) else 2 ^ 87 - 1, true)

/-- The signed value of a whole sum's integer. -/
def Sum.value (s : Sum) (anchor : Nat) : Dy := { n := s.s.toInt, k := (anchor : Int) - 180 }

/-- A whole-sum word as 16 bytes (R172). -/
def sumWord (s : Sum) (anchor : Nat) : Bytes := leBytes 14 s.s.toNat ++ [BitVec.ofNat 8 anchor, s.flags]

/-- A whole-sum word read from bytes: the sum and its anchor (R172). -/
def readSumWord (bs : Bytes) : Sum × Nat :=
  ({ s := BitVec.ofNat 112 (leNat (bs.take 14)), flags := (bs[15]?).getD 0 }, ((bs[14]?).getD 0).toNat)

/-! ## Exact functions, rounded once (R198-R200) -/

/-- The square root rounded down, over `n` binary digits of the result. -/
def isqrtGo : Nat → Nat → Nat → Nat
  | 0, _, r => r
  | n + 1, x, r => let c := r + 2 ^ n; isqrtGo n x (if c * c ≤ x then c else r)

/-- The square root of a number below 2^(2 n), rounded down. -/
def isqrt (n x : Nat) : Nat := isqrtGo n x 0

/-- A quotient of two values with a sticky last bit, rounded into H16; the divisor is not 0. -/
def divH16 (a b : Dy) : BitVec 16 :=
  let sh := 80 + bitLen b.n.natAbs
  let num := a.n.natAbs * 2 ^ sh
  let q := num / b.n.natAbs
  let n : Int := 2 * q + b2n (num % b.n.natAbs != 0)
  toH16 { n := if (a.n < 0) != (b.n < 0) then -n else n, k := a.k - b.k - sh - 1 }

/-- DIV with the cases of R200. -/
def div16 (a b : BitVec 16) : BitVec 16 :=
  let x := h16 a
  let y := h16 b
  if y.n = 0 then (if x.n = 0 then 0 else if x.n < 0 then 0xFFFF else 0x7FFF) else divH16 x y

/-- RCP with the case of R200. -/
def rcp16 (a : BitVec 16) : BitVec 16 := if (h16 a).n = 0 then 0x7FFF else divH16 { n := 1, k := 0 } (h16 a)

/-- RSQRT with the cases of R200. -/
def rsqrt16 (a : BitVec 16) : BitVec 16 :=
  let x := h16 a
  if x.n ≤ 0 then 0x7FFF
  else
    let (m, e) := if x.k % 2 = 0 then (x.n.toNat, x.k) else (2 * x.n.toNat, x.k - 1)
    let r := isqrt 81 (2 ^ 160 / m)
    toH16 { n := 2 * (r : Int) + b2n (r * r * m != 2 ^ 160), k := -81 - e / 2 }

/-- 2^(2^-i) in units of 2^-128, for i from 1 on: each the root of the one before. -/
def exp2Go : Nat → Nat → Nat → Nat → Nat
  | 0, _, _, acc => acc
  | n + 1, frac, root, acc =>
    let root := isqrt 130 (root * 2 ^ 128)
    exp2Go n (2 * frac % 2 ^ 40) root (if 2 ^ 39 ≤ frac then acc * root / 2 ^ 128 else acc)

/-- EXP2 (R199): an integer power exactly; otherwise the value to 128 places with a sticky bit. -/
def exp2H16 (a : BitVec 16) : BitVec 16 :=
  let x := h16 a
  let fl := x.floor
  let fr := ((x.scale 40).floor - fl * 2 ^ 40).toNat
  if (33 : Int) ≤ fl then 0x7FFF
  else if fl < -40 || (fl = -40 && fr = 0) then 0
  else if fr = 0 then toH16 { n := 1, k := fl }
  else toH16 { n := 2 * (exp2Go 40 fr (2 ^ 129) (2 ^ 128) : Int) + 1, k := fl - 129 }

/-- Binary places of a logarithm, by repeated squaring of a number from 1 to 2 in units of 2^-200. -/
def log2Go : Nat → Nat → Nat → Nat
  | 0, _, acc => acc
  | n + 1, x, acc =>
    let y := x * x / 2 ^ 200
    if 2 ^ 201 ≤ y then log2Go n (y / 2) (2 * acc + 1) else log2Go n y (2 * acc)

/-- LOG2 with the cases of R200: exact for a power of two, otherwise 64 places with a sticky bit. -/
def log2H16 (a : BitVec 16) : BitVec 16 :=
  let x := h16 a
  if x.n ≤ 0 then 0xFFFF
  else
    let m := x.n.toNat
    let b := Nat.log2 m
    let e : Int := b + x.k
    if m = 2 ^ b then toH16 { n := e, k := 0 }
    else toH16 { n := e * 2 ^ 65 + 2 * (log2Go 64 (m * 2 ^ (200 - b)) 0 : Int) + 1, k := -65 }

/-! ## H16 plane pairs (R141) -/

/-- The largest exponent of a group of H16 elements. -/
def planeEb (g : List (BitVec 16)) : Nat := g.foldl (fun m c => max m (max (c.toNat / 512 % 64) 1)) 1

/-- The hi and lo bytes of an element whose group has the largest exponent `eb`. -/
def planeSplit (eb : Nat) (c : BitVec 16) : Nat × Nat :=
  let x := h16 c
  let q := (x.scale (44 - (eb : Int))).floor
  let hi := q.fdiv 128
  ((hi % 256).toNat, (q - 128 * hi).toNat)

/-! ## UPDATE and M16 (R160, R222) -/

/-- The value of an M16 element under its head's scale code (R160). -/
def m16Val (head tail scale : Nat) : Dy :=
  let h := elemVal 2 head
  let n := h.n.natAbs * 256 + tail
  { n := if head.testBit 7 then -(n : Int) else n, k := h.k - 8 + ((scale : Int) - 127) }

/-- Head and tail of an exact value over the scale, rounded with the random number `u` (R222). -/
def updateRound (v : Dy) (u : Nat) : Nat × Nat :=
  if v.n = 0 then (0, 0)
  else
    let s := b2n (v.n < 0) * 128
    let a := v.n.natAbs
    let e := max ((bitLen a : Int) - 1 + v.k) (-6)
    let sh := e - 11 - v.k
    let m :=
      if sh ≤ 0 then a * 2 ^ (-sh).toNat
      else
        let d := 2 ^ sh.toNat
        if u < a % d * 2 ^ 16 / d then a / d + 1 else a / d
    let (m, e) := if m = 4096 then (2048, e + 1) else (m, e)
    if 8 < e then (s + 127, 255)
    else if m = 0 then (0, 0)
    else if m < 2048 then (s + m / 256, m % 256)
    else (s + (e + 7).toNat * 8 + (m / 256 - 8), m % 256)

/-! ## Delayed scaling (R233) -/

/-- The largest magnitude of a destination format (R233). -/
def fmtMax (fmt : Nat) : Dy :=
  if fmt = 1 then { n := 6, k := 0 } else if fmt = 2 then { n := 480, k := 0 }
  else if fmt = 3 then { n := 114688, k := 0 } else { n := 127, k := 0 }

/-- The smallest j from `lo` upward with L x 2^j at or above a value. -/
def scaleGo (l a : Dy) : Nat → Int → Int
  | 0, j => j
  | n + 1, j => if (l.scale j).lt a then scaleGo l a n (j + 1) else j

/-- The output scale code of a largest entry `a` with a margin (R233). -/
def scaleCode (fmt : Nat) (a : BitVec 16) (margin : Nat) : Nat :=
  if (h16 a).n = 0 then 127
  else
    let j := scaleGo (fmtMax fmt) ((h16 a).scale margin) 256 (-127)
    (max 0 (min 255 (127 + j))).toNat

/-- The magnitude of an H16 code. -/
def mag16 (c : BitVec 16) : BitVec 16 := c &&& 0x7FFF

/-- The order of H16 values. -/
def ord16 (c : BitVec 16) : Int := if c.getLsbD 15 then -((mag16 c).toNat : Int) else (mag16 c).toNat

/-- The larger of two H16 entries (R229, R231). -/
def max16 (a b : BitVec 16) : BitVec 16 := if ord16 a < ord16 b then b else a

/-! ## The Reel generator (R236-R238) -/

/-- The four key words of a seed (R236). -/
def reelKey (seed : BitVec 64) : List (BitVec 32) :=
  let k0 := seed.setWidth 32
  let k1 := (seed >>> 32).setWidth 32
  [k0, k1, k0 ^^^ 0x4F1BBCDC, k1 ^^^ 0x2C9A7E35]

/-- One round of the generator. -/
def reelRound (k : List (BitVec 32)) (x : List (BitVec 32)) (r : Nat) : List (BitVec 32) :=
  match x with
  | [x0, x1, x2, x3] =>
    let x0 := x0 + x1
    let x3 := (x3 ^^^ x0).rotateLeft 16
    let x2 := x2 + x3
    let x1 := (x1 ^^^ x2).rotateLeft 8
    let x0 := x0 + (k[r % 4]?).getD 0 + BitVec.ofNat 32 r
    [x1, x2, x3, x0]
  | _ => x

/-- The four output words of the generator (R238). -/
def reel (seed : BitVec 64) (c : List (BitVec 32)) : List (BitVec 32) :=
  let k := reelKey seed
  List.zipWith (· ^^^ ·) ((List.range 10).foldl (reelRound k) (List.zipWith (· ^^^ ·) c k)) k

/-- The output word y0 for a step, a tensor identifier and an element index (R237). -/
def reelY0 (seed : BitVec 64) (step tensor : BitVec 32) (x : BitVec 64) : BitVec 32 :=
  ((reel seed [step, tensor, x.setWidth 32, (x >>> 32).setWidth 32])[0]?).getD 0

end Sys2Proof.Machine
end

