-- ==== Sys2Proof/Machine/Flags.lean ====
section
/-! DEFINITION. Flag computations: the flags of a whole sum and of its merges (R170, R173), the status bits of the
vector engine (R216), the landing status of a channel record (R354), and comparison conditions (R201). -/

namespace Sys2Proof.Machine

/-- ANCHOR, CLAMP and EMPTY of R170. -/
def flagAnchor : BitVec 8 := 1
def flagClamp : BitVec 8 := 2
def flagEmpty : BitVec 8 := 4

/-- The flags of a merge: ANCHOR and CLAMP by OR, ANCHOR also when the anchors differ, EMPTY by AND (R170). -/
def mergeFlags (a b : BitVec 8) (differ : Bool) : BitVec 8 :=
  ((a ||| b) &&& (flagAnchor ||| flagClamp)) ||| (a &&& b &&& flagEmpty) ||| (if differ then flagAnchor else 0)

/-- The merge of two whole-sum words with their anchors (R173). -/
def mergeSums (a : Sum) (x : Nat) (b : Sum) (y : Nat) : Sum × Nat :=
  let flags := mergeFlags a.flags b.flags (x != y)
  if x = y then ({ s := a.s + b.s, flags }, x)
  else if x < y then ({ s := a.s.sshiftRight (y - x) + b.s, flags }, y)
  else ({ s := a.s + b.s.sshiftRight (x - y), flags }, x)

/-- A contribution into a register: the terms' sum, whether one was limited, whether it came at another
anchor (R135, R168-R170). -/
def Sum.addTerms (s : Sum) (clear : Bool) (t : Int) (clamped other : Bool) : Sum :=
  let base : Sum := if clear then {} else s
  { s := base.s + BitVec.ofInt 112 t
    flags := base.flags ||| (if clamped then flagClamp else 0) ||| (if other then flagAnchor else 0) }

/-- Bits of VX_STATUS [11:7] by name (R216), numbered within the field. -/
def vxLost : BitVec 5 := 16
def vxClamp : BitVec 5 := 8
def vxAnchor : BitVec 5 := 4
def vxIdxSat : BitVec 5 := 2
def vxInvalid : BitVec 5 := 1

/-- Sets status bits of a cluster's vector engine. -/
def State.vxFlag (s : State) (n : Nat) (f : BitVec 5) : State :=
  s.modCl n fun c => { c with vx := { c.vx with sticky := c.vx.sticky ||| f } }

/-- The status bits that whole-sum flags raise: CLAMP and ANCHOR (R187, R216). -/
def vxOfFlags (f : BitVec 8) : BitVec 5 :=
  (if f.getLsbD 1 then vxClamp else 0) ||| (if f.getLsbD 0 then vxAnchor else 0)

/-- Whether a vector is in the pipeline (R216): a figure with a floor source has one from F on, a VX figure from a delivery, in stage 0, to its
landing (log 84). -/
def Vx.busy (v : Vx) : Bool := v.figs.any fun f => f.job.xmode != 1 || !f.vxin.isEmpty

/-- VX_STATUS (R216). -/
def Vx.status (v : Vx) : Nat :=
  2 ^ 26 * v.figure.toNat + 2 ^ 25 * b2n v.busy + 2 ^ 24 * b2n v.merge + 2 ^ 20 * v.q.length + 2 ^ 12 * v.vnext.toNat
    + 2 ^ 7 * v.sticky.toNat

/-- The alive check of R362: bit 0 repeat, bit 1 skip, of a received value against the last accepted one. -/
def aliveCheck (last got : Byte) : Bool × Bool := (got == last, got != last && got != last + 1)

/-- The landing status of a record (R354): bit 0 CRC_BAD, bit 1 REPEAT, bit 2 SKIP, bits [15:8] the value expected. -/
def landingStatus (crcBad isMsg : Bool) (last got : Byte) : Nat :=
  let (rep, skip) := aliveCheck last got
  b2n crcBad + 2 * b2n (isMsg && rep) + 4 * b2n (isMsg && skip) + 256 * (last + 1).toNat

/-- A condition code of R201 on two values. -/
def condHolds (sub : Nat) (a b : Dy) : Bool :=
  if sub = 0 then a.eq b else if sub = 1 then !a.eq b else if sub = 2 then a.lt b
  else if sub = 3 then !b.lt a else if sub = 4 then b.lt a else !a.lt b

end Sys2Proof.Machine
end

