-- ==== Sys2Proof/Machine/Operands.lean ====
section
/-! DEFINITION. Operand forms: fields of command words, address expressions (R104, R105), the spaces of R367, the codes
of R368, the protection of resident sets and key domains, and the choice of the first reason of R117. -/

namespace Sys2Proof.Machine

/-! ## Fields -/

/-- Bits of operand word 0, word 1, word 2, word 3 of a command (R366). -/
def f0 (c : Cw) (hi lo : Nat) : Nat := bits c.w0.toNat hi lo
def f1 (c : Cw) (hi lo : Nat) : Nat := bits c.w1.toNat hi lo
def f2 (c : Cw) (hi lo : Nat) : Nat := bits c.w2.toNat hi lo
def f3 (c : Cw) (hi lo : Nat) : Nat := bits c.w3.toNat hi lo

/-- A field as a signed number of `w` bits. -/
def sext (w v : Nat) : Int := if v < 2 ^ (w - 1) then (v : Int) else (v : Int) - 2 ^ w

/-! ## Reasons -/

/-- The first reason that applies, in the order of R117. -/
def firstReason (l : List (Nat × Bool)) : Option Nat :=
  l.foldl (fun m e => if e.2 then (match m with | some r => some (min r e.1) | none => some e.1) else m) none

/-- Codes of R117. -/
def rOpcode : Nat := 1
def rLength : Nat := 2
def rField : Nat := 3
def rTail : Nat := 4
def rCluster : Nat := 5
def rLink : Nat := 6
def rRange : Nat := 7
def rProt : Nat := 8
def rFenced : Nat := 9
def rDisabled : Nat := 10
def rQueue : Nat := 11

/-! ## Address expressions (R105) -/

/-- The value of an address expression. -/
def exprVal (k : Caller) (idx : List Nat) (g e : Nat) : Int :=
  let a := bits e 31 27
  let ix := bits e 26 24
  let r : Nat := if h : a < 32 then k.regs[a].toNat else 0
  let i : Nat := if ix = 0 then 0 else (idx[ix - 1]?).getD 0
  (r : Int) + (sext 12 (bits e 23 12) * (i : Int) + sext 12 (bits e 11 0)) * (g : Int)

/-- Whether an expression holds a reserved index code (IX 5-7). -/
def exprBad (e : Nat) : Bool := 5 ≤ bits e 26 24

/-- A register of a caller. -/
def Caller.reg (k : Caller) (r : Nat) : BitVec 48 := if h : r < 32 then k.regs[r] else 0

/-! ## Spaces (R367) -/

/-- A local floor range from a value: a multiple of 64 that ends within the floor. -/
def okF (v : Int) (len : Nat) : Bool := 0 ≤ v && v % 64 == 0 && v + (len : Int) ≤ 2 ^ 24 && v < 2 ^ 24

/-- A floor range that may start off a 64-byte boundary. -/
def okBytes (v : Int) (len : Nat) : Bool := 0 ≤ v && v + (len : Int) ≤ 2 ^ 24

/-- A tile image. -/
def okT (v : Int) : Bool := 0 ≤ v && v % 65536 == 0 && v < 2 ^ 24

/-- A bank address. -/
def okB (v : Int) : Bool := 0 ≤ v && v % 64 == 0 && v < 2 ^ 41

/-- An index or count. -/
def okI (v : Int) : Bool := 0 ≤ v && v < 2 ^ 32

/-- A register value. -/
def okA (v : Int) : Bool := 0 ≤ v && v < 2 ^ 48

/-- A cluster-qualified floor range: the cluster, and the address within its floor. -/
def okQ (v : Int) (len : Nat) : Bool := 0 ≤ v && v % 64 == 0 && v < 2 ^ 30 && v % 2 ^ 24 + (len : Int) ≤ 2 ^ 24

/-- The cluster of a cluster-qualified address: the issuing one below 2^24. -/
def qLc (n : Nat) (v : Int) : Nat := if v < 2 ^ 24 then n else (v / 2 ^ 24).toNat

/-- The floor address of a cluster-qualified address. -/
def qAddr (v : Int) : Nat := (v % 2 ^ 24).toNat

/-- The reasons of a cluster-qualified operand: CLUSTER_ABSENT and RANGE. -/
def qReasons (s : State) (n : Nat) (v : Int) (len : Nat) : List (Nat × Bool) :=
  let absent := 0 ≤ v && v < 2 ^ 30 && s.rt.hdr.lc ≤ qLc n v
  [(rCluster, absent), (rRange, !absent && !okQ v len)]

/-! ## Clusters named by a command -/

/-- FENCED and DISABLED of a cluster (R117, R589, R590). -/
def State.stateReasons (s : State) (n : Nat) : List (Nat × Bool) :=
  match tGet s.actual n with
  | some 5 => [(rFenced, true)]
  | some 6 => [(rFenced, true)]
  | some 2 => [(rDisabled, true)]
  | some 3 => [(rDisabled, true)]
  | some 4 => [(rDisabled, true)]
  | _ => []

/-- The reasons of a cluster named by an operand. -/
def lcReasons (s : State) (n : Nat) : List (Nat × Bool) := (rCluster, s.rt.hdr.lc ≤ n) :: s.stateReasons n

/-- TAIL_MISPLACED (R117). -/
def tailReason (s : State) (x : Ctx) : Nat × Bool :=
  (rTail, x.tail && (s.rt.hdr.overlap ≤ x.beat || x.bar == s.rt.firstBar))

/-- A latency-table entry that R77 requires is missing. -/
def latReason (s : State) (a b : Nat) : Nat × Bool := (rRange, (s.latEntry a b).isNone)

/-! ## Key domains and resident sets -/

/-- The state of a key domain (R550, R561): 0 UNASSIGNED, 1 ACTIVE, 2 SUSPENDED. -/
def State.domainState (s : State) (kd : Nat) : Nat :=
  let v := s.base (0x6100 + kd) 1 0
  if s.sec.locked && v = 1 then 2 else v

/-- Whether the routine may touch a key domain (R551). -/
def State.mayTouch (s : State) (kd : Nat) : Bool := kd < 64 && s.rt.domains.getLsbD kd && s.domainState kd == 1

/-- Whether the input and service unit acts for a key domain: one that is ACTIVE, and that the routine may touch, the service domain KD0 no less than
another (R414, R493, R550, R551). -/
def State.serves (s : State) (kd : Nat) : Bool := s.mayTouch kd

/-- The key domain of a page of bank memory, if it has one (R437, R438). -/
def State.pageDomain (s : State) (addr : Nat) : Option Nat :=
  let x := addr / 2 ^ 26
  if 32640 ≤ x then none
  else
    let v := s.base (0x6400 + x / 128) (x % 128 + 1) 0xFF
    if v < 64 then some v else none

/-- Members of a resident set, in ascending order (R260). -/
def Resident.memberList (r : Resident) : List Nat := (List.range 48).filter fun n => r.members.getLsbD n

/-- Whether a range of a cluster's floor meets the floor that an entry names, whatever its state; an entry of LENGTH 0 names none. -/
def Resident.covers (r : Resident) (n a len : Nat) : Bool :=
  r.members.getLsbD n && n < 48 && r.length != 0 && a < r.base.toNat + r.length.toNat && r.base.toNat < a + len

/-- Whether a range of a cluster's floor meets a resident set that holds something. -/
def Resident.meets (r : Resident) (n a len : Nat) : Bool := r.state != .empty && r.covers n a len

/-- Whether a command's range breaks the protection of a resident set: one that is EMPTY and defined may be neither read nor written
(R262, R263). -/
def State.protects (s : State) (n a len : Nat) (write : Bool) : Bool :=
  s.residents.toList.any fun r =>
    r.covers n a len && ((write && !r.flags.getLsbD 0) || !s.mayTouch r.kd.toNat || !(r.state == .settled || r.state == .dirty))

/-- The reason of a range under the protection of resident sets. -/
def protReason (s : State) (n : Nat) (v : Int) (len : Nat) (write : Bool) : Nat × Bool :=
  (rProt, okBytes v len && 0 < len && s.protects n v.toNat len write)

/-! ## Predicates (R107-R109) -/

/-- The predicate source of a caller. -/
def Caller.pred (k : Caller) (p : Nat) : Pred := if h : p < 16 then k.preds[p] else {}

/-- The replica of a module cue that a caller reads (R309). -/
def State.mcueOf (s : State) (w num : Nat) : Cue := (tGet (s.domN (s.domOf w)).mcues num).getD {}

/-- The replica of a round that a caller reads (R309). -/
def State.roundOf (s : State) (w q : Nat) : Round := (tGet (s.domN (s.domOf w)).rounds q).getD {}

/-- What a predicate source reads (R107, R108, R388): P0 true, an unbound source false. -/
def State.sample (s : State) (w p : Nat) : Bool :=
  if p = 0 then true
  else
    let q := (s.caller w).pred p
    match q.kind with
    | .unbound => false
    | .cue num => ((tGet (s.clus w).cues num).getD {}).set
    | .mcue num => (s.mcueOf w num).set
    | .tally num h => h ≤ ((tGet (s.clus w).tallies num).getD {}).count.toNat
    | .vdep => q.val
    | .fcount => q.val

/-- A deposit at a stamp into a predicate source that is bound to a kind: a binding made in this very cycle takes effect at its end
(R204, R256, R388). -/
def State.deposit (s : State) (w t p : Nat) (kind : PredKind) (v : Bool) : State :=
  s.modCaller w fun k =>
    if p = 0 then k
    else { k with preds := vmod k.preds p fun q => if q.kind = kind && q.since < t then { q with val := v } else q }

/-! ## Completion cues and scopes -/

/-- The reasons of a completion cue (R383): kind, number, scope, holding cluster. -/
def doneReasons (s : State) (kind num scope lc : Nat) : List (Nat × Bool) :=
  if kind = 0 then [(rField, num != 0 || scope != 0 || lc != 0)]
  else if kind = 1 then (rField, 256 ≤ num || scope = 0 || 6 ≤ scope) :: lcReasons s lc
  else if kind = 2 then [(rField, scope != 4 && scope != 5 || lc != 0)]
  else [(rField, true)]

/-- The completion cue that a command names. -/
def doneOf (kind num scope lc : Nat) : Option Done :=
  if kind = 1 then some { obj := .cue lc num, scope }
  else if kind = 2 then some { obj := .mcue num, scope } else none

/-- The cue of a module-level command: MCUE, CSCOPE, CEN. -/
def mdone (cen : Bool) (num scope : Nat) : Option Done := if cen then some { obj := .mcue num, scope } else none

/-- The reason of the completion fields of a module-level command. -/
def mdoneReason (cen : Bool) (num scope : Nat) : Nat × Bool :=
  (rField, if cen then scope != 4 && scope != 5 else num != 0 || scope != 0)

end Sys2Proof.Machine
end

