-- ==== Sys2Proof/Machine/BankStore.lean ====
section
/-! DEFINITION. Bank memory as it is stored: addresses and interleave, the burst times of a beat, the module check code, and the cipher of
the pages (14_bank_memory.md R432-R445). -/

namespace Sys2Proof.Machine

/-! ## Addresses and interleave (R436, R437) -/

/-- The page number of a bank address. -/
def pageOf (a : Nat) : Nat := bits a 40 12

/-- The subchannel of a page (R436). -/
def subchannelOf (p : Nat) : Nat := (bits p 7 0) ^^^ (bits p 15 8)

/-- The local page of a page on its subchannel (R436). -/
def localPage (p : Nat) : Nat := bits p 28 8

/-- The page at a local page of a subchannel (R436). -/
def pageAt (sc q : Nat) : Nat := q * 256 + (sc ^^^ (q % 256))

/-- The bursts of a granule (R432). -/
def burstsOf (a : Nat) : List Nat := [a / 64 * 2, a / 64 * 2 + 1]

/-- The subchannel of a burst. -/
def burstSc (b : Nat) : Nat := subchannelOf (pageOf (b * 32))

/-- The granules that a range touches. -/
def granuleCount (a n : Nat) : Nat := if n = 0 then 0 else (a + n - 1) / 64 - a / 64 + 1

/-- The address at which a byte of routine space stands in a die's copy, in address order over the die's subchannels (R437; log 79). -/
def routineAddr (d o : Nat) : Nat :=
  let k := o / 4096
  pageAt (128 * d + k % 128) (0x1FE000 + k / 128) * 4096 + o % 4096

/-- The detail of a bank error: subchannel, bank, row, burst, page (R641). -/
def bankDetail (burst : Nat) : Bytes :=
  let p := pageOf (burst * 32)
  let q := localPage p
  leBytes 1 (subchannelOf p) ++ leBytes 1 (bits q 3 0) ++ leBytes 4 (bits q 20 4) ++ leBytes 2 (burst % 128) ++ leBytes 4 p

/-! ## The burst times of a beat (R433, R435) -/

/-- The share of a unit at a location: 0 routine fetch, 1 host and management, 2 scrub, 3 the routine plan (R433). -/
def shareOf (loc : Nat) : Nat :=
  match bits loc 9 6 with
  | 0 => if bits loc 12 10 = 7 then 0 else 3
  | 8 => 1
  | 9 => 1
  | 0xA => 1
  | _ => 3

/-- Bursts that a share offers in a beat; an unused share lends its burst times to the plan (R433). -/
def shareBursts (share : Nat) : Nat := if share = 0 then 64 else if share = 1 then 24 else if share = 2 then 8 else 672

/-- Bursts of a subchannel that have been asked for in this beat for a share; 4 stands for the write-backs of the scrub. -/
def State.burstsAsked (s : State) (sc share : Nat) : Nat := (tGet s.bankUse (sc * 8 + share)).getD 0

/-- Whether a share is kept to its bursts of a beat: the routine fetch, the host and management (R433; log 80). -/
def shareKept (share : Nat) : Bool := share ≤ 1

/-- Bursts that a share of a subchannel has served in this beat. -/
def State.burstsServed (s : State) (sc share : Nat) : Nat :=
  if shareKept share then min (s.burstsAsked sc share) (shareBursts share) else s.burstsAsked sc share

/-- Bursts that a subchannel has served in this beat. -/
def State.burstsServedAll (s : State) (sc : Nat) : Nat := ((List.range 5).map (s.burstsServed sc)).sum

/-- What a count of bursts leaves for the next beat: those beyond a share that is kept (R433). -/
def carried (e : Nat × Nat) : Option (Nat × Nat) :=
  if shareKept (e.1 % 8) && shareBursts (e.1 % 8) < e.2 then some (e.1, e.2 - shareBursts (e.1 % 8)) else none

/-- A burst is asked for. One beyond 768 that a subchannel serves in a beat is counted in BANK_OVERPLAN (R435); one beyond a share that is kept takes
a burst time of a later beat (R433; log 80). -/
def State.useBurst (s : State) (sc share : Nat) : State :=
  let before := s.burstsServedAll sc
  let s := { s with bankUse := tMod s.bankUse (sc * 8 + share) 0 (· + 1) }
  if before < s.burstsServedAll sc && 768 < s.burstsServedAll sc then s.count 0x9007 1 1 else s

/-- The bursts of a range, served for a unit at a location. -/
def State.useRange (s : State) (a n loc : Nat) : State :=
  (List.range (2 * granuleCount a n)).foldl (fun (s : State) i => s.useBurst (burstSc (a / 64 * 2 + i)) (shareOf loc)) s

/-! ## The module check code (R443-R445) -/

/-- Wrong symbols among the 36 of a burst. -/
def wrongCount (v : BitVec 36) : Nat := ((List.range 36).filter fun i => v.getLsbD i).length

/-- The symbols that a read of a burst finds wrong: those stored wrong, and those that a defect spoils in this read (R444; log 80). -/
def State.burstWrong (s : State) (b : Nat) : BitVec 36 × State :=
  match tGet s.bankErr b with
  | none => (0, s)
  | some e => if e.defect = 0 then (e.stored, s) else let (r, s) := s.draw 36; (e.stored ||| (e.defect &&& r), s)

/-- The bytes and the check bits of a burst as they were written (R432, R443). -/
def State.burstStored (s : State) (b : Nat) : Bytes × BitVec 32 :=
  let d := readMem s.bank (32 * b) 32
  (d, Config.checkCode d)

/-- One read of a burst: the bytes stored and whether an error was corrected; nothing where it detects an uncorrectable error. Four and more
wrong symbols are beyond the code (R443; log 80). -/
def State.burstRead (s : State) (b share : Nat) : Option (Bytes × Bool) × State :=
  let (w, s) := (s.useBurst (burstSc b) share).burstWrong b
  let d := (s.burstStored b).1
  let k := wrongCount w
  if k = 0 then (some (d, false), s)
  else if k = 1 then (some (d, true), s)
  else if k ≤ 3 then (none, s)
  else ((Config.burstBeyondCode s.free d w).map fun d => (d, true), { s with free := s.free + 1 })

/-! ## The cipher of the pages (R441) -/

/-- The key pair under which a page is stored: that of its key domain, or the routine key; none for a page of no domain. -/
def State.pageKeys (s : State) (a : Nat) : Option Bytes :=
  if 0x01FE00000000 ≤ a then s.sec.routineKey.map fun k => leBytes 32 k.toNat
  else match s.pageDomain a with
    | some kd => (tGet s.sec.xts kd).map fun k => leBytes 32 k.toNat
    | none => none

/-- A granule as it is stored, from its plaintext, or the reverse (R441). -/
def State.pageCrypt (s : State) (enc : Bool) (a : Nat) (m : Bytes) : Bytes :=
  match s.pageKeys a with
  | some k => xtsGranule enc k (pageOf a) (a % 4096 / 64) m
  | none => m

/-- The plaintext of a range of bank memory, whatever the check code finds. -/
def State.bankView (s : State) (a n : Nat) : Bytes :=
  ((((List.range (granuleCount a n)).flatMap fun i =>
    let g := (a / 64 + i) * 64
    s.pageCrypt false g (readMem s.bank g 64)).drop (a % 64)).take n)

/-! ## Granules (R440, R444, R445) -/

/-- The plaintext of a granule from its two bursts as read; a corrected read is counted (R444). -/
def State.granuleOf (s : State) (a : Nat) (p q : Bytes × Bool) : Bytes × State :=
  (s.pageCrypt false (a / 64 * 64) (p.1 ++ q.1), if p.2 || q.2 then s.count 0x9007 2 1 else s)

/-- One read of the bursts of a granule: the bursts that it does not decode, and the plaintext where it decodes both (R440, R445). -/
def State.granuleOnce (s : State) (a loc : Nat) : List Nat × Bytes × State :=
  let b := a / 64 * 2
  let (p, s) := s.burstRead b (shareOf loc)
  let (q, s) := s.burstRead (b + 1) (shareOf loc)
  match p, q with
  | some p, some q => let (d, s) := s.granuleOf a p q; ([], d, s)
  | p, q => ((if p.isNone then [b] else []) ++ (if q.isNone then [b + 1] else []), [], s)

/-- The second read of a burst that the first one did not decode; the other burst stands as it was read (R445). -/
def State.burstAgain (s : State) (bad : List Nat) (b loc : Nat) : Option (Bytes × Bool) × State :=
  if bad.contains b then
    match (s.count 0x9007 3 1).burstRead b (shareOf loc) with
    | (some r, s) => (some (r.1, true), s)
    | (none, s) => (none, s)
  else (some ((s.burstStored b).1, false), s)

/-- The second reads of the bursts of a granule: its plaintext, or the first burst that they do not decode (R445). -/
def State.granuleAgain (s : State) (bad : List Nat) (a loc : Nat) : Except Nat Bytes × State :=
  let b := a / 64 * 2
  match s.burstAgain bad b loc with
  | (none, s) => (.error b, s)
  | (some p, s) =>
    match s.burstAgain bad (b + 1) loc with
    | (none, s) => (.error (b + 1), s)
    | (some q, s) => let (d, s) := s.granuleOf a p q; (.ok d, s)

/-- A read of a granule with its second reads: its plaintext, or the first burst that they do not decode (R440, R444, R445). -/
def State.granuleGet (s : State) (a loc : Nat) : Except Nat Bytes × State :=
  match s.granuleOnce a loc with
  | ([], d, s) => (.ok d, s)
  | (bad, _, s) => s.granuleAgain bad a loc

/-- A burst error after a write of the burst: only a defect is left (R444). -/
def healed (t : Table BurstErr) (b : Nat) : Table BurstErr :=
  match tGet t b with
  | none => t
  | some e => if e.defect = 0 then tDel t b else tPut t b { e with stored := 0 }

/-- A write of a whole granule: its data and check symbols are replaced, and a pending scrub write-back of its bursts is cancelled (R440,
R444, R446). -/
def State.granulePut (s : State) (a loc : Nat) (plain : Bytes) : State :=
  let g := a / 64 * 64
  let s := (s.useBurst (burstSc (a / 64 * 2)) (shareOf loc)).useBurst (burstSc (a / 64 * 2 + 1)) (shareOf loc)
  { s with bank := writeMem s.bank g (s.pageCrypt true g plain)
           bankErr := (burstsOf a).foldl healed s.bankErr
           bankScrub := s.bankScrub.filter fun e => !(burstsOf a).contains e.1 }

/-- A write of bytes from an address on, over at most `k` granules: whole granules are replaced, a part of one is a read-modify-write.
The first burst that such a read does not decode is answered, and its granule keeps what it holds (R440, R445). -/
def State.bankStore (s : State) (a loc : Nat) (bs : Bytes) : Nat → Option Nat × State
  | 0 => (none, s)
  | k + 1 =>
    let o := a % 64
    let piece := bs.take (64 - o)
    let (lost, s) :=
      if piece.length = 64 then (none, s.granulePut a loc piece)
      else match s.granuleGet a loc with
        | (.ok d, s) => (none, s.granulePut a loc (d.take o ++ piece ++ d.drop (o + piece.length)))
        | (.error b, s) => (some b, s)
    let (rest, s) := State.bankStore s (a + piece.length) loc (bs.drop piece.length) k
    (lost.or rest, s)

end Sys2Proof.Machine
end

