-- ==== Sys2Proof/Machine/Faults.lean ====
section
/-! DEFINITION. Unit, region, module and ensemble faults, the end of an invocation, bar signatures and discrepancies
(21_reset.md R617; 22_faults.md R634-R644; 19_dictionary.md R588, R591). -/

namespace Sys2Proof.Machine

/-! ## Discards (R617, R634) -/

/-- A cluster after its queued commands, waits, staging and transfers are discarded; a VX figure that still waits for
deliveries sets VXLOST (R188, R617). -/
def Cluster.discard (c : Cluster) : Cluster :=
  let waiting := c.vx.figs.any fun f => f.job.xmode == 1 && f.taken < f.job.v
  { c with
    caller := { c.caller with waits := [], syq := [], fence := none }
    mx := { c.mx with q := [], starved := false, finAwait := [] }
    vx := { c.vx with q := [], figs := [], merge := false
                      sticky := if waiting then c.vx.sticky ||| vxLost else c.vx.sticky }
    movers := Vector.replicate 2 {}
    staging := [], placing := [], rotating := [], cntq := [], counting := [], ckq := []
    slots := [], unacked := []
    scrub := c.scrub.map fun (e : Nat × Bytes × Option Nat) => (e.1, e.2.1, none) }

/-- A caller without its queued commands and waits. -/
def Caller.discard (k : Caller) : Caller := { k with waits := [], syq := [], fence := none }

/-- A domain without anything still to issue or to take place. -/
def Dom.discard (d : Dom) : Dom := { d with evs := [], handed := [], gates := [], head := none, tailc := none, words := false }

/-- The discards at the end of an invocation (R617), and the clusters that become ACTIVE then (R588). -/
def State.endInvocation (s : State) : State :=
  let s := (s.modCls Cluster.discard).modDoms Dom.discard
  let s := { s with
    seqs := s.seqs.map Caller.discard
    units := Vector.replicate 58 {}
    links := s.links.map fun (l : Link) => { l with sending := [], loaded := [] }
    chans := s.chans.map fun (e : Nat × Chan) => (e.1, { e.2 with arrivals := [], landing := [], out := none })
    hqs := [], acks := [], bulks := [], untimed := [], paths := [], voids := [], crossings := []
    isu := { s.isu with busy := none, held := [] }
    rt := { s.rt with stopAsked := false, stopping := false, abortAt := none }
    beat := { s.beat with live := s.beat.live.filter fun l => l.cause == 5 || l.cause == 6 } }
  { s with actual := s.actual.filter fun (e : Nat × Nat) =>
      !(e.2 == 4 && s.base (0x8000 + e.1) 1 1 == 1) }

/-- A card whose work is given up: an item that awaited output is cancelled, a move that was scheduled is undone (R619). -/
def Card.cancelled (c : Card) : Card :=
  { c with item := none, itemBar := 0, moves := [], st := if c.st ≠ .moving then c.st else if c.outward then c.prior else .out }

/-- The unit keeps its cards and cancels what awaited output: at a warm reset and after a fault (R619, R658; log 89). -/
def State.cancelItems (s : State) : State :=
  { s with isu := { s.isu with cards := s.isu.cards.map fun (e : Nat × Card) => (e.1, e.2.cancelled) } }

/-! ## Bar signatures (R643, R644) -/

/-- Puts a contribution in the order of its command's stamp and presence-map bit. -/
def insertContrib (c : Contrib) : List Contrib → List Contrib
  | [] => [c]
  | x :: xs => if c.t < x.t || (c.t == x.t && c.pbit < x.pbit) then c :: x :: xs else x :: insertContrib c xs

/-- Adds a contribution to the signature of its command's bar (R71, R643). -/
def State.contribute (s : State) (who : Nat) (x : Ctx) (data : Bytes) : State :=
  let bar := if x.tail then (x.bar + (2 ^ 40 - 1)) % 2 ^ 40 else x.bar
  { s with contribs := insertContrib { bar, who, t := x.t, pbit := x.pbit, data } s.contribs }

/-- The CRC of one contributor for a bar (R643). -/
def barCrc (s : State) (bar who : Nat) : Bytes :=
  leBytes 8 (crc64 ((s.contribs.filter fun c => c.bar == bar && c.who == who).flatMap (·.data))).toNat

/-- A fault's record in the error log (R639, R640). -/
def State.faultLog (s : State) (cls cause loc : Nat) (x : Ctx) (other : Nat) (detail : Bytes) : State :=
  let s := s.errLog cls cause loc x other detail
  match s.errs with
  | r :: l => if s.running then { s with errs := settleRec r l } else s
  | [] => s

/-- A bank error at the record of a bar (R445; log 21). -/
def State.recordLost (s : State) (burst : Nat) : State :=
  let loc := locDie 0 9 0
  (s.count 0x9007 4 1).faultLog 4 2 loc s.nowCtx loc (bankDetail burst)

/-- Closes a bar: its signature record goes to the ring at SIG_BASE, where that lies in KD0, as a part of its granule; whether a read of that granule
was lost (R440, R445, R644; logs 21, 95). -/
def State.barRecord (s : State) (bar : Nat) (aborted : Bool) : State × Bool :=
  let bar := bar % 2 ^ 40
  let sig := crc64 ((List.range s.rt.hdr.lc ++ [48, 49]).flatMap (barCrc s bar))
  let skipped := s.skips.any fun k => k.ctx.bar == bar
  let rec_ := leBytes 8 (if aborted then 0 else sig.toNat) ++ leBytes 8 bar ++ leBytes 4 (barGap s.rt.firstBar bar)
    ++ [BitVec.ofNat 8 (b2n aborted + 2 * b2n skipped)] ++ List.replicate 11 0
  let order := s.val 0x1300 2 16
  let w := s.sigWptr.toNat % 2 ^ order
  let a := s.val 0x1300 1 0 + 32 * w
  let (lost, s) := if s.pageDomain a == some 0 then
      match s.bankStore a (locDie 0 9 0) rec_ (granuleCount a 32) with
      | (none, s) => (false, s)
      | (some b, s) => (true, s.recordLost b)
    else (false, s)
  ({ s with sigWptr := BitVec.ofNat 32 ((w + 1) % 2 ^ order), closed := s.closed + 1
            contribs := s.contribs.filter fun c => c.bar != bar }, lost)

/-- Closes a bar in an abort, which no further fault follows (R639, R644). -/
def State.closeBar (s : State) (bar : Nat) (aborted : Bool) : State := (s.barRecord bar aborted).1

/-! ## Discrepancies (R591) -/

/-- Whether COMMANDED and ACTUAL of a cluster disagree. -/
def State.disagrees (s : State) (n : Nat) : Bool :=
  let a := tGet s.actual n
  if s.base (0x8000 + n) 1 1 = 1 then a == some 5 || a == some 6 || (a == some 4 && s.running) else a.isNone

/-- ACTUAL as the dictionary reads it (R587): ACTIVE, DRAINING, FENCED, ABSENT. -/
def State.actualCode (s : State) (n : Nat) : Nat :=
  if s.lcMax ≤ n then 4
  else match tGet s.actual n with
    | none => 0
    | some a => if a ≤ 3 || a = 7 then 1 else 2

/-- CAUSE of a FENCED cluster (R587). -/
def State.fenceCause (s : State) (n : Nat) : Nat :=
  match tGet s.actual n with
  | some 4 => 1
  | some 5 => 2
  | some 6 => 3
  | _ => 0

/-- Notes the discrepancies that have begun, with both states, and forgets those that have ended (R591). -/
def State.noteDiscrepancies (s : State) : State :=
  let new := (List.range s.lcMax).filter fun n => s.disagrees n && !s.discrepant.contains n
  { s with discrepant := s.discrepant.filter s.disagrees ++ new
           discrepancyDue := s.discrepancyDue ++ new.map fun n =>
             (n, [BitVec.ofNat 8 n, BitVec.ofNat 8 (s.base (0x8000 + n) 1 1), BitVec.ofNat 8 (s.actualCode n), BitVec.ofNat 8 (s.fenceCause n)]) }

/-- Records the discrepancies that have begun, also those that have ended since (R591). -/
def State.discrepancies1 (s : State) : State :=
  let s := s.noteDiscrepancies
  let s := s.discrepancyDue.foldl (fun (s : State) e =>
    let s := (s.event 0x82 (s.locLc e.1 0 0) e.2).count 0x900A 1 1
    { s with discrepancies := vmod s.discrepancies e.1 (· + 1) }) s
  { s with discrepancyDue := [] }

/-! ## Abort (R636, R637) -/

/-- The module reports a fault until FAULT_ACK: HOLD_REQ, CAUSE FAULT, FROZEN, not READY (R637). -/
def State.reportFault (s : State) (cls bar : Nat) : State :=
  let s := s.modDoms fun d => { d with stopped := true, stopPend := false, words := false }
  let s : State := { s with
    rt := { s.rt with runState := 0, abortBar := BitVec.ofNat 40 bar, abortClass := BitVec.ofNat 8 cls
                      abortEdge := s.beat.boundaries, faultReport := true, faultAcked := false }
    beat := { s.beat with
      holdReq := true, inHold := true, cause := 6, lastCause := 6
      live := s.beat.live.filter (fun l => l.cause != 6) ++ [{ cause := 6, who := 50 }] } }
  s.holdLinks

/-- Ends the invocation by an abort of a class: the discards, the aborted bar's record, the report, and the FAULT event
of the PF (R635-R637, R529). -/
def State.abort (s : State) (cls bar loc : Nat) : State :=
  let s := if 3 ≤ cls then s.endInvocation.cancelItems else s.endInvocation
  let s := ((s.closeBar bar true).reportFault cls bar).discrepancies1
  if 3 ≤ cls then s.hostEvent 0 6 0 (cls - 2) loc else s

/-- A bar closes in its turn; a read of its record's granule that is lost is a module fault, which ends the invocation at once (R445, R636, R644). -/
def State.closeNext (s : State) : State :=
  let (t, lost) := s.barRecord (s.rt.firstBar + s.closed) false
  if lost && t.running then t.abort 4 t.beat.bar.toNat (locDie 0 9 0) else t

/-- A snapshot or restore that a fault or a reset stops. After a warm reset an interrupted snapshot may be resumed, whether the reset or a fault before
it stopped it (R639, R652). -/
def State.stopSnap (s : State) (warm : Bool) : State :=
  if s.snap.action = 1 then { s with snap := { s.snap with status := 3, action := 0, resumable := warm, stopped := true } }
  else if s.snap.action = 2 then { s with snap := { s.snap with status := 4, action := 0, resumable := false, stopped := false } }
  else { s with snap := { s.snap with resumable := s.snap.resumable || (warm && s.snap.stopped) } }

/-! ## Faults (R634-R636, R639) -/

/-- Fences a cluster: its engines stop, its queued commands and waits are discarded, and what has left it lands (R634). ACTUAL takes the cause where the
cluster was ACTIVE or DRAINING; one that is FENCED already keeps its cause (R588). -/
def State.fence (s : State) (n cause : Nat) : State :=
  let ids := (s.clus n).unacked.map (·.id)
  let s := if (tGet s.actual n).any fun a => a == 4 || a == 5 || a == 6 then s else { s with actual := tPut s.actual n cause }
  let s := if s.running then s.noteDiscrepancies else s
  let s := s.modCl n fun c =>
    { c.discard with fenced := true, slots := c.slots, staging := c.staging }
  let s := s.modDoms fun d => { d with gates := d.gates.filter fun g => !ids.contains g.2 }
  s.modDom (s.regionOf n) fun d =>
    { d with evs := d.evs.filter fun e => e.k.engineOf != some n
             handed := d.handed.filter fun h => !(h.ctx.pbit < 192 && h.ctx.pbit / 4 == n) }

/-- An abort at the end of the bar is asked for; where every region is frozen, the invocation ends at once (R635); with no routine running,
the unit gives up what awaits output, and discrepancies are recorded at once (R591, R658). -/
def State.abortAtBar (s : State) (loc : Nat) : State :=
  if !s.running then s.cancelItems.discrepancies1
  else if s.frozen then s.abort 3 s.beat.bar.toNat loc
  else { s with rt := { s.rt with abortAt := some (s.rt.abortAt.getD (s.beat.bar.toNat, loc)) } }

/-- A unit fault against a cluster (R17, R634, R635). -/
def State.unitFault (s : State) (n cause loc : Nat) (x : Ctx) (other : Nat) (detail : Bytes) : State :=
  let s := (s.faultLog 3 cause loc x other detail).stopSnap false
  (s.fence n 5).abortAtBar loc

/-- A region fault: every unfused cluster of the region is fenced (R18, R634). -/
def State.regionFault (s : State) (r cause loc : Nat) (detail : Bytes) : State :=
  let s := (s.faultLog 3 cause loc s.nowCtx loc detail).stopSnap false
  ((s.ofRegion r).foldl (fun s n => s.fence n 6) s).abortAtBar loc

/-- The widest class of the faults of one cycle governs: a wider fault that follows an abort before the next beat boundary is counted to the abort's
cycle (R639; log 103). -/
def State.widen (s : State) (cls : Nat) : State :=
  if s.rt.faultReport && !s.rt.faultAcked && s.rt.abortEdge == s.beat.boundaries && decide (s.rt.abortClass.toNat < cls) && s.rt.abortClass != 0 then
    { s with rt := { s.rt with abortClass := BitVec.ofNat 8 cls } }
  else s

/-- A module fault ends the invocation at once (R19, R636). -/
def State.moduleFault (s : State) (cause loc : Nat) (x : Ctx) (detail : Bytes) : State :=
  let s := (s.faultLog 4 cause loc x loc detail).stopSnap false
  if s.running then s.abort 4 s.beat.bar.toNat loc else s.widen 4

/-- An ensemble fault ends the invocation at once (R20, R636). -/
def State.ensembleFault (s : State) (cause loc : Nat) (detail : Bytes) : State :=
  let s := (s.faultLog 5 cause loc s.nowCtx loc detail).stopSnap false
  if s.running then s.abort 5 s.beat.bar.toNat loc else s.widen 5

end Sys2Proof.Machine
end

