-- ==== Sys2Proof/Machine/Detector.lean ====
section
/-! DEFINITION. The hazard detector of AUDIT: what it keeps of an invocation, and the hazards that it judges from that
(13_compiler_contract.md R417-R423). No other unit reads what it keeps (R418). -/

namespace Sys2Proof.Machine

/-- Whether the detector runs (R417). -/
def State.audits (s : State) : Bool := s.mode == 4 && s.running

/-- Changes what the detector keeps, while it runs. -/
def State.modDet (s : State) (f : Detector → Detector) : State :=
  { s with det := if s.audits then f s.det else s.det }

/-- A command's stamp moved to the stamp of an event in a domain (R421). -/
def State.stampAt (s : State) (d t : Nat) (x : Ctx) : Ctx :=
  let (bar, beat, cyc) := (s.domN d).stamp t
  { x with bar, beat, cyc }

/-- Whether a command was pushed before another (R322, R419). -/
def Ctx.earlier (a b : Ctx) : Bool := a.t < b.t || (a.t == b.t && a.pbit < b.pbit)

/-- A list of numbers with others added, each once. -/
def addAll (l k : List Nat) : List Nat := l ++ k.filter fun x => !l.contains x

/-- The granule addresses of a range. -/
def granulesOf (a len : Nat) : List Nat :=
  if len = 0 then [] else (List.range ((a + len - 1) / 64 - a / 64 + 1)).map fun i => (a / 64 + i) * 64

/-- Whether a range meets a granule. -/
def meetsGranule (g : Nat) (r : Nat × Nat) : Bool := decide (r.1 < g + 64) && decide (g < r.1 + r.2)

/-! ## Fuse maps (R27, R304) -/

/-- Fused clusters per die of a grade (R27). -/
def fusedPerDie (grade : Nat) : Nat := if grade = 1 then 0 else if grade = 2 then 2 else 4

/-- Fused clusters per region of a die, over every fuse map that R27 permits. -/
def fuseCounts (k : Nat) : List (List Nat) :=
  ([0, 1, 2].flatMap fun a => [0, 1, 2].flatMap fun b => [0, 1, 2].flatMap fun c => [0, 1, 2].map fun d => [a, b, c, d]).filter
    fun l => l.sum == k

/-- The region code of a cluster of a die by its number there, under fused counts of the regions (R28). -/
def codeUnder : List Nat → Nat → Nat
  | [], _ => 0
  | f :: l, i => if i < 6 - f then 0 else 1 + codeUnder l (i - (6 - f))

/-- Whether two logical clusters share a region under every fuse map that R27 permits on the grade (R304, R419). -/
def State.sharesAlways (s : State) (a b : Nat) : Bool :=
  let half := (48 - 2 * fusedPerDie s.grade.toNat) / 2
  decide (a / half = b / half) &&
    (fuseCounts (fusedPerDie s.grade.toNat)).all fun k => codeUnder k (a % half) == codeUnder k (b % half)

/-- RESOURCE of a synchronisation object (R420). -/
def SigObj.resource : SigObj → Nat
  | .cue lc num => 2 * 2 ^ 62 + lc * 65536 + num
  | .mcue num => 2 * 2 ^ 62 + 2 ^ 56 + num
  | .tally lc num => 2 * 2 ^ 62 + 2 * 2 ^ 56 + lc * 65536 + num
  | .round q => 2 * 2 ^ 62 + 3 * 2 ^ 56 + q

/-- The logical cluster that holds an object; none for a module object (R327). -/
def SigObj.holder : SigObj → Option Nat
  | .cue lc _ => some lc
  | .tally lc _ => some lc
  | _ => none

/-- A cluster's command names a signal of REGION scope to an object that may lie in another region under some fuse map (R419). -/
def State.narrowSignal (s : State) (n loc scope : Nat) (o : SigObj) (x : Ctx) : State :=
  match o.holder with
  | some lc => if scope = 2 && !s.sharesAlways n lc then s.hazard x 4 1 loc (s.locLc lc 6 0) o.resource else s
  | none => s

/-! ## READ_BEFORE_WRITE: writes to the floor that have not landed -/

/-- A pushed command is to write into a floor: number, address and length of each of its writes. -/
def State.will (s : State) (n dst : Nat) (x : Ctx) (loc : Nat) (parts : List (Nat × Nat × Nat)) : State :=
  if parts.isEmpty then s else s.modDet fun d => { d with todo := d.todo ++ [{ origin := n, dst, ctx := x, loc, parts }] }

/-- A write of a command has reached the floor. -/
def State.wrote (s : State) (n dst : Nat) (x : Ctx) (part : Nat) : State :=
  s.modDet fun d =>
    let l := d.todo.map fun w =>
      if w.origin == n && w.dst == dst && w.ctx == x then { w with parts := w.parts.filter (·.1 != part) } else w
    { d with todo := l.filter fun w => !w.parts.isEmpty }

/-- A command is skipped at its start and writes nothing. -/
def State.willNot (s : State) (n : Nat) (x : Ctx) : State :=
  s.modDet fun d => { d with todo := d.todo.filter fun w => !(w.origin == n && w.ctx == x) }

/-- The ranges of a cluster's own floor that stream WAITs and ROTATEs pushed before a command have still to land, each with the location word
of the caller or the mover that places them. -/
def State.placesOwed (s : State) (n : Nat) (x : Ctx) : List (Nat × Nat × Nat) :=
  let c := s.clus n
  let own := s.locLc n 0 0
  let rot := fun (m : Nat) (cmd : MvCmd) => match cmd with
    | .rotate set .. => [(s.locLc n 4 m, (s.resident set).base.toNat, (s.resident set).length.toNat)]
    | _ => []
  (c.caller.waits.filterMap fun w => match w.form with
    | .stream _ _ count faddr _ => if w.ctx.earlier x then some (own, faddr, 64 * count) else none
    | _ => none)
  ++ ((c.placing.filter (·.ctx.earlier x)).map fun p => (own, p.faddr, 64 * p.count))
  ++ ((c.rotating.filter (·.ctx.earlier x)).map fun r => (s.locLc n 4 r.mover, r.base + 64 * r.next, 64 * (r.total - r.next)))
  ++ (c.movers.toList.zipIdx.flatMap fun v => (v.1.q.filter (·.1.earlier x)).flatMap fun e => rot v.2 e.2)
  ++ (c.movers.toList.zipIdx.flatMap fun v => (v.1.floor.filter fun j => j.ctx.earlier x && j.n == 0).flatMap fun j => rot v.2 j.cmd)

/-- Bytes that a message record occupies (R347). -/
def recSize (len : Nat) : Nat := (16 + len + 63) / 64 * 64

/-- The ring ranges that queued records of a channel will take, one after another from WPTR: a record, and before one that wraps the granule of
its pad header (R348, R350). -/
def ringTakes (ring base : Nat) : Nat → List Nat → List (Nat × Nat)
  | _, [] => []
  | wptr, len :: l =>
    let size := recSize len
    if ring < wptr + size then (base + wptr, 64) :: (base, size) :: ringTakes ring base (size % ring) l
    else (base + wptr, size) :: ringTakes ring base ((wptr + size) % ring) l

/-- The ranges of a cluster's ring buffers that CHSENDs still queued at their senders, pushed before a command, will write, each with the
location word of the sender's synchronisation bank (R322). -/
def State.sendsOwed (s : State) (n : Nat) (x : Ctx) : List (Nat × Nat × Nat) :=
  (s.rt.routes.filter fun e => e.2.dst == n).flatMap fun e =>
    let lens := (s.caller e.2.src).syq.filterMap fun q => match q.2 with
      | .chsend ch len _ _ _ => if ch == e.1 && q.1.earlier x then some len else none
      | _ => none
    (ringTakes e.2.ring e.2.ringBase (s.chan e.1).wptr.toNat lens).map fun r => (s.locLc e.2.src 6 0, r)

/-! ## MISSING_FENCE: remote writes, releases and acquires -/

/-- A command with remote writes is pushed, or a BULK command opens. -/
def State.farCmd (s : State) (c : FarCmd) : State := s.modDet fun d => { d with far := d.far ++ [c] }

/-- The writes that a caller's acquires have made visible to it (R316). -/
def State.knows (s : State) (w : Nat) : List Nat := (tGet s.det.know w).getD []

/-- A remote write reaches a word: a hazard where the word's last remote write is another command's and no release and acquire have
passed it (R324). `ordered` says that the FINAL rule orders it after the other writes of its origin (R325). Records of one channel
follow each other by the channel's own credits. -/
def State.farLands (s : State) (d t key : Nat) (chan : Option Nat) (ordered : Bool) (res : Nat) (x : Ctx) : State :=
  if !s.audits then s
  else
    let c := s.det.far.find? (·.key == key)
    let origin := (c.map (·.origin)).getD 0
    let loc := (c.map (·.loc)).getD 0
    let s := match tGet s.det.last res with
      | some w =>
        if w.key != key && !s.det.passed.contains w.key && !(chan.isSome && w.chan == chan) && !(ordered && w.origin == origin) then
          s.hazard (s.stampAt d t x) 3 0 loc w.loc res
        else s
      | none => s
    s.modDet fun k => { k with last := tPut k.last res { key, origin, chan, loc, live := true } }

/-- A local write reaches a word: its last write is no longer a remote one. -/
def State.nearLands (s : State) (res : Nat) : State :=
  s.modDet fun k => match tGet k.last res with
    | some w => { k with last := tPut k.last res { w with live := false } }
    | none => k

/-- A unit of a cluster reads a range of its floor for a command (R419, READ_BEFORE_WRITE 0 and MISSING_FENCE 1). -/
def State.reads (s : State) (n t a len loc : Nat) (x : Ctx) : State :=
  if !s.audits then s
  else
    let y := s.stampAt (s.regionOf n) t x
    let own := s.placesOwed n x ++ s.sendsOwed n x
    (granulesOf a len).foldl (fun (s : State) g =>
      let res := n * 2 ^ 24 + g
      let s := match s.det.todo.find? fun w =>
          w.dst == n && w.ctx.earlier x && w.parts.any fun p => meetsGranule g p.2 with
        | some w => s.hazard y 2 0 loc w.loc res
        | none => match own.find? fun o => meetsGranule g o.2 with
          | some o => s.hazard y 2 0 loc o.1 res
          | none => s
      match tGet s.det.last res with
      | some w => if w.live && !(s.knows n).contains w.key then s.hazard y 3 1 loc w.loc res else s
      | none => s) s

/-- A completed FENCE of a scope adds the writes that it covers to what its caller releases at that scope (R322, R323). -/
def State.fenced (s : State) (w scope : Nat) (keys : List Nat) : State :=
  s.modDet fun d => { d with fenced := tMod d.fenced (w * 8 + scope) [] fun l => addAll l keys }

/-- The writes that a signal of a caller releases (R322). -/
def State.releases (s : State) (w scope : Nat) : SigOp → List Nat
  | .set => (tGet s.det.fenced (w * 8 + scope)).getD []
  | .add _ => (tGet s.det.fenced (w * 8 + scope)).getD []
  | .arriveLc _ => (tGet s.det.fenced (w * 8 + scope)).getD []
  | .arriveSeq => (tGet s.det.fenced (w * 8 + scope)).getD []
  | _ => []

/-- The number of an object, or of its replica in a domain. -/
def SigObj.key (o : SigObj) (d : Nat) : Nat := o.resource * 16 + d

/-- A signal has applied to an object: what it releases joins what the object holds, or a clearing signal empties it; no keeping wait
has seen it (R319). -/
def State.detApply (s : State) (d : Nat) (g : Sig) : State :=
  let key := g.obj.key d
  let clears := match g.op with
    | .clear => true
    | .reset => true
    | .bind .. => true
    | .unbind => true
    | _ => false
  s.modDet fun k =>
    { k with rel := tMod k.rel key [] fun l => if clears then [] else addAll l g.rel
             seen := k.seen.filter (·.2 != key) }

/-- An acquire of a caller completes on an object: the writes released there are visible to it; a wait that keeps the object has seen
its last signal (R316, R319). -/
def State.acquires (s : State) (w d : Nat) (o : SigObj) (keeps : Bool) : State :=
  let key := o.key d
  s.modDet fun k =>
    let l := (tGet k.rel key).getD []
    { k with know := tMod k.know w [] fun m => addAll m l
             passed := addAll k.passed l
             seen := if keeps then k.seen ++ [(w, key)] else k.seen }

/-- The receiver of a channel record that takes its descriptor sees the whole record (R359). -/
def State.takesRecord (s : State) (n a len : Nat) : State :=
  s.modDet fun k =>
    let l := (granulesOf a len).filterMap fun g => (tGet k.last (n * 2 ^ 24 + g)).map (·.key)
    { k with know := tMod k.know n [] fun m => addAll m l, passed := addAll k.passed l }

/-! ## READ_BEFORE_WRITE 1: predicates -/

/-- The object that a predicate of a caller reads, if it reads one. -/
def State.predObj (s : State) (w p : Nat) : Option SigObj :=
  if p = 0 then none
  else match ((s.caller w).pred p).kind with
    | .cue num => some (.cue w num)
    | .mcue num => some (.mcue num)
    | .tally num _ => some (.tally w num)
    | _ => none

/-- Whether a predicate would be sampled in breach of R319: no keeping wait of the caller has completed after the object's last
signal, or a signal that step time does not bound is on its way to the object. -/
def State.unkept (s : State) (w p : Nat) : Bool :=
  match s.predObj w p with
  | some o => s.audits && (!s.det.seen.contains (w, o.key (s.domOf w)) || s.untimed.any (·.obj == o)
      || s.bulks.any fun b => b.done.any (·.obj == o))
  | none => false

/-- A predicate of a caller is sampled for a command, four cycles after its step cycle (R109, R419, R421; READ_BEFORE_WRITE 1). -/
def State.samples (s : State) (w p : Nat) (x : Ctx) : State :=
  if s.unkept w p then
    let loc := if w < 48 then s.locLc w 0 0 else locDie (w - 48) 0 0
    s.hazard (s.stampAt (s.domOf w) (x.t + 4) x) 2 1 loc loc ((s.predObj w p).getD (.mcue 0)).resource
  else s

/-! ## SLOT_COLLISION 5: crossings -/

/-- A signal word enters the crossing between two domains in a cycle: whether a burst of more than 8 words in 16 cycles holds it back (R339). -/
def State.crosses (s : State) (own d t : Nat) (x : Ctx) (loc : Nat) : Bool × State :=
  if d = own then (false, s)
  else
    let l := ((tGet s.crossings (own * 16 + d)).getD []).filter (fun q => t < q + 16) ++ [t]
    let s := { s with crossings := tPut s.crossings (own * 16 + d) l }
    if 8 < l.length then
      (true, s.hazard (s.stampAt own t x) 1 5 loc loc (3 * 2 ^ 62 + (if d < 8 then locRegion d 0 0 else locDie (d - 8) 7 0)))
    else (false, s)

/-! ## UNTAGGED_STAGING -/

/-- A BULK write to a bank granule is acknowledged. -/
def State.bankAcked (s : State) (a loc : Nat) : State :=
  s.modDet fun k => { k with ackNo := k.ackNo + 1, acks := tPut k.acks (a / 64 * 64) (k.ackNo + 1, loc) }

/-- Staged granules are placed: each whose bank address has been written since it arrived in staging is reported (R419). -/
def State.stale (s : State) (n t : Nat) (x : Ctx) (gs : List Staged) : State :=
  if !s.audits then s
  else
    let y := s.stampAt (s.regionOf n) t x
    gs.foldl (fun (s : State) g => match g.src.bind (·.addr) with
      | none => s
      | some a => match tGet s.det.acks (a / 64 * 64) with
        | some (no, loc) =>
          if g.born < no then s.hazard y 5 (if g.guard = 0 then 0 else 1) (s.locLc n 0 0) loc (2 ^ 62 + a / 64 * 64) else s
        | none => s) s

/-! ## SLOT_COLLISION 7: operands of the matrix array -/

/-- A matrix command has started at a cycle: its operand ranges, up to its last read (R147). Ranges whose last read lies behind are forgotten. -/
def State.operands (s : State) (n first last : Nat) (l : List (Nat × Nat)) : State :=
  let nt := (s.domN (s.regionOf n)).nt
  s.modDet fun d =>
    { d with spans := (d.spans.filter fun q => q.lc != n || nt ≤ q.last + 1) ++ l.map fun r => { lc := n, addr := r.1, len := r.2, first, last } }

/-- A write lands in a word while R147 forbids it. -/
def State.overOperand (s : State) (n t a loc : Nat) (x : Ctx) : State :=
  if s.audits && (s.det.spans.any fun q => q.lc == n && decide (q.first ≤ t) && decide (t ≤ q.last) && meetsGranule a (q.addr, q.len)) then
    s.hazard (s.stampAt (s.regionOf n) t x) 1 7 loc (s.locLc n 1 0) (n * 2 ^ 24 + a)
  else s

end Sys2Proof.Machine
end

