-- ==== Sys2Proof/Machine/FloorPorts.lean ====
section
/-! DEFINITION. Accesses to the floor: ports and their collisions (R245, R248), the code of each 64-bit lane (R264,
R265), masked writes (R242), and what a landing write does to scrub and resident sets (R262, R266). -/

namespace Sys2Proof.Machine

/-- The ports of a bank (R245). -/
def pTP : Nat := 0
def pSP : Nat := 1
def pVR : Nat := 2
def pGR : Nat := 3
def pVW : Nat := 4
def pGW : Nat := 5

/-- The bank of a floor address (R243). -/
def bankOf (a : Nat) : Nat := bits a 10 6

/-- Read latency, and landing delay of a write, of a bank's tier (R246). -/
def tierOf (a : Nat) : Nat := if bankOf a < 8 then 4 else if bankOf a < 24 then 6 else 9

/-- The users of the ports, in the rank order of each port (R245); a write from another cluster adds its number and its unit to the last. -/
def uDrain : Nat := 0
def uVecX : Nat := 1
def uVecY : Nat := 2
def uScrub : Nat := 3
def uMover : Nat := 4
def uCount : Nat := 6
def uCaller : Nat := 7
def uRemote : Nat := 16

/-- The user that a write of a unit of another cluster is. -/
def remoteUser (origin unit : Nat) : Nat := uRemote + 8 * origin + unit

/-- The location word of a user of a cluster's ports (R22). -/
def State.userLoc (s : State) (n unit : Nat) : Nat :=
  if uRemote ≤ unit then s.locLc ((unit - uRemote) / 8) ((unit - uRemote) % 8) 0
  else if unit = uDrain then s.locLc n 1 0 else if unit ≤ uVecY then s.locLc n 2 0
  else if unit = uScrub then s.locLc n 3 0 else if unit < uCount then s.locLc n 4 (unit - uMover)
  else if unit = uCount then s.locLc n 7 0 else s.locLc n 0 0

/-- Takes a port of a bank at a stamp for a unit: whether it is served, and the state with the port taken. A port that
another unit uses is lost: FLOOR_COLLIDE counts it, and AUDIT reports a slot collision (R248), for the scrubber, which has no command, with the
command of the other unit (R421; log 14). Accesses of one unit do not meet each other (log 14). -/
def State.takePort (s : State) (n t port unit a : Nat) (x : Ctx) : Bool × State :=
  let c := s.clus n
  let used := if c.ports.1 = t then c.ports.2 else []
  let p := port * 32 + bankOf a
  match used.find? (·.1 == p) with
  | some (_, u, y) =>
    if u = unit then (true, s)
    else
      (false, (s.count 0x9003 1 1).hazard (s.stampAt (s.regionOf n) t (if unit = uScrub then y else x)) 1 0 (s.userLoc n unit) (s.userLoc n u) (n * 2 ^ 24 + a / 64 * 64))
  | none => (true, s.modCl n fun c => { c with ports := (t, (p, unit, x) :: used) })

/-- The resident set that holds a word, if one does. -/
def State.setOf (s : State) (n a : Nat) : Option Nat :=
  (List.range 64).find? fun k => (s.resident k).meets n (a / 64 * 64) 64

/-- An uncorrectable word: a unit fault, and the set that holds it becomes FAILED (R265). -/
def State.floorUe (s : State) (n a : Nat) (x : Ctx) : State :=
  let k := s.setOf n a
  let s := match k with
    | some k => s.modResident k fun r => { r with state := .failed }
    | none => s
  let loc := s.locLc n 3 (bankOf a)
  s.unitFault n 1 loc x loc (leBytes 4 (n * 2 ^ 24 + a / 64 * 64) ++ [BitVec.ofNat 8 (k.getD 0xFF)])

/-- The number of wrong bits of a lane and its check bits. -/
def ones (v : BitVec 72) : Nat := ((List.range 72).filter fun i => v.getLsbD i).length

/-- What the code finds of a lane (R264): its bytes as stored, the bytes decoded, whether an error was corrected, and whether the lane
is uncorrectable. -/
structure LaneRead where
  stored : Bytes
  value : Bytes
  fixed : Bool := false
  lost : Bool := false
  deriving DecidableEq, Repr

/-- A read of one lane, its address a multiple of 8 (R264). -/
def State.readLane (s : State) (n a : Nat) : LaneRead × State :=
  let c := s.clus n
  let plain := readMem c.floor a 8
  match tGet c.upsets (a / 8) with
  | none => ({ stored := plain, value := plain }, s)
  | some m =>
    let stored := leBytes 8 ((BitVec.ofNat 64 (leNat plain)) ^^^ m.setWidth 64).toNat
    let s' := { s with free := s.free + 1 }
    if ones m ≤ 1 then ({ stored, value := plain, fixed := ones m == 1 }, s)
    else if ones m = 2 then ({ stored, value := stored, lost := true }, s)
    else match Config.floorBeyondCode s.free (BitVec.ofNat 64 (leNat plain)) m with
      | none => ({ stored, value := stored, lost := true }, s')
      | some (v, fixed) => ({ stored, value := leBytes 8 v.toNat, fixed }, s')

/-- A read of the first lanes of a word. -/
def State.readLanes (s : State) (n a : Nat) : Nat → List LaneRead × State
  | 0 => ([], s)
  | k + 1 =>
    let (l, s) := State.readLanes s n a k
    let (r, s) := s.readLane n (a + 8 * k)
    (l ++ [r], s)

/-- A decoded word: its bytes, whether a lane was corrected, and whether it is uncorrectable, in which case it stands as stored and no lane
of it counts as corrected (R264, R265; log 13). -/
def State.readCode (s : State) (n a : Nat) : Bytes × Bool × Bool × State :=
  let (ls, s) := s.readLanes n a 8
  let k := (ls.filter (·.fixed)).length
  if ls.any (·.lost) then (ls.flatMap (·.stored), false, true, s)
  else (ls.flatMap (·.value), k != 0, false, if k = 0 then s else s.count 0x9003 2 k)

/-- A read of one word of 64 bytes past the ports (R264, R265). -/
def State.readWord (s : State) (n a : Nat) (x : Ctx) : Bytes × State :=
  let c := s.clus n
  if c.upsets.isEmpty then (readMem c.floor a 64, s)
  else
    let (bs, _, lost, s) := s.readCode n a
    (bs, if lost then s.floorUe n a x else s)

/-- The word addresses that a range touches. -/
def wordsOf (a len : Nat) : List Nat :=
  if len = 0 then [] else (List.range ((a + len - 1) / 64 - a / 64 + 1)).map fun i => (a / 64 + i) * 64

/-- A read of a range through a port at a stamp, word by word; a losing read returns zeros (R248). -/
def State.floorRead (s : State) (n t port unit a len : Nat) (x : Ctx) : Bytes × State :=
  let s := s.reads n t a len (s.userLoc n unit) x
  let r := (wordsOf a len).foldl (fun (r : Bytes × State) w =>
    let (won, s) := r.2.takePort n t port unit w x
    if won then let (bs, s) := s.readWord n w x; (r.1 ++ bs, s) else (r.1 ++ List.replicate 64 0, s)) ([], s)
  ((r.1.drop (a % 64)).take len, r.2)

/-- A read of a range that takes no port cycle (R678, R153). -/
def State.floorPeek (s : State) (n a len : Nat) (x : Ctx) : Bytes × State :=
  let r := (wordsOf a len).foldl (fun (r : Bytes × State) w =>
    let (bs, s) := r.2.readWord n w x; (r.1 ++ bs, s)) ([], s)
  ((r.1.drop (a % 64)).take len, r.2)

/-- The masked bytes of a write into a memory. -/
def writeMasked (m : Mem) : Writes → Mem
  | [] => m
  | (a, b, k) :: ws =>
    writeMasked (writeByte m a (if k = 0xFF then b else (b &&& k) ||| (readByte m a &&& ~~~k))) ws

/-- A write into one lane that holds an upset (R242): a whole lane replaces it; otherwise one wrong bit is corrected
first, and a lane that is uncorrectable stores nothing. -/
def State.writeLane (s : State) (n l : Nat) (ws : Writes) : State × Bool :=
  let whole := (List.range 8).all fun i => ws.any fun w => w.1 == 8 * l + i && w.2.2 == 0xFF
  let put := fun (s : State) => s.modCl n fun c => { c with floor := writeMasked c.floor ws, upsets := tDel c.upsets l }
  if whole then (put s, false)
  else
    let (r, s) := s.readLane n (8 * l)
    if r.lost then (s, true)
    else
      let s := if r.fixed then s.count 0x9003 2 1 else s
      (put (s.modCl n fun c => { c with floor := writeMem c.floor (8 * l) r.value }), false)

/-- A write that lands in one word at a stamp: bytes stored lane by lane, the scrubber's write-back of the word cancelled unless it falls in
this very cycle (R247, R266), and a WRITABLE SETTLED set made DIRTY (R262). -/
def State.landWord (s : State) (n t a : Nat) (ws : Writes) (x : Ctx) : State :=
  let c := s.clus n
  let s := s.modCl n fun c => { c with scrub := c.scrub.filter fun e => e.1 != a || e.2.2 == some t }
  let s := (List.range 64).foldl (fun s k =>
    let r := s.resident k
    if r.state == .settled && r.flags.getLsbD 0 && r.meets n a 64 then s.modResident k fun r => { r with state := .dirty }
    else s) s
  if c.upsets.isEmpty then s.modCl n fun c => { c with floor := writeMasked c.floor ws }
  else
    let (s, ue) := (List.range 8).foldl (fun (r : State × Bool) i =>
      let l := a / 8 + i
      let lw := ws.filter fun w => w.1 / 8 == l
      match tGet (r.1.clus n).upsets l with
      | some _ => if lw.isEmpty then r else let (s, u) := r.1.writeLane n l lw; (s, r.2 || u)
      | none => (r.1.modCl n fun c => { c with floor := writeMasked c.floor lw }, r.2)) (s, false)
    if ue then s.floorUe n a x else s

/-- The words that a write touches, once each. -/
def writeWords (ws : Writes) : List Nat := (ws.map fun w => w.1 / 64 * 64).eraseDups

/-- A write through a port at a stamp, word by word; a losing write is dropped (R248). -/
def State.floorWrite (s : State) (n t port unit : Nat) (ws : Writes) (x : Ctx) : State :=
  (writeWords ws).foldl (fun s w =>
    let (won, s) := s.takePort n t port unit w x
    let s := s.overOperand n t w (s.userLoc n unit) x
    let s := if unit < uRemote then s.nearLands (n * 2 ^ 24 + w) else s
    if won then s.landWord n t w (ws.filter fun e => e.1 / 64 * 64 == w) x else s) s

/-- The write-backs of a scrubber that are left once a range has been written: R266 cancels those of the words that it meets. -/
def scrubLeft (l : Table (Bytes × Option Nat)) (a len : Nat) : Table (Bytes × Option Nat) :=
  l.filter fun e => !(decide (a < e.1 + 64) && decide (e.1 < a + len))

/-- A write past the ports: bank-to-floor loads and clears while no routine runs. It cancels the write-backs of the words that it meets (R266). -/
def State.floorPoke (s : State) (n a : Nat) (bs : Bytes) : State :=
  s.modCl n fun c =>
    { c with floor := writeMem c.floor a bs
             scrub := scrubLeft c.scrub a bs.length
             upsets := c.upsets.filter fun u => !(a ≤ 8 * u.1 && 8 * u.1 + 8 ≤ a + bs.length) }

end Sys2Proof.Machine
end

