-- ==== Sys2Proof/Machine/Paths.lean ====
section
/-! DEFINITION. The on-chip paths: the word slots that a word takes, void words, and the latencies of a pair
(09_movers_and_streams.md R267-R269; 03_routine.md R76, R77). -/

namespace Sys2Proof.Machine

/-- Regions of a die in ring order NW, NE, SE, SW, by region code (R267). -/
def ringPlace (code : Nat) : Nat := if code = 2 then 3 else if code = 3 then 2 else code

/-- A segment: its kind (0 aisle outward, 1 aisle inward, 2 ring up, 3 ring down, 4 region stop to bridge, 5 bridge, 6 bridge to
region stop) and its place; or a stop's buffer in one direction (7 ring stop, words that come up the ring; 8 ring stop, words that come
down; 9 ring stop, words from the bridge; 10 bridge stop outward; 11 bridge stop inward) with its region or die. -/
def seg (kind place : Nat) : Nat := kind * 64 + place

/-- Whether a place on a path is a stop's buffer (R269). -/
def isStop (g : Nat) : Bool := 7 ≤ g / 64

/-- The domain whose step time a stop keeps: its region, or its die clock. -/
def stopDomain (g : Nat) : Nat := if 10 ≤ g / 64 then 8 + g % 64 else g % 64

/-- The location word of a segment or a stop (R22, R420): the aisle of a region, the region ring of a die, a die's half of the bridge. -/
def segLoc (g : Nat) : Nat :=
  let p := g % 64
  let k := g / 64
  if k ≤ 1 then locRegion (p / 6) 3 0
  else if k = 5 || 10 ≤ k then locDie p 4 0
  else locDie (p / 4) 5 0

/-- The aisle segments from a position to the ring stop, with the cycle of each. -/
def aisleIn (r p t : Nat) : List (Nat × Nat) := (List.range p).map fun i => (seg 1 (r * 6 + (p - 1 - i)), t + 2 * i)

/-- The aisle segments from the ring stop to a position. -/
def aisleOut (r p t : Nat) : List (Nat × Nat) := (List.range p).map fun i => (seg 0 (r * 6 + i), t + 2 * i)

/-- The word slots and the stops of the path between two logical clusters for a word sent at a stamp: 2 cycles per aisle segment, 16 per
ring hop, 24 across the bridge (R267-R269). A pair of opposite regions takes the ring by way of the next region in ring order (log 17). -/
def State.slotsOf (s : State) (a b t : Nat) : List (Nat × Nat) :=
  let p := s.phys a
  let q := s.phys b
  let ra := p / 6
  let rb := q / 6
  let ps := p % 6
  let pd := q % 6
  if ra = rb then
    if ps ≤ pd then (List.range (pd - ps)).map fun i => (seg 0 (ra * 6 + ps + i), t + 2 * i)
    else (List.range (ps - pd)).map fun i => (seg 1 (ra * 6 + (ps - 1 - i)), t + 2 * i)
  else
    let u := t + 2 * ps
    if ra / 4 = rb / 4 then
      let x := ringPlace (ra % 4)
      let y := ringPlace (rb % 4)
      let up := (y + 4 - x) % 4
      let die := ra / 4 * 4
      let ring := if up ≤ 2 then (List.range up).flatMap fun i =>
          [(seg 2 (die + (x + i) % 4), u + 16 * i), (seg 7 (die + ringPlace ((x + i + 1) % 4)), u + 16 * (i + 1))]
        else [(seg 3 (die + x), u), (seg 8 rb, u + 16)]
      aisleIn ra ps t ++ ring ++ aisleOut rb pd (u + 16 * (if up ≤ 2 then up else 1))
    else
      aisleIn ra ps t ++ [(seg 4 ra, u), (seg 10 (ra / 4), u + 16), (seg 5 (ra / 4), u + 16), (seg 11 (rb / 4), u + 40), (seg 6 rb, u + 40),
        (seg 9 rb, u + 56)] ++ aisleOut rb pd (u + 56)

/-- Words that a segment passes in one cycle and direction: the bridge has four lanes (R267). -/
def segWidth (g : Nat) : Nat := if g / 64 = 5 then 4 else 1

/-- Words that the buffer of a stop holds in one direction (R269). -/
def stopRoom : Nat := 64

/-- Puts a word in the order of the sources, after those of its own source. -/
def insertSlot (e : PathSlot) : List PathSlot → List PathSlot
  | [] => [e]
  | x :: l => if e.src < x.src then e :: x :: l else x :: insertSlot e l

/-- A word becomes void, once (R268). -/
def State.voidWord (s : State) (word : Nat) : State :=
  if s.voids.contains word then s else ({ s with voids := s.voids ++ [word] }).count 0x9003 3 1

/-- Two words meet on a segment, the one of the command pushed later reported with its unit first (R419-R421); the report of a full stop
names one word twice. -/
def State.wordsMeet (s : State) (a b : PathSlot) : State :=
  let (x, y) := if a.ctx.earlier b.ctx then (b, a) else (a, b)
  s.hazard (s.stampAt (s.regionOf x.src) x.t x.ctx) 1 1 x.loc y.loc (3 * 2 ^ 62 + segLoc x.seg)

/-- A word comes to a stop: where 64 words wait there in its direction for their planned cycle, it becomes void (R269; log 17). -/
def State.takeStop (s : State) (e : PathSlot) : State :=
  let waits := fun (o : PathSlot) => o.seg == e.seg && decide (o.arr ≤ e.arr) && decide (e.arr < o.t)
  let full := decide (e.arr < e.t) && decide (stopRoom ≤ (s.paths.filter waits).length)
  let s := { s with paths := s.paths ++ [e] }
  if full then (s.voidWord e.word).wordsMeet e e else s

/-- A word takes a word slot: the words of the lowest sources pass, one per cycle or four on the bridge, and every other is void. A void word
keeps its slots (R267, R268). -/
def State.takeSlot (s : State) (e : PathSlot) : State :=
  let here := s.paths.filter fun o => o.seg == e.seg && o.t == e.t
  let order := insertSlot e (here.foldl (fun l o => insertSlot o l) [])
  let lost := order.drop (segWidth e.seg)
  let s := { s with paths := s.paths ++ [e] }
  match lost, order[segWidth e.seg - 1]? with
  | o :: _, some p => if lost.contains e then (s.voidWord e.word).wordsMeet e p else (s.voidWord o.word).wordsMeet o e
  | _, _ => s

/-- The number of a word that a unit of a cluster sends at a stamp to clusters, once its word slots are taken; slots long past are
forgotten. A stop whose clock is behind its sender's step time holds a word from its coming in until its planned cycle. -/
def State.sendWord (s : State) (n loc t : Nat) (dsts : List Nat) (x : Ctx) : Nat × State :=
  let low := s.dom.toList.foldl (fun m d => min m d.nt) t
  let (word, s) := s.fresh
  let word := word + 1
  let s := { s with paths := s.paths.filter fun e => decide (low ≤ e.t + 4) }
  (word, ((dsts.flatMap fun d => s.slotsOf n d t).eraseDups).foldl (fun s g =>
    let e : PathSlot := { seg := g.1, t := g.2, arr := (s.domN (stopDomain g.1)).nt + (g.2 - t), src := n, word, loc, ctx := x }
    if isStop g.1 then s.takeStop e else s.takeSlot { e with arr := 0 }) s)

/-- Whether a word that arrives is void (R268). -/
def State.isVoid (s : State) (word : Nat) : Bool := word != 0 && s.voids.contains word

/-- The cycles that a planned transfer between two clusters takes: within a region those of R249, otherwise the latency-table
entry (R76, R77). -/
def State.planned (s : State) (n dst : Nat) : Nat :=
  if s.regionOf n = s.regionOf dst then s.pathLat n dst else (s.latEntry n dst).getD 0

end Sys2Proof.Machine
end

