-- ==== Sys2Proof/Machine/Direct.lean ====
section
/-! DEFINITION. DIRECT traffic: writes into the floors of other clusters, their landing registers, FINAL transfers and
acknowledgements (10_memory_model.md R321-R326; 08_floor.md R249; 01_levels.md R30). -/

namespace Sys2Proof.Machine

/-- Registers the writes of a command that its sender has pushed: how many, by which engine, to which cluster (R321, R322). -/
def State.owe (s : State) (n id engine dst addr left : Nat) (x : Ctx) : State :=
  (s.farCmd { key := 2 * id, origin := n, engine, dsts := [dst], addr := some addr, ctx := x, loc := s.locLc n (if engine = 1 then 2 else 6) 0 }).modCl n fun c => { c with unacked := c.unacked ++ [{ id, engine, dst, addr, left }] }

/-- Forgets the writes of a command that makes none. -/
def State.unowe (s : State) (n id : Nat) : State :=
  (s.modCl n fun c => { c with unacked := c.unacked.filter (·.id != id) }).modDoms fun d =>
    { d with gates := d.gates.filter (·.2 != id) }

/-- An acknowledgement of a DIRECT write reaches its sender (R321). -/
def State.acked (s : State) (n id : Nat) : State :=
  s.modCl n fun c =>
    { c with unacked := (c.unacked.map fun o => if o.id = id then { o with left := o.left - 1 } else o).filter (·.left != 0) }

/-- The acknowledgement of a write that has landed or was dropped leaves for its sender (R321). -/
def State.sendAck (s : State) (l : Landing) : State := { s with acks := s.acks ++ [.direct l.origin l.id] }

/-- Whether two clusters share a region. -/
def State.near (s : State) (a b : Nat) : Bool := s.regionOf a == s.regionOf b

/-- The stamp at which a write sent at `t` lands: over the aisle in R249's cycles, otherwise at the planned latency. -/
def State.landAt (s : State) (n dst t : Nat) : Nat :=
  t + s.planned n dst

/-- A landing register of the receiver awaits a write that a started command will send (R30, R50). -/
def State.expect (s : State) (n dst t id : Nat) : State :=
  if s.near n dst then s
  else s.modDom (s.regionOf dst) fun d => { d with gates := d.gates ++ [(s.landAt n dst t, id)] }

/-- A cluster sends a DIRECT write at a stamp (R249, R268, R321). -/
def State.sendDirect (s : State) (n dst t : Nat) (l : Landing) : State :=
  let at_ := s.landAt n dst t
  let (word, s) := s.sendWord n (s.locLc n l.eng 0) t [dst] l.ctx
  let s := s.modDom (s.regionOf dst) fun d => { d with gates := d.gates.erase (at_, l.id) }
  s.post (s.regionOf dst) at_ phGw (100 + n) (.land dst { l with word })

/-- The bytes of a write land through GW, and the write is acknowledged (R248, R321). -/
def State.landNow (s : State) (n t : Nat) (l : Landing) : State :=
  let s := s.wrote l.origin n l.ctx l.part
  let s := (writeWords l.writes).foldl (fun (s : State) a =>
    s.farLands (s.regionOf n) t (2 * l.id) none l.final.isSome (n * 2 ^ 24 + a) l.ctx) s
  (s.floorWrite n t pGW (remoteUser l.origin l.eng) l.writes l.ctx).sendAck l

/-- Lands the held FINAL writes of an origin whose count has been reached (R325). -/
def State.releaseFinal (s : State) (n t origin : Nat) : State :=
  let c := s.clus n
  match c.slots.find? fun e => e.2.l.origin == origin && e.2.n ≤ (tGet c.landed origin).getD 0 + 1 with
  | some (tid, h) =>
    let s := s.modCl n fun c => { c with slots := tDel c.slots tid, landed := tPut c.landed origin 0 }
    s.landNow n t h.l
  | none => s

/-- A DIRECT write reaches a floor; a void word carries zeros (R249, R268, R325, R326; log 17). -/
def State.landDirect (s : State) (n t : Nat) (l : Landing) : State :=
  let l := if s.isVoid l.word then { l with writes := l.writes.map fun w => (w.1, 0, w.2.2) } else l
  match l.final with
  | none =>
    let s := s.landNow n t l
    if l.counts then
      (s.modCl n fun c => { c with landed := tMod c.landed l.origin 0 (· + 1) }).releaseFinal n t l.origin
    else s
  | some (tid, need) =>
    let c := s.clus n
    match tGet c.slots tid with
    | some h =>
      let a := ((l.writes.head?).map (·.1)).getD 0
      (((s.count 0x9004 2 1).wrote l.origin n l.ctx l.part).hazard (s.stampAt (s.regionOf n) t l.ctx) 1 4 (s.locLc l.origin l.eng 0)
        (s.locLc h.l.origin h.l.eng 0) (n * 2 ^ 24 + a / 64 * 64)).sendAck l
    | none =>
      (s.modCl n fun c => { c with slots := tPut c.slots tid { l, n := need, since := s.beat.boundaries } }).releaseFinal n t
        l.origin

/-- A FINAL write that a slot still holds at the 4,096th beat boundary after it arrived: a unit fault (R326). Its record
names floor bank 0 of the receiving cluster, since the landing unit has no UNIT code (DESIGN CHOICE, log 109). -/
def State.finalTimeout (s : State) (n tid : Nat) : State :=
  match tGet (s.clus n).slots tid with
  | some h =>
    if h.since + 4096 ≤ s.beat.boundaries then
      let loc := s.locLc n 3 0
      let s := s.modCl n fun c => { c with slots := tDel c.slots tid }
      s.unitFault n 5 loc h.l.ctx (s.locLc h.l.origin 0 0) [BitVec.ofNat 8 tid, BitVec.ofNat 8 h.l.origin]
    else s
  | none => s

end Sys2Proof.Machine
end

