-- ==== Sys2Proof/Machine/Amax.lean ====
section
/-! DEFINITION. The amax store, STEP and delayed scaling (07_training_numerics.md R227-R233). -/

namespace Sys2Proof.Machine

/-- A slot of the amax store. -/
def Cluster.amaxSlot (c : Cluster) (q : Nat) : Option AmaxSlot := if h : q < 32 then c.amax[q] else none

/-- Changes a slot of the amax store. -/
def Cluster.setAmax (c : Cluster) (q : Nat) (v : Option AmaxSlot) : Cluster :=
  { c with amax := vmod c.amax q fun _ => v }

/-- A history entry of a slot. -/
def AmaxSlot.entry (a : AmaxSlot) (h : Nat) : BitVec 16 := if p : h % 16 < 16 then a.hist[h % 16] else 0

/-- The largest history entry of the window before a step (R233). -/
def AmaxSlot.largest (a : AmaxSlot) (step : Nat) : BitVec 16 :=
  (List.range a.window).foldl (fun (m : BitVec 16) i => max16 m (a.entry ((step + 2 ^ 32 - 1 - i) % 16)))
    (a.entry ((step + 2 ^ 32 - 1) % 16))

/-- The output scale code that an amax slot gives for a destination format (R233). -/
def Cluster.amaxCode (c : Cluster) (q fmt : Nat) : Nat :=
  match c.amaxSlot q with
  | some a => scaleCode fmt (a.largest c.stepReg.toNat) a.margin
  | none => 127

/-- STEP takes a value: when it changes, every bound slot moves its current entry into history (R227, R231). -/
def Cluster.setStep (c : Cluster) (v : BitVec 32) : Cluster :=
  if v = c.stepReg then c
  else
    let m := c.stepReg.toNat % 16
    { c with
      stepReg := v
      amax := c.amax.map fun o => o.map fun (a : AmaxSlot) =>
        { a with cur := 0, hist := if h : m < 16 then a.hist.set m a.cur else a.hist } }

/-- A figure delivers an amax value: every slot bound to its tensor takes the larger; with no such slot it is counted
(R231, R232). -/
def State.amaxDeliver (s : State) (n : Nat) (tensor : BitVec 32) (v : BitVec 16) : State :=
  let bound := (s.clus n).amax.toList.any fun o => o.any fun a => a.tensor == tensor
  if bound then
    s.modCl n fun c => { c with amax := c.amax.map fun o => o.map fun (a : AmaxSlot) =>
      if a.tensor = tensor then { a with cur := max16 a.cur v } else a }
  else s.count 0x9002 2 1

/-- The 64-byte record of a slot (R229). -/
def AmaxSlot.record (a : AmaxSlot) (step : BitVec 32) : Bytes :=
  leBytes 4 a.tensor.toNat ++ [BitVec.ofNat 8 a.window, BitVec.ofNat 8 a.margin] ++ List.replicate 6 0
    ++ leBytes 4 step.toNat ++ a.hist.toList.flatMap (fun e => leBytes 2 e.toNat) ++ leBytes 2 a.cur.toNat
    ++ List.replicate 14 0

/-- A byte field of a record. -/
def recField (r : Bytes) (off n : Nat) : Nat := leNat ((r.drop off).take n)

/-- Whether a record passes the check of a LOAD (R230). -/
def amaxOk (r : Bytes) : Bool :=
  1 ≤ recField r 4 1 && recField r 4 1 ≤ 16 && recField r 5 1 ≤ 15 && recField r 6 6 == 0 && recField r 0x32 14 == 0

/-- The slot that a record describes (R229). -/
def amaxOf (r : Bytes) : AmaxSlot :=
  { tensor := BitVec.ofNat 32 (recField r 0 4), window := recField r 4 1, margin := recField r 5 1
    cur := BitVec.ofNat 16 (recField r 0x30 2)
    hist := Vector.ofFn fun i => BitVec.ofNat 16 (recField r (0x10 + 2 * i) 2) }

/-- A slot merged with a record (R229). -/
def AmaxSlot.merge (a r : AmaxSlot) : AmaxSlot :=
  { a with cur := max16 a.cur r.cur, hist := a.hist.zipWith max16 r.hist }

/-- The record of a LOAD or MERGE arrives; a MERGE whose slot has been unbound since its push changes and counts nothing (R230, R392; log 45). -/
def State.amaxTake (s : State) (n q : Nat) (merge : Bool) (r : Bytes) (x : Ctx) : State :=
  if merge then
    match (s.clus n).amaxSlot q with
    | none => s
    | some a =>
      if BitVec.ofNat 32 (recField r 0 4) = a.tensor then s.modCl n fun c => c.setAmax q (some (a.merge (amaxOf r)))
      else s.count 0x9002 1 1
  else if amaxOk r then s.modCl n fun c => c.setAmax q (some (amaxOf r))
  else s.skipLog x rRange (s.locLc n 0 0)

/-- A LOAD or MERGE reads its record through GR, and takes it after the read latency of its bank (R246, R392). -/
def State.amaxGot (s : State) (n t q : Nat) (merge : Bool) (addr : Nat) (data : Option Bytes) (x : Ctx) : State :=
  match data with
  | none =>
    let (b, s) := s.floorRead n t pGR uCaller addr 64 x
    s.post (s.regionOf n) (t + tierOf addr) phRead 9 (.amaxGot n q merge addr (some b) x)
  | some r => s.amaxTake n q merge r x

end Sys2Proof.Machine
end

