-- ==== Sys2Proof/Machine/Moves.lean ====
section
/-! DEFINITION. The moves of the vector engine on one vector of 512 lanes (06_vector_engine.md R178-R214;
07_training_numerics.md R218, R240). -/

namespace Sys2Proof.Machine

/-! ## Move words -/

/-- A decoded move word (R181). -/
structure Move where
  op : Nat
  dst : Nat
  sa : Nat
  sb : Nat
  sc : Nat
  sub : Nat
  mc : Nat
  across : Bool
  side : Bool
  idxy : Bool
  grp : Nat
  k : Nat
  scode : Nat
  imm : Nat
  deriving DecidableEq, Repr

/-- The fields of a move word (R181). -/
def moveOf (w : BitVec 64) : Move :=
  let v := w.toNat
  { op := bits v 63 58, dst := bits v 57 55, sa := bits v 54 50, sb := bits v 49 45, sc := bits v 44 40
    sub := bits v 39 37, mc := bits v 36 35, across := bit v 34, side := bit v 33, idxy := bit v 32
    grp := bits v 31 28, k := bits v 27 24, scode := bits v 23 16, imm := bits v 15 0 }

/-- A move word that is absent (R183). -/
def Move.absent (m : Move) : Bool := m.op == 0x3F

/-- An operand selector that is not reserved (R183). -/
def selOk (s : Nat) : Bool := s < 10 || 16 ≤ s

/-- Which fields a move uses: SA, SB, SC, SUB, MC, the reduction flags, GRP, K, SCODE, IMM. -/
structure Uses where
  dst : Bool := true
  sa : Bool := true
  sb : Bool := false
  sc : Bool := false
  sub : Bool := false
  mc : Bool := false
  red : Bool := false
  k : Bool := false
  scode : Bool := false
  imm : Bool := false

/-- The fields of each move, none for a reserved OP or SUB (R198-R211, R218, R240). -/
def Move.uses (m : Move) : Option Uses :=
  let op := m.op
  if op = 0 || op = 8 || op = 9 then some {}
  else if (1 ≤ op && op ≤ 3) || (5 ≤ op && op ≤ 7) then some { sb := true }
  else if op = 4 then some { sb := true, sc := true }
  else if op = 0x0A then if m.sub < 6 then some { sb := true, sc := true, sub := true } else none
  else if 0x10 ≤ op && op ≤ 0x13 then some {}
  else if op = 0x18 then some { k := true, scode := true }
  else if op = 0x19 then some { scode := true }
  else if op = 0x1A then if m.sub < 6 then some { sb := true, sub := true, mc := true } else none
  else if op = 0x1B then some { mc := true, imm := true }
  else if op = 0x20 then some { sb := true }
  else if op = 0x21 then
    if m.sub = 0 || m.sub = 3 then some { sub := true }
    else if m.sub = 2 then some { sub := true, sb := true }
    else if m.sub = 1 || m.sub = 4 || m.sub = 5 then some { sub := true, imm := true } else none
  else if op = 0x22 || op = 0x23 then some {}
  else if op = 0x28 then some { sub := true, red := true }
  else if op = 0x29 then some { red := true, k := true }
  else if op = 0x2A then if m.sub < 6 then some { sb := true, sub := true, imm := true } else none
  else if op = 0x2C then some { dst := false, k := true, scode := true }
  else if op = 0x2D then some { sa := false, k := true }
  else none

/-- Whether a present move holds a reserved value, a non-zero unused field, or a breach of R214 (R215). -/
def Move.bad (m : Move) : Bool :=
  match m.uses with
  | none => true
  | some u =>
    let kOk := if m.op = 0x29 then 1 ≤ m.k && m.k ≤ 8 else if m.op = 0x18 then 1 ≤ m.k && m.k ≤ 5 else m.k < 4
    let immOk := if m.op = 0x1B || m.op = 0x2A then m.imm < 16 else m.imm < 512
    !((if u.dst then m.dst < 5 else m.dst == 0) && (if u.sa then selOk m.sa else m.sa == 0)
      && (if u.sb then selOk m.sb else m.sb == 0) && (if u.sc then selOk m.sc else m.sc == 0)
      && (u.sub || m.sub == 0) && (if u.mc then m.mc < 3 else m.mc == 0)
      && (if u.red then m.grp < 10 else !m.across && !m.side && !m.idxy && m.grp == 0)
      && (if u.k then kOk else m.k == 0) && (u.scode || m.scode == 0) && (if u.imm then immOk else m.imm == 0)
      && (!m.side || 5 ≤ m.grp) && (m.op != 0x29 || m.k ≤ 2 ^ m.grp) && !(m.op == 0x18 && m.k == 5 && m.scode != 0))

/-- The last present move of an entry. -/
def lastMove (ms : List Move) : Option Move := (ms.filter fun m => !m.absent).getLast?

/-- Whether the last present move is UPDATE. -/
def endsUpdate (ms : List Move) : Bool := (lastMove ms).any fun m => m.op == 0x2C

/-- Whether an entry is invalid for a destination format (R215), its side-record range apart. The other fields of an absent word are not looked
at (log 22). -/
def entryBad (ms : List Move) (dfmt : Nat) : Bool :=
  let present := ms.filter fun m => !m.absent
  present.any Move.bad || 1 < (present.filter (·.side)).length || (present.dropLast.any fun m => m.op == 0x2C)
    || (dfmt == 6) != endsUpdate ms

/-- Side-record groups of a move. -/
def Move.groups (m : Move) : Nat := 512 / 2 ^ m.grp

/-! ## Lanes -/

/-- The values of a vector in its 512 lanes. -/
abbrev Lanes := List (BitVec 16)

/-- A lane of a vector. -/
def Lanes.at (l : Lanes) (i : Nat) : BitVec 16 := (l[i]?).getD 0

/-- What one vector brings into stage 0. -/
structure VecIn where
  v : Nat
  last : Bool
  x : Lanes
  y : Lanes
  yraw : List Nat
  consts : List (BitVec 16)
  preds : BitVec 16
  /-- The output words y0[31:22] of the key slots of the entry's REEL moves, by lane. -/
  reel : Nat → List Nat
  elems : Nat

/-- A vector between two stages: working registers, P, masks, deposits, side records, carried results. -/
structure VecSt where
  w : List Lanes
  p : Lanes
  mask : List Bool
  deps : List (Nat × Bool) := []
  side : List Bytes := []
  accs : Table Acc
  sat : Bool := false

/-- An operand of a move (R183). -/
def operand (e : VecIn) (s : VecSt) (sel : Nat) : Lanes :=
  if sel = 0 then e.x else if sel = 1 then e.y else if sel = 2 then s.p
  else if 4 ≤ sel && sel ≤ 7 then (s.w[sel - 4]?).getD []
  else if sel = 8 then (List.range 512).map fun (i : Nat) => toH16 { n := i, k := 0 }
  else if sel = 9 then List.replicate 512 (toH16 { n := e.v, k := 0 })
  else if 16 ≤ sel then List.replicate 512 (canon ((e.consts[sel - 16]?).getD 0))
  else List.replicate 512 0

/-- The result of an element-wise move in one lane (R198-R200). -/
def lane1 (m : Move) (a b c : BitVec 16) : BitVec 16 :=
  if m.op = 1 then toH16 ((h16 a).add (h16 b))
  else if m.op = 2 then toH16 ((h16 a).add (h16 b).neg)
  else if m.op = 3 then toH16 ((h16 a).mul (h16 b))
  else if m.op = 4 then toH16 (((h16 a).mul (h16 b)).add (h16 c))
  else if m.op = 5 then div16 a b
  else if m.op = 6 then if ord16 a < ord16 b then b else a
  else if m.op = 7 then if ord16 b < ord16 a then b else a
  else if m.op = 8 then mag16 a
  else if m.op = 9 then canon (a ^^^ 0x8000)
  else if m.op = 0x10 then exp2H16 a
  else if m.op = 0x11 then log2H16 a
  else if m.op = 0x12 then rcp16 a
  else if m.op = 0x13 then rsqrt16 a
  else if m.op = 0x18 then
    if m.k = 5 then a else toH16 (scaledVal m.k (convertAt (h16 a) m.k m.scode) m.scode)
  else if m.op = 0x19 then toH16 ((h16 a).scale ((m.scode : Int) - 127))
  else a

/-- Three vectors lane by lane. -/
def zip3 (f : BitVec 16 → BitVec 16 → BitVec 16 → BitVec 16) (a b c : Lanes) : Lanes :=
  List.zipWith (fun x yz => f x yz.1 yz.2) a (List.zip b c)

/-- A rearranging move (R205). -/
def rearrange (m : Move) (a b : Lanes) (mask : List Bool) : Lanes :=
  let idx := List.range 512
  if m.op = 0x20 then idx.map fun i => a.at (min 511 (h16 (b.at i)).floor.toNat)
  else if m.op = 0x22 then
    let kept := (List.zip a mask).filterMap fun e => if e.2 then some e.1 else none
    kept ++ List.replicate (512 - kept.length) 0
  else if m.op = 0x23 then
    (mask.foldl (fun (r : Lanes × Nat) set => if set then (r.1 ++ [a.at r.2], r.2 + 1) else (r.1 ++ [0], r.2)) ([], 0)).1
  else if m.sub = 0 then a.reverse
  else if m.sub = 1 then idx.map fun i => a.at ((i + m.imm) % 512)
  else if m.sub = 2 then idx.map fun i => if i % 2 = 0 then a.at (i / 2) else b.at ((i - 1) / 2)
  else if m.sub = 3 then idx.map fun i => if i < 256 then a.at (2 * i) else a.at (2 * (i - 256) + 1)
  else if m.sub = 4 then List.replicate 512 (a.at m.imm)
  else idx.map fun i => a.at (i ^^^ m.imm)

/-- MC-combine of the mask of the lanes that hold an element (R201, R202). -/
def combine (mc elems : Nat) (mask new : List Bool) : List Bool :=
  (List.zip (List.range 512) (List.zip mask new)).map fun e =>
    e.1 < elems && (if mc = 0 then e.2.2 else if mc = 1 then e.2.1 && e.2.2 else e.2.1 || e.2.2)

/-! ## Reductions (R207-R213) -/

/-- Puts a candidate in its place among the best, of which `k` are kept: by value, then by index. -/
def insertBest (low : Bool) (k : Nat) (c : BitVec 16 × Nat) : List (BitVec 16 × Nat) → List (BitVec 16 × Nat)
  | [] => if k = 0 then [] else [c]
  | d :: ds =>
    let o := if low then ord16 c.1 - ord16 d.1 else ord16 d.1 - ord16 c.1
    if o < 0 || (o = 0 && c.2 < d.2) then (c :: d :: ds).take k else (d :: insertBest low (k - 1) c ds).take k

/-- The kind of a reduction: SUB of RED, 8 for TOPK. -/
def Move.kind (m : Move) : Nat := if m.op = 0x29 then 8 else m.sub

/-- One lane with its mask bit set enters a group's result. -/
def accLane (m : Move) (v i : Nat) (yraw : List Nat) (r : Acc) (a : BitVec 16) : Acc :=
  let kind := m.kind
  let r := { r with cnt := r.cnt + 1 }
  if kind = 0 || kind = 7 then { r with num := r.num + ((h16 a).scale 53).floor }
  else if kind = 6 then
    let x := h16 a
    if r.cnt = 1 then { r with num := x.n, exp := x.k } else { r with num := r.num * x.n, exp := r.exp + x.k }
  else if kind = 5 then r
  else
    let full := v * 2 ^ m.grp + i % 2 ^ m.grp
    let indexed := kind = 3 || kind = 4 || kind = 8
    let idx := if !indexed then 0 else if m.idxy then (yraw[i]?).getD 0 else min full 0xFFFE
    { r with
      best := insertBest (kind == 2 || kind == 4) (if kind = 8 then m.k else 1) (a, idx) r.best
      sat := r.sat || (indexed && !m.idxy && 0xFFFE < full) }

/-- The result of a group (R207, R212). R212 gives an empty PROD the code 0x4000, which is 2.0 under R156 (log 84). -/
def accValue (m : Move) (r : Acc) : BitVec 16 :=
  let kind := m.kind
  if kind = 0 then toH16 { n := r.num, k := -53 }
  else if kind = 5 then toH16 { n := r.cnt, k := 0 }
  else if kind = 6 then if r.cnt = 0 then 0x4000 else toH16 { n := r.num, k := r.exp }
  else if kind = 7 then if r.cnt = 0 || r.num = 0 then 0 else divH16 { n := r.num, k := -53 } { n := r.cnt, k := 0 }
  else match r.best with
    | (c, _) :: _ => c
    | [] => if kind = 2 || kind = 4 then 0x7FFF else 0xFFFF

/-- The side record of a group (R213). -/
def sideRecord (m : Move) (r : Acc) : Bytes :=
  let kind := m.kind
  let empty := r.cnt = 0
  let head :=
    if kind = 0 || kind = 7 then
      sumWord { s := BitVec.ofInt 112 r.num, flags := if empty then flagEmpty else 0 } 127
    else if kind = 3 || kind = 4 || kind = 8 then
      padTo 16 ((r.best.flatMap fun e => leBytes 2 e.2) ++ List.replicate 16 0xFF)
    else List.replicate 16 0
  head ++ leBytes 4 r.cnt ++ leBytes 2 (accValue m r).toNat ++ [BitVec.ofNat 8 (b2n empty + 2 * b2n r.sat)]
    ++ [BitVec.ofNat 8 kind] ++ List.replicate 8 0

/-- One group of a reduction: its lanes of the result, and its running result. -/
def reduceGroup (m : Move) (e : VecIn) (a : Lanes) (mask : List Bool) (q : Nat) (prev : Acc) : Lanes × Acc :=
  let g := 2 ^ m.grp
  let lanes := (List.range g).map (· + q * g)
  let r := lanes.foldl (fun r i => if (mask[i]?).getD false then accLane m e.v i e.yraw r (a.at i) else r) prev
  if m.op = 0x29 then
    (lanes.map fun i => if i % g < m.k then ((r.best[i % g]?).map (·.1)).getD 0xFFFF else a.at i, r)
  else (List.replicate g (accValue m r), r)

/-- A reduction or TOPK over all its groups, in stage `j`. -/
def reduceAll (m : Move) (j : Nat) (e : VecIn) (s : VecSt) (a : Lanes) : VecSt :=
  (List.range m.groups).foldl (fun (t : VecSt) q =>
    let key := j * 1024 + q
    let prev := if m.across then (tGet t.accs key).getD {} else {}
    let (ls, r) := reduceGroup m e a s.mask q prev
    { t with p := t.p ++ ls, accs := if m.across then tPut t.accs key r else t.accs, sat := t.sat || r.sat
             side := if m.side then t.side ++ [sideRecord m r] else t.side }) { s with p := [] }

/-! ## One stage, one vector -/

/-- The result of a move goes to P, and to the register that DST names (R183). -/
def VecSt.put (s : VecSt) (dst : Nat) (r : Lanes) : VecSt :=
  { s with p := r, w := if dst < 4 then s.w.set dst r else s.w }

/-- Whether a move sets the mask (R201). -/
def Move.setsMask (m : Move) : Bool := !m.absent && (m.op == 0x1A || m.op == 0x1B)

/-- Whether a move reads the mask before the write stage (R202). -/
def Move.readsMask (m : Move) : Bool := !m.absent && (m.op == 0x22 || m.op == 0x23 || m.op == 0x28 || m.op == 0x29)

/-- One move on a vector, in stage `j`; reductions, PACK and UNPACK go by `gov` where a later mask move gives it (R202; log 20). -/
def runMove (e : VecIn) (gov : Option (List Bool)) (s : VecSt) (j : Nat) (m : Move) : VecSt :=
  if m.absent then s
  else
    let a := operand e s m.sa
    let b := operand e s m.sb
    let c := operand e s m.sc
    let holds := fun (x y : BitVec 16) => condHolds m.sub (h16 x) (h16 y)
    if m.op = 0x0A then
      let old := if m.dst < 4 then (s.w[m.dst]?).getD [] else a
      s.put m.dst ((List.zip (List.zip a b) (List.zip c old)).map fun q => if holds q.1.1 q.1.2 then q.2.1 else q.2.2)
    else if m.op = 0x1A then
      ({ s with mask := combine m.mc e.elems s.mask (List.zipWith holds a b) }).put m.dst a
    else if m.op = 0x1B then
      let p := m.imm = 0 || e.preds.getLsbD m.imm
      ({ s with mask := combine m.mc e.elems s.mask (List.replicate 512 (decide p)) }).put m.dst a
    else if m.op = 0x2A then
      ({ s with deps := if e.last then s.deps ++ [(m.imm, holds (a.at 0) (b.at 0))] else s.deps }).put m.dst a
    else if m.op = 0x20 || m.op = 0x21 || m.op = 0x23 then s.put m.dst (rearrange m a b (gov.getD s.mask))
    else if m.op = 0x22 then
      let k := ((gov.getD s.mask).filter id).length
      ({ s with mask := (List.range 512).map fun i => decide (i < k) }).put m.dst (rearrange m a b (gov.getD s.mask))
    else if m.op = 0x28 || m.op = 0x29 then
      let t := reduceAll m j e { s with mask := gov.getD s.mask } a
      ({ t with mask := s.mask }).put m.dst t.p
    else if m.op = 0x2D then
      s.put m.dst ((e.reel m.k).map fun (y : Nat) => toH16 { n := y, k := -10 })
    else s.put m.dst (zip3 (lane1 m) a b c)

/-- The moves of some stages on a vector. -/
def runMoves (e : VecIn) (gov : Option (List Bool)) (s : VecSt) (ms : List (Nat × Move)) : VecSt :=
  ms.foldl (fun s jm => runMove e gov s jm.1 jm.2) s

/-- All moves of an entry on a vector (R177, R182). The mask after the last mask move governs the reductions, PACK and UNPACK that stand before
it too: it is formed first, with each of them under the mask at its own place, and then they run under it (R202; log 20). -/
def runVector (ms : List Move) (e : VecIn) (accs : Table Acc) : VecSt :=
  let zero : Lanes := List.replicate 512 0
  let s : VecSt := { w := [zero, zero, zero, zero], p := zero, accs
                     mask := (List.range 512).map fun i => decide (i < e.elems) }
  let all := List.zip (List.range 8) ms
  match (all.filter (·.2.setsMask)).getLast? with
  | none => runMoves e none s all
  | some (j, _) =>
    if (all.take j).any (·.2.readsMask) then
      let mask := (runMoves e none s (all.take (j + 1))).mask
      runMoves e none { runMoves e (some mask) s (all.take (j + 1)) with mask } (all.drop (j + 1))
    else runMoves e none s all

end Sys2Proof.Machine
end

