-- ==== Sys2Proof/Machine/Vector.lean ====
section
/-! DEFINITION. The vector engine: FIGURE and FTLOAD, their checks at the push and at the start cycle, reads, landings,
VX deliveries, UPDATE and bands (06_vector_engine.md; 07_training_numerics.md R218-R225; 12_commands.md R378-R382). -/

namespace Sys2Proof.Machine

/-! ## The queue -/

/-- Changes the vector engine of a cluster. -/
def State.modVx (s : State) (n : Nat) (f : Vx → Vx) : State := s.modCl n fun c => { c with vx := f c.vx }

/-- The VX figures that take deliveries or wait for them, in their order (R188). -/
def Vx.takers (v : Vx) : List Fig := v.figs.filter fun f => f.job.xmode == 1 && f.taken < f.job.v

/-- The figure and the vector to which each VX delivery to come falls, by stamp; one that comes before its figure's F + 10, or after the last
figure's last vector, falls to none (R188). A figure is given by its number, its F, its next vector and V. -/
def assignVx : List Nat → List (Nat × Nat × Nat × Nat) → List (Nat × Nat × Nat)
  | [], _ => []
  | l :: ls, fs =>
    match fs with
    | [] => []
    | (id, f, k, v) :: more =>
      if l < f + 10 then assignVx ls fs
      else (l, id, k) :: assignVx ls (if k + 1 < v then (id, f, k + 1, v) :: more else more)

/-- The VX deliveries to come with their figures and vectors (R188). -/
def Vx.assigned (v : Vx) : List (Nat × Nat × Nat) := assignVx (v.plan ++ v.ahead).mergeSort (v.takers.map fun f => (f.id, f.start, f.taken, f.job.v))

/-- The cycle after the last source read of a VX figure whose last delivery has a stamp: 9 cycles before it, unless its vectors need more than
one cycle each (R194, R197). -/
def Fig.vxFree (f : Fig) (l : Nat) : Nat := l - 10 + (f.job.v - 1) * (f.kr - 1) + f.kr

/-- The stamp from which the head of the queue may start, if it is known: after the last source read of the command before it (R180, R194). -/
def Vx.startAt (v : Vx) (x : Ctx) : Option Nat :=
  match v.takers.getLast? with
  | none => some (max (x.t + 8) v.free)
  | some f => (v.assigned.find? fun a => a.2.1 == f.id && a.2.2 + 1 == f.job.v).map fun a => max (x.t + 8) (max v.free (f.vxFree a.1))

/-- Schedules the head of a vector queue at its start cycle. -/
def State.schedVx (s : State) (n : Nat) : State :=
  let r := s.regionOf n
  let s := s.dropEvs r (·.k == .figStart n)
  let v := (s.clus n).vx
  match v.q with
  | [] => s
  | (x, _) :: _ => match v.startAt x with
    | some t => s.post r t phStart n (.figStart n)
    | none => s

/-- Pushes a command into a vector queue. -/
def State.enqueueVx (s : State) (n : Nat) (x : Ctx) (cmd : VxCmd) : State :=
  let s := s.modVx n fun v => { v with q := v.q ++ [(x, cmd)] }
  if (s.clus n).vx.q.length = 1 then s.schedVx n else s

/-- The array names the stamps of its VX deliveries ahead, so that Y is read 10 cycles before each and the next
start is known (R194). -/
def State.planVx (s : State) (n : Nat) (stamps : List Nat) : State :=
  let named := (s.clus n).vx.ahead
  let s := s.modVx n fun v => { v with plan := (v.plan ++ stamps).mergeSort, ahead := v.ahead.filter fun l => !stamps.contains l }
  let s := (stamps.filter fun l => !named.contains l).foldl (fun s l => s.post (s.regionOf n) (l - 10) phRead 2 (.vxRead n)) s
  s.schedVx n

/-- The VX deliveries of MDRAINs that have not started fall to new stamps: each has its read 10 cycles before it, and a vector whose delivery has
moved is read anew (R194). -/
def State.foreseeVx (s : State) (n : Nat) (stamps : List Nat) : State :=
  let old := (s.clus n).vx
  if stamps = old.ahead then s
  else
    let s := s.modVx n fun v => { v with ahead := stamps }
    let at_ := fun (v : Vx) (id k : Nat) => (v.assigned.find? fun a => a.2.1 == id && a.2.2 == k).map (·.1)
    let new := (s.clus n).vx
    let s := s.modVx n fun v => { v with figs := v.figs.map fun f =>
      { f with xin := f.xin.filter fun e => f.job.xmode != 1 || decide (e.1 < f.taken) || at_ old f.id e.1 == at_ new f.id e.1 } }
    let s := (stamps.filter fun l => !old.ahead.contains l).foldl (fun s l => s.post (s.regionOf n) (l - 10) phRead 2 (.vxRead n)) s
    s.schedVx n

/-! ## Operands -/

/-- Bytes of one vector of 512 elements in a format (R185, R219). -/
def vecBytes (fmt : Nat) : Nat := if fmt = 5 then 1024 else if fmt = 1 then 256 else 512

/-- Fields of a FIGURE (R378). -/
structure FigFields where
  v : Nat
  lastN : Nat
  xmode : Nat
  xfmt : Nat
  yfmt : Nat
  dfmt : Nat
  block : Bool
  order : Bool
  osel : Bool
  osc : Nat
  pen : Bool
  grp : Nat

/-- The fields of a FIGURE that several checks use. -/
def figFields (c : Cw) : FigFields :=
  { v := f0 c 41 34 + 1, lastN := f0 c 33 25 + 1, xmode := f0 c 24 23, xfmt := f0 c 22 20, yfmt := f0 c 19 17
    dfmt := f0 c 16 14, block := f0 c 12 12 == 1, order := f0 c 11 11 == 1, osel := f3 c 15 15 == 1
    osc := f3 c 14 7, pen := f3 c 3 3 == 1, grp := f3 c 6 4 }

/-- Word pairs of a MERGE figure (R378). -/
def FigFields.pairs (f : FigFields) : Nat := 64 * (f.v - 1) + f.lastN

/-- A parameter register of a FIGURE (R379). -/
def figParam (k : Caller) (f : FigFields) (i : Nat) : Nat := if f.pen then (k.reg (4 * f.grp + i)).toNat else 0

/-- Whether a FIGURE holds a reserved field (R366, R378, R379, R381). The MERGE form has no lanes with a mask, so that it uses neither WALL
nor AMX (log 84). -/
def figBad (k : Caller) (c : Cw) : Bool :=
  let f := figFields c
  let p0 := figParam k f 0
  let dpair := f.dfmt == 6 || f.dfmt == 7
  f0 c 4 0 != 0 || f3 c 2 0 != 0 || f.xmode == 3
    || (if f.xmode = 2 then
          f0 c 47 42 != 0 || f.xfmt != 0 || f.yfmt != 0 || f.order || dpair || 64 < f.lastN || f0 c 13 13 != 0 || f0 c 10 10 != 0
        else f.dfmt == 0 || (if f.xmode = 0 then !(1 ≤ f.xfmt && f.xfmt ≤ 5) else f.xfmt != 0 || f1 c 63 32 != 0)
          || 5 < f.yfmt || (f.yfmt == 0 && f1 c 31 0 != 0))
    || dpair != (f2 c 31 0 != 0) || (f.order && f.dfmt != 6) || (f.block && f.dfmt != 7)
    || (f3 c 63 52 != 0 && !scaled f.xfmt) || (f3 c 51 40 != 0 && !scaled f.yfmt)
    || (f3 c 39 28 != 0 && (f.dfmt == 0 || f.dfmt == 5)) || (f3 c 27 16 != 0 && f.dfmt != 7)
    || (f.osel && 32 ≤ f.osc) || (!f.pen && f.grp != 0)
    || 2 ^ 43 ≤ p0 || 2 ^ 32 ≤ figParam k f 1
    || exprBad (f1 c 63 32) || exprBad (f1 c 31 0) || exprBad (f2 c 63 32) || exprBad (f2 c 31 0)

/-- The operand values of a FIGURE: X, Y, D, D2, and their scale addresses (R367, R380). -/
structure FigVals where
  x : Int
  y : Int
  d : Int
  d2 : Int
  xs : Int
  ys : Int
  ds : Int
  d2s : Int

/-- The operand values of a FIGURE. -/
def figVals (k : Caller) (idx : List Nat) (c : Cw) : FigVals :=
  let e := fun w => exprVal k idx 64 w
  let x := e (f1 c 63 32)
  let y := e (f1 c 31 0)
  let d := e (f2 c 63 32)
  let d2 := e (f2 c 31 0)
  { x, y, d, d2, xs := x + 256 * sext 12 (f3 c 63 52), ys := y + 256 * sext 12 (f3 c 51 40)
    ds := d % 2 ^ 24 + 256 * sext 12 (f3 c 39 28), d2s := d2 % 2 ^ 24 + 256 * sext 12 (f3 c 27 16) }

/-- The ranges of a FIGURE that its fields fix: data and scale bytes of each destination (R185, R189, R219, R380). -/
def figDest (f : FigFields) : Nat × Nat :=
  if f.xmode = 2 then
    let n := f.pairs
    (if f.dfmt = 0 then 16 * n else if f.dfmt = 5 then 2 * n else if f.dfmt = 1 then (n + 1) / 2 else n,
      if scaled f.dfmt then (n + 31) / 32 else 0)
  else if f.order then (65536, 8 * ((f.v + 15) / 16))
  else (vecBytes f.dfmt * f.v, if f.dfmt = 5 then 0 else 16 * f.v)

/-- The reasons that the push check of a FIGURE finds (R117, R367, R379-R381). -/
def figReasons (s : State) (n : Nat) (x : Ctx) (c : Cw) : List (Nat × Bool) :=
  let k := s.caller n
  let f := figFields c
  let e := figVals k x.idx c
  let merge := f.xmode == 2
  let pair := f.dfmt == 6 || f.dfmt == 7
  let xLen := if merge then 16 * f.pairs else vecBytes f.xfmt * f.v
  let yLen := if merge then 16 * f.pairs else vecBytes f.yfmt * f.v
  let useX := f.xmode != 1
  let useY := merge || f.yfmt != 0
  let (dLen, dsLen) := figDest f
  let dn := qLc n e.d
  let d2n := qLc n e.d2
  let p0 := figParam k f 0
  let far := dn != n || (f.dfmt == 7 && d2n != n)
  [tailReason s x, (rField, figBad k c),
   (rRange, useX && !okF e.x xLen), (rRange, useX && scaled f.xfmt && !okBytes e.xs (16 * f.v)),
   (rRange, useY && !okF e.y yLen), (rRange, useY && scaled f.yfmt && !okBytes e.ys (16 * f.v)),
   (rRange, dsLen != 0 && !okBytes e.ds dsLen),
   (rRange, f.dfmt == 7 && !okBytes e.d2s (16 * f.v)),
   (rRange, f.order && (!okT e.d || !okT e.d2 || 128 < f.v)),
   (rRange, f.block && f.v % 32 != 0),
   (rRange, f.dfmt == 6 && (dn != n || d2n != n)),
   (rRange, p0 % 64 != 0), (rRange, p0.testBit 24 && dn == n),
   (rRange, far && ((dn != n && (s.latEntry n dn).isNone) || (f.dfmt == 7 && d2n != n && (s.latEntry n d2n).isNone))),
   (rRange, f.osel && ((s.clus n).amaxSlot f.osc).isNone),
   (rQueue, 8 ≤ (s.clus n).vx.q.length)]
    ++ s.stateReasons n ++ qReasons s n e.d dLen ++ (if pair then qReasons s n e.d2 (512 * f.v) else [])
    ++ (if dn = n then [] else s.stateReasons dn) ++ (if pair && d2n != n then s.stateReasons d2n else [])
    ++ [(rProt, useX && (protReason s n e.x xLen false).2), (rProt, useX && scaled f.xfmt && (protReason s n e.xs (16 * f.v) false).2),
        (rProt, useY && (protReason s n e.y yLen false).2), (rProt, useY && scaled f.yfmt && (protReason s n e.ys (16 * f.v) false).2),
        protReason s dn (e.d % 2 ^ 24) dLen true, protReason s dn e.ds dsLen true,
        (rProt, pair && (protReason s d2n (e.d2 % 2 ^ 24) (512 * f.v) true).2),
        (rProt, f.dfmt == 7 && (protReason s d2n e.d2s (16 * f.v) true).2)]

/-- The job of a FIGURE whose push check has passed (R203, R227, R233, R239, R379). -/
def figJob (s : State) (n : Nat) (x : Ctx) (c : Cw) (wid : Nat) : FigJob :=
  let k := s.caller n
  let f := figFields c
  let e := figVals k x.idx c
  let p0 := figParam k f 0
  let p3 := figParam k f 3
  { ctx := x, entry := f0 c 47 42, v := f.v, lastN := f.lastN, xmode := f.xmode, xfmt := f.xfmt, yfmt := f.yfmt
    dfmt := f.dfmt, wall := f0 c 13 13 == 1, block := f.block, tileOrder := f.order, amx := f0 c 10 10 == 1
    tkt := f0 c 9 5, x := e.x.toNat, y := e.y.toNat, d := e.d.toNat, d2 := e.d2.toNat, xs := e.xs.toNat
    ys := e.ys.toNat, ds := e.ds.toNat, d2s := e.d2s.toNat
    osc := if f.osel then (if scaled f.dfmt then (s.clus n).amaxCode f.osc f.dfmt else 127) else f.osc
    side := p0 % 2 ^ 24
    final := if p0.testBit 24 then some (bits p0 30 25, bits p0 42 31 + 1) else none
    tensor := BitVec.ofNat 32 (figParam k f 1)
    base := BitVec.ofNat 64 (figParam k f 2 + p3 % 2 ^ 16 * 2 ^ 48), pitch := BitVec.ofNat 32 (p3 / 2 ^ 16)
    unkept := BitVec.ofNat 16 ((List.range 16).foldl (fun m p => m + b2n (s.unkept n p) * 2 ^ p) 0)
    preds := BitVec.ofNat 16 ((List.range 16).foldl (fun m p => m + b2n (s.sample n p) * 2 ^ p) 0)
    stepReg := (s.clus n).stepReg, keys := k.keys, wid }

/-- The clusters that hold the destinations of a figure. -/
def FigJob.dn (j : FigJob) (n : Nat) : Nat := qLc n j.d
def FigJob.d2n (j : FigJob) (n : Nat) : Nat := if j.dfmt = 7 then qLc n j.d2 else j.dn n

/-- Whether the writes into the first, and into the second, destination are DIRECT traffic: its value is a cluster-qualified address (R378). -/
def FigJob.far (j : FigJob) : Bool := 2 ^ 24 ≤ j.d
def FigJob.far2 (j : FigJob) : Bool := if j.dfmt = 6 || j.dfmt = 7 then 2 ^ 24 ≤ j.d2 else j.far

/-- Whether both destinations take their writes together (R325). -/
def FigJob.joint (j : FigJob) (n : Nat) : Bool := j.d2n n == j.dn n && j.far2 == j.far

/-- The writes of a figure by vector: into its first destination with its scale bytes, and into its second (R185, R189, R219). -/
def FigJob.parts (j : FigJob) : List (Nat × Nat × Nat) × List (Nat × Nat × Nat) :=
  let d := j.d % 2 ^ 24
  let d2 := j.d2 % 2 ^ 24
  let vs := List.range j.v
  if j.xmode = 2 then
    let n := fun (v : Nat) => if v + 1 = j.v then j.lastN else 64
    let bytes := fun (k : Nat) => if j.dfmt = 0 then 16 * k else if j.dfmt = 5 then 2 * k else if j.dfmt = 1 then (k + 1) / 2 else k
    (vs.flatMap fun v => (v, d + bytes (64 * v), bytes (n v))
        :: (if scaled j.dfmt then [(v, j.ds + 2 * v, (n v + 31) / 32)] else []), [])
  else if j.dfmt = 6 || j.dfmt = 7 then
    (vs.flatMap fun v => (v, d + 512 * v, 512) :: (if j.tileOrder then [(v, j.ds + 8 * (v / 16), 8)] else [(v, j.ds + 16 * v, 16)]),
     vs.flatMap fun v => (v, d2 + 512 * v, 512) :: (if j.dfmt = 7 then [(v, j.d2s + 16 * v, 16)] else []))
  else
    (vs.flatMap fun v => (v, d + vecBytes j.dfmt * v, vecBytes j.dfmt)
        :: (if scaled j.dfmt then [(v, j.ds + 16 * v, 16)] else []), [])

/-- A FIGURE at its push (R378-R381): its destination writes are owed from here on (R322). -/
def State.pushFigure (s : State) (n : Nat) (x : Ctx) (c : Cw) : State :=
  s.judge x (s.locLc n 2 0) (firstReason (figReasons s n x c)) fun s =>
    let (wid, s) := s.fresh
    let (_, s) := s.fresh
    let j := figJob s n x c wid
    let s := s.owe n wid 1 (j.dn n) (j.d % 2 ^ 24) j.v x
    let s := if j.joint n then s else s.owe n (wid + 1) 1 (j.d2n n) (j.d2 % 2 ^ 24) j.v x
    let (p, q) := j.parts
    let s := if j.joint n then s.will n (j.dn n) x (s.locLc n 2 0) (p ++ q)
      else (s.will n (j.dn n) x (s.locLc n 2 0) p).will n (j.d2n n) x (s.locLc n 2 0) q
    s.enqueueVx n x (.figure j)

/-- The reasons that the push check of FTLOAD finds (R117, R366, R367). -/
def ftloadReasons (s : State) (n : Nat) (x : Ctx) (c : Cw) : List (Nat × Bool) :=
  let first := f0 c 47 42
  let m := f0 c 41 36 + 1
  let v := exprVal (s.caller n) x.idx 64 (f0 c 31 0)
  [tailReason s x, (rField, f0 c 35 32 != 0 || exprBad (f0 c 31 0)),
      (rRange, 64 < first + m || !okF v (128 * m)), protReason s n v (128 * m) false,
      (rQueue, 8 ≤ (s.clus n).vx.q.length)] ++ s.stateReasons n

/-- An FTLOAD at its push (R382). -/
def State.pushFtload (s : State) (n : Nat) (x : Ctx) (c : Cw) : State :=
  let first := f0 c 47 42
  let m := f0 c 41 36 + 1
  let v := exprVal (s.caller n) x.idx 64 (f0 c 31 0)
  s.judge x (s.locLc n 2 0) (firstReason (ftloadReasons s n x c)) fun s =>
    s.enqueueVx n x (.ftload first m v.toNat)

/-! ## Source reads -/

/-- A source range of one vector: the unit that reads it, address, bytes. -/
structure SrcSeg where
  unit : Nat
  addr : Nat
  len : Nat

/-- The source ranges of a vector: X and its scales, Y and its scales, and the M16 pair of an UPDATE (R185, R189, R219). -/
def Fig.segs (f : Fig) (v : Nat) : List SrcSeg :=
  let j := f.job
  if j.xmode = 2 then
    let len := if v + 1 = j.v then 16 * j.lastN else 1024
    [{ unit := uVecX, addr := j.x + 1024 * v, len }, { unit := uVecY, addr := j.y + 1024 * v, len }]
  else
    let src := fun (unit a sc fmt : Nat) =>
      ({ unit, addr := a + vecBytes fmt * v, len := vecBytes fmt } : SrcSeg)
        :: (if scaled fmt then [{ unit, addr := sc + 16 * v, len := 16 }] else [])
    (if j.xmode = 0 then src uVecX j.x j.xs j.xfmt else [])
      ++ (if j.yfmt = 0 then [] else src uVecY j.y j.ys j.yfmt)
      ++ (if endsUpdate (f.moves.map moveOf) && j.dfmt == 6 then
            [{ unit := uVecX, addr := j.d % 2 ^ 24 + 512 * v, len := 512 },
             { unit := uVecX, addr := j.d2 % 2 ^ 24 + 512 * v, len := 512 },
             { unit := uVecX, addr := if j.tileOrder then j.ds + 8 * (v / 16) else j.ds + 16 * v
               len := if j.tileOrder then 8 else 16 }]
          else [])

/-- The words of a vector's source ranges in reading order, with their unit. -/
def Fig.words (f : Fig) (v : Nat) : List (Nat × Nat) :=
  (f.segs v).flatMap fun g => (wordsOf g.addr g.len).map fun w => (g.unit, w)

/-- Cycles that the source bytes of a vector need (R197). -/
def Fig.cycles (f : Fig) : Nat := max 1 (((f.segs 0).foldl (fun t g => t + g.len) 0 + 2047) / 2048)

/-- The bytes of a source range out of the words read for the vector. -/
def segBytes (segs : List SrcSeg) (bs : Bytes) : List Bytes :=
  (segs.foldl (fun (r : List Bytes × Bytes) g =>
    let k := 64 * (wordsOf g.addr g.len).length
    (r.1 ++ [((r.2.take k).drop (g.addr % 64)).take g.len], r.2.drop k)) ([], bs)).1

/-- Elements of a vector of a figure: lanes that hold one (R182). -/
def FigJob.elems (j : FigJob) (v : Nat) : Nat :=
  if j.xmode = 1 then (if v + 1 = j.v then min 256 j.lastN else 256)
  else if v + 1 = j.v then j.lastN else 512

/-- Bytes of a vector of a plane pair: two planes of its elements, and the scale bytes of the groups of its band that hold an element (R191). -/
def FigJob.pairBytes (j : FigJob) (v : Nat) : Nat := 2 * j.elems v + 2 * ((j.elems (v / 32 * 32) + 31) / 32)

/-- Bytes of the side records that land with vector `v` (R213). -/
def Fig.sideBytes (f : Fig) (v : Nat) : Nat :=
  match (f.moves.map moveOf).find? fun m => !m.absent && m.side with
  | some m => if m.across && v + 1 != f.job.v then 0 else 32 * m.groups
  | none => 0

/-- Cycles of the delayed writes of a band that ends with vector `v`, with the side records that land with it (R191, R197). A lane that holds
an element counts whether its mask lets it be written or not (log 16). -/
def Fig.bandCycles (f : Fig) (v : Nat) : Nat :=
  let j := f.job
  let bytes := (List.range 32).foldl (fun t i => t + j.pairBytes (v - 31 + i)) 0
  max 1 ((bytes + f.sideBytes v + 2047) / 2048)

/-- Extra cycles by which the stamps of vector `v` have moved: wide reads, earlier bands, and the band of an earlier figure (R191, R197). -/
def Fig.shift (f : Fig) (v : Nat) : Nat := f.delay + (f.kr - 1) * v + (if f.job.block then v / 32 * (f.bandCycles 31 - 1) else 0)

/-- The stamp of the reads of vector `v` of a figure with a floor source (R194, R197). -/
def Fig.readAt (f : Fig) (v : Nat) : Nat := f.start + v + f.shift v

/-- The stamp of the landing of vector `v`. -/
def Fig.sendAt (f : Fig) (v : Nat) : Nat := f.readAt v + 62

/-- Reads a list of words through VR. -/
def State.readVr (s : State) (n t : Nat) (x : Ctx) (ws : List (Nat × Nat)) : Bytes × State :=
  ws.foldl (fun (r : Bytes × State) w =>
    let (b, s) := r.2.floorRead n t pVR w.1 w.2 64 x
    (r.1 ++ b, s)) ([], s)

/-- Changes a figure in the pipeline. -/
def State.modFig (s : State) (n id : Nat) (g : Fig → Fig) : State :=
  s.modVx n fun v => { v with figs := v.figs.map fun f => if f.id = id then g f else f }

/-- One cycle of the source reads of a vector (R194, R197, R219). VNEXT keeps V modulo 256 after the last vector's read until the next figure starts
(R216; log 84). -/
def State.figRead (s : State) (n t id v part : Nat) : State :=
  match (s.clus n).vx.figs.find? (·.id == id) with
  | none => s
  | some f =>
    let r := s.regionOf n
    let (b, s) := s.readVr n t f.job.ctx (((f.words v).drop (32 * part)).take 32)
    let s := s.modFig n id fun f => { f with xin := tMod f.xin v [] (· ++ b) }
    if f.job.xmode = 1 then s else
    let s := if part = 0 then
        (s.modVx n fun w => { w with vnext := BitVec.ofNat 8 (v + 1) }).post r (t + 62) phVw 1 (.figLand n id v)
      else s
    if part + 1 < f.kr then s.post r (t + 1) phRead 1 (.figRead n id v (part + 1))
    else if v + 1 < f.job.v then s.post r (f.readAt (v + 1)) phRead 1 (.figRead n id (v + 1) 0)
    else s

/-! ## Start -/

/-- A figure starts: its entry is copied and checked, and it runs or is skipped (R181, R215). Its bytes 0x60-0x7F are not looked at; side records
that would land in a protected resident set skip it with PROTECTION (R262); VX_STATUS shows a skipped figure's entry, and 0 for MERGE (log 84). -/
def State.startFigure (s : State) (n t : Nat) (j : FigJob) : State :=
  let e := if h : j.entry < 64 then (s.clus n).vx.entries[j.entry] else 0
  let moves := (List.range 8).map fun i => (e >>> (64 * i)).setWidth 64
  let consts := (List.range 16).map fun i => (e >>> (512 + 16 * i)).setWidth 16
  let ms := moves.map moveOf
  let merge := j.xmode == 2
  let side := ms.find? fun m => !m.absent && m.side
  let sideEnd := match side with
    | some m => j.side + 32 * m.groups * (if m.across then 1 else j.v)
    | none => 0
  let why := if merge then none
    else firstReason [(rField, entryBad ms j.dfmt), (rRange, 2 ^ 24 < sideEnd),
      (rProt, sideEnd ≤ 2 ^ 24 && j.side < sideEnd && s.protects n j.side (sideEnd - j.side) true)]
  let s := s.modVx n fun v => { v with figure := BitVec.ofNat 6 j.entry, vnext := 0 }
  match why with
  | some r =>
    let s := ((s.skipLog j.ctx r (s.locLc n 2 0)).vxFlag n vxInvalid).unowe n j.wid
    ((s.unowe n (j.wid + 1)).willNot n j.ctx).schedVx n
  | none =>
    let s := match side with
      | some m => s.will n n j.ctx (s.locLc n 2 0) (if m.across then [(1000 + (j.v - 1), j.side, 32 * m.groups)]
          else (List.range j.v).map fun v => (1000 + v, j.side + 32 * m.groups * v, 32 * m.groups))
      | none => s
    let used := if merge then [] else ms.filterMap fun m => if !m.absent && m.op == 0x1B then some m.imm else none
    let s := used.foldl (fun (s : State) p => if j.unkept.getLsbD p then
        let loc := s.locLc n 2 0
        s.hazard (s.stampAt (s.regionOf n) (j.ctx.t + 4) j.ctx) 2 1 loc loc ((s.predObj n p).getD (.mcue 0)).resource else s) s
    let (id, s) := s.fresh
    let f : Fig := { id, job := j, moves := if merge then [] else moves, consts, start := t, kr := 1, wid := j.wid }
    let f := { f with kr := f.cycles, delay := if j.xmode = 1 then 0 else (s.clus n).vx.wfree - (t + 62) }
    let s := s.modVx n fun v =>
      { v with figs := v.figs ++ [f], merge := v.merge || merge
               free := if j.xmode = 1 then v.free else f.readAt (j.v - 1) + f.kr
               wfree := if j.block && j.xmode != 1 then f.sendAt (j.v - 1) + f.bandCycles (j.v - 1) else v.wfree }
    let s := if j.xmode = 1 then s
      else
        let vs := List.range j.v
        let s := if j.dn n = n then s else vs.foldl (fun s v => s.expect n (j.dn n) (f.sendAt v) j.wid) s
        let s := if j.d2n n = n || j.joint n then s
          else vs.foldl (fun s v => s.expect n (j.d2n n) (f.sendAt v) (j.wid + 1)) s
        s.post (s.regionOf n) (f.readAt 0) phRead 1 (.figRead n id 0 0)
    s.schedVx n

/-- The head of a vector queue reaches its start cycle (R180, R194). -/
def State.figStart (s : State) (n t : Nat) : State :=
  let v := (s.clus n).vx
  match v.q with
  | [] => s
  | (x, cmd) :: rest => match v.startAt x with
    | none => s
    | some st =>
      if t < st then s.schedVx n
      else
        let s := s.modVx n fun v => { v with q := rest }
        match cmd with
        | .ftload first m src =>
          let s := s.modVx n fun v => { v with free := t + (m + 15) / 16 }
          (s.post (s.regionOf n) t phRead 1 (.ftRead n first m src x)).schedVx n
        | .figure j => s.startFigure n t j

/-- A read cycle of an FTLOAD: 16 entries through VR, usable 11 cycles later (R180). -/
def State.ftRead (s : State) (n t first left src : Nat) (x : Ctx) : State :=
  let k := min 16 left
  let (b, s) := s.floorRead n t pVR uVecX src (128 * k) x
  let es := (List.range k).map fun i => BitVec.ofNat 1024 (leNat ((b.drop (128 * i)).take 128))
  let s := s.post (s.regionOf n) (t + 10) phEnd 1 (.ftSet n first es)
  if 16 < left then s.post (s.regionOf n) (t + 1) phRead 1 (.ftRead n (first + 16) (left - 16) (src + 2048) x) else s

/-- Entries of the figure table become usable (R180). -/
def State.ftSet (s : State) (n first : Nat) (es : List (BitVec 1024)) : State :=
  (List.zip (List.range es.length) es).foldl (fun s e =>
    s.modVx n fun v => if h : first + e.1 < 64 then { v with entries := v.entries.set (first + e.1) e.2 } else v) s

/-! ## Elements of a vector -/

/-- The code of element `i` of a vector's bytes (R185). -/
def elemCode (fmt : Nat) (bs : Bytes) (i : Nat) : Nat :=
  if fmt = 5 then ((bs[2 * i]?).getD 0).toNat + 256 * ((bs[2 * i + 1]?).getD 0).toNat
  else if fmt = 1 then
    let b := ((bs[i / 2]?).getD 0).toNat
    if i % 2 = 0 then b % 16 else b / 16
  else ((bs[i]?).getD 0).toNat

/-- The H16 codes with which a vector's elements enter stage 0 (R184, R186). -/
def enter (fmt : Nat) (bs scales : Bytes) : Lanes :=
  (List.range 512).map fun i =>
    let c := elemCode fmt bs i
    if fmt = 5 then canon (BitVec.ofNat 16 c) else toH16 (scaledVal fmt c ((scales[i / 32]?).getD 0).toNat)

/-- The place of a vector's operand in the routine: cluster, bar since the start, beat, step cycle, vector, operand. -/
def State.lanePlace (s : State) (n : Nat) (x : Ctx) (v q : Nat) : List Nat := [n, barGap s.rt.firstBar x.bar, x.beat, x.cyc, v, q]

/-- The lanes from `e` on carry values that the manual leaves open (R182 gives them no element; log 15). -/
def openLanes (place : List Nat) (e : Nat) (l : Lanes) : Lanes :=
  (List.zip (List.range 512) l).map fun p => if p.1 < e then p.2 else canon (Config.openLane place (l.take e) p.1)

/-- The element index of a lane (R220, R240). -/
def FigJob.index (j : FigJob) (v i : Nat) : BitVec 64 :=
  j.base + BitVec.ofNat 64 (if j.tileOrder then (2 * v + i / 256) * j.pitch.toNat + i % 256 else 512 * v + i)

/-- A key of a figure. -/
def FigJob.key (j : FigJob) (k : Nat) : BitVec 64 := if h : k < 4 then j.keys[k] else 0

/-- What a vector of a figure brings into stage 0 (R182-R187, R203, R240). -/
def State.vecIn (s : State) (n : Nat) (f : Fig) (v : Nat) (segs : List Bytes) : VecIn :=
  let j := f.job
  let elems := j.elems v
  let sx := if j.xmode = 0 then (if scaled j.xfmt then 2 else 1) else 0
  let x := if j.xmode = 0 then openLanes (s.lanePlace n j.ctx v 0) elems (enter j.xfmt (segs.getD 0 []) (segs.getD 1 []))
    else
      let (a, sums) := (tGet f.vxin v).getD (0, [])
      let xs := sums.map fun q => toH16 (q.value a)
      openLanes (s.lanePlace n j.ctx v 0) 256 (xs ++ List.replicate (512 - xs.length) 0)
  let yb := segs.getD sx []
  let y := if j.yfmt = 0 then List.replicate 512 0
    else openLanes (s.lanePlace n j.ctx v 1) elems (enter j.yfmt yb (segs.getD (sx + 1) []))
  let reel := fun k => (List.range 512).map fun i =>
    (reelY0 (j.key k) j.stepReg j.tensor (j.base + BitVec.ofNat 64 (512 * v + i))).toNat / 2 ^ 22
  { v, last := v + 1 == j.v, x, y, consts := f.consts, preds := j.preds, reel, elems
    yraw := if j.yfmt = 0 then [] else (List.range 512).map (elemCode j.yfmt yb) }

/-! ## Write stage -/

/-- Bytes written into one floor: its cluster, and the masked bytes. -/
structure Out where
  dst : Nat
  ws : Writes

/-- A list of bytes of which some are written. -/
def pickWrites (a : Nat) (l : List (Nat × Bool)) : Writes :=
  (List.zip (List.range l.length) l).filterMap fun e =>
    if e.2.2 then some (a + e.1, BitVec.ofNat 8 e.2.1, 0xFF) else none

/-- The writes of a vector in an element format (R185, R190). -/
def elemWrites (fmt d ds v osc : Nat) (p : Lanes) (wl : List Bool) : Writes :=
  let codes := p.map fun c => convertAt (h16 c) fmt osc
  let lanes := List.zip codes wl
  if fmt = 5 then
    pickWrites (d + 1024 * v) (lanes.flatMap fun e => [(e.1 % 256, e.2), (e.1 / 256, e.2)])
  else if fmt = 1 then
    ((List.range 256).filterMap fun i =>
      let lo := lanes.getD (2 * i) (0, false)
      let hi := lanes.getD (2 * i + 1) (0, false)
      if lo.2 || hi.2 then
        some (d + 256 * v + i, BitVec.ofNat 8 (lo.1 + 16 * hi.1),
          BitVec.ofNat 8 ((if lo.2 then 15 else 0) + (if hi.2 then 240 else 0)))
      else none) ++ fullWrites (ds + 16 * v) (List.replicate 16 (BitVec.ofNat 8 osc))
  else pickWrites (d + 512 * v) lanes ++ fullWrites (ds + 16 * v) (List.replicate 16 (BitVec.ofNat 8 osc))

/-- The hi and lo writes of one vector of a plane pair, given eb of each of its 16 groups. `elems` bounds the lanes that hold an element in
some vector of the group (R141, R191). -/
def pairWrites (d ds d2 d2s v elems : Nat) (ebs : List Nat) (lanes : List (BitVec 16 × Bool)) : Writes × Writes :=
  let q := (List.zip (List.range 512) lanes).map fun e => (planeSplit (ebs.getD (e.1 / 32) 1) e.2.1, e.2.2)
  let sc := fun (off : Nat) => (List.range 16).map fun g => (ebs.getD g 1 + off, decide (32 * g < elems))
  (pickWrites (d + 512 * v) (q.map fun e => (e.1.1, e.2)) ++ pickWrites (ds + 16 * v) (sc 90),
   pickWrites (d2 + 512 * v) (q.map fun e => (e.1.2, e.2)) ++ pickWrites (d2s + 16 * v) (sc 83))

/-- eb of each group of vectors, over the lanes that are written (R191). -/
def groupEbs (rows : List (List (BitVec 16 × Bool))) : List Nat :=
  (List.range 16).map fun g =>
    planeEb (rows.flatMap fun r => ((r.drop (32 * g)).take 32).map fun e => if e.2 then e.1 else 0)

/-- The writes of an UPDATE in one vector (R220-R224): head plane with its scales, and tail plane. -/
def updateWrites (j : FigJob) (m : Move) (v elems : Nat) (st : VecSt) (head tail scales : Bytes) : Writes × Writes :=
  let d := j.d % 2 ^ 24
  let d2 := j.d2 % 2 ^ 24
  let sIdx := fun i => if j.tileOrder then i % 256 / 32 else i / 32
  let lanes := (List.range elems).filterMap fun i =>
    let on := (st.mask[i]?).getD false
    if m.scode = 0 && !on then none
    else
      let old := ((scales[sIdx i]?).getD 0).toNat
      let c := if m.scode = 0 then old else m.scode
      let w := m16Val ((head[i]?).getD 0).toNat ((tail[i]?).getD 0).toNat old
      let w := if on then w.add (h16 (st.p.at i)) else w
      let u := (reelY0 (j.key m.k) j.stepReg j.tensor (j.index v i)).toNat / 2 ^ 16
      some (i, updateRound (w.scale (127 - (c : Int))) u)
  let heads := lanes.map fun e => (d + 512 * v + e.1, BitVec.ofNat 8 e.2.1, (0xFF : Byte))
  let tails := lanes.map fun e => (d2 + 512 * v + e.1, BitVec.ofNat 8 e.2.2, (0xFF : Byte))
  let a := if j.tileOrder then j.ds + 8 * (v / 16) else j.ds + 16 * v
  let blocks := ((List.range elems).map sIdx).eraseDups
  let sc := if m.scode = 0 then [] else blocks.map fun b => (a + b, BitVec.ofNat 8 m.scode, (0xFF : Byte))
  (heads ++ sc, tails)

/-- The merged words of a MERGE vector, with their anchors (R189). -/
def mergeVec (x y : Bytes) (n : Nat) : List (Sum × Nat) × BitVec 8 :=
  let ws := (List.range n).map fun i =>
    let a := readSumWord ((x.drop (16 * i)).take 16)
    let b := readSumWord ((y.drop (16 * i)).take 16)
    (mergeSums a.1 a.2 b.1 b.2, a.1.flags ||| b.1.flags)
  (ws.map (·.1), ws.foldl (fun f w => f ||| w.2 ||| w.1.1.flags) 0)

/-- The writes of a MERGE vector: data and scale bytes, contiguous in element order (R189). -/
def mergeWrites (j : FigJob) (v : Nat) (ws : List (Sum × Nat)) : Writes :=
  let d := j.d % 2 ^ 24
  if j.dfmt = 0 then fullWrites (d + 1024 * v) (ws.flatMap fun w => sumWord w.1 w.2)
  else
    let codes := ws.map fun w => convertAt (w.1.value w.2) j.dfmt j.osc
    let n := codes.length
    let data : Writes :=
      if j.dfmt = 5 then fullWrites (d + 128 * v) (codes.flatMap fun c => leBytes 2 c)
      else if j.dfmt = 1 then (List.range ((n + 1) / 2)).map fun i =>
        (d + 32 * v + i, BitVec.ofNat 8 (codes.getD (2 * i) 0 + 16 * codes.getD (2 * i + 1) 0),
          if 2 * i + 1 < n then 0xFF else 0x0F)
      else fullWrites (d + 64 * v) (codes.map fun c => BitVec.ofNat 8 c)
    if scaled j.dfmt then data ++ fullWrites (j.ds + 2 * v) (List.replicate ((n + 31) / 32) (BitVec.ofNat 8 j.osc)) else data

/-- A write of a figure into the floor of a cluster: its own through VW; another, or its own by a cluster-qualified address, as a DIRECT write
(R321, R378). R325 counts those into another cluster's floor. -/
def State.figOut (s : State) (n t : Nat) (o : BandOut) : State :=
  if o.direct then
    s.sendDirect n o.dst t { ctx := o.ctx, origin := n, writes := o.writes, final := o.final, counts := o.dst != n, id := o.wid, part := o.part, eng := 2 }
  else ((s.wrote n n o.ctx o.part).floorWrite n t pVW uVecX o.writes o.ctx).acked n o.wid

/-- The writes of a vector leave the write stage: those into one floor together (R325). -/
def State.emitVec (s : State) (n t : Nat) (j : FigJob) (v : Nat) (last : Bool) (w1 w2 : Writes) : State :=
  let final := if last then j.final else none
  let dn := j.dn n
  let d2n := j.d2n n
  let o : BandOut := { ctx := j.ctx, dst := dn, writes := if j.joint n then w1 ++ w2 else w1, counts := true
                       final, tkt := 0, wid := j.wid, part := v, direct := j.far }
  let s := s.figOut n t o
  if j.joint n then s else s.figOut n t { o with dst := d2n, writes := w2, final := none, wid := j.wid + 1, direct := j.far2 }

/-- A part of the delayed writes of a band lands, and the last sets the figure's ticket (R191, R195). -/
def State.bandOut (s : State) (n t : Nat) (o : BandOut) : State :=
  let s := if o.counts then s.figOut n t o else s
  if o.tkt = 0 then s else s.setTicket n o.tkt

/-- The delayed writes of a band: from the landing stamp of its last vector on, behind the side records of that cycle, its vectors in order, each
in the cycle in which its last byte has room (R191, R197; log 16). -/
def State.emitBand (s : State) (n t : Nat) (f : Fig) (v : Nat) (rows : List (Nat × List (BitVec 16 × Bool))) : State :=
  let j := f.job
  let ebs := groupEbs (rows.map (·.2))
  let total := f.bandCycles v
  let r := s.regionOf n
  let dn := j.dn n
  let d2n := j.d2n n
  let (s, _) := rows.foldl (fun (q : State × Nat) w =>
    let off := q.2 + j.pairBytes w.1
    let cyc := min (total - 1) ((min off (2048 * total) - 1) / 2048)
    let (w1, w2) := pairWrites (j.d % 2 ^ 24) j.ds (j.d2 % 2 ^ 24) j.d2s w.1 (j.elems (v - 31)) ebs w.2
    let last := w.1 + 1 == j.v
    let o : BandOut := { ctx := j.ctx, dst := dn, writes := if j.joint n then w1 ++ w2 else w1, counts := true
                         final := if last then j.final else none, tkt := 0, wid := j.wid, part := w.1, direct := j.far }
    let s := q.1.post r (t + cyc) phVw 1 (.bandOut n o)
    (if j.joint n then s
     else s.post r (t + cyc) phVw 1 (.bandOut n { o with dst := d2n, writes := w2, final := none, wid := j.wid + 1, direct := j.far2 }),
     off)) (s, f.sideBytes v)
  if v + 1 = j.v then
    s.post r (t + total - 1) phEnd 1 (.bandOut n { ctx := j.ctx, dst := n, writes := [], counts := false, final := none
                                                   tkt := j.tkt, wid := 0 })
  else s

/-- The end of a figure with its last vector: deposits, amax, ticket (R193-R195, R204, R225). -/
def State.endFigure (s : State) (n t : Nat) (f : Fig) (deps : List (Nat × Bool)) (amax : BitVec 16) : State :=
  let j := f.job
  let s := deps.foldl (fun s d => s.deposit n t d.1 .vdep d.2) s
  let s := if j.amx && j.xmode != 2 && !endsUpdate (f.moves.map moveOf) then s.amaxDeliver n j.tensor amax else s
  let s := if j.block || j.tkt = 0 then s else s.setTicket n j.tkt
  s.modVx n fun v =>
    let figs := v.figs.filter (·.id != f.id)
    { v with figs, merge := figs.any (·.job.xmode == 2) }

/-- A vector of a MERGE figure lands (R189, R216, R643). -/
def State.landMerge (s : State) (n t : Nat) (f : Fig) (v : Nat) (segs : List Bytes) : State :=
  let j := f.job
  let last := v + 1 == j.v
  let (ws, flags) := mergeVec (segs.getD 0 []) (segs.getD 1 []) (if last then j.lastN else 64)
  let out := mergeWrites j v ws
  let s := (s.vxFlag n (vxOfFlags flags)).contribute n j.ctx (out.map (·.2.1))
  let s := s.emitVec n t j v last out []
  if last then s.endFigure n t f [] 0 else s

/-- A vector of a figure leaves its last stage: destination and side-record writes land (R190-R194, R213, R224). -/
def State.figLand (s : State) (n t id v : Nat) : State :=
  match (s.clus n).vx.figs.find? (·.id == id) with
  | none => s
  | some f =>
    let j := f.job
    let segs := segBytes (f.segs v) ((tGet f.xin v).getD [])
    if j.xmode = 2 then s.landMerge n t f v segs
    else
      let ms := f.moves.map moveOf
      let e := s.vecIn n f v segs
      let st := runVector ms e f.accs
      let last := v + 1 == j.v
      let amax := (List.zip st.p st.mask).foldl (fun (m : BitVec 16) q =>
        if q.2 && m.toNat < (mag16 q.1).toNat then mag16 q.1 else m) f.amax
      let wl := (List.zip (List.range 512) st.mask).map fun q => decide (q.1 < e.elems) && (q.2 || j.wall)
      let rows := List.zip st.p wl
      let s := s.modFig n id fun f =>
        { f with accs := st.accs, amax, xin := tDel f.xin v, vxin := tDel f.vxin v
                 band := if j.block then f.band ++ [(v, rows)] else [] }
      let s := if st.sat then s.vxFlag n vxIdxSat else s
      let s := match ms.find? fun m => !m.absent && m.side with
        | some m =>
          if m.across && !last then s
          else (s.wrote n n j.ctx (1000 + v)).floorWrite n t pVW uVecX
            (fullWrites (j.side + (if m.across then 0 else 32 * v * m.groups)) st.side.flatten) j.ctx
        | none => s
      let s :=
        if j.dfmt = 6 then
          let k := segs.length
          let (w1, w2) := updateWrites j ((lastMove ms).getD (moveOf 0)) v e.elems st (segs.getD (k - 3) [])
            (segs.getD (k - 2) []) (segs.getD (k - 1) [])
          s.emitVec n t j v last w1 w2
        else if j.dfmt = 7 then
          if j.block then
            if v % 32 = 31 then
              (s.emitBand n t f v (f.band ++ [(v, rows)])).modFig n id fun f => { f with band := [] }
            else s
          else
            let (w1, w2) := pairWrites (j.d % 2 ^ 24) j.ds (j.d2 % 2 ^ 24) j.d2s v e.elems (groupEbs [rows]) rows
            s.emitVec n t j v last w1 w2
        else s.emitVec n t j v last (elemWrites j.dfmt (j.d % 2 ^ 24) j.ds v j.osc st.p wl) []
      if last then s.endFigure n t f st.deps amax else s

/-! ## VX deliveries (R187, R188, R194) -/

/-- The stamp at which a vector of a VX figure lands whose delivery has a stamp (R194, R197). -/
def Fig.vxLand (f : Fig) (l k : Nat) : Nat := l + 52 + f.shift k

/-- A vector of a VX figure is read for its delivery at a stamp: what its landings move by is settled with vector 0, and each further cycle of
its reads follows; R30's registers await what it will send (R191, R194, R197). -/
def State.vxVector (s : State) (n t : Nat) (f : Fig) (l k : Nat) : State :=
  let j := f.job
  let f := if k = 0 then { f with delay := (s.clus n).vx.wfree - (l + 52) } else f
  let s := s.modFig n f.id fun g => { g with delay := f.delay, xin := tPut g.xin k [] }
  let land := f.vxLand l k
  let s := s.modVx n fun v =>
    { v with vnext := BitVec.ofNat 8 (k + 1), wfree := if j.block && k + 1 == j.v then land + f.bandCycles k else v.wfree }
  let s := if j.dn n = n then s else s.expect n (j.dn n) land j.wid
  let s := if j.d2n n = n || j.joint n then s else s.expect n (j.d2n n) land (j.wid + 1)
  (List.range f.kr).foldl (fun (s : State) p =>
    let at_ := t + (f.kr - 1) * k + p
    if at_ = t then s.figRead n t f.id k p else s.post (s.regionOf n) at_ phRead 1 (.figRead n f.id k p)) s

/-- The Y read of a VX figure, 10 cycles before the delivery of the vector, once (R194). -/
def State.vxRead (s : State) (n t : Nat) : State :=
  let v := (s.clus n).vx
  match v.assigned.find? (·.1 == t + 10) with
  | none => s
  | some (l, id, k) => match v.figs.find? (·.id == id) with
    | none => s
    | some f => if (f.xin.any fun e => e.1 == k) then s else s.vxVector n t f l k

/-- A VX delivery leaves the drain: the VX figure that takes deliveries takes it, or it is lost (R187, R188). -/
def State.vxDeliver (s : State) (n t : Nat) (x : Ctx) (anchor : Nat) (sums : List Sum) : State :=
  let s := s.modVx n fun v => { v with plan := v.plan.erase t }
  let lost := fun (s : State) =>
    let loc := s.locLc n 1 0
    ((s.count 0x9002 3 1).vxFlag n vxLost).hazard (s.stampAt (s.regionOf n) t x) 1 2 loc (s.locLc n 2 0) (3 * 2 ^ 62 + s.locLc n 2 0)
  match (s.clus n).vx.takers.head? with
  | none => lost s
  | some f =>
    if t < f.start + 10 then lost s
    else
      let k := f.taken
      let flags := sums.foldl (fun (g : BitVec 8) q => g ||| q.flags) 0
      let s := s.vxFlag n (vxOfFlags flags)
      let s := if (tGet f.xin k).isSome then s else s.vxVector n t f t k
      let s := s.modFig n f.id fun f => { f with taken := k + 1, vxin := tPut f.vxin k (anchor, sums) }
      let land := (((s.clus n).vx.figs.find? (·.id == f.id)).getD f).vxLand t k
      let s := s.post (s.regionOf n) land phVw 1 (.figLand n f.id k)
      if k + 1 = f.job.v then (s.modVx n fun v => { v with free := max v.free (f.vxFree t) }).schedVx n else s

end Sys2Proof.Machine
end

