-- ==== Sys2Proof/Machine/Matrix.lean ====
section
/-! DEFINITION. The matrix array: TLOAD, MSTREAM, MDSET and MDRAIN, their checks at the push and at the start cycle,
reads, contributions, drains and current steps (04_matrix_array.md; 12_commands.md R370-R377). -/

namespace Sys2Proof.Machine

/-- Changes the matrix array of a cluster. -/
def State.modMx (s : State) (n : Nat) (f : Matrix → Matrix) : State := s.modCl n fun c => { c with mx := f c.mx }

/-- A tile buffer. -/
def Matrix.tile (m : Matrix) (b : Nat) : Tile := if h : b < 2 then m.tiles[b] else {}

/-- Changes a tile buffer. -/
def Matrix.modTile (m : Matrix) (b : Nat) (f : Tile → Tile) : Matrix :=
  { m with tiles := vmod m.tiles b f }

/-- The registers of a position of a sum block, absent all 0. -/
def Matrix.posSums (m : Matrix) (sb pos : Nat) : List Sum :=
  if h : sb < 2 then (tGet m.sums[sb] pos).getD (List.replicate 256 {}) else List.replicate 256 {}

/-- The anchor recorded for a position. -/
def Matrix.posAnchor (m : Matrix) (sb pos : Nat) : Nat :=
  if h : sb < 2 then ((tGet m.anchors[sb] pos).getD 0).toNat else 0

/-- Records the registers and the anchor of a position. -/
def Matrix.setPos (m : Matrix) (sb pos : Nat) (v : List Sum) (anchor : Nat) : Matrix :=
  if h : sb < 2 then
    { m with sums := m.sums.set sb (tPut m.sums[sb] pos v)
             anchors := m.anchors.set sb (tPut m.anchors[sb] pos (BitVec.ofNat 8 anchor)) }
  else m

/-! ## Drain deliveries -/

/-- Floor bytes per position of a drain form (R138). -/
def formPitch (form : Nat) : Nat := if form = 0 then 512 else if form = 3 then 0 else if form = 4 then 4096 else 256

/-- The ranges that a drain of positions delivers into: data, and scale bytes (R138). -/
def drainRanges (d : DrainRegs) (form p0 k : Nat) : List (Nat × Nat) :=
  if form = 3 then []
  else (d.dest + formPitch form * p0, formPitch form * k)
    :: (if form = 1 || form = 2 then [(d.sdest + 8 * p0, 8 * k)] else [])

/-- The writes of a drain, by position (R138). -/
def drainParts (d : DrainRegs) (form p0 k : Nat) : List (Nat × Nat × Nat) :=
  if form = 3 then []
  else (List.range k).flatMap fun i =>
    (p0 + i, d.dest + formPitch form * (p0 + i), formPitch form)
      :: (if form = 1 || form = 2 then [(p0 + i, d.sdest + 8 * (p0 + i), 8)] else [])

/-- The reasons of the deliveries of a drain (R132, R139, R262). -/
def drainReasons (s : State) (n : Nat) (form p0 k : Nat) : List (Nat × Bool) :=
  (drainRanges (s.clus n).mx.drainNext form p0 k).flatMap fun r =>
    [(rRange, !okBytes r.1 r.2), protReason s n r.1 r.2 true]

/-! ## The queue -/

/-- The stamp at which the head of a matrix queue may start (R132, R134, R139, R370). -/
def Matrix.startAt (m : Matrix) (x : Ctx) (cmd : MxCmd) : Nat :=
  match cmd with
  | .mstream _ => max (max (x.t + 8) m.last) m.spFree
  | _ => max (x.t + 8) m.last

/-- The cycle at which a TLOAD finds its buffer and the tile port free (R128). -/
def Matrix.freeAt (m : Matrix) : MxCmd → Nat
  | .tload buf .. => max (m.tile buf).free m.tpFree
  | _ => 0

/-- Passes of an MSTREAM over its vectors (R142). -/
def MsJob.passes (j : MsJob) : Nat := if j.tfmt = 7 then 4 else 1

/-- The cycles of the ramp of an MSTREAM that starts at a stamp (R150). -/
def Matrix.rampFor (m : Matrix) (t : Nat) : Nat :=
  match m.lastRead with
  | none => 32
  | some l => if 64 ≤ t - l then 32 else 0

/-- An array's ports and buffers once a command has started at a stamp (R127, R128, R134, R142, R150, R370). -/
def Matrix.occupied (m : Matrix) (t : Nat) (cmd : MxCmd) : Matrix :=
  let m := { m with last := t }
  match cmd with
  | .tload buf .. => { m.modTile buf fun b => { b with ready := t + 32 } with tpFree := t + 32 }
  | .mstream j =>
    let first := t + m.rampFor t
    let hp := j.tfmt == 7
    let m := m.modTile j.buf fun b => { b with free := first + (if hp then 2 else 1) * j.v }
    let m := if hp then m.modTile (1 - j.buf) fun b => { b with free := first + 4 * j.v } else m
    { m with spFree := first + j.passes * j.v }
  | _ => m

/-- The stamps of the VX deliveries of the MDRAINs among commands that start one after another (R139, R194). -/
def vxStamps : Matrix → List (Ctx × MxCmd) → List Nat
  | _, [] => []
  | m, (x, cmd) :: l =>
    let t := max (m.startAt x cmd) (m.freeAt cmd)
    let m := m.occupied t cmd
    let m := match cmd with
      | .mstream _ => { m with lastRead := some (m.spFree - 1) }
      | _ => m
    (match cmd with
      | .mdrain _ _ k 3 => (List.range k).map fun i => t + 3 + i
      | _ => []) ++ vxStamps m l

/-- The fields of an MSTREAM that its first word holds (R373). -/
def msFields (c : Cw) : MsJob :=
  { buf := f0 c 47 47, axis := f0 c 46 46 == 1, tfmt := f0 c 45 43, sfmt := f0 c 42 40, v := f0 c 39 32 + 1, sb := f0 c 31 31
    p0 := f0 c 30 23, add := f0 c 22 22 == 1, fin := f0 c 21 21 == 1, fform := f0 c 20 19, tkt := f0 c 18 14
    consume := f0 c 13 13 == 1, anchor := f0 c 7 0, whdr := none, scl := 0, str := 0, loScl := 0, loStr := 0 }

/-- What a matrix command that has been handed over tells of its timing before its push (R371). -/
def mxForeseen (op : Nat) (c : Cw) : Option MxCmd :=
  if op = 1 then some (.tload (f0 c 47 47) 0 false 0 0 0)
  else if op = 2 then some (.mstream (msFields c))
  else if op = 3 then some (.mdset {})
  else if op = 4 then some (.mdrain (f0 c 47 47) (f0 c 46 39) (f0 c 38 31 + 1) (f0 c 30 28))
  else none

/-- The array names the deliveries of the MDRAINs of its queue, and of those on their way into it, so that Y is read in time (R194; log 99). -/
def State.foreseeMx (s : State) (n : Nat) : State :=
  let m := (s.clus n).mx
  let handed := (s.domN (s.regionOf n)).handed.filterMap fun h =>
    if h.ctx.pbit == 4 * n && h.go != some false then (mxForeseen h.ctx.op h.cw).map fun cmd => (h.ctx, cmd) else none
  s.foreseeVx n (vxStamps m (m.q ++ handed))

/-- Schedules the head of a matrix queue at its start cycle; MDRAINs in VX form name their deliveries ahead (R194). -/
def State.schedMx (s : State) (n : Nat) : State :=
  let r := s.regionOf n
  let s := s.dropEvs r (·.k == .mxStart n)
  let m := (s.clus n).mx
  let s := match m.q with
    | [] => s
    | (x, cmd) :: _ => s.post r (m.startAt x cmd) phStart n (.mxStart n)
  s.foreseeMx n

/-- Pushes a command into a matrix queue. -/
def State.enqueueMx (s : State) (n : Nat) (x : Ctx) (cmd : MxCmd) : State :=
  let s := s.modMx n fun m => { m with q := m.q ++ [(x, cmd)] }
  if (s.clus n).mx.q.length = 1 then s.schedMx n else s.foreseeMx n

/-- Commands of a matrix queue at a stamp: those that wait, and those started ahead in a stop whose start cycle lies after it (R113, R149). -/
def Matrix.depth (m : Matrix) (t : Nat) : Nat := m.q.length + (m.begun.filter fun b => decide (t < b)).length

/-- The reasons that every matrix command shares: TAIL_MISPLACED, the cluster's own state, QUEUE_FULL (R113, R117). -/
def mxReasons (s : State) (n : Nat) (x : Ctx) : List (Nat × Bool) :=
  [tailReason s x, (rQueue, 8 ≤ (s.clus n).mx.depth (x.t + 4))] ++ s.stateReasons n

/-- The reasons that the push check of TLOAD finds (R117, R366, R367). -/
def tloadReasons (s : State) (n : Nat) (x : Ctx) (c : Cw) : List (Nat × Bool) :=
  let fmt := f0 c 40 38
  let e := fun w g => exprVal (s.caller n) x.idx g w
  let scl := e (f0 c 31 0) 64
  let tile := e (f1 c 31 0) 64
  let sLen := if fmt = 1 then 128 else 64
  mxReasons s n x ++
    [(rField, f0 c 37 32 != 0 || f1 c 63 32 != 0 || !(1 ≤ fmt && fmt ≤ 4) || exprBad (f0 c 31 0) || exprBad (f1 c 31 0)),
     (rRange, !okF scl sLen || !okT tile), protReason s n tile 65536 false, protReason s n scl sLen false]

/-- A TLOAD at its push (R372). -/
def State.pushTload (s : State) (n : Nat) (x : Ctx) (c : Cw) : State :=
  let fmt := f0 c 40 38
  let e := fun w g => exprVal (s.caller n) x.idx g w
  let scl := e (f0 c 31 0) 64
  let tile := e (f1 c 31 0) 64
  s.judge x (s.locLc n 1 0) (firstReason (tloadReasons s n x c)) fun s =>
    s.enqueueMx n x (.tload (f0 c 47 47) (f0 c 46 42) (f0 c 41 41 == 1) fmt scl.toNat tile.toNat)

/-- Whether the formats of an MSTREAM pair (R122, R373). -/
def pairOk (tfmt sfmt axis : Nat) : Bool :=
  (tfmt == 1 && sfmt == 1 && axis == 0) || (2 ≤ tfmt && tfmt ≤ 4 && 2 ≤ sfmt && sfmt ≤ 4) || (tfmt == 7 && sfmt == 7)

/-- SMAX of a scale header that has been read (R163, R374). -/
def smaxOf (hdr : Bytes) : Nat := ((hdr[5]?).getD 0).toNat

/-- The reasons that the push check of MSTREAM finds (R117, R366, R367). -/
def mstreamReasons (s : State) (n : Nat) (x : Ctx) (c : Cw) : List (Nat × Bool) :=
  let tfmt := f0 c 45 43
  let sfmt := f0 c 42 40
  let axis := f0 c 46 46
  let v := f0 c 39 32 + 1
  let p0 := f0 c 30 23
  let fin := f0 c 21 21 == 1
  let fform := f0 c 20 19
  let asel := f0 c 12 12 == 1
  let hp := tfmt == 7
  let e := fun w => exprVal (s.caller n) x.idx 64 w
  let scl := e (f1 c 63 32)
  let str := e (f1 c 31 0)
  let loScl := e (f2 c 63 32)
  let loStr := e (f2 c 31 0)
  let xhdr := e (f3 c 63 32)
  let whdr := e (f3 c 31 0)
  let sLen := (if tfmt = 1 then 16 else 8) * v
  let ranges := [(str, 256 * v), (scl, sLen)] ++ (if hp then [(loStr, 256 * v), (loScl, sLen)] else [])
    ++ (if asel then [(xhdr, 64), (whdr, 64)] else [])
  let bad := !pairOk tfmt sfmt axis || (!fin && fform != 0) || f0 c 11 8 != 0 || (asel && f0 c 7 0 != 0)
    || (!hp && c.w2 != 0) || (!asel && c.w3 != 0)
    || [f1 c 63 32, f1 c 31 0, f2 c 63 32, f2 c 31 0, f3 c 63 32, f3 c 31 0].any exprBad
  mxReasons s n x ++ [(rField, bad), (rRange, 256 < p0 + v)]
    ++ (ranges.flatMap fun r => [(rRange, !okF r.1 r.2), protReason s n r.1 r.2 false])
    ++ (if fin then drainReasons s n fform p0 v else [])

/-- An MSTREAM at its push: with ASEL = 1 the caller reads the two headers in this cycle and the next (R373, R374). -/
def State.pushMstream (s : State) (n : Nat) (x : Ctx) (c : Cw) : State :=
  let v := f0 c 39 32 + 1
  let p0 := f0 c 30 23
  let fin := f0 c 21 21 == 1
  let fform := f0 c 20 19
  let asel := f0 c 12 12 == 1
  let e := fun w => exprVal (s.caller n) x.idx 64 w
  let scl := e (f1 c 63 32)
  let str := e (f1 c 31 0)
  let loScl := e (f2 c 63 32)
  let loStr := e (f2 c 31 0)
  let xhdr := e (f3 c 63 32)
  let whdr := e (f3 c 31 0)
  s.judge x (s.locLc n 1 0) (firstReason (mstreamReasons s n x c)) fun s =>
    let j : MsJob :=
      { msFields c with
        whdr := if asel then some whdr.toNat else none, scl := scl.toNat, str := str.toNat
        loScl := loScl.toNat, loStr := loStr.toNat }
    let s := if fin then s.will n n x (s.locLc n 1 0) (drainParts (s.clus n).mx.drainNext fform p0 v) else s
    let s := if asel then s.post (s.regionOf n) (x.t + 4) phRead 6 (.mxHdr n x.t xhdr.toNat whdr.toNat none x) else s
    s.enqueueMx n x (.mstream j)

/-- A header of ASEL = 1 is read through GR; after the second the queued command takes its anchor (R374). -/
def State.mxHdr (s : State) (n at_ t xhdr whdr : Nat) (smax : Option Nat) (cmd : Ctx) : State :=
  match smax with
  | none =>
    let (b, s) := s.floorRead n at_ pGR uCaller xhdr 64 cmd
    s.post (s.regionOf n) (at_ + 1) phRead 6 (.mxHdr n t xhdr whdr (some (smaxOf b)) cmd)
  | some x =>
    let (b, s) := s.floorRead n at_ pGR uCaller whdr 64 cmd
    let a := min (x + smaxOf b - 127) 255
    s.modMx n fun m => { m with q := m.q.map fun e =>
      match e with
      | (x, .mstream j) => if x.t = t then (x, .mstream { j with anchor := a }) else e
      | _ => e }

/-- The reasons that the push check of MDSET finds (R117, R366, R367). -/
def mdsetReasons (s : State) (n : Nat) (x : Ctx) (c : Cw) : List (Nat × Bool) :=
  let osel := f0 c 42 42 == 1
  let osc := f0 c 41 34
  let lfmt := f0 c 33 33
  let dest := exprVal (s.caller n) x.idx 64 (f0 c 31 0)
  let sdest := exprVal (s.caller n) x.idx 64 (f1 c 31 0)
  mxReasons s n x ++
    [(rField, f0 c 32 32 != 0 || f1 c 63 32 != 0 || (!osel && lfmt != 0) || (osel && 32 ≤ osc) || exprBad (f0 c 31 0)
        || exprBad (f1 c 31 0)),
     (rRange, !okF dest 0 || !okF sdest 0 || (osel && ((s.clus n).amaxSlot osc).isNone))]

/-- An MDSET at its push: later commands are judged against the registers it leaves (R367, R375). -/
def State.pushMdset (s : State) (n : Nat) (x : Ctx) (c : Cw) : State :=
  let osel := f0 c 42 42 == 1
  let osc := f0 c 41 34
  let lfmt := f0 c 33 33
  let dest := exprVal (s.caller n) x.idx 64 (f0 c 31 0)
  let sdest := exprVal (s.caller n) x.idx 64 (f1 c 31 0)
  s.judge x (s.locLc n 1 0) (firstReason (mdsetReasons s n x c)) fun s =>
    let d : DrainRegs := { dest := dest.toNat, sdest := sdest.toNat, tkt := f0 c 47 43
                           osc := if osel then (s.clus n).amaxCode osc (2 + lfmt) else osc }
    (s.modMx n fun m => { m with drainNext := d }).enqueueMx n x (.mdset d)

/-- The reasons that the push check of MDRAIN finds (R117, R366, R367). -/
def mdrainReasons (s : State) (n : Nat) (x : Ctx) (c : Cw) : List (Nat × Bool) :=
  let p0 := f0 c 46 39
  let k := f0 c 38 31 + 1
  let form := f0 c 30 28
  mxReasons s n x ++ [(rField, f0 c 27 0 != 0 || 4 < form), (rRange, 256 < p0 + k)]
    ++ drainReasons s n form p0 k

/-- An MDRAIN at its push (R377). -/
def State.pushMdrain (s : State) (n : Nat) (x : Ctx) (c : Cw) : State :=
  let p0 := f0 c 46 39
  let k := f0 c 38 31 + 1
  let form := f0 c 30 28
  s.judge x (s.locLc n 1 0) (firstReason (mdrainReasons s n x c)) fun s =>
    (s.will n n x (s.locLc n 1 0) (drainParts (s.clus n).mx.drainNext form p0 k)).enqueueMx n x
      (.mdrain (f0 c 47 47) p0 k form)

/-! ## Start -/

/-- The buffers that an MSTREAM names (R142, R373). -/
def MsJob.bufs (j : MsJob) : List Nat := if j.tfmt = 7 then [j.buf, 1 - j.buf] else [j.buf]

/-- The operands of a matrix command are at hand at a cycle (R145); in a stop the loads that have started are complete. -/
def Cluster.atHand (c : Cluster) (t : Nat) (stop : Bool) : MxCmd → Bool
  | .mstream j => c.ticket j.tkt && (stop || j.bufs.all fun b => decide ((c.mx.tile b).ready ≤ t))
  | .tload _ tkt .. => c.ticket tkt
  | _ => true

/-- The head of a matrix queue leaves it at a start cycle; its operands were at hand, and a hold for them clears (R144,
R146). -/
def State.popMx (s : State) (n t : Nat) : State :=
  let starved := (s.clus n).mx.starved
  let s := s.modMx n fun m => { m with q := m.q.tail, last := t, starved := false }
  if starved then s.clearCause 3 n else s

/-- A TLOAD starts: its reads follow (R126, R127). -/
def State.startTload (s : State) (n t buf tkt : Nat) (consume : Bool) (fmt scl tile : Nat) (x : Ctx) : State :=
  let s := if consume then s.clearTicket n tkt else s
  let s := s.operands n t (t + 31) [(tile, 65536), (scl, if fmt = 1 then 128 else 64)]
  let s := s.modMx n fun m => (m.occupied t (.tload buf tkt consume fmt scl tile)).modTile buf fun b => { b with fmt }
  s.post (s.regionOf n) t phRead 0 (.tileRead n buf 0 tile scl x)

/-- A read cycle of a TLOAD: one word of every bank, and in the first cycle the words of the scale bytes (R124, R126,
R678). -/
def State.tileRead (s : State) (n t buf r tile scl : Nat) (x : Ctx) : State :=
  let s := s.reads n t (tile + 2048 * r) 2048 (s.locLc n 1 0) x
  let s := if r = 0 then s.reads n t scl (if ((s.clus n).mx.tile buf).fmt = 1 then 128 else 64) (s.locLc n 1 0) x else s
  let (b, s) := s.floorPeek n (tile + 2048 * r) 2048 x
  let (k, s) := if r = 0 then s.floorPeek n scl (if ((s.clus n).mx.tile buf).fmt = 1 then 128 else 64) x else ([], s)
  let s := s.modMx n fun m => m.modTile buf fun (w : Tile) =>
    { w with w := writeMem w.w (2048 * r) b, sc := writeMem w.sc 0 k }
  if r < 31 then s.post (s.regionOf n) (t + 1) phRead 0 (.tileRead n buf (r + 1) tile scl x) else s

/-- An MSTREAM starts (R127, R132-R134, R142, R149, R150, R376). -/
def State.startStream (s : State) (n t : Nat) (x : Ctx) (j : MsJob) : State :=
  let m := (s.clus n).mx
  let r := s.regionOf n
  let d := m.rampFor t
  let hp := j.tfmt == 7
  let fmt := if hp then 4 else j.tfmt
  let loc := s.locLc n 1 0
  let s := if j.bufs.any fun b => let f := (m.tile b).fmt; f != 0 && f != fmt then s.hazard (s.stampAt r t x) 1 6 loc loc (n * 2 ^ 24) else s
  let s := if j.consume then s.clearTicket n j.tkt else s
  let first := t + d
  let sLen := (if j.tfmt = 1 then 16 else 8) * j.v
  let s := s.operands n t (first + j.passes * j.v - 1) ([(j.str, 256 * j.v), (j.scl, sLen)]
    ++ if hp then [(j.loStr, 256 * j.v), (j.loScl, sLen)] else [])
  let s := s.modMx n fun m =>
    { m.occupied t (.mstream j) with
             finAwait := if j.fin then m.finAwait ++ (List.range j.v).map fun i => j.sb * 256 + j.p0 + i else m.finAwait }
  let s := if d != 0 then (List.range 8).foldl (fun s g => s.post r (t + 4 * g) phRead 0 (.group n g)) s else s
  let s := if j.fin && j.fform = 3 then
      s.planVx n ((List.range j.v).map fun i => first + (j.passes - 1) * j.v + i + 270)
    else s
  s.post r first phRead 0 (.msRead n { ctx := x, job := j, dr := (s.clus n).mx.drain } 0 0 [])

/-- An MDRAIN starts: its position reads follow (R139, R376). -/
def State.startDrain (s : State) (n t : Nat) (x : Ctx) (sb p0 k form : Nat) : State :=
  let dr := (s.clus n).mx.drain
  (List.range k).foldl (fun s i =>
    s.post (s.regionOf n) (t + (if form = 4 then 2 else 1) * i) phRead 0
      (.drainRead n { ctx := x, sb, pos := p0 + i, form, dr, fin := false, final := i + 1 == k })) s

/-- A matrix command starts at a cycle. -/
def State.startMx (s : State) (n t : Nat) (x : Ctx) (cmd : MxCmd) : State :=
  let s := s.popMx n t
  let s := match cmd with
    | .tload buf tkt consume fmt scl tile => s.startTload n t buf tkt consume fmt scl tile x
    | .mstream j => s.startStream n t x j
    | .mdset d => s.modMx n fun m => { m with drain := d }
    | .mdrain sb p0 k form => s.startDrain n t x sb p0 k form
  s.schedMx n

/-- The head's operands are absent: hold with CAUSE OPERAND, and the array checks again in the next cycle (R146). -/
def State.starve (s : State) (n t : Nat) (x : Ctx) : State :=
  let r := s.regionOf n
  let s := if (s.clus n).mx.starved then s
    else (s.modMx n fun m => { m with starved := true }).raiseHold 3 n (s.locLc n 1 0) (some r) x
  s.post r (t + 1) phStart n (.mxStart n)

/-- The head of a matrix queue reaches its start cycle (R126-R128, R132, R134, R139, R145, R146, R370, R589). -/
def State.mxStart (s : State) (n t : Nat) : State :=
  let c := s.clus n
  match c.mx.q with
  | [] => s
  | (x, cmd) :: _ =>
    if t < c.mx.startAt x cmd then s.schedMx n
    else if t < c.mx.freeAt cmd then
      let loc := s.locLc n 1 0
      let s := if t = c.mx.startAt x cmd then s.hazard (s.stampAt (s.regionOf n) t x) 1 3 loc loc (n * 2 ^ 24) else s
      s.post (s.regionOf n) (c.mx.freeAt cmd) phStart n (.mxStart n)
    else if c.atHand t false cmd then s.startMx n t x cmd
    else if tGet s.actual n = some 2 then (((s.popMx n t).willNot n x).skipLog x rDisabled (s.locLc n 1 0)).schedMx n
    else s.starve n t x

/-! ## Streaming -/

/-- A stream read (R130, R133, R142, R678). -/
def State.msRead (s : State) (n t : Nat) (q : Stream) (v p : Nat) (word : Bytes) : State :=
  let j := q.job
  let lo := p % 2 == 1
  let b := if j.tfmt = 1 then 16 else 8
  let str := if lo then j.loStr else j.str
  let scl := if lo then j.loScl else j.scl
  let s := s.reads n t (str + 256 * v) 256 (s.locLc n 1 0) q.ctx
  let (e, s) := s.floorPeek n (str + 256 * v) 256 q.ctx
  let (word, s) := if b * v % 64 = 0 then (s.reads n t (scl + b * v) 64 (s.locLc n 1 0) q.ctx).floorPeek n (scl + b * v) 64 q.ctx else (word, s)
  let m := (s.clus n).mx
  let tile := m.tile (if p < 2 then j.buf else 1 - j.buf)
  let f : Flow :=
    { sb := j.sb, pos := j.p0 + v, clear := !j.add && p == 0, anchor := j.anchor, a4 := j.tfmt == 1, axis := j.axis
      tfmt := j.tfmt, sfmt := j.sfmt, elems := e, scales := (word.drop (b * v % 64)).take b, w := tile.w, sc := tile.sc }
  let r := s.regionOf n
  let s := (s.modMx n fun m => { m with lastRead := some t }).post r (t + 266) phEnd 0 (.msLand n f)
  let s := if j.fin && p + 1 = j.passes then
      s.post r (t + 267) phRead 0
        (.drainRead n { ctx := q.ctx, sb := j.sb, pos := j.p0 + v, form := j.fform, dr := q.dr, fin := true
                        final := v + 1 == j.v })
    else s
  if v + 1 < j.v then s.post r (t + 1) phRead 0 (.msRead n q (v + 1) p word)
  else if p + 1 < j.passes then s.post r (t + 1) phRead 0 (.msRead n q 0 (p + 1) [])
  else s

/-- The code at an element of a stream vector (R130). -/
def streamCode (a4 : Bool) (bs : Bytes) (i : Nat) : Nat :=
  if a4 then
    let b := ((bs[i / 2]?).getD 0).toNat
    if i % 2 = 0 then b % 16 else b / 16
  else ((bs[i]?).getD 0).toNat

/-- The products that a byte of the tile takes part in: the result, the stream element, and the exact product with both
block scales (R124, R125, R130, R131, R167). Planes of an H16 pair are I8 (R141). -/
def byteTerms (f : Flow) (off : Nat) (w : Byte) : List (Nat × Dy) :=
  let row := off / 256
  let col := off % 256
  let one := fun (k code : Nat) =>
    let fmt := fun x => if x = 7 then 4 else x
    let e := if f.axis then col else k
    let ws := (readByte f.sc (8 * (k / 32) + col / 32)).toNat
    let ss := ((f.scales[e / 32]?).getD 0).toNat
    (if f.axis then k else col,
      (scaledVal (fmt f.tfmt) code ws).mul (scaledVal (fmt f.sfmt) (streamCode f.a4 f.elems e) ss))
  if f.a4 then [one (2 * row) (w.toNat % 16), one (2 * row + 1) (w.toNat / 16)] else [one row w.toNat]

/-- The sum of the terms of each result of a vector, and whether one was limited (R131, R167-R169). A weight byte of 0 gives
terms of 0 and is left out. -/
def flowTerms (f : Flow) (anchor : Nat) : Vector (Int × Bool) 256 :=
  f.w.foldl (fun v c => (byteTerms f c.1 c.2).foldl (fun (v : Vector (Int × Bool) 256) e =>
    let (t, lim) := term e.2 anchor
    if h : e.1 < 256 then v.set e.1 (v[e.1].1 + t, v[e.1].2 || lim) else v) v) (Vector.replicate 256 (0, false))

/-- A contribution lands in the sum registers of its position (R133, R135, R168-R170). -/
def State.msLand (s : State) (n : Nat) (f : Flow) : State :=
  s.modMx n fun m =>
    let own := m.posAnchor f.sb f.pos
    let a := if f.clear then f.anchor else own
    let ts := (flowTerms f a).toList
    let olds := m.posSums f.sb f.pos
    m.setPos f.sb f.pos ((List.zip olds ts).map fun e => e.1.addTerms f.clear e.2.1 e.2.2 (!f.clear && own != f.anchor)) a

/-! ## Drain -/

/-- A drain read of a position: its result leaves the drain 3 cycles later, in WSUM form over two cycles (R133, R136, R138,
R139). -/
def State.drainRead (s : State) (n t : Nat) (r : DrainJob) : State :=
  let m := (s.clus n).mx
  let d : Delivery := { ctx := r.ctx, second := false, form := r.form, pos := r.pos, anchor := m.posAnchor r.sb r.pos
                        sums := m.posSums r.sb r.pos, dr := r.dr, final := r.final && r.form != 4 }
  let s := if r.fin then s.modMx n fun m => { m with finAwait := m.finAwait.erase (r.sb * 256 + r.pos) } else s
  let reg := s.regionOf n
  let s := s.post reg (t + 3) phVw 0 (.deliver n d)
  if r.form = 4 then s.post reg (t + 4) phVw 0 (.deliver n { d with second := true, final := r.final }) else s

/-- The codes of a position in an output format (R138, R174). -/
def drainCodes (d : Delivery) (fmt osc : Nat) : List Nat := d.sums.map fun q => convertAt (q.value d.anchor) fmt osc

/-- The bytes that a delivery writes or hands over: data, and scale bytes with the address of each (R138). -/
def Delivery.parts (d : Delivery) : (Nat × Bytes) × (Nat × Bytes) :=
  let at_ := d.dr.dest + formPitch d.form * d.pos
  if d.form = 0 then ((at_, (drainCodes d 5 127).flatMap fun c => leBytes 2 c), (0, []))
  else if d.form = 3 then ((0, d.sums.flatMap fun q => sumWord q d.anchor), (0, []))
  else if d.form = 4 then
    let half := if d.second then d.sums.drop 128 else d.sums.take 128
    ((at_ + (if d.second then 2048 else 0), half.flatMap fun q => sumWord q d.anchor), (0, []))
  else
    ((at_, (drainCodes d (d.form + 1) d.dr.osc).map fun c => BitVec.ofNat 8 c),
      (d.dr.sdest + 8 * d.pos, List.replicate 8 (BitVec.ofNat 8 d.dr.osc)))

/-- A result leaves the drain: into the floor through VW or to the vector engine; the last sets the ticket (R138, R140, R144,
R643). -/
def State.deliver (s : State) (n t : Nat) (d : Delivery) : State :=
  let ((a, b), (sa, sb)) := d.parts
  let s := s.contribute n d.ctx (b ++ sb)
  let s := if d.form = 3 then s.vxDeliver n t d.ctx d.anchor d.sums
    else
      let s := if d.form = 4 && !d.second then s else s.wrote n n d.ctx d.pos
      s.floorWrite n t pVW uDrain (fullWrites a b ++ fullWrites sa sb) d.ctx
  if d.final && d.dr.tkt != 0 then s.setTicket n d.dr.tkt else s

/-! ## Stops and current steps -/

/-- The next read or contribution of a cluster's array among events in order, below a limit where there is one. A contribution to a position
that awaits a drain read, or an earlier contribution that does, keeps its stamp (R148, R149). -/
def nextArrayEv (n : Nat) (limit : Option Nat) : List (Nat × Nat) → List Ev → Option Ev
  | _, [] => none
  | kept, e :: l =>
    if limit.any fun q => decide (q ≤ e.t) then none
    else match e.k with
      | .tileRead m .. => if m = n then some e else nextArrayEv n limit kept l
      | .msRead m .. => if m = n then some e else nextArrayEv n limit kept l
      | .msLand m f =>
        if m = n && !kept.contains (f.sb, f.pos) then some e else nextArrayEv n limit kept l
      | .drainRead m q => nextArrayEv n limit (if m = n then (q.sb, q.pos) :: kept else kept) l
      | _ => nextArrayEv n limit kept l

/-- While its region stalls or is stopped the array carries on the reads and the contributions of what has started, up to a limit where there
is one; the drain keeps its stamps (R148). -/
def State.arrayOn (s : State) (n : Nat) (limit : Option Nat) : Nat → State
  | 0 => s
  | fuel + 1 =>
    let r := s.regionOf n
    match nextArrayEv n limit [] (s.domN r).evs with
    | none => s
    | some e =>
      let s := s.modDom r fun d => { d with evs := d.evs.erase e }
      match e.k with
      | .tileRead _ buf i tile scl x => State.arrayOn (s.tileRead n e.t buf i tile scl x) n limit fuel
      | .msRead _ q v p word => State.arrayOn (s.msRead n e.t q v p word) n limit fuel
      | .msLand _ f => State.arrayOn (s.msLand n f) n limit fuel
      | _ => s

/-- In a stop the array starts queued commands whose operands are at hand, at the step stamps they would have; each keeps its place in the queue
until its stamp comes, and a TLOAD that starts late is reported as at its start cycle (R63, R113, R128, R146, R149). An MSTREAM whose anchor has
still to be read waits (R374). -/
def State.startAhead (s : State) (n : Nat) : Nat → State
  | 0 => s
  | fuel + 1 =>
    let s := s.arrayOn n none 8192
    let c := s.clus n
    match c.mx.q with
    | [] => s
    | (x, cmd) :: _ =>
      let t := max (c.mx.startAt x cmd) (c.mx.freeAt cmd)
      let awaits := match cmd with
        | .mstream j => ((List.range j.v).any fun i => c.mx.finAwait.contains (j.sb * 256 + j.p0 + i))
            || (s.domN (s.regionOf n)).evs.any fun e => match e.k with
              | .mxHdr m _ _ _ _ y => m == n && y == x
              | _ => false
        | .mdrain .. => true
        | _ => false
      let late := decide (c.mx.startAt x cmd < c.mx.freeAt cmd) && (s.domN (s.regionOf n)).evs.any fun e =>
        e.k == .mxStart n && decide (e.t ≤ c.mx.startAt x cmd)
      if awaits || !c.atHand t true cmd then s
      else
        let loc := s.locLc n 1 0
        let s := if late then s.hazard (s.stampAt (s.regionOf n) (c.mx.startAt x cmd) x) 1 3 loc loc (n * 2 ^ 24) else s
        let now := (s.domN (s.regionOf n)).nt
        let s := s.modMx n fun m => { m with begun := (m.begun.filter fun b => decide (now ≤ b)) ++ [t] }
        State.startAhead (s.startMx n t x cmd) n fuel

/-- A row group is enabled in a ramp (R150). -/
def State.groupOn (s : State) (n g : Nat) : State :=
  s.modMx n fun m => { m with groups := m.groups ||| (1 <<< g) }

/-- The row groups of an array at an idle count (R151): one group off every 4 cycles from 64 on, group 7 first. -/
def groupsAt (now : BitVec 8) (idle : Nat) : BitVec 8 :=
  if idle < 64 then now else now &&& BitVec.ofNat 8 (2 ^ (8 - min 8 ((idle - 64) / 4 + 1)) - 1)

/-- The idle count of an array (R150). -/
def Matrix.idle (m : Matrix) (nt : Nat) : Nat := ((m.lastRead.map fun l => nt - l)).getD 64

/-- Whether an array streams, or ramps up for a stream (R150). -/
def State.arrayBusy (s : State) (n : Nat) : Bool :=
  (s.domN (s.regionOf n)).evs.any fun e => match e.k with
    | .msRead m .. => m == n
    | .group m _ => m == n
    | _ => false

/-- An array that neither streams nor ramps up winds down: in step time by its idle count; in a stall by the cycles that have passed, the
first 256 of them in keeper entries where its idle count is below 64; in a stop by the next group. Once the hold is over, an array that step
time expects to run keeps its groups until its region issues again (R151, R152; log 92). -/
def State.windDown (s : State) (n : Nat) : State :=
  let d := s.domN (s.regionOf n)
  if s.arrayBusy n then s
  else s.modMx n fun m =>
    let idle := m.idle d.nt
    { m with groups :=
        if d.stopped then (if !s.beat.inHold && idle < 64 then m.groups else m.groups >>> 1)
        else if 64 ≤ idle then groupsAt m.groups (idle + d.waited)
        else if 256 < d.waited then groupsAt m.groups (64 + (d.waited - 257))
        else m.groups }

/-- At a RESUME frame an array that has wound down in the stop, and that step time expects to run, begins to ramp up (R152). -/
def State.rampBack (s : State) (n : Nat) : State :=
  let d := s.domN (s.regionOf n)
  s.modMx n fun m => if m.idle d.nt < 64 && m.groups != 0xFF then { m with groups := m.groups ||| 1, rampUp := true } else m

/-- Its ramp of 32 cycles ends within the held beat (R152). -/
def State.rampEnd (s : State) : State :=
  s.modCls fun c => if c.mx.rampUp then { c with mx := { c.mx with groups := 0xFF, rampUp := false } } else c

end Sys2Proof.Machine
end

