-- ==== Sys2Proof/Machine/FloorUnits.lean ====
section
/-! DEFINITION. The count unit and the scrubber of a floor (08_floor.md R252-R257, R266; 12_commands.md R385). -/

namespace Sys2Proof.Machine

/-! ## Mover time (R270) -/

/-- A stamp of a domain in mover time: step cycles 0 and 10 of a beat are left out. -/
def Dom.moverAt (d : Dom) (t : Nat) : Bool := let c := (d.stamp t).2.2; c != 0 && c != 10

/-- Schedules an event in mover time: at the first mover cycle at or after a stamp. -/
def State.postM (s : State) (d t ph rank : Nat) (k : EvK) : State := s.post d t ph rank k true

/-! ## COUNT -/

/-- Words that a COUNT reads (R255). -/
def CountJob.words (j : CountJob) : Nat := (j.nelem * (1 + j.width) + 63) / 64

/-- Schedules the head of a count queue. -/
def State.schedCnt (s : State) (n : Nat) : State :=
  let c := s.clus n
  match c.cntq, c.counting with
  | (x, _) :: _, [] => s.postM (s.regionOf n) (max (x.t + 8) c.cntFree) phStart 0 (.cntStart n)
  | _, _ => s

/-- The reasons that the push check of COUNT finds (R117, R366, R367). -/
def countReasons (s : State) (n : Nat) (x : Ctx) (c : Cw) : List (Nat × Bool) :=
  let width := f0 c 47 47
  let interp := f0 c 46 45
  let cond := f0 c 44 42
  let pmode := f0 c 41 40
  let pred := f0 c 39 36
  let lo := f2 c 63 48
  let hi := f2 c 47 32
  let thresh := f2 c 31 0
  let nelem := f0 c 30 7 + 1
  let src := exprVal (s.caller n) x.idx 64 (f1 c 63 32)
  let dst := exprVal (s.caller n) x.idx 64 (f1 c 31 0)
  let len := nelem * (1 + width)
  let bad := f0 c 6 0 != 0 || interp == 3 || 3 < cond || pmode == 3 || (pmode == 0) != (pred == 0)
    || (width == 0 && (256 ≤ lo || 256 ≤ hi)) || (cond != 3 && hi != 0) || (pmode != 2 && thresh != 0) || c.w3 != 0
    || exprBad (f1 c 63 32) || exprBad (f1 c 31 0)
  [tailReason s x, (rField, bad), (rRange, !okF src len || !okF dst 64),
      protReason s n src len false, protReason s n dst 64 true, (rQueue, 8 ≤ (s.clus n).cntq.length)]
      ++ s.stateReasons n

/-- A COUNT at its push (R252, R254, R385). -/
def State.pushCount (s : State) (n : Nat) (x : Ctx) (c : Cw) : State :=
  let width := f0 c 47 47
  let interp := f0 c 46 45
  let cond := f0 c 44 42
  let pmode := f0 c 41 40
  let pred := f0 c 39 36
  let lo := f2 c 63 48
  let hi := f2 c 47 32
  let thresh := f2 c 31 0
  let nelem := f0 c 30 7 + 1
  let src := exprVal (s.caller n) x.idx 64 (f1 c 63 32)
  let dst := exprVal (s.caller n) x.idx 64 (f1 c 31 0)
  s.judge x (s.locLc n 7 0) (firstReason (countReasons s n x c)) fun s =>
    let j : CountJob := { width, interp, cond, pmode, pred, tkt := f0 c 35 31, nelem, src := src.toNat, dst := dst.toNat
                          keyLo := lo, keyHi := hi, thresh, ctx := x }
    let s := s.will n n x (s.locLc n 7 0) [(0, dst.toNat, 64)]
    let s := s.modCl n fun c => { c with cntq := c.cntq ++ [(x, j)] }
    if (s.clus n).cntq.length = 1 then s.schedCnt n else s

/-- An element or a key as the interpretation of a COUNT reads it (R252, R253). -/
def CountJob.value (j : CountJob) (code : Nat) : Dy :=
  if j.interp = 0 then { n := code, k := 0 }
  else if j.interp = 1 then { n := sext (8 * (1 + j.width)) code, k := 0 }
  else elemVal (if j.width = 0 then 2 else 5) code

/-- Whether an element meets the condition of a COUNT (R253). -/
def CountJob.meets (j : CountJob) (code : Nat) : Bool :=
  let e := j.value code
  let lo := j.value j.keyLo
  if j.cond = 0 then e.eq lo
  else if j.cond = 1 then e.lt lo
  else if j.cond = 2 then !e.lt lo
  else !e.lt lo && !(j.value j.keyHi).lt e

/-- The elements of a word that meet the condition; those beyond NELEM are not examined (R255). -/
def CountJob.wordCount (j : CountJob) (k : Nat) (w : Bytes) : Nat :=
  let per := 64 / (1 + j.width)
  ((List.range per).filter fun i =>
    decide (k * per + i < j.nelem) &&
      j.meets (if j.width = 0 then ((w[i]?).getD 0).toNat else leNat ((w.drop (2 * i)).take 2))).length

/-- A COUNT starts (R255). -/
def State.cntStart (s : State) (n t : Nat) : State :=
  let c := s.clus n
  match c.cntq with
  | [] => s
  | (_, j) :: rest =>
    (s.modCl n fun c => { c with cntq := rest, counting := [(j, 0, 0)] }).postM (s.regionOf n) t phRead 4 (.cntRead n 0)

/-- A COUNT reads a word through GR; 13 mover cycles after the last read the result lands (R255). -/
def State.cntRead (s : State) (n t k : Nat) : State :=
  match (s.clus n).counting with
  | [] => s
  | (j, _, m) :: _ =>
    let (w, s) := s.floorRead n t pGR uCount (j.src + 64 * k) 64 j.ctx
    let m := m + j.wordCount k w
    let r := s.regionOf n
    if k + 1 < j.words then
      (s.modCl n fun c => { c with counting := [(j, k + 1, m)] }).postM r (t + 1) phRead 4 (.cntRead n (k + 1))
    else
      ((s.modCl n fun c => { c with counting := [], cntFree := t + 1 }).postM r (t + 1) phGw 4 (.cntLand n j m 12)).schedCnt n

/-- The result word of a COUNT lands, with its deposit and its ticket (R255, R256). -/
def State.cntLand (s : State) (n t : Nat) (j : CountJob) (count left : Nat) : State :=
  if left ≠ 0 then s.postM (s.regionOf n) (t + 1) phGw 4 (.cntLand n j count (left - 1))
  else
    let s := (s.wrote n n j.ctx 0).floorWrite n t pGW uCount
      (fullWrites j.dst (leBytes 4 count ++ leBytes 4 j.nelem ++ List.replicate 56 0)) j.ctx
    let s := if j.pmode = 0 then s
      else s.deposit n t j.pred .fcount (if j.pmode = 1 then count != 0 else decide (j.thresh ≤ count))
    if j.tkt = 0 then s else s.setTicket n j.tkt

/-! ## Scrub (R266) -/

/-- The address of a word of a bank by its offset in words (R243). -/
def wordAt (bank off : Nat) : Nat := off * 2048 + bank * 64

/-- The scrubber reads one word of every bank: in a working beat through GR at its step cycle 0, in a held beat past every
other use. A corrected word waits for its write-back (R248, R266). -/
def State.scrubRead (s : State) (n : Nat) (at_ : Option Nat) : State :=
  let off := (s.clus n).scrubNext.toNat
  let s := s.modCl n fun c => { c with scrubNext := c.scrubNext + 1 }
  let s := match at_ with
    | some t => (List.range 32).foldl (fun (s : State) b => (s.takePort n t pGR uScrub (wordAt b off) {}).2) s
    | none => s
  if (s.clus n).upsets.isEmpty then s
  else (List.range 32).foldl (fun (s : State) b =>
    let a := wordAt b off
    let (d, fixed, lost, s) := s.readCode n a
    if lost then s.floorUe n a s.nowCtx
    else if fixed then s.modCl n fun c => { c with scrub := tPut c.scrub a (d, at_.map (· + 10)) } else s) s

/-- The scrubber writes back the corrected words that no other write has met: through GW at step cycle 10, or ten delivered
cycles into a held beat (R266). -/
def State.scrubWrite (s : State) (n : Nat) (at_ : Option Nat) : State :=
  let now := (s.clus n).scrub.filter fun e => match e.2.2, at_ with
    | some q, some t => decide (q ≤ t)
    | none, none => true
    | _, _ => false
  let s := match at_ with
    | some t => now.foldl (fun (s : State) (e : Nat × Bytes × Option Nat) => (s.takePort n t pGW uScrub e.1 {}).2) s
    | none => s
  s.modCl n fun c =>
    { c with scrub := c.scrub.filter fun e => !now.contains e
             floor := now.foldl (fun m (e : Nat × Bytes × Option Nat) => writeMem m e.1 e.2.1) c.floor
             upsets := c.upsets.filter fun u => !(now.any fun e => e.1 == u.1 / 8 * 64) }

end Sys2Proof.Machine
end

