-- ==== Sys2Proof/Machine/Bank.lean ====
section
/-! DEFINITION. Reads and writes of bank memory by the module's units, patrol scrub, refresh (14_bank_memory.md R433, R440, R445-R447). -/

namespace Sys2Proof.Machine

/-- A burst that a second read does not decode: hold with CAUSE FAULT and a module fault (R445). -/
def State.bankUe (s : State) (burst loc : Nat) (x : Ctx) : State := (s.count 0x9007 4 1).moduleFault 2 loc x (bankDetail burst)

/-- A read of a granule by a unit at a location; one that is lost delivers nothing and raises the fault (R445). -/
def State.bankGet (s : State) (a loc : Nat) (x : Ctx) : Option Bytes × State :=
  match s.granuleGet a loc with
  | (.ok d, s) => (some d, s)
  | (.error b, s) => (none, s.bankUe b loc x)

/-- A read of `k` granules from a granule address; none where one of them is lost. -/
def State.bankRun (s : State) (a loc : Nat) (x : Ctx) : Nat → Option Bytes × State
  | 0 => (some [], s)
  | k + 1 =>
    match State.bankRun s a loc x k with
    | (none, s) => (none, s)
    | (some d, s) => match s.bankGet (a + 64 * k) loc x with
      | (some g, s) => (some (d ++ g), s)
      | (none, s) => (none, s)

/-- A read of `n` bytes of bank memory by a unit at a location. -/
def State.bankBytes (s : State) (a n loc : Nat) (x : Ctx) : Option Bytes × State :=
  if s.bankErr.isEmpty then (some (s.bankView a n), s.useRange a n loc)
  else
    match s.bankRun (a / 64 * 64) loc x (granuleCount a n) with
    | (some d, s) => (some ((d.drop (a % 64)).take n), s)
    | (none, s) => (none, s)

/-- A write of bytes of bank memory by a unit at a location (R440). -/
def State.bankPut (s : State) (a loc : Nat) (x : Ctx) (bs : Bytes) : State :=
  match s.bankStore a loc bs (granuleCount a bs.length) with
  | (none, s) => s
  | (some b, s) => s.bankUe b loc x

/-- Zero data, under the present key, in every granule of a range (R439). -/
def State.bankZero (s : State) (a n loc : Nat) : State :=
  (List.range (n / 64)).foldl (fun (s : State) i => s.granulePut (a + 64 * i) loc (List.replicate 64 0)) s

/-- The location word of the controller that serves a subchannel (R22, R432). -/
def locSubchannel (sc : Nat) : Nat := locDie (sc / 128) 3 (sc % 128 / 8)

/-- A beat of a controller begins: its burst times and its refresh slots count anew, with what the beat before left over (R433, R447). -/
def State.bankBeat (s : State) : State := { s with bankUse := s.bankUse.filterMap carried, refreshNext := [] }

/-- The corrected bursts of a subchannel that wait are written back, each in a burst time (R433, R446). -/
def State.scrubBack (s : State) (sc : Nat) : State :=
  let due := s.bankScrub.filter fun e => burstSc e.1 == sc
  let s := due.foldl (fun (s : State) _ => s.useBurst sc 4) s
  { s with
    bank := due.foldl (fun m e => writeMem m (32 * e.1) e.2) s.bank
    bankErr := due.foldl (fun t e => healed t e.1) s.bankErr
    bankScrub := s.bankScrub.filter fun e => burstSc e.1 != sc }

/-- A scrub slot of a subchannel, of which a beat has 8: the corrected bursts waiting are written back, and the next burst in address
order is read (R433, R446). -/
def execBankPatrolScrub (sc : Fin 256) (s : State) : Host.Outcome State Fault Refusal :=
  commit s (
    if !s.pow.on || shareBursts 2 ≤ s.burstsServed sc 2 then s
    else
      let i := s.bankScrubNext[sc]
      let burst := pageAt sc (i / 128) * 128 + i % 128
      let t := { s.scrubBack sc with bankScrubNext := s.bankScrubNext.set sc ((i + 1) % 2 ^ 28) }
      match t.burstRead burst 2 with
      | (some (_, false), t) => t
      | (some (d, true), t) => { t.count 0x9007 2 1 with bankScrub := tPut t.bankScrub burst d }
      | (none, t) => (t.count 0x9007 5 1).event 0x87 (locSubchannel sc) (bankDetail burst))

/-- Whether a package has trained, from which on the controllers refresh (R622). -/
def State.refreshes (s : State) : Bool := s.pkgs.any (·.2 == 1)

/-- A bank of a subchannel refreshes in its slot of the beat: bank `b` after bank `b - 1`, which still refreshes as it begins. A controller
that no frame guides counts its own beats (R447). -/
def execBankRefresh (sc : Fin 256) (bank : Fin 16) (s : State) : Host.Outcome State Fault Refusal :=
  let key := sc.val * 16 + bank.val
  let before := sc.val * 16 + (bank.val + 15) % 16
  let next := (tGet s.refreshNext sc.val).getD 0
  let anew := next = 16 && bank.val = 0 && !s.beat.locked
  commit s (
    if s.refreshes && (next = bank.val || anew) then
      { s with
        refreshNext := tPut s.refreshNext sc.val (bank.val + 1)
        bankUse := if anew then s.bankUse.filterMap (fun e => if e.1 / 8 = sc.val then carried e else some e) else s.bankUse
        refreshing := (s.refreshing.filter fun k => k / 16 != sc.val || k == before) ++ [key] }
    else s)

end Sys2Proof.Machine
end

