-- ==== Sys2Proof/Machine/Movers.lean ====
section
/-! DEFINITION. Movers, staging streams, stream placements and the promenade (09_movers_and_streams.md R271-R296;
12_commands.md R383, R384). -/

namespace Sys2Proof.Machine

/-- A mover of a cluster. -/
def Cluster.mover (c : Cluster) (m : Nat) : Mover := if h : m < 2 then c.movers[m] else {}

/-- Changes a mover of a cluster. -/
def State.modMv (s : State) (n m : Nat) (f : Mover → Mover) : State :=
  s.modCl n fun c => { c with movers := vmod c.movers m f }

/-! ## BULK commands (R320) -/

/-- Changes a BULK command that is not complete. -/
def State.modBulk (s : State) (id : Nat) (f : Bulk → Bulk) : State :=
  { s with bulks := s.bulks.map fun b => if b.id = id then f b else b }

/-- Registers a BULK command: its number is above 0. -/
def State.openBulk (s : State) (who : Nat) (x : Ctx) (loc : Nat) (dsts : List Nat) (done : Option Done) (left count : Nat)
    (sent : Bool) : Nat × State :=
  let (u, s) := s.fresh
  let s := s.farCmd { key := 2 * (u + 1) + 1, origin := who, engine := if loc % 64 = 0 then 3 else 4, dsts, ctx := x, loc }
  (u + 1, { s with bulks := s.bulks ++ [{ id := u + 1, who, ctx := x, loc, dsts, done, left, sent, signs := true, count, data := [] }] })

/-- Records a granule of a BULK command by its index, for the signature (R643). -/
def State.bulkData (s : State) (id k : Nat) (g : Bytes) : State := s.modBulk id fun b => { b with data := tPut b.data k g }

/-- Writes of a BULK command to a cluster, or to 48 for none, leave and await their acknowledgements (R320, R321). -/
def State.bulkSent (s : State) (id dst k : Nat) : State :=
  s.modBulk id fun b => { b with left := b.left + k, owed := tMod b.owed dst 0 (· + k) }

/-- A write of a BULK command to a cluster, or to 48 for none, is acknowledged at its sender (R320, R321). -/
def State.bulkAcked (s : State) (id dst : Nat) : State :=
  s.modBulk id fun b => { b with left := b.left - 1, owed := tMod b.owed dst 0 (· - 1) }

/-! ## Holds of waits (R285, R294) -/

/-- The waits, the fence, the placements and the rotations of a caller that hold the module for CAUSE WAIT. -/
def State.holdsWait (s : State) (w : Nat) : Bool :=
  let k := s.caller w
  k.waits.any (·.held.isSome) || k.fence.any (·.held.isSome)
    || (w < 48 && ((s.clus w).rotating.any (·.held.isSome) || (s.clus w).placing.any (·.held.isSome)))

/-- The cause of a caller's hold clears once nothing of it holds any more (R285, R46). -/
def State.settleWait (s : State) (w : Nat) : State := if s.holdsWait w then s else s.clearCause 2 w

/-! ## Block lists (R274-R276) -/

/-- How a unit judges the entries of a list: the end of the space in which the list lies, none in host memory, where only alignment is tested;
whether whole pages are asked for; which runs reach pages of another key domain (R276, R402, R442; log 86). -/
structure EntryRule where
  bound : Option Nat
  whole : Bool
  foreign : Nat → Nat → Bool

/-- The runs of one block-list entry, one per repetition, and the reason for which it is bad, if it is. -/
def entryRuns (q : EntryRule) (entry : Nat) (e : Bytes) : List Run × Option Nat :=
  let v := leNat e
  let reps := bits v 127 112 + 1
  let stride := sext 40 (bits v 111 72)
  let len := bits v 71 48
  let addr := bits v 47 0
  let starts := (List.range reps).map fun r => (addr : Int) + stride * 64 * (r : Int)
  let range := (q.bound.isSome && len == 0) || addr % 64 != 0 || (q.whole && (addr % 4096 != 0 || len % 64 != 0))
    || starts.any fun a => q.bound.any fun b => decide (a < 0) || decide ((b : Int) < a + 64 * (len : Int))
  let prot := !range && starts.any fun a => q.foreign a.toNat (64 * len)
  if range || prot then ([{ addr := 0, n := reps * len, bad := true, entry }], some (if range then rRange else rProt))
  else (starts.map fun a => { addr := (a % 2 ^ 64).toNat, n := len, bad := false, entry }, none)

/-- Whether a range of bank memory reaches a page that does not belong to a key domain (R276, R437, R438). -/
def State.foreignBank (s : State) (kd a len : Nat) : Bool :=
  (List.range ((a + len - 1) / 2 ^ 26 - a / 2 ^ 26 + 1)).any fun i => s.pageDomain (a + i * 2 ^ 26) != some kd

/-- The runs of a list of entries, numbered from `first`; each bad entry is logged (R276). -/
def State.listRuns (s : State) (x : Ctx) (loc : Nat) (q : EntryRule) (first : Nat) (entries : List Bytes) : List Run × State :=
  (entries.zipIdx first).foldl (fun r e =>
    let (runs, why) := entryRuns q e.2 e.1
    (r.1 ++ runs, match why with
      | some w => r.2.skipLog x w loc
      | none => r.2)) ([], s)

/-- Granules of a list of runs. -/
def runsLen (l : List Run) : Nat := l.foldl (fun n r => n + r.n) 0

/-- The first granule of a list of runs, and the rest of the list. -/
def takeGranule : List Run → Option (Option Nat × List Run)
  | [] => none
  | r :: l =>
    if r.n = 0 then takeGranule l
    else some (if r.bad then none else some r.addr,
      if r.n = 1 then l else { r with addr := r.addr + 64, n := r.n - 1 } :: l)

/-- The requests of a list of runs: granule numbers from `first`, blocks opened at the start of a repetition and of each page;
`u` numbers repetitions and blocks (R275, R279). -/
def requestsOf (stream guard job : Nat) (u first : Nat) (runs : List Run) : List Req × Nat :=
  let r := runs.foldl (fun (q : List Req × Nat × Nat) r =>
    let reqs := (List.range r.n).map fun i =>
      let a := r.addr + 64 * i
      ({ stream, guard, job, index := q.2.2 + i, addr := if r.bad then none else some a, rep := q.2.1
         block := q.2.1 + (a / 4096 - r.addr / 4096), opens := i == 0 || a % 4096 == 0 } : Req)
    (q.1 ++ reqs, q.2.1 + (64 * r.n) / 4096 + 2, q.2.2 + r.n)) ([], u, first)
  (r.1, r.2.1)

/-! ## Push checks (R383, R384) -/

/-- Schedules the head of a mover queue: not while a list is being read (R272). -/
def State.schedMv (s : State) (n m : Nat) : State :=
  let r := s.regionOf n
  let s := s.dropEvs r (·.k == .mvStart n m)
  let v := (s.clus n).mover m
  match v.q with
  | (x, _) :: _ => if v.reading then s else s.postM r (max (x.t + 8) v.listFree) phStart (1 + m) (.mvStart n m)
  | [] => s

/-- The completion cue of a command. -/
def MvCmd.done : MvCmd → Option Done
  | .inC _ _ _ _ _ d => d
  | .outC _ _ _ _ _ d => d
  | .xfer _ _ _ _ _ d => d
  | .rotate _ _ _ d => d

/-- Pushes a command into a mover queue; REGION scope of its completion is judged as a signal's (R320, R419). -/
def State.enqueueMv (s : State) (n m : Nat) (x : Ctx) (cmd : MvCmd) : State :=
  let s := match cmd.done with
    | some q => s.narrowSignal n (s.locLc n 4 m) q.scope q.obj x
    | none => s
  let s := s.modMv n m fun v => { v with q := v.q ++ [(x, cmd)] }
  if ((s.clus n).mover m).q.length = 1 then s.schedMv n m else s

/-- The completion cue that a mover command names (R383). -/
def mvDone (c : Cw) : Option Done := doneOf (f0 c 29 28) (f0 c 27 18) (f0 c 17 15) (f0 c 14 9)

/-- The reasons that all mover commands share. -/
def mvReasons (s : State) (n m : Nat) (x : Ctx) (c : Cw) : List (Nat × Bool) :=
  [tailReason s x, (rField, f0 c 8 0 != 0), (rQueue, 8 ≤ ((s.clus n).mover m).q.length)]
    ++ s.stateReasons n ++ doneReasons s (f0 c 29 28) (f0 c 27 18) (f0 c 17 15) (f0 c 14 9)

/-- The reasons that the push check of IN finds (R117, R366, R367). -/
def inReasons (s : State) (n m : Nat) (x : Ctx) (c : Cw) : List (Nat × Bool) :=
  let nent := f0 c 47 36 + 1
  let kd := f0 c 35 30
  let list := exprVal (s.caller n) x.idx 64 (f1 c 63 32)
  mvReasons s n m x c ++
    [(rField, f1 c 31 0 != 0 || f2 c 51 0 != 0 || c.w3 != 0 || exprBad (f1 c 63 32)), (rRange, !okF list (16 * nent)),
     protReason s n list (16 * nent) false, (rProt, !s.mayTouch kd)]

/-- An IN at its push (R279, R383, R384). -/
def State.pushIn (s : State) (n m : Nat) (x : Ctx) (c : Cw) : State :=
  let nent := f0 c 47 36 + 1
  let kd := f0 c 35 30
  let list := exprVal (s.caller n) x.idx 64 (f1 c 63 32)
  s.judge x (s.locLc n 4 m) (firstReason (inReasons s n m x c)) fun s =>
    s.enqueueMv n m x (.inC list.toNat nent kd (f2 c 63 56) (f2 c 55 52) (mvDone c))

/-- The reasons that the push check of OUT finds (R117, R366, R367). -/
def outReasons (s : State) (n m : Nat) (x : Ctx) (c : Cw) : List (Nat × Bool) :=
  let nent := f0 c 47 36 + 1
  let kd := f0 c 35 30
  let e := fun w => exprVal (s.caller n) x.idx 64 w
  let list := e (f1 c 63 32)
  let src := e (f1 c 31 0)
  let ngran := f2 c 17 0
  mvReasons s n m x c ++
    [(rField, f2 c 63 18 != 0 || c.w3 != 0 || exprBad (f1 c 63 32) || exprBad (f1 c 31 0)),
     (rRange, ngran == 0 || !okF list (16 * nent) || !okF src (64 * ngran)), protReason s n list (16 * nent) false,
     protReason s n src (64 * ngran) false, (rProt, !s.mayTouch kd)]

/-- An OUT at its push (R277, R383, R384). -/
def State.pushOut (s : State) (n m : Nat) (x : Ctx) (c : Cw) : State :=
  let nent := f0 c 47 36 + 1
  let kd := f0 c 35 30
  let e := fun w => exprVal (s.caller n) x.idx 64 w
  let list := e (f1 c 63 32)
  let src := e (f1 c 31 0)
  let ngran := f2 c 17 0
  s.judge x (s.locLc n 4 m) (firstReason (outReasons s n m x c)) fun s =>
    s.enqueueMv n m x (.outC list.toNat nent kd src.toNat ngran (mvDone c))

/-- The reasons that the push check of XFER finds (R117, R366, R367). -/
def xferReasons (s : State) (n m : Nat) (x : Ctx) (c : Cw) : List (Nat × Bool) :=
  let k := s.caller n
  let src := exprVal k x.idx 64 (f1 c 63 32)
  let didx := exprVal k x.idx 1 (f1 c 31 0)
  let ngran := f2 c 17 0
  let mcast := f2 c 63 63 == 1
  let st := f2 c 51 47
  let set := (List.range 48).filter fun i => (k.reg (f2 c 62 58)).getLsbD i
  let dests := if mcast then set else [f2 c 57 52]
  let bad := f0 c 47 30 != 0 || f2 c 46 18 != 0 || c.w3 != 0 || st < 16 || st == 31
    || (if mcast then f2 c 57 52 != 0 else f2 c 62 58 != 0) || exprBad (f1 c 63 32) || exprBad (f1 c 31 0)
  mvReasons s n m x c ++
    [(rField, bad), (rRange, ngran == 0 || !okF src (64 * ngran) || !okI didx), protReason s n src (64 * ngran) false,
     (rRange, mcast && (set.isEmpty || set.contains n))]
    ++ dests.flatMap fun d => latReason s n d :: lcReasons s d

/-- An XFER at its push (R77, R281, R296, R383, R384). -/
def State.pushXfer (s : State) (n m : Nat) (x : Ctx) (c : Cw) : State :=
  let k := s.caller n
  let src := exprVal k x.idx 64 (f1 c 63 32)
  let didx := exprVal k x.idx 1 (f1 c 31 0)
  let ngran := f2 c 17 0
  let mcast := f2 c 63 63 == 1
  let st := f2 c 51 47
  let set := (List.range 48).filter fun i => (k.reg (f2 c 62 58)).getLsbD i
  let dests := if mcast then set else [f2 c 57 52]
  s.judge x (s.locLc n 4 m) (firstReason (xferReasons s n m x c)) fun s =>
    s.enqueueMv n m x (.xfer src.toNat didx.toNat st ngran dests (mvDone c))

/-- The member after a cluster in a set, and the one before it (R293). -/
def Resident.neighbour (r : Resident) (n : Nat) (forward : Bool) : Nat :=
  let l := r.memberList
  let k := l.length
  (l[(l.idxOf n + (if forward then 1 else k - 1)) % k]?).getD n

/-- The reasons that the push check of ROTATE finds (R117, R366, R367). -/
def rotateReasons (s : State) (n m : Nat) (x : Ctx) (c : Cw) : List (Nat × Bool) :=
  let set := f2 c 63 58
  let r := s.resident set
  let deadline := f3 c 15 0
  let member := r.members.getLsbD n
  let prev := r.neighbour n false
  mvReasons s n m x c ++
    [(rField, f0 c 47 30 != 0 || c.w1 != 0 || f2 c 57 16 != 0 || f3 c 63 16 != 0 || deadline == 0),
     (rRange, !member), (rRange, member && prev != n && (s.latEntry prev n).isNone),
     (rProt, !r.flags.getLsbD 1 || !(r.state == .settled || r.state == .dirty) || !s.mayTouch r.kd.toNat)]

/-- A ROTATE at its push (R77, R293, R295, R383, R384). -/
def State.pushRotate (s : State) (n m : Nat) (x : Ctx) (c : Cw) : State :=
  let set := f2 c 63 58
  let deadline := f3 c 15 0
  s.judge x (s.locLc n 4 m) (firstReason (rotateReasons s n m x c)) fun s =>
    s.enqueueMv n m x (.rotate set (f2 c 15 0) deadline (mvDone c))

/-! ## Starts and block lists -/

/-- Puts a command on the floor side, which begins it when it is free (R272). -/
def State.floorJob (s : State) (n m : Nat) (j : FloorJob) : State :=
  let s := s.modMv n m fun v => { v with floor := v.floor ++ [j] }
  let v := (s.clus n).mover m
  if v.floor.length = 1 then s.postM (s.regionOf n) (max j.start v.floorFree) phRead (1 + m) (.mvFloor n m) else s

/-- The head of a mover queue reaches its start cycle (R272). -/
def State.mvStart (s : State) (n t m : Nat) : State :=
  let v := (s.clus n).mover m
  match v.q with
  | [] => s
  | (x, cmd) :: rest =>
    let s := s.modMv n m fun v => { v with q := rest }
    let loc := s.locLc n 4 m
    match cmd with
    | .xfer _ _ _ ngran dests done =>
      let (id, s) := s.openBulk n x loc dests done 0 ngran false
      (s.floorJob n m { ctx := x, cmd, id, start := t }).schedMv n m
    | .rotate set _ _ done =>
      let r := s.resident set
      let next := r.neighbour n true
      let (id, s) := s.openBulk n x loc [next] done 0 (if next = n then 0 else r.length.toNat / 64) (next == n)
      (if next = n then s else s.floorJob n m { ctx := x, cmd, id, start := t }).schedMv n m
    | _ => (s.modMv n m fun v => { v with reading := true }).postM (s.regionOf n) t phRead (1 + m) (.mvList n m 0 x cmd [])

/-- A command's list has been read (R272, R277, R279). -/
def State.listDone (s : State) (n t m : Nat) (x : Ctx) (cmd : MvCmd) (runs : List Run) : State :=
  let s := s.modMv n m fun v => { v with reading := false, listFree := t + 1 }
  let loc := s.locLc n 4 m
  let s := match cmd with
    | .inC _ _ _ guard stream done =>
      let total := runsLen runs
      let (id, s) := s.openBulk n x loc [n] done total total true
      let s := s.modBulk id fun b => { b with owed := [(n, total)] }
      let first := if h : stream < 16 then (s.clus n).issue[stream] else 0
      let (reqs, u) := requestsOf stream guard id s.uid first runs
      let s := { s with uid := u }
      (s.modMv n m fun v => { v with reqs := v.reqs ++ reqs }).modCl n fun c =>
        { c with issue := vmod c.issue stream fun _ => first + total }
    | .outC _ _ _ _ ngran done =>
      let total := runsLen runs
      let (id, s) := s.openBulk n x loc [] done 0 (min ngran total) false
      let s := if total = ngran then s else s.skipLog x rRange loc
      s.floorJob n m { ctx := x, cmd, id, start := t + 1, list := runs }
    | _ => s
  s.schedMv n m

/-- A mover reads a word of its block list: four entries per mover cycle (R272, R276). -/
def State.mvList (s : State) (n t m k : Nat) (x : Ctx) (cmd : MvCmd) (acc : List Run) : State :=
  let (list, nent, kd) := match cmd with
    | .inC list nent kd .. => (list, nent, kd)
    | .outC list nent kd .. => (list, nent, kd)
    | _ => (0, 0, 0)
  let (w, s) := s.floorRead n t pGR (uMover + m) (list + 64 * k) 64 x
  let entries := (List.range (min 4 (nent - 4 * k))).map fun i => (w.drop (16 * i)).take 16
  let (runs, s) := s.listRuns x (s.locLc n 4 m) { bound := some (2 ^ 41), whole := false, foreign := s.foreignBank kd } (4 * k) entries
  if 4 * (k + 1) < nent then s.postM (s.regionOf n) (t + 1) phRead (1 + m) (.mvList n m (k + 1) x cmd (acc ++ runs))
  else s.listDone n t m x cmd (acc ++ runs)

/-! ## Floor side -/

/-- Sends granules that a mover cycle has read as one word: each destination's staging takes its copy (R281, R293, R296).
A word that is void on one branch of its paths is void at every destination (R268; DESIGN CHOICE, log 108). -/
def State.sendGranules (s : State) (n m t : Nat) (x : Ctx) (id stream first num : Nat) (dsts : List Nat) (b : Bytes) : State :=
  let (word, s) := s.sendWord n (s.locLc n 4 m) t dsts x
  let gs := (List.range (b.length / 64)).map fun i => (b.drop (64 * i)).take 64
  let s := (List.zip (List.range gs.length) gs).foldl (fun (s : State) g => s.bulkData id (num + g.1) g.2) s
  dsts.foldl (fun (s : State) d =>
    (List.zip (List.range gs.length) gs).foldl (fun (s : State) g =>
      s.post (s.regionOf d) (t + s.planned n d) phStart 9
        (.arrive d { stream, index := first + g.1, guard := 0, data := g.2 } word id)) (s.bulkSent id d gs.length)) s

/-- The index base of a set's granules in stream 31, which keeps the sets apart (log 18). -/
def rotBase (set : Nat) : Nat := set * 2 ^ 24

/-- The first floor-side command of a mover has made its last access: the next one begins (R272). -/
def State.floorDone (s : State) (n t m id : Nat) : State :=
  let s := s.modBulk id fun b => { b with sent := true }
  let s := s.modMv n m fun v => { v with floor := v.floor.tail, floorFree := t + 1 }
  match ((s.clus n).mover m).floor with
  | j :: _ => s.postM (s.regionOf n) (max j.start (t + 1)) phRead (1 + m) (.mvFloor n m)
  | [] => s

/-- A mover cycle of the floor side (R277, R281, R293). -/
def State.mvFloor (s : State) (n t m : Nat) : State :=
  match ((s.clus n).mover m).floor with
  | [] => s
  | j :: rest =>
    let step := fun (s : State) (j : FloorJob) (total : Nat) =>
      let s := s.modMv n m fun v => { v with floor := j :: rest }
      if j.n < total then s.postM (s.regionOf n) (t + 1) phRead (1 + m) (.mvFloor n m) else s.floorDone n t m j.id
    match j.cmd with
    | .outC _ _ _ src ngran _ =>
      let (b, s) := s.floorRead n t pGR (uMover + m) (src + 64 * j.n) 64 j.ctx
      let (s, list) := match takeGranule j.list with
        | none => (s, [])
        | some (none, l) => (s.bulkData j.id j.n b, l)
        | some (some a, l) =>
          let s := (s.bankPut a (s.locLc n 4 m) j.ctx b).bulkData j.id j.n b
          let s := (s.bulkSent j.id 48 1).farLands (s.regionOf n) t (2 * j.id + 1) none false (2 ^ 62 + a) j.ctx
          ({ s with acks := s.acks ++ [.bulk j.id 48 (some a)] }, l)
      step s { j with n := j.n + 1, list } ngran
    | .xfer src didx stream ngran dests _ =>
      let k := min 8 (ngran - j.n)
      let (b, s) := s.floorRead n t pGR (uMover + m) (src + 64 * j.n) (64 * k) j.ctx
      step (s.sendGranules n m t j.ctx j.id stream (didx + j.n) j.n dests b) { j with n := j.n + k } ngran
    | .rotate set lat deadline _ =>
      let r := s.resident set
      let total := r.length.toNat / 64
      let s := if j.n = 0 then
          let s := s.modCl n fun c =>
            { c with rotating := c.rotating ++ [{ ctx := j.ctx, id := j.id, mover := m, set, next := 0, total, base := r.base.toNat, deadline }] }
          s.postM (s.regionOf n) (t + min 1 lat) phGw (1 + m) (.rotPlace n j.id (lat - 1))
        else s
      let (b, s) := s.floorRead n t pGR (uMover + m) (r.base.toNat + 64 * j.n) 512 j.ctx
      step (s.sendGranules n m t j.ctx j.id 31 (rotBase set + j.n) j.n [r.neighbour n true] b) { j with n := j.n + 8 } total
    | .inC .. => s

/-! ## Staging (R278-R282, R288) -/

/-- The granule of a stream with an index, if it is in staging. -/
def Cluster.granule (c : Cluster) (st i : Nat) : Option Staged := c.staging.find? fun g => g.stream == st && g.index == i

/-- Entries of a half of the staging buffer in use or reserved: local streams, or inbound ones (R278, R280, R284, R288). -/
def Cluster.used (c : Cluster) (inbound : Bool) : Nat :=
  (c.staging.filter fun g => decide (16 ≤ g.stream) == inbound).length
    + (if inbound then 0
       else (c.movers.toList.map fun v => v.out.length + (v.reqs.filter (·.kept)).length).sum)

/-- A collect counter. -/
def Cluster.collected (c : Cluster) (st : Nat) : Nat := if h : st < 32 then c.collect[st] else 0

/-- An inbound stream holds or has placed an index (R282): below the collect counter and in no pending WAIT. -/
def Cluster.seen (c : Cluster) (st i : Nat) : Bool :=
  (c.granule st i).isSome || (decide (i < c.collected st) && !c.caller.waits.any fun w =>
    match w.form with
    | .stream q first count .. => q == st && decide (first ≤ i) && decide (i < first + count)
    | _ => false)

/-- The granules of the next placement of a ROTATE are in staging. -/
def Cluster.rotReady (c : Cluster) (q : Rotating) : Bool :=
  (List.range (min 8 (q.total - q.next))).all fun i => (c.granule 31 (rotBase q.set + q.next + i)).isSome

/-- The granules of the next placement of a released WAIT are in staging (R284, R288). -/
def Cluster.placeReady (c : Cluster) (p : Placing) : Bool := (List.range (min 32 p.count)).all fun i => (c.granule p.st (p.first + i)).isSome

/-- The holds of placements that have their granules again are over (R285, R294). -/
def State.easeHolds (s : State) (n : Nat) : State :=
  let c := s.clus n
  if c.placing.any (fun p => p.held.isSome && c.placeReady p) || c.rotating.any (fun q => q.held.isSome && c.rotReady q) then
    (s.modCl n fun k =>
      { k with placing := k.placing.map fun p => if c.placeReady p then { p with held := none, stalls := 0 } else p
               rotating := k.rotating.map fun q => if c.rotReady q then { q with held := none, stalls := 0 } else q }).settleWait n
  else s

/-- A granule of an XFER or ROTATE arrives, and is acknowledged whether staging takes it or not (R268, R278, R282, R321). -/
def State.arrive (s : State) (n t : Nat) (g : Staged) (word id : Nat) : State :=
  let g := if s.isVoid word then { g with data := List.replicate 64 0 } else g
  let c := s.clus n
  let s : State := { s with acks := s.acks ++ [Ack.bulk id n none] }
  if c.seen g.stream g.index || 2048 ≤ c.used true then
    let b := s.bulks.find? (·.id == id)
    let loc := (b.map (·.loc)).getD 0
    (s.count 0x9003 4 1).hazard (s.stampAt (s.regionOf n) t ((b.map (·.ctx)).getD {})) 6 1 loc (s.locLc n 0 0) (3 * 2 ^ 62 + s.locLc n 0 0)
  else (s.modCl n fun c => { c with staging := c.staging ++ [g] }).easeHolds n

/-- The blocks of requests not yet issued whose first granule has been requested, none for bad entries: `last` is the block of the request
before them (R280). -/
def begunBlocks (last : Option Nat) : List Req → List Nat
  | [] => []
  | r :: l =>
    if last = some r.block then begunBlocks last l
    else (if r.opens || r.addr.isNone then [] else [r.block]) ++ begunBlocks (some r.block) l

/-- Whether fewer than 64 blocks of a mover are outstanding (R280). -/
def Mover.roomFor (v : Mover) : Bool := ((v.out.map (·.block)) ++ begunBlocks none v.reqs).eraseDups.length < 64

/-- A mover's request side issues its next granule request, if it may; the granule of a bad entry is zero and goes to staging
without one (R276, R280). -/
def State.granuleRequest (s : State) (n m : Nat) : State :=
  let c := s.clus n
  let v := c.mover m
  match v.reqs with
  | [] => s
  | r :: rest =>
    if !(r.kept || c.used false < 2048) then s
    else match r.addr with
      | none =>
        let g : Staged := { stream := r.stream, index := r.index, guard := r.guard, data := List.replicate 64 0
                            src := some { r with job := 0 }, mover := m, born := s.det.ackNo }
        let s := (s.modMv n m fun v => { v with reqs := rest }).modCl n fun c => { c with staging := c.staging ++ [g] }
        (((if r.kept then s.count 0x9003 5 1 else s).bulkData r.job r.index g.data).bulkAcked r.job n).easeHolds n
      | some _ =>
        if v.roomFor then
          (if r.kept then s.count 0x9003 5 1 else s).modMv n m fun v => { v with reqs := rest, out := v.out ++ [{ r with kept := false }] }
        else s

/-- The granule of a request reaches staging (R278, R320). -/
def State.staged (s : State) (n m : Nat) (r : Req) (d : Bytes) : State :=
  let s := s.modMv n m fun v => { v with out := v.out.erase r }
  let g : Staged := { stream := r.stream, index := r.index, guard := r.guard, data := d
                      src := some { r with again := [], job := 0 }, mover := m, born := s.det.ackNo }
  let s := s.modCl n fun c => { c with staging := c.staging ++ [g] }
  ((s.bulkData r.job r.index d).bulkAcked r.job n).easeHolds n

/-- The `k`-th request outstanding in a cluster's movers, with its mover. -/
def Cluster.outstanding (c : Cluster) (k : Nat) : Option (Nat × Req) :=
  ((c.mover 0).out.map (fun r => (0, r)) ++ (c.mover 1).out.map (fun r => (1, r)))[k]?

/-- Bank memory answers an outstanding request: its granule reaches staging, or its first read fails (R278, R445). -/
def State.bankAnswer (s : State) (n k : Nat) : State :=
  match (s.clus n).outstanding k with
  | none => s
  | some (m, r) =>
    if !r.again.isEmpty then s
    else match s.granuleOnce (r.addr.getD 0) (s.locLc n 4 m) with
      | ([], d, s) => s.staged n m r d
      | (bad, _, s) => s.modMv n m fun v => { v with out := v.out.map fun q => if q = r then { r with again := bad } else q }

/-- The second read of a request whose first read failed (R445). -/
def State.bankAgain (s : State) (n k : Nat) : State :=
  match (s.clus n).outstanding k with
  | none => s
  | some (m, r) =>
    if r.again.isEmpty then s
    else match s.granuleAgain r.again (r.addr.getD 0) (s.locLc n 4 m) with
      | (.ok d, s) => s.staged n m r d
      | (.error b, s) =>
        let x := ((s.bulks.find? (·.id == r.job)).map (·.ctx)).getD {}
        s.bankUe b (s.locLc n 4 m) (s.stampAt (s.regionOf n) (s.domN (s.regionOf n)).nt x)

/-- Puts a request in the order of stream and index. -/
def insertReq (r : Req) : List Req → List Req
  | [] => [r]
  | q :: l => if r.stream < q.stream || (r.stream == q.stream && r.index < q.index) then r :: q :: l else q :: insertReq r l

/-- Re-requests in index order, forming blocks afresh (R288). -/
def reblock (u : Nat) (l : List Req) : List Req :=
  (l.foldl (fun (q : List Req × Nat × Option Req) r =>
    let follows := match q.2.2 with
      | some p => p.stream == r.stream && p.index + 1 == r.index && p.rep == r.rep
          && p.addr.map (· / 4096) == r.addr.map (· / 4096)
      | none => false
    let b := if follows then q.2.1 else q.2.1 + 1
    (q.1 ++ [{ r with block := b, opens := !follows, kept := true, again := [] }], b, some r)) ([], u, none)).1

/-- An acquire discards the unconsumed staging entries of a guard number, in staging and on their way (R288, R317). -/
def State.discardGuard (s : State) (n g : Nat) : State :=
  if g = 0 then s
  else (List.range 2).foldl (fun (s : State) m =>
    let c := s.clus n
    let held := c.staging.filter fun e => e.guard == g && e.mover == m && e.src.isSome
    let flying := (c.mover m).out.filter (·.guard == g)
    let again := ((held.filterMap (·.src)) ++ flying).foldl (fun l r => insertReq r l) []
    let new := reblock s.uid again
    let s := { s with uid := s.uid + new.length + 1 }
    let s := s.modCl n fun c => { c with staging := c.staging.filter fun e => !held.contains e }
    s.modMv n m fun v => { v with out := v.out.filter (·.guard != g), reqs := new ++ v.reqs }) s

/-! ## Stream placements (R284) -/

/-- Whether every granule of a stream WAIT is in staging (R284). -/
def Cluster.allStaged (c : Cluster) (st first count : Nat) : Bool :=
  (List.range count).all fun i => (c.granule st (first + i)).isSome

/-- A stream WAIT is released: its granules will land from two mover cycles after its release on, after those of the WAITs with
the same release (R284). -/
def State.releaseStream (s : State) (n r st first count faddr tkt deadline : Nat) (x : Ctx) : State :=
  let before := (((s.clus n).placing.filter (·.r == r)).map fun p => (p.count + 31) / 32).sum
  let (id, s) := s.fresh
  let s := s.modCl n fun c => { c with placing := c.placing ++ [{ id, r, st, first, count, faddr, tkt, ctx := x, deadline }] }
  s.postM (s.regionOf n) r phGw 6 (.place n (2 + before) id)

/-- A mover cycle of a placement: 32 granules land through GW, each frees its entry, and with the last the ticket is set; granules that a
discard took away are awaited (R143, R284, R285, R288; log 91). -/
def State.place (s : State) (n t left id : Nat) : State :=
  match (s.clus n).placing.find? (·.id == id) with
  | none => s
  | some p =>
    if left ≠ 0 then s.postM (s.regionOf n) (t + 1) phGw 6 (.place n (left - 1) id)
    else if !(s.clus n).placeReady p then s.postM (s.regionOf n) (t + 1) phGw 6 (.place n 0 id)
    else
      let k := min 32 p.count
      let gs := (List.range k).filterMap fun i => (s.clus n).granule p.st (p.first + i)
      let s := s.stale n t p.ctx gs
      let s := s.floorWrite n t pGW uCaller (fullWrites p.faddr (gs.flatMap (·.data))) p.ctx
      let s := s.modCl n fun c => { c with staging := c.staging.filter fun g => !(g.stream == p.st && p.first ≤ g.index && g.index < p.first + k) }
      if p.count = k then
        let s := s.modCl n fun c => { c with placing := c.placing.filter (·.id != id) }
        if p.tkt = 0 then s else s.setTicket n p.tkt
      else
        (s.modCl n fun c => { c with placing := c.placing.map fun q =>
          if q.id = id then { q with first := q.first + k, count := q.count - k, faddr := q.faddr + 2048 } else q }).postM (s.regionOf n) (t + 1)
          phGw 6 (.place n 0 id)

/-! ## Promenade placements (R293, R294) -/

/-- The last incoming granule of a member has landed; after the last member's the rotation advances (R260, R294). -/
def State.memberTurned (s : State) (n set : Nat) : State :=
  s.modResident set fun r =>
    let turned := r.turned ||| (1 <<< n)
    let k := r.memberList.length
    if turned = BitVec.setWidth 48 r.members then
      { r with turned := 0, rotation := BitVec.ofNat 8 ((r.rotation.toNat + 1) % k) }
    else { r with turned }

/-- A placement of a ROTATE: up to eight granules land in the shard; the set's state does not change (R293, R294). -/
def State.rotPlace (s : State) (n t id left : Nat) : State :=
  match (s.clus n).rotating.find? (·.id == id) with
  | none => s
  | some q =>
    let r := s.regionOf n
    if left ≠ 0 then s.postM r (t + 1) phGw (1 + q.mover) (.rotPlace n id (left - 1))
    else if !(s.clus n).rotReady q then s.postM r (t + 1) phGw (1 + q.mover) (.rotPlace n id 0)
    else
      let c := s.clus n
      let k := min 8 (q.total - q.next)
      let gs := (List.range k).filterMap fun i => (c.granule 31 (rotBase q.set + q.next + i)).map (·.data)
      let st := (s.resident q.set).state
      let lo := rotBase q.set + q.next
      let s := s.floorWrite n t pGW (uMover + q.mover) (fullWrites (q.base + 64 * q.next) gs.flatten) q.ctx
      let s := s.modResident q.set fun e => { e with state := if e.state == .dirty then st else e.state }
      let s := s.modCl n fun c =>
        { c with staging := c.staging.filter fun g => !(g.stream == 31 && lo ≤ g.index && g.index < lo + k) }
      if q.next + k < q.total then
        (s.modCl n fun c => { c with rotating := c.rotating.map fun e => if e.id = id then { e with next := q.next + k, stalls := 0 } else e }).postM
          r (t + 1) phGw (1 + q.mover) (.rotPlace n id 0)
      else (s.modCl n fun c => { c with rotating := c.rotating.filter (·.id != id) }).memberTurned n q.set

end Sys2Proof.Machine
end

