-- ==== Sys2Proof/Machine/Callers.lean ====
section
/-! DEFINITION. The callers: their register, predicate, ticket, STEP, AMAX and VKEY commands, and the synchronisation and
message queue with HPUT and PUT (03_routine.md R103-R112; 12_commands.md R386-R398; 09_movers_and_streams.md R289-R292). -/

namespace Sys2Proof.Machine

/-! ## Registers -/

/-- Writes an address register of a caller (R103). -/
def State.setReg (s : State) (w r v : Nat) : State :=
  s.modCaller w fun k => { k with regs := vmod k.regs r fun _ => BitVec.ofNat 48 v }

/-- The location word of a caller's unit: of a cluster, or the die's routine sequencer (R22, R409). -/
def State.locCaller (s : State) (w unit : Nat) : Nat := if w < 48 then s.locLc w unit 0 else locDie (w - 48) 0 0

/-- The reasons that every command of a caller shares (R117, R590). -/
def callerReasons (s : State) (w : Nat) (x : Ctx) : List (Nat × Bool) :=
  tailReason s x :: (if w < 48 then s.stateReasons w else [])

/-- The reasons that the push check of RSET finds (R117, R366, R367). -/
def rsetReasons (s : State) (w : Nat) (x : Ctx) (c : Cw) : List (Nat × Bool) :=
  callerReasons s w x ++ [(rField, f0 c 42 0 != 0 || f1 c 63 48 != 0)]

/-- RSET (R386). -/
def State.pushRset (s : State) (w : Nat) (x : Ctx) (c : Cw) : State :=
  s.judge x (s.locCaller w 0) (firstReason (rsetReasons s w x c)) fun s =>
    s.setReg w (f0 c 47 43) (f1 c 47 0)

/-- The reasons that the push check of RCALC finds (R117, R366, R367). -/
def rcalcReasons (s : State) (w : Nat) (x : Ctx) (c : Cw) : List (Nat × Bool) :=
  let v := exprVal (s.caller w) x.idx (if f0 c 42 42 = 1 then 64 else 1) (f0 c 31 0)
  callerReasons s w x ++
    [(rField, f0 c 41 32 != 0 || exprBad (f0 c 31 0)), (rRange, !okA v)]

/-- RCALC (R105, R386). -/
def State.pushRcalc (s : State) (w : Nat) (x : Ctx) (c : Cw) : State :=
  let v := exprVal (s.caller w) x.idx (if f0 c 42 42 = 1 then 64 else 1) (f0 c 31 0)
  s.judge x (s.locCaller w 0) (firstReason (rcalcReasons s w x c)) fun s => s.setReg w (f0 c 47 43) v.toNat

/-! ## Predicates, tickets, STEP, keys -/

/-- The binding that a PBIND names (R388, R401). -/
def pbindKind (w : Nat) (c : Cw) : PredKind :=
  if f0 c 41 41 = 1 then .unbound
  else if f0 c 43 42 = 0 then (if w < 48 then .cue (f0 c 40 31) else .mcue (f0 c 40 31))
  else if f0 c 43 42 = 1 then .tally (f0 c 40 31) (f0 c 30 15)
  else if f0 c 43 42 = 2 then .vdep else .fcount

/-- The reasons that the push check of PBIND finds (R117, R366, R367). -/
def pbindReasons (s : State) (w : Nat) (x : Ctx) (c : Cw) : List (Nat × Bool) :=
  let kind := f0 c 43 42
  let unb := f0 c 41 41 == 1
  let num := f0 c 40 31
  let thresh := f0 c 30 15
  let bad := f0 c 47 44 == 0 || f0 c 14 0 != 0 || (unb && (kind != 0 || num != 0 || thresh != 0))
    || (kind != 1 && thresh != 0) || (w < 48 && kind == 0 && 256 ≤ num) || (kind == 1 && 64 ≤ num) || (2 ≤ kind && num != 0)
    || (48 ≤ w && kind != 0)
  callerReasons s w x ++ [(rField, bad)]

/-- PBIND: a new binding reads false until something is deposited (R388, R401). -/
def State.pushPbind (s : State) (w : Nat) (x : Ctx) (c : Cw) : State :=
  s.judge x (s.locCaller w 0) (firstReason (pbindReasons s w x c)) fun s =>
    s.modCaller w fun k =>
      { k with preds := vmod k.preds (f0 c 47 44) fun _ => { kind := pbindKind w c, val := false, since := x.t + 4 } }

/-- The reasons that the push check of TICKET finds (R117, R366, R367). -/
def ticketReasons (s : State) (n : Nat) (x : Ctx) (c : Cw) : List (Nat × Bool) :=
  let mask := f0 c 31 0
  callerReasons s n x ++ [(rField, f0 c 47 32 != 0 || mask % 2 != 0)]

/-- TICKET (R144, R390). -/
def State.pushTicket (s : State) (n : Nat) (x : Ctx) (c : Cw) : State :=
  let mask := f0 c 31 0
  s.judge x (s.locLc n 0 0) (firstReason (ticketReasons s n x c)) fun s =>
    (List.range 32).foldl (fun (s : State) t => if mask.testBit t then s.clearTicket n t else s) s

/-- The reasons that the push check of STEP finds (R117, R366, R367). -/
def stepReasons (s : State) (n : Nat) (x : Ctx) (c : Cw) : List (Nat × Bool) :=
  let inc := f0 c 47 47 == 1
  callerReasons s n x ++
    [(rField, f0 c 46 0 != 0 || f1 c 63 32 != 0 || (inc && f1 c 31 0 != 0))]

/-- STEP (R227, R391). -/
def State.pushStep (s : State) (n : Nat) (x : Ctx) (c : Cw) : State :=
  let inc := f0 c 47 47 == 1
  s.judge x (s.locLc n 0 0) (firstReason (stepReasons s n x c)) fun s =>
    s.modCl n fun k => k.setStep (if inc then k.stepReg + 1 else BitVec.ofNat 32 (f1 c 31 0))

/-- The reasons that the push check of VKEY finds (R117, R366, R367). -/
def vkeyReasons (s : State) (w : Nat) (x : Ctx) (c : Cw) : List (Nat × Bool) :=
  callerReasons s w x ++ [(rField, f0 c 45 0 != 0)]

/-- VKEY (R239, R393). -/
def State.pushVkey (s : State) (w : Nat) (x : Ctx) (c : Cw) : State :=
  s.judge x (s.locCaller w 0) (firstReason (vkeyReasons s w x c)) fun s =>
    s.modCaller w fun k => { k with keys := vmod k.keys (f0 c 47 46) fun _ => c.w1 }

/-! ## AMAX -/

/-- A floor write of the caller lands through GW, and is acknowledged (R246, R392, R398). -/
def State.store (s : State) (n t addr : Nat) (data : Bytes) (id : Nat) (x : Ctx) : State :=
  ((s.wrote n n x 0).floorWrite n t pGW uCaller (fullWrites addr data) x).acked n id

/-- The reasons that the push check of AMAX finds (R117, R366, R367). -/
def amaxReasons (s : State) (n : Nat) (x : Ctx) (c : Cw) : List (Nat × Bool) :=
  let op := f0 c 47 45
  let q := f0 c 44 40
  let reg := f0 c 39 35
  let a := ((s.caller n).reg reg).toNat
  let addr := exprVal (s.caller n) x.idx 64 (f0 c 31 0)
  let slot := (s.clus n).amaxSlot q
  let bad := 5 ≤ op || f0 c 34 32 != 0 || (op != 0 && reg != 0) || (op < 2 && f0 c 31 0 != 0)
    || (2 ≤ op && exprBad (f0 c 31 0)) || (op == 0 && bits a 47 40 != 0)
  callerReasons s n x ++
    [(rField, bad), (rRange, (op == 0 && slot.isSome) || (2 ≤ op && (slot.isNone || !okF addr 64))),
     (rProt, 2 ≤ op && (protReason s n addr 64 (op == 2)).2)]

/-- AMAX in one of its five operations (R229, R392). -/
def State.pushAmax (s : State) (n : Nat) (x : Ctx) (c : Cw) : State :=
  let op := f0 c 47 45
  let q := f0 c 44 40
  let reg := f0 c 39 35
  let a := ((s.caller n).reg reg).toNat
  let addr := exprVal (s.caller n) x.idx 64 (f0 c 31 0)
  let slot := (s.clus n).amaxSlot q
  s.judge x (s.locLc n 0 0) (firstReason (amaxReasons s n x c)) fun s =>
    if op = 0 then
      s.modCl n fun k => k.setAmax q (some { tensor := BitVec.ofNat 32 (bits a 31 0), window := bits a 35 32 + 1
                                             margin := bits a 39 36, cur := 0, hist := Vector.replicate 16 0 })
    else if op = 1 then s.modCl n fun k => k.setAmax q none
    else if op = 2 then
      match slot with
      | none => s
      | some r =>
        let (id, s) := s.fresh
        ((s.owe n id 0 n addr.toNat 1 x).will n n x (s.locLc n 0 0) [(0, addr.toNat, 64)]).post (s.regionOf n) (x.t + 4 + tierOf addr.toNat) phGw 6
          (.store n addr.toNat (r.record (s.clus n).stepReg) id x)
    else s.post (s.regionOf n) (x.t + 4) phRead 6 (.amaxGot n q (op == 4) addr.toNat none x)

/-! ## Handle queues (R289-R292) -/

/-- The reasons that the push check of HTAKE finds (R117, R366, R367). -/
def htakeReasons (s : State) (n : Nat) (x : Ctx) (c : Cw) : List (Nat × Bool) :=
  let r := f0 c 41 37
  callerReasons s n x ++ [(rField, f0 c 36 0 != 0 || r % 2 != 0)]

/-- HTAKE: the oldest handle that entered up to the cycle before goes to two registers (R291, R292, R387). -/
def State.pushHtake (s : State) (n : Nat) (x : Ctx) (c : Cw) : State :=
  let r := f0 c 41 37
  s.judge x (s.locLc n 0 0) (firstReason (htakeReasons s n x c)) fun s =>
    let key := s.regionOf n * 64 + f0 c 47 42
    match (tGet s.hqs key).getD [] with
    | (t, h) :: rest =>
      if t ≤ x.t + 3 then
        let s := { s with hqs := tPut s.hqs key rest }
        (s.setReg n r (bits h.toNat 29 0)).setReg n (r + 1) (bits h.toNat 47 30)
      else ((s.setReg n r 0).setReg n (r + 1) 0).count 0x9003 6 1
    | [] => ((s.setReg n r 0).setReg n (r + 1) 0).count 0x9003 6 1

/-- A handle enters its queue, or is dropped where that holds 16 (R290, R292). -/
def State.hput (s : State) (n t hq : Nat) (h : BitVec 64) (x : Ctx) : State :=
  let r := s.regionOf n
  let key := r * 64 + hq
  let q := (tGet s.hqs key).getD []
  if 16 ≤ q.length then
    let loc := s.locLc n 6 0
    (s.count 0x9003 7 1).hazard (s.stampAt r t x) 6 2 loc loc (3 * 2 ^ 62 + hq * 65536 + locRegion r 4 hq)
  else { s with hqs := tPut s.hqs key (q ++ [(t, h)]) }

/-! ## The synchronisation and message queue (R111, R306) -/

/-- Schedules the head of a synchronisation queue: not while a FENCE is in progress (R306, R323). -/
def State.schedSy (s : State) (w : Nat) : State :=
  let d := s.domOf w
  let s := s.dropEvs d (·.k == .syStart w)
  let k := s.caller w
  if k.fence.isSome then s
  else match k.syq with
    | (x, _) :: _ => s.post d (max (x.t + 8) k.syFree) phStart 0 (.syStart w)
    | [] => s

/-- Pushes a command into a synchronisation queue. -/
def State.enqueueSy (s : State) (w : Nat) (x : Ctx) (cmd : SyCmd) : State :=
  let s := s.modCaller w fun k => { k with syq := k.syq ++ [(x, cmd)] }
  if (s.caller w).syq.length = 1 then s.schedSy w else s

/-- The reasons that every command of a synchronisation queue shares. -/
def syReasons (s : State) (w : Nat) (x : Ctx) : List (Nat × Bool) :=
  (rQueue, 8 ≤ (s.caller w).syq.length) :: callerReasons s w x

/-- The reasons that the push check of HPUT finds (R117, R366, R367). -/
def hputReasons (s : State) (n : Nat) (x : Ctx) (c : Cw) : List (Nat × Bool) :=
  let k := s.caller n
  let a := (k.reg (f0 c 41 37)).toNat
  let v := exprVal k x.idx 64 (f0 c 31 0)
  let len := bits a 17 0
  syReasons s n x ++
    [(rField, f0 c 36 32 != 0 || bits a 47 18 != 0 || exprBad (f0 c 31 0))] ++ qReasons s n v (64 * len)
    ++ (if okQ v 0 then s.stateReasons (qLc n v) else [])

/-- HPUT at its push: bits [29:0] of the handle are those of the expression (R290, R397). -/
def State.pushHput (s : State) (n : Nat) (x : Ctx) (c : Cw) : State :=
  let k := s.caller n
  let a := (k.reg (f0 c 41 37)).toNat
  let v := exprVal k x.idx 64 (f0 c 31 0)
  let len := bits a 17 0
  s.judge x (s.locLc n 6 0) (firstReason (hputReasons s n x c)) fun s =>
    s.enqueueSy n x (.hput (f0 c 47 42) (BitVec.ofNat 64 (v.toNat + len * 2 ^ 30)))

/-- The reasons that the push check of PUT finds (R117, R366, R367). -/
def putReasons (s : State) (n : Nat) (x : Ctx) (c : Cw) : List (Nat × Bool) :=
  let k := s.caller n
  let final := f0 c 47 47 == 1
  let src := exprVal k x.idx 64 (f1 c 63 32)
  let dst := exprVal k x.idx 64 (f1 c 31 0)
  let d := qLc n dst
  syReasons s n x ++
    [(rField, f0 c 28 0 != 0 || (!final && f0 c 46 29 != 0) || exprBad (f1 c 63 32) || exprBad (f1 c 31 0)),
     (rRange, !okF src 64), protReason s n src 64 false] ++ qReasons s n dst 64
    ++ (if okQ dst 64 then
          (rRange, final && d == n) :: (rRange, d != n && (s.latEntry n d).isNone) :: protReason s d (dst % 2 ^ 24) 64 true
            :: s.stateReasons d else [])

/-- PUT at its push: its write is owed from here on (R322, R398). -/
def State.pushPut (s : State) (n : Nat) (x : Ctx) (c : Cw) : State :=
  let k := s.caller n
  let final := f0 c 47 47 == 1
  let src := exprVal k x.idx 64 (f1 c 63 32)
  let dst := exprVal k x.idx 64 (f1 c 31 0)
  let d := qLc n dst
  s.judge x (s.locLc n 6 0) (firstReason (putReasons s n x c)) fun s =>
    let (id, s) := s.fresh
    let f := if final then some (f0 c 46 41, f0 c 40 29 + 1) else none
    ((s.owe n id 0 d (qAddr dst) 1 x).will n d x (s.locLc n 6 0) [(0, qAddr dst, 64)]).enqueueSy n x (.put f src.toNat dst.toNat id)

/-- A PUT starts: it reads in this cycle (R398); a receiver in another region awaits its write (R30). -/
def State.putStart (s : State) (n t : Nat) (x : Ctx) (final : Option (Nat × Nat)) (src dst id : Nat) : State :=
  let d := qLc n dst
  let s := if d = n then s else s.expect n d (t + 10) id
  (s.modCaller n fun k => { k with syFree := t + 11 }).post (s.regionOf n) t phRead 6 (.putRead n src dst final id x)

/-- A PUT reads its granule through GR (R398). -/
def State.putRead (s : State) (n t src dst : Nat) (final : Option (Nat × Nat)) (id : Nat) (x : Ctx) : State :=
  let (b, s) := s.floorRead n t pGR uCaller src 64 x
  s.post (s.regionOf n) (t + 10) phEnd 6 (.putSend n dst b final id x)

/-- A PUT issues its write: into its own floor it lands four cycles later, elsewhere it is DIRECT traffic (R321, R398). -/
def State.putSend (s : State) (n t dst : Nat) (data : Bytes) (final : Option (Nat × Nat)) (id : Nat) (x : Ctx) : State :=
  let d := qLc n dst
  let a := qAddr dst
  if d = n then s.post (s.regionOf n) (t + 4) phGw 6 (.store n a data id x)
  else s.sendDirect n d t { ctx := x, origin := n, writes := fullWrites a data, final, counts := true, id }

end Sys2Proof.Machine
end

