-- ==== Sys2Proof/Machine/Channels.lean ====
section
/-! DEFINITION. Channels and the programmable check unit of a cluster (11_channels.md; 12_commands.md R387, R397, R399). -/

namespace Sys2Proof.Machine

/-! ## Records (R347, R348) -/

/-- The first twelve bytes of a record header. -/
def recHead (len : Nat) (alive : Byte) (kind ch : Nat) (tag : BitVec 32) : Bytes :=
  leBytes 2 len ++ [alive, BitVec.ofNat 8 kind, BitVec.ofNat 8 ch, 0, 0, 0] ++ leBytes 4 tag.toNat

/-- The route of a channel, if it is VALID (R344). -/
def State.route (s : State) (ch : Nat) : Option Route := tGet s.rt.routes ch

/-- The reason of a channel that is not VALID, or whose end a cluster is not (R350, R356, R397). -/
def chReason (s : State) (n ch : Nat) (sender : Bool) : Nat × Bool :=
  (rRange, !(s.route ch).any fun r => (if sender then r.src else r.dst) == n)

/-- RESOURCE of a channel (R420). -/
def chResource (ch loc : Nat) : Nat := 3 * 2 ^ 62 + ch * 65536 + loc

/-! ## Sending (R350-R353) -/

/-- The reasons that the push check of CHSEND finds (R117, R366, R367). -/
def chsendReasons (s : State) (n : Nat) (x : Ctx) (c : Cw) : List (Nat × Bool) :=
  let k := s.caller n
  let ch := f0 c 47 40
  let a := (k.reg (f0 c 39 35)).toNat
  let len := bits a 11 0
  let src := exprVal k x.idx 64 (f0 c 31 0)
  let prot := match s.route ch with
    | some r => (if len = 0 then [] else [protReason s n src len false]) ++
        [protReason s r.dst r.ringBase r.ring true, protReason s r.src r.spillBase r.spill true] ++ s.stateReasons r.dst
    | none => []
  syReasons s n x ++
    [(rField, f0 c 34 32 != 0 || bits a 15 12 != 0 || exprBad (f0 c 31 0)), chReason s n ch true,
     (rRange, 4080 < len || !okF src len)] ++ prot

/-- CHSEND at its push: the record's writes are owed from here on (R322, R350, R397); its ring and its spill area are judged
against the resident sets there (log 24). -/
def State.pushChsend (s : State) (n : Nat) (x : Ctx) (c : Cw) : State :=
  let k := s.caller n
  let ch := f0 c 47 40
  let a := (k.reg (f0 c 39 35)).toNat
  let len := bits a 11 0
  let src := exprVal k x.idx 64 (f0 c 31 0)
  s.judge x (s.locLc n 6 0) (firstReason (chsendReasons s n x c)) fun s =>
    let (id, s) := s.fresh
    let s := match s.route ch with
      | some r => s.owe n id 2 r.dst r.ringBase (recSize len / 64) x
      | none => s
    s.enqueueSy n x (.chsend ch len (BitVec.ofNat 32 (bits a 47 16)) src.toNat id)

/-- A channel fault: SPILLED, its counters and its record in the error log (R351). -/
def State.channelFault (s : State) (n t ch : Nat) (x : Ctx) (dropped : Bool) : State :=
  let loc := s.locLc n 6 0
  let s := s.modChan ch fun c => { c with spilled := true, spillFull := c.spillFull || dropped }
  let s := s.count 0x9005 1 1
  let s := if dropped then s.count 0x9005 2 1 else s
  let s := s.errLog 0 0x0E loc x loc ([BitVec.ofNat 8 ch, 0, 0, 0] ++ leBytes 4 (s.chan ch).spillWptr.toNat)
  s.hazard (s.stampAt (s.regionOf n) t x) 6 0 loc loc (chResource ch loc)

/-- A landing register of the receiver awaits a granule sent at a stamp (R30, R352). -/
def State.expectCh (s : State) (n : Nat) (r : Route) (t id : Nat) : State :=
  if s.near n r.dst then s else s.modDom (s.regionOf r.dst) fun d => { d with gates := d.gates ++ [(t + r.lat, id)] }

/-- A CHSEND starts: it sends where FREE and SLOTS suffice, otherwise its record goes to the spill area or is dropped (R350-R353). -/
def State.chsendStart (s : State) (n t : Nat) (x : Ctx) (ch len : Nat) (tag : BitVec 32) (src id : Nat) : State :=
  match s.route ch with
  | none => s.unowe n id
  | some r =>
    let c := s.chan ch
    let size := recSize len
    let wptr := c.wptr.toNat
    let wrap := r.ring < wptr + size
    let need := size + (if wrap then r.ring - wptr else 0)
    let alive := c.sendAlive + 1
    let g := size / 64
    let d := s.regionOf n
    let fits := need ≤ c.free.toNat && 1 ≤ c.slots.toNat
    let send := t + 10 + b2n (fits && wrap)
    let room := c.spillWptr.toNat + size ≤ r.spill
    let o : ChOut := { ctx := x, id, len, tag, alive, spill := !fits, send, src
                       off := if fits then some (if wrap then 0 else wptr) else if room then some c.spillWptr.toNat else none
                       pad := if fits && wrap then some wptr else none }
    let s := s.modChan ch fun c => { c with sendAlive := alive, out := some o }
    let s := match o.off with
      | some off => (s.will n (if fits then r.dst else n) x (s.locLc n 6 0)
          (((List.range g).map fun j => (j, (if fits then r.ringBase else r.spillBase) + off + 64 * j, 64))
            ++ if fits && wrap then [(g, r.ringBase + wptr, 64)] else []))
      | none => s
    let s := if fits then
        let s := s.modChan ch fun c =>
          { c with free := c.free - BitVec.ofNat 21 need, slots := c.slots - 1
                   wptr := BitVec.ofNat 20 ((if wrap then size else wptr + size) % r.ring) }
        let s := (List.range g).foldl (fun (s : State) j => s.expectCh n r (send + j) id) s
        if wrap then
          ((s.modCl n fun c => { c with unacked := c.unacked.map fun u => if u.id = id then { u with left := u.left + 1 } else u }).expectCh
            n r (t + 10) id).post d (t + 10) phEnd 6 (.chPad n ch)
        else s
      else
        let s := if room then s.modChan ch fun c => { c with spillWptr := c.spillWptr + BitVec.ofNat 21 size } else s.unowe n id
        s.channelFault n t ch x (!room)
    let s := if len = 0 then s else s.post d t phRead 6 (.chRead n ch 0)
    (s.post d send phGw 6 (.chSend n ch 0)).modCaller n fun k => { k with syFree := send + g }

/-- A source granule of a record is read through GR (R352). -/
def State.chRead (s : State) (n t ch j : Nat) : State :=
  match (s.chan ch).out with
  | none => s
  | some o =>
    let (b, s) := s.floorRead n t pGR uCaller (o.src + 64 * j) 64 o.ctx
    let s := s.modChan ch fun c => { c with out := some { o with data := o.data ++ b } }
    if 64 * (j + 1) < o.len then s.post (s.regionOf n) (t + 1) phRead 6 (.chRead n ch (j + 1)) else s

/-- A word of a channel leaves for its receiver (R352). -/
def State.sendCh (s : State) (n t : Nat) (r : Route) (w : ChWord) : State :=
  let (word, s) := s.sendWord n (s.locLc n 6 0) t [r.dst] w.ctx
  let s := s.modDom (s.regionOf r.dst) fun d => { d with gates := d.gates.erase (t + r.lat, w.id) }
  s.post (s.regionOf r.dst) (t + r.lat) phGw (100 + n) (.chLand r.dst { w with word })

/-- A pad header leaves (R348, R349). -/
def State.chPad (s : State) (n t ch : Nat) : State :=
  match (s.chan ch).out, s.route ch with
  | some o, some r =>
    let h := recHead 0 0 2 ch 0
    s.sendCh n t r { ctx := o.ctx, ch, off := o.pad.getD 0, part := recSize o.len / 64, pad := true, first := true, last := true, data := h ++ [0, 0, 0, 0]
                     crc := crc32c h, word := 0, id := o.id }
  | _, _ => s

/-- Granule `j` of a record: header, payload, zeros; the place of the CRC reads 0 here. -/
def ChOut.granule (o : ChOut) (ch j : Nat) : Bytes :=
  padTo 64 (((recHead o.len o.alive 1 ch o.tag ++ [0, 0, 0, 0] ++ o.data.take o.len).drop (64 * j)).take 64)

/-- The CRC of a record as sent (R347). -/
def ChOut.crc (o : ChOut) (ch : Nat) : BitVec 32 := crc32c (recHead o.len o.alive 1 ch o.tag ++ o.data.take o.len)

/-- A granule of a record leaves, or is written into the spill area in the cycle of its own send stamp (R352; DESIGN CHOICE, log 107); the header's
last four bytes follow with the last granule (R351; log 25). -/
def State.chSend (s : State) (n t ch j : Nat) : State :=
  match (s.chan ch).out, s.route ch with
  | some o, some r =>
    let g := recSize o.len / 64
    let last := j + 1 == g
    let data := o.granule ch j
    let s := match o.off with
      | none => s
      | some off =>
        if o.spill then
          let a := r.spillBase + off
          let w := (fullWrites (a + 64 * j) data).filter fun (w : Nat × Byte × Byte) => !(decide (a + 12 ≤ w.1) && decide (w.1 < a + 16))
          let s := ((s.wrote n n o.ctx j).floorWrite n t pGW uCaller w o.ctx).acked n o.id
          if last then
            let w := fullWrites (a + 12) (leBytes 4 (o.crc ch).toNat)
            s.landWord n t (a / 64 * 64) w o.ctx
          else s
        else
          s.sendCh n t r { ctx := o.ctx, ch, off := off + 64 * j, part := j, pad := false, first := j == 0, last, data
                           crc := o.crc ch, word := 0, id := o.id }
    if last then (s.modChan ch fun c => { c with out := none }).schedSy n
    else s.post (s.regionOf n) (t + 1) phGw 6 (.chSend n ch (j + 1))
  | _, _ => s

/-! ## Landing and taking (R354-R357) -/

/-- A record has landed in full: the inline check unit checks it, writes its landing status, and a MESSAGE enters its descriptor
(R354, R355). -/
def State.chLanded (s : State) (n t : Nat) (r : Route) (w : ChWord) : State :=
  let c := s.chan w.ch
  let b := c.landing
  let len := recField b 0 2
  let alive := BitVec.ofNat 8 (recField b 2 1)
  let msg := recField b 3 1 == 1
  let sent : BitVec 32 := if (b.take 12).all (· == 0) then 0 else w.crc
  let bad := crc32c (b.take 12 ++ (b.drop 16).take len) != sent
  let st := landingStatus bad msg c.recvAlive alive
  let start := if w.pad then w.off else w.off + 64 - recSize (b.length - 16)
  let a := r.ringBase + start
  let s := s.landWord n t (a / 64 * 64) (fullWrites (a + 12) (leBytes 4 st)) w.ctx
  s.modChan w.ch fun c =>
    { c with landing := []
             recvAlive := if msg then alive else c.recvAlive
             crcBad := c.crcBad || st.testBit 0, repeatF := c.repeatF || st.testBit 1, skipF := c.skipF || st.testBit 2
             arrivals := if msg then c.arrivals ++ [{ off := start, len, status := BitVec.ofNat 3 st
                                                      tag := BitVec.ofNat 32 (recField b 8 4), entered := t }]
                         else c.arrivals }

/-- A granule of a record, or a pad header, lands through GW and is acknowledged (R268, R321, R348, R352). -/
def State.chLand (s : State) (n t : Nat) (w : ChWord) : State :=
  match s.route w.ch with
  | none => s
  | some r =>
    let data := if s.isVoid w.word then List.replicate w.data.length 0 else w.data
    let a := r.ringBase + w.off
    let ws := (fullWrites a data).filter fun (e : Nat × Byte × Byte) => !(w.first && decide (a + 12 ≤ e.1) && decide (e.1 < a + 16))
    let s := s.wrote r.src n w.ctx w.part
    let s := s.farLands (s.regionOf n) t (2 * w.id) (some w.ch) false (n * 2 ^ 24 + a) w.ctx
    let s := s.floorWrite n t pGW (remoteUser r.src 6) ws w.ctx
    let s : State := { s with acks := s.acks ++ [Ack.direct r.src w.id] }
    let s := s.modChan w.ch fun c => { c with landing := if w.first then data else c.landing ++ data }
    if w.last then s.chLanded n t r w else s

/-- The reasons that the push check of CHTAKE finds (R117, R366, R367). -/
def chtakeReasons (s : State) (n : Nat) (x : Ctx) (c : Cw) : List (Nat × Bool) :=
  let ch := f0 c 47 40
  let q := f0 c 39 35
  callerReasons s n x ++ [(rField, f0 c 34 0 != 0 || q % 2 != 0), chReason s n ch false]

/-- CHTAKE: the oldest descriptor that entered up to the cycle before goes to two registers (R356, R387). -/
def State.pushChtake (s : State) (n : Nat) (x : Ctx) (c : Cw) : State :=
  let ch := f0 c 47 40
  let q := f0 c 39 35
  s.judge x (s.locLc n 0 0) (firstReason (chtakeReasons s n x c))
    fun s =>
    let empty := ((s.setReg n q 0).setReg n (q + 1) 0).count 0x9005 3 1
    match (s.chan ch).arrivals, s.route ch with
    | d :: rest, some r =>
      if x.t + 3 < d.entered then empty
      else
        let s := s.modChan ch fun c =>
          { c with arrivals := rest, taken := c.taken ++ [(d.off + recSize d.len) % r.ring] }
        let s := s.takesRecord n (r.ringBase + d.off) (recSize d.len)
        (s.setReg n q (n * 2 ^ 24 + r.ringBase + d.off + 16)).setReg n (q + 1)
          (d.len % 4096 + d.status.toNat * 4096 + d.tag.toNat * 65536)
    | _, _ => empty

/-- The reasons that the push check of CHFREE finds (R117, R366, R367). -/
def chfreeReasons (s : State) (n : Nat) (x : Ctx) (c : Cw) : List (Nat × Bool) :=
  let ch := f0 c 47 40
  syReasons s n x ++ [(rField, f0 c 39 0 != 0), chReason s n ch false]

/-- CHFREE at its push (R397). -/
def State.pushChfree (s : State) (n : Nat) (x : Ctx) (c : Cw) : State :=
  let ch := f0 c 47 40
  s.judge x (s.locLc n 6 0) (firstReason (chfreeReasons s n x c)) fun s =>
    s.enqueueSy n x (.chfree ch)

/-- A CHFREE starts: the oldest record that has been taken is freed, and its credit leaves for the sender (R357). -/
def State.chfreeStart (s : State) (n t ch : Nat) : State :=
  let s := s.modCaller n fun k => { k with syFree := t + 1 }
  match (s.chan ch).taken, s.route ch with
  | e :: rest, some r =>
    let k := (e + r.ring - (s.chan ch).rptr.toNat) % r.ring
    let bytes := if k = 0 then r.ring else k
    (s.modChan ch fun c => { c with taken := rest, rptr := BitVec.ofNat 20 e }).post (s.regionOf r.src) (t + r.lat) phSig (n + 1)
      (.credit ch bytes)
  | _, _ => s.count 0x9005 4 1

/-- A credit word applies to FREE and SLOTS (R357). -/
def State.credit (s : State) (ch bytes : Nat) : State :=
  s.modChan ch fun c => { c with free := c.free + BitVec.ofNat 21 bytes, slots := c.slots + 1 }

/-! ## The check unit (R363-R365, R399) -/

/-- Schedules the head of a check-unit queue (R364). -/
def State.schedCk (s : State) (n : Nat) : State :=
  let c := s.clus n
  let s := s.dropEvs (s.regionOf n) (·.k == .ckStart n)
  match c.ckq with
  | (x, _) :: _ => s.post (s.regionOf n) (max (x.t + 8) c.ckFree) phStart 0 (.ckStart n)
  | [] => s

/-- Pushes a command into a check-unit queue. -/
def State.enqueueCk (s : State) (n : Nat) (x : Ctx) (cmd : CkCmd) : State :=
  let s := s.modCl n fun c => { c with ckq := c.ckq ++ [(x, cmd)] }
  if (s.clus n).ckq.length = 1 then s.schedCk n else s

/-- The reasons that every command of a check-unit queue shares. -/
def ckReasons (s : State) (n : Nat) (x : Ctx) : List (Nat × Bool) :=
  (rQueue, 8 ≤ (s.clus n).ckq.length) :: callerReasons s n x

/-- The reasons that the push check of CKINIT finds (R117, R366, R367). -/
def ckinitReasons (s : State) (n : Nat) (x : Ctx) (c : Cw) : List (Nat × Bool) :=
  ckReasons s n x ++ [(rField, f0 c 45 0 != 0 || f0 c 47 46 == 3)]

/-- CKINIT at its push (R399). -/
def State.pushCkinit (s : State) (n : Nat) (x : Ctx) (c : Cw) : State :=
  s.judge x (s.locLc n 5 0) (firstReason (ckinitReasons s n x c)) fun s =>
    s.enqueueCk n x (.init (f0 c 47 46))

/-- The reasons that the push check of CKFEED finds (R117, R366, R367). -/
def ckfeedReasons (s : State) (n : Nat) (x : Ctx) (c : Cw) : List (Nat × Bool) :=
  let k := s.caller n
  let width := 2 ^ f0 c 47 46
  let reg := f0 c 45 45 == 1
  let bytes := (f0 c 23 0 + 1) * width
  let src := exprVal k x.idx 64 (f1 c 31 0)
  let bad := f0 c 47 46 == 3 || f0 c 39 24 != 0 || (!reg && f0 c 44 40 != 0) || f1 c 63 32 != 0 || (reg && f1 c 31 0 != 0)
    || exprBad (f1 c 31 0)
  ckReasons s n x ++
    [(rField, bad), (rRange, if reg then 6 < bytes else !okF src bytes), (rProt, !reg && (protReason s n src bytes false).2)]

/-- CKFEED at its push; the bytes of a register are those at the push (R399). -/
def State.pushCkfeed (s : State) (n : Nat) (x : Ctx) (c : Cw) : State :=
  let k := s.caller n
  let width := 2 ^ f0 c 47 46
  let reg := f0 c 45 45 == 1
  let bytes := (f0 c 23 0 + 1) * width
  let src := exprVal k x.idx 64 (f1 c 31 0)
  s.judge x (s.locLc n 5 0) (firstReason (ckfeedReasons s n x c))
    fun s =>
    s.enqueueCk n x (if reg then .feedReg (leBytes bytes (k.reg (f0 c 44 40)).toNat) else .feedFloor bytes src.toNat)

/-- The reasons that the push check of CKREAD finds (R117, R366, R367). -/
def ckreadReasons (s : State) (n : Nat) (x : Ctx) (c : Cw) : List (Nat × Bool) :=
  let dst := exprVal (s.caller n) x.idx 64 (f0 c 31 0)
  ckReasons s n x ++
    [(rField, f0 c 42 32 != 0 || exprBad (f0 c 31 0)), (rRange, !okF dst 8), protReason s n dst 8 true]

/-- CKREAD at its push (R399). -/
def State.pushCkread (s : State) (n : Nat) (x : Ctx) (c : Cw) : State :=
  let dst := exprVal (s.caller n) x.idx 64 (f0 c 31 0)
  s.judge x (s.locLc n 5 0) (firstReason (ckreadReasons s n x c)) fun s =>
    (s.will n n x (s.locLc n 5 0) [(0, dst.toNat, 8)]).enqueueCk n x (.read (f0 c 47 43) dst.toNat)

/-- The head of a check-unit queue starts (R364). -/
def State.ckStart (s : State) (n t : Nat) : State :=
  match (s.clus n).ckq with
  | [] => s
  | (x, cmd) :: rest =>
    let s := s.modCl n fun c => { c with ckq := rest, ckFree := t + 1 }
    let r := s.regionOf n
    (match cmd with
      | .init alg => s.modCl n fun c => { c with check := { alg := BitVec.ofNat 2 alg, state := checkInit alg } }
      | .feedFloor k src => (s.modCl n fun c => { c with ckFree := t + k + 1 }).post r t phRead 6 (.ckRead n k src x)
      | .feedReg d => s.modCl n fun c => { c with check := d.foldl checkByte c.check, ckFree := t + d.length + 1 }
      | .read tkt dst => s.post r (t + 4) phGw 6 (.ckLand n dst tkt (leBytes 8 (checkValue (s.clus n).check).toNat) x)).schedCk n

/-- The check unit reads a granule through GR and absorbs it in 64 cycles (R364). -/
def State.ckRead (s : State) (n t left src : Nat) (x : Ctx) : State :=
  let (b, s) := s.floorRead n t pGR uCaller src (min 64 left) x
  let s := s.modCl n fun c => { c with check := b.foldl checkByte c.check }
  if 64 < left then s.post (s.regionOf n) (t + 64) phRead 6 (.ckRead n (left - 64) (src + 64) x) else s

/-- The value of a CKREAD lands, and its ticket is set (R364). -/
def State.ckLand (s : State) (n t dst tkt : Nat) (data : Bytes) (x : Ctx) : State :=
  let s := (s.wrote n n x 0).floorWrite n t pGW uCaller (fullWrites dst data) x
  if tkt = 0 then s else s.setTicket n tkt

end Sys2Proof.Machine
end

