-- ==== Sys2Proof/Machine/Sync.lean ====
section
/-! DEFINITION. Synchronisation: cues, tallies, rounds, their signals and scopes, waits, fences and the completion of BULK commands
(10_memory_model.md R303-R342; 12_commands.md R389, R394-R396, R401). -/

namespace Sys2Proof.Machine

/-! ## Scopes (R303, R304, R312) -/

/-- Whether a logical cluster lies in a scope around a cluster (R303). -/
def State.inScope (s : State) (scope n d : Nat) : Bool :=
  if scope ≤ 1 then d == n else if scope = 2 then s.regionOf d == s.regionOf n
  else if scope = 3 then s.phys d / 24 == s.phys n / 24 else true

/-- Whether a logical cluster lies in a scope around the block of a location word (R22, R312). -/
def State.locInScope (s : State) (scope loc d : Nat) : Bool :=
  let own := s.locLc d 0 0
  if scope ≤ 1 then own / 1024 == loc / 1024 else if scope = 2 then own / 8192 == loc / 8192
  else if scope = 3 then own / 32768 == loc / 32768 else true

/-- LAST_OP of an operation (R341). -/
def SigOp.code : SigOp → Nat
  | .set => 1
  | .clear => 2
  | .add _ => 3
  | .reset => 4
  | .arriveLc _ => 5
  | .arriveSeq => 5
  | .bulk => 6
  | .bind .. => 7
  | .unbind => 8

/-! ## Applying a signal (R312, R329-R336) -/

/-- A cue after a signal, and whether it merged (R329, R330). -/
def Cue.apply (c : Cue) (op : SigOp) (scope : Nat) (last : LastSig) : Cue × Bool :=
  match op with
  | .clear => ({ c with set := false, last }, false)
  | _ => ({ c with set := true, merged := c.merged || c.set, scope, last }, c.set)

/-- A tally after a signal, and whether it saturated (R332). -/
def Tally.apply (c : Tally) (op : SigOp) (last : LastSig) : Tally × Bool :=
  match op with
  | .add v =>
    let n := c.count.toNat + v
    ({ c with count := BitVec.ofNat 16 (min n 65535), overF := c.overF || decide (65535 < n), last }, decide (65535 < n))
  | _ => ({ c with count := 0, overF := false, last }, false)

/-- A signal that arrives out of scope changes neither a cue's state nor a tally's count (R312). -/
def Cue.outOfScope (c : Cue) (scope : Nat) (last : LastSig) : Cue :=
  { c with mismatch := true, mscope := scope, mloc := last.loc, last := { last with op := last.op + 128 } }
def Tally.outOfScope (c : Tally) (scope : Nat) (last : LastSig) : Tally :=
  { c with mismatch := true, mscope := scope, mloc := last.loc, last := { last with op := last.op + 128 } }

/-- Whether an arrival is a round fault (R336). -/
def Round.faults (r : Round) : SigOp → Bool
  | .arriveLc n => !r.bound || !r.expect.getLsbD n || (r.arrived.getLsbD n && r.ahead.getLsbD n)
  | .arriveSeq => !r.bound || (r.remote.toNat ≤ r.rArrived.toNat && r.rAhead == r.remote)
  | _ => false

/-- A round after a signal that is no round fault (R333, R334). -/
def Round.apply (r : Round) (op : SigOp) (last : LastSig) : Round :=
  match op with
  | .bind expect remote scope =>
    { r with bound := true, gen := 0, scope, expect, arrived := 0, ahead := 0, remote, rArrived := 0, rAhead := 0, last }
  | .unbind => { fault := r.fault, last }
  | .arriveLc n =>
    if r.arrived.getLsbD n then { r with ahead := r.ahead ||| (1 <<< n), last }
    else { r with arrived := r.arrived ||| (1 <<< n), last }
  | .arriveSeq =>
    if r.rArrived.toNat < r.remote.toNat then { r with rArrived := r.rArrived + 1, last }
    else { r with rAhead := r.rAhead + 1, last }
  | _ => r

/-- Whether a generation of a round is complete (R335). -/
def Round.full (r : Round) : Bool := r.bound && r.arrived == r.expect && r.rArrived == r.remote

/-- A round whose generation completes (R335). -/
def Round.next (r : Round) : Round :=
  { r with gen := r.gen + 1, arrived := r.ahead, rArrived := r.rAhead, ahead := 0, rAhead := 0 }

/-- A replica of a round completes a generation in a cycle, where it can; carried arrivals complete the next one in the following
cycle, whether or not its domain issues (R335; log 94). -/
def State.roundStep (s : State) (d t q : Nat) : State :=
  let r := (tGet (s.domN d).rounds q).getD {}
  if !r.full then s
  else
    let at_once := r.next.full && (s.domN d).stopped
    let r := if at_once then r.next.next else r.next
    let s := s.modDom d fun x => { x with rounds := tPut x.rounds q r }
    if r.full then s.post d (t + 1) phStart 0 (.roundGen q) else s

/-- A round fault raises a unit fault against the arriving cluster, or a module fault (R336); `d` is the replica that
meets the arrival, at a stamp. -/
def State.roundFault (s : State) (d t q : Nat) (r : Round) (g : Sig) : State :=
  let s := s.modDom d fun x => { x with rounds := tPut x.rounds q { r with fault := true } }
  let x : Ctx := s.stampAt d t { step := g.last.step, seg := g.seg, run := g.run }
  match g.op with
  | .arriveLc n =>
    if d = s.regionOf n then
      s.unitFault n 6 (s.locLc n 6 0) x (s.locLc n 6 0) [BitVec.ofNat 8 q, r.gen, BitVec.ofNat 8 n]
    else s
  | _ => if d = 8 then s.moduleFault 6 g.last.loc x [BitVec.ofNat 8 q, r.gen, 0xFF] else s

/-- A signal applies to its object, or to a module object's replica in a domain, at a stamp (R307-R312). -/
def State.applySig (s : State) (d t : Nat) (g : Sig) : State :=
  let ok := match g.obj.holder with
    | some lc => s.locInScope g.scope g.last.loc lc
    | none => true
  let haz := fun (s : State) =>
    let lc := g.obj.holder.getD 0
    s.hazard (s.stampAt d t { step := g.last.step, seg := g.seg, run := g.run }) 4 0 g.last.loc (s.locLc lc 6 0)
      g.obj.resource
  let s := if ok then s.detApply d g else s
  match g.obj with
  | .cue lc num =>
    let c := (tGet (s.clus lc).cues num).getD {}
    if ok then
      let (c, m) := c.apply g.op g.scope g.last
      let s := s.modCl lc fun k => { k with cues := tPut k.cues num c }
      if m then s.count 0x9004 3 1 else s
    else haz (s.modCl lc fun k => { k with cues := tPut k.cues num (c.outOfScope g.scope g.last) })
  | .tally lc num =>
    let c := (tGet (s.clus lc).tallies num).getD {}
    if ok then
      let (c, o) := c.apply g.op g.last
      let s := s.modCl lc fun k => { k with tallies := tPut k.tallies num c }
      if o then s.count 0x9004 4 1 else s
    else haz (s.modCl lc fun k => { k with tallies := tPut k.tallies num (c.outOfScope g.scope g.last) })
  | .mcue num =>
    let (c, m) := ((tGet (s.domN d).mcues num).getD {}).apply g.op g.scope g.last
    let s := s.modDom d fun x => { x with mcues := tPut x.mcues num c }
    if m && d == 8 then s.count 0x9004 3 1 else s
  | .round q =>
    let r := (tGet (s.domN d).rounds q).getD {}
    if r.faults g.op then s.roundFault d t q r g
    else
      let s := s.modDom d fun x => { x with rounds := tPut x.rounds q (r.apply g.op g.last) }
      if r.full then s else s.roundStep d t q

/-! ## Sending signals (R303, R306-R310, R394) -/

/-- Signal latency L of a scope (R303). -/
def sigLatency (scope : Nat) : Nat := if scope = 1 then 3 else if scope = 2 then 14 else if scope = 3 then 40 else 72

/-- Whether the step time of a domain has reached a stamp: it has issued that cycle, or stalls in it (R308). -/
def Dom.reached (x : Dom) (t : Nat) : Bool := decide (t < x.nt) || (t == x.nt && x.waited != 0)

/-- A timed signal goes to a domain that holds its object, or a replica of it; one that its holder has passed is late (R308). A burst of its
crossing holds it back by a number of cycles that the manual does not give: a free value (R339; log 85). -/
def State.postSig (s : State) (own d t0 t : Nat) (g : Sig) (x : Ctx) : State :=
  match s.crosses own d t0 x g.last.loc with
  | (false, s) =>
    let s := if d != own && (s.domN d).reached t then s.count 0x9004 1 1 else s
    s.post d t phSig (g.src + 1) (.sig g)
  | (true, s) =>
    let (k, s) := s.draw 8
    let s := if k != 0 || (s.domN d).reached t then s.count 0x9004 1 1 else s
    s.post d (t + k.toNat) phSig (g.src + 1) (.sig { g with held := k.toNat })

/-- A signal leaves its origin in a cycle: timed within the module, untimed at ENSEMBLE scope, there by a partner link to another
module (R308-R310, R333, R394). -/
def State.sendSig (s : State) (w t : Nat) (x : Ctx) (g : Sig) (tmod link : Nat) : State :=
  let own := s.domOf w
  let (bar, beat, cyc) := (s.domN own).stamp t
  let g := { g with rel := s.releases w g.scope g.op, seg := x.seg, run := x.run, last := { bar, beat, cyc, module := s.moduleId, loc := s.locCaller w 6, step := x.step, op := g.op.code } }
  if g.scope = 5 then
    if tmod = s.moduleId then { s with untimed := s.untimed ++ [g] }
    else
      let (obj, num, tlc) := match g.obj with
        | .cue lc num => (0, num, lc)
        | .mcue num => (1, num, 0)
        | .tally lc num => (2, num, lc)
        | .round q => (3, q, 0)
      let v := match g.op with
        | .add v => v
        | _ => 0
      s.modLink link fun l =>
        { l with ctl := l.ctl ++ [{ w := .signalW g.op.code obj num tlc v tmod s.moduleId g.last.loc x.step }] }
  else
    let at_ := t + sigLatency g.scope
    match g.obj.holder with
    | some lc => s.postSig own (s.regionOf lc) t at_ g x
    | none => (List.range 10).foldl (fun (s : State) d => s.postSig own d t at_ g x) s

/-- The link that a signal of ENSEMBLE scope names must be in LINK_MASK, whatever module it goes to (R117, R394). -/
def linkReason (s : State) (scope link : Nat) : Nat × Bool :=
  (rLink, scope == 5 && !s.rt.hdr.links.getLsbD link)

/-- The reasons that the push check of CUE finds (R117, R366, R367). -/
def cueReasons (s : State) (w : Nat) (x : Ctx) (c : Cw) : List (Nat × Bool) :=
  let scope := f0 c 46 44
  let mod := f0 c 43 43 == 1
  let num := f0 c 42 33
  let tlc := f0 c 32 27
  let tmod := f0 c 26 17
  let link := f0 c 16 13
  let bad := f0 c 12 0 != 0 || scope == 0 || 6 ≤ scope || (!mod && 256 ≤ num) || (mod && (tlc != 0 || scope < 4))
    || (scope != 5 && (tmod != 0 || link != 0)) || (48 ≤ w && !mod)
  let named := if mod then [] else if scope = 5 && tmod != s.moduleId then [(rCluster, decide (s.rt.hdr.lc ≤ tlc))] else lcReasons s tlc
  syReasons s w x ++ [(rField, bad), linkReason s scope link] ++ named

/-- CUE at its push (R309, R311, R394, R401). -/
def State.pushCue (s : State) (w : Nat) (x : Ctx) (c : Cw) : State :=
  let op := if f0 c 47 47 = 0 then SigOp.set else .clear
  let scope := f0 c 46 44
  let mod := f0 c 43 43 == 1
  let num := f0 c 42 33
  let tlc := f0 c 32 27
  let tmod := f0 c 26 17
  let link := f0 c 16 13
  let obj := if mod then SigObj.mcue num else .cue tlc num
  s.judge x (s.locCaller w 6) (firstReason (cueReasons s w x c)) fun s =>
    (s.narrowSignal w (s.locCaller w 6) scope obj x).enqueueSy w x (.sig { obj, op, scope, src := w, last := {} } tmod link)

/-- The reasons that the push check of TALLY finds (R117, R366, R367). -/
def tallyReasons (s : State) (n : Nat) (x : Ctx) (c : Cw) : List (Nat × Bool) :=
  let add := f0 c 47 47 == 0
  let scope := f0 c 46 44
  let tlc := f0 c 37 32
  let v := f0 c 31 16
  let tmod := f0 c 15 6
  let link := f0 c 5 2
  let bad := f0 c 1 0 != 0 || scope == 0 || 6 ≤ scope || (add == (v == 0)) || (scope != 5 && (tmod != 0 || link != 0))
  let named := if scope = 5 && tmod != s.moduleId then [(rCluster, decide (s.rt.hdr.lc ≤ tlc))] else lcReasons s tlc
  syReasons s n x ++ [(rField, bad), linkReason s scope link] ++ named

/-- TALLY at its push (R311, R332, R394). -/
def State.pushTally (s : State) (n : Nat) (x : Ctx) (c : Cw) : State :=
  let add := f0 c 47 47 == 0
  let scope := f0 c 46 44
  let tlc := f0 c 37 32
  let v := f0 c 31 16
  let tmod := f0 c 15 6
  let link := f0 c 5 2
  let obj := SigObj.tally tlc (f0 c 43 38)
  s.judge x (s.locLc n 6 0) (firstReason (tallyReasons s n x c)) fun s =>
    (s.narrowSignal n (s.locLc n 6 0) scope obj x).enqueueSy n x (.sig { obj, op := if add then .add v else .reset, scope, src := n, last := {} } tmod link)

/-- The reasons that the push check of ROUND finds (R117, R366, R367). -/
def roundReasons (s : State) (w : Nat) (x : Ctx) (c : Cw) : List (Nat × Bool) :=
  let op := f0 c 47 46
  let q := f0 c 45 41
  let scope := f0 c 40 38
  let ereg := f0 c 37 33
  let rreg := f0 c 32 28
  let tmod := f0 c 27 18
  let link := f0 c 17 14
  let k := s.caller w
  let expect := k.reg ereg
  let r := (k.reg rreg).toNat
  let leaves := op == 2 && scope == 5 && 48 ≤ w
  let bad := op == 3 || f0 c 13 0 != 0 || (scope != 4 && scope != 5) || (op != 0 && (ereg != 0 || rreg != 0))
    || (!leaves && (tmod != 0 || link != 0)) || (op == 0 && bits r 47 10 != 0)
  let range := op == 0 && ((s.roundOf w q).bound || 2 ^ s.rt.hdr.lc ≤ expect.toNat)
  syReasons s w x ++
    [(rField, bad), (rRange, range), (if leaves then linkReason s scope link else (rLink, false))]

/-- ROUND at its push: a BIND or UNBIND travels at MODULE scope, an ARRIVE at its own (R309, R333, R334, R395, R401). -/
def State.pushRound (s : State) (w : Nat) (x : Ctx) (c : Cw) : State :=
  let op := f0 c 47 46
  let q := f0 c 45 41
  let scope := f0 c 40 38
  let ereg := f0 c 37 33
  let rreg := f0 c 32 28
  let tmod := f0 c 27 18
  let link := f0 c 17 14
  let k := s.caller w
  let expect := k.reg ereg
  let r := (k.reg rreg).toNat
  let leaves := op == 2 && scope == 5 && 48 ≤ w
  s.judge x (s.locCaller w 6) (firstReason (roundReasons s w x c)) fun s =>
    let sop : SigOp := if op = 0 then .bind expect (BitVec.ofNat 10 r) scope else if op = 1 then .unbind
      else if w < 48 then .arriveLc w else .arriveSeq
    s.enqueueSy w x (.sig { obj := .round q, op := sop, scope := if op = 2 then scope else 4, src := w, last := {} }
      (if leaves then tmod else s.moduleId) link)

/-! ## FENCE (R323) -/

/-- The clusters that a mover command writes into. -/
def State.mvDests (s : State) (n : Nat) : MvCmd → List Nat
  | .inC .. => [n]
  | .outC .. => []
  | .xfer _ _ _ _ dests _ => dests
  | .rotate set .. => [(s.resident set).neighbour n true]

/-- Whether writes that go to some clusters, or to bank memory, lie in a scope (R303). -/
def State.anyInScope (s : State) (scope n : Nat) (dsts : List Nat) : Bool := dsts.isEmpty || dsts.any (s.inScope scope n)

/-- The writes of a FENCE's cluster that it covers and that are not acknowledged (R322, R323). -/
def State.covered (s : State) (n id engines scope : Nat) : List OutWrite :=
  (s.clus n).unacked.filter fun o => o.id < id && engines.testBit o.engine && s.inScope scope n o.dst

/-- Whether writes of a BULK command to bank memory, or to clusters of a scope, are still to be sent or acknowledged (R322). -/
def State.bulkOpen (s : State) (scope n : Nat) (b : Bulk) : Bool :=
  if b.dsts.isEmpty then !b.sent || b.left != 0
  else b.dsts.any fun d => s.inScope scope n d && (!b.sent || (tGet b.owed d).getD 0 != 0)

/-- Whether a FENCE has a covered write outstanding; the commands of a mover are queued, reading their list, or under way (R322, R323). -/
def State.fenceBusy (s : State) (n : Nat) (f : Fence) : Bool :=
  let c := s.clus n
  !(s.covered n f.id f.engines f.scope).isEmpty || (List.range 2).any fun m =>
    f.engines.testBit (3 + m) &&
      ((c.mover m).q.any (fun e => e.1.earlier f.ctx && s.anyInScope f.scope n (s.mvDests n e.2))
        || (s.domN (s.regionOf n)).evs.any (fun e => match e.k with
          | .mvList k i _ x cmd _ => k == n && i == m && x.earlier f.ctx && s.anyInScope f.scope n (s.mvDests n cmd)
          | _ => false)
        || s.bulks.any fun b => b.who == n && b.loc == s.locLc n 4 m && b.ctx.earlier f.ctx && s.bulkOpen f.scope n b)

/-- The reasons that the push check of FENCE finds (R117, R366, R367). -/
def fenceReasons (s : State) (n : Nat) (x : Ctx) (c : Cw) : List (Nat × Bool) :=
  let engines := f0 c 47 40
  let scope := f0 c 39 37
  let deadline := f0 c 19 4
  let bad := engines == 0 || 32 ≤ engines || 6 ≤ scope || f0 c 36 36 != 0 || f0 c 3 0 != 0 || deadline == 0
  syReasons s n x ++ [(rField, bad)]

/-- The writes into clusters of a scope that a FENCE covers, acknowledged or not, as the detector knows them: destination, floor address
where there is one (R322, R323, R419). -/
def State.coveredFar (s : State) (n engines scope : Nat) (x : Ctx) : List (Nat × Option Nat) :=
  let queued := (List.range 2).flatMap fun m => if engines.testBit (3 + m) then
      ((s.clus n).mover m).q.flatMap fun e => (s.mvDests n e.2).map fun d => (d, none)
    else []
  let known := (s.det.far.filter fun o => o.origin == n && engines.testBit o.engine && o.ctx.earlier x).flatMap fun o =>
    o.dsts.map fun d => (d, o.addr)
  (known ++ queued).filter fun e => s.inScope scope n e.1

/-- A FENCE of REGION scope covers writes whose destinations may lie in another region under some fuse map: each is reported (R304, R419). -/
def State.narrowFence (s : State) (n engines scope : Nat) (x : Ctx) : State :=
  if scope ≠ 2 then s
  else (s.coveredFar n engines scope x).foldl (fun (s : State) e =>
    if s.sharesAlways n e.1 then s
    else match e.2 with
      | some a => s.hazard x 4 2 (s.locLc n 6 0) (s.locLc e.1 3 (bankOf a)) (e.1 * 2 ^ 24 + a / 64 * 64)
      | none => s.hazard x 4 2 (s.locLc n 6 0) (s.locLc e.1 0 0) (3 * 2 ^ 62 + s.locLc e.1 0 0)) s

/-- FENCE at its push (R396). -/
def State.pushFence (s : State) (n : Nat) (x : Ctx) (c : Cw) : State :=
  let engines := f0 c 47 40
  let scope := f0 c 39 37
  let deadline := f0 c 19 4
  s.judge x (s.locLc n 6 0) (firstReason (fenceReasons s n x c)) fun s =>
    let (id, s) := s.fresh
    (s.narrowFence n engines scope x).enqueueSy n x (.fence id engines scope (f0 c 35 20) deadline)

/-- The head of a synchronisation queue starts (R306, R290, R323, R352, R357, R398). -/
def State.syStart (s : State) (w t : Nat) : State :=
  match (s.caller w).syq with
  | [] => s
  | (x, cmd) :: rest =>
    let s := s.modCaller w fun k => { k with syq := rest, syFree := t + 1 }
    (match cmd with
      | .sig g tmod link => s.sendSig w t x g tmod link
      | .fence id engines scope plan deadline =>
        s.modCaller w fun k => { k with fence := some { ctx := x, id, engines, scope, r := t + plan, deadline } }
      | .chsend ch len tag src id => s.chsendStart w t x ch len tag src id
      | .chfree ch => s.chfreeStart w t ch
      | .hput hq h => s.post (s.domOf w) (t + 8) phSig (w + 1) (.hput w hq h x)
      | .put final src dst id => s.putStart w t x final src dst id).schedSy w

/-! ## Waits (R283-R286, R313-R318) -/

/-- The reasons that the push check of WAIT finds (R117, R366, R367). -/
def waitReasons (s : State) (w : Nat) (x : Ctx) (c : Cw) : List (Nat × Bool) :=
  let form := f0 c 47 45
  let flag := f0 c 44 44 == 1
  let guard := f0 c 43 36
  let deadline := f0 c 19 4
  let count := f1 c 58 48 + 1
  let faddr := exprVal (s.caller w) x.idx 64 (f1 c 31 0)
  let word := if form = 0 then f1 c 63 59 == 31 || f1 c 42 32 != 0 || exprBad (f1 c 31 0) || flag || guard != 0
    else if form = 1 then f1 c 55 0 != 0
    else if form = 2 then f1 c 53 0 != 0
    else if form = 3 then f1 c 57 48 != 0 || f1 c 31 0 != 0 || f1 c 47 32 == 0
    else f1 c 58 56 != 0 || f1 c 47 0 != 0 || flag
  let bad := 5 ≤ form || f0 c 3 0 != 0 || deadline == 0 || word || (48 ≤ w && (guard != 0 || (form != 2 && form != 4)))
  let stream := form == 0
  callerReasons s w x ++
    [(rField, bad), (rRange, stream && !okF faddr (64 * count)), (rProt, stream && (protReason s w faddr (64 * count) true).2),
     (rQueue, 32 ≤ (s.caller w).waits.length)]

/-- WAIT at its push, in any of its five forms (R283, R313, R389, R401). -/
def State.pushWait (s : State) (w : Nat) (x : Ctx) (c : Cw) : State :=
  let form := f0 c 47 45
  let flag := f0 c 44 44 == 1
  let guard := f0 c 43 36
  let deadline := f0 c 19 4
  let count := f1 c 58 48 + 1
  let faddr := exprVal (s.caller w) x.idx 64 (f1 c 31 0)
  let stream := form == 0
  s.judge x (s.locCaller w 0) (firstReason (waitReasons s w x c)) fun s =>
    let st := f1 c 63 59
    let f : WaitForm := if form = 0 then .stream st ((s.clus w).collected st) count faddr.toNat (f1 c 47 43)
      else if form = 1 then .cue (f1 c 63 56) flag
      else if form = 2 then .mcue (f1 c 63 54) flag
      else if form = 3 then .tally (f1 c 63 58) (f1 c 47 32) flag
      else .round (f1 c 63 59) (f1 c 55 48)
    let s := if stream then
        s.modCl w fun k => { k with collect := vmod k.collect st fun q => q + count }
      else s
    s.modCaller w fun k => { k with waits := k.waits ++ [{ ctx := x, form := f, guard, r := x.t + 4 + f0 c 35 20, deadline }] }

/-- Whether the condition of a wait holds (R284, R315). -/
def State.waitReady (s : State) (w : Nat) : WaitForm → Bool
  | .stream st first count _ _ => (s.clus w).allStaged st first count
  | .cue num _ => ((tGet (s.clus w).cues num).getD {}).set
  | .mcue num _ => (s.mcueOf w num).set
  | .tally num n _ => n ≤ ((tGet (s.clus w).tallies num).getD {}).count.toNat
  | .round q g =>
    let r := s.roundOf w q
    let k := (r.gen.toNat + 256 - g) % 256
    r.bound && 1 ≤ k && k ≤ 128

/-- A wait that has completed clears a module cue in a replica (R315). -/
def State.clearMcue (s : State) (d num : Nat) : State :=
  (s.detApply d { obj := .mcue num, op := .clear, scope := 4, src := 0, last := {} }).modDom d fun x => { x with mcues := tMod x.mcues num {} fun c => { c with set := false } }

/-- The signals and the clears of module cues that a domain has due up to a stamp apply in order. Carried generations of rounds, and words that a burst
held back and whose stamp has been reached, do so up to another, which no step time bounds (R308, R315, R335, R339). -/
def State.signals (s : State) (d upTo gens : Nat) : State :=
  let due := (s.domN d).evs.filter fun e => match e.k with
    | .sig g => decide (e.t ≤ if g.held = 0 then upTo else gens) && decide (e.t ≤ upTo + g.held)
    | .mcueClear _ => decide (e.t ≤ upTo)
    | .roundGen _ => decide (e.t ≤ gens)
    | _ => false
  let s := s.modDom d fun x => { x with evs := x.evs.filter fun e => !due.contains e }
  due.foldl (fun (s : State) e => match e.k with
    | .sig g => s.applySig d e.t g
    | .mcueClear num => s.clearMcue d num
    | .roundGen q => s.roundStep d e.t q
    | _ => s) s

/-- The clearing of a module cue reaches the other replicas at the release, behind the signals of that stamp; one that comes late applies on arrival,
behind those that the replica has reached (R309, R315). -/
def State.clearMcues (s : State) (own r num : Nat) : State :=
  (List.range 10).foldl (fun (s : State) d =>
    if d = own then s.clearMcue d num
    else if r < (s.domN d).nt then ((s.signals d ((s.domN d).nt - 1) ((s.domN d).nt - 1)).clearMcue d num).count 0x9004 1 1
    else s.post d r phSig 64 (.mcueClear num)) s

/-- An untimed signal applies where it is held, after the timed ones of the cycle that the domain has reached: the last one issued, or the one in
which it stalls. It applies to every replica of a module object at once (R307, R309, R310). Its stamp is that of its application (R341). -/
def State.applyUntimed (s : State) (g : Sig) : State :=
  let at_ := fun (s : State) (d : Nat) =>
    let x := s.domN d
    let t := if x.waited = 0 then x.nt - 1 else x.nt
    let (bar, beat, cyc) := x.stamp t
    (if x.nt = 0 then s else s.signals d t t).applySig d t { g with last := { g.last with bar, beat, cyc } }
  match g.obj.holder with
  | some lc => at_ s (s.regionOf lc)
  | none => (List.range 10).foldl at_ s

/-- What the hazard detector notes of a completed acquire (R316, R319). -/
def State.acquireForm (s : State) (w : Nat) : WaitForm → State
  | .stream .. => s
  | .cue num keep => s.acquires w (s.domOf w) (.cue w num) keep
  | .mcue num keep => s.acquires w (s.domOf w) (.mcue num) keep
  | .tally num _ take => s.acquires w (s.domOf w) (.tally w num) (!take)
  | .round q _ => s.acquires w (s.domOf w) (.round q) true

/-- A wait completes: its effect at its release, and the guard it discards (R284, R315, R317). -/
def State.completeWait (s : State) (w : Nat) (q : Wait) : State :=
  let s := s.acquireForm w q.form
  let s := s.modCaller w fun k => { k with waits := k.waits.erase q }
  let s := match q.form with
    | .stream st first count faddr tkt => s.releaseStream w q.r st first count faddr tkt q.deadline q.ctx
    | .cue num keep =>
      if keep then s
      else (s.modCl w fun c => { c with cues := tMod c.cues num {} fun u => { u with set := false } }).detApply (s.domOf w)
        { obj := .cue w num, op := .clear, scope := 1, src := 0, last := {} }
    | .mcue num keep => if keep then s else s.clearMcues (s.domOf w) q.r num
    | .tally num n take =>
      if take then
        s.modCl w fun c => { c with tallies := tMod c.tallies num {} fun u => { u with count := u.count - BitVec.ofNat 16 n } }
      else s
    | .round .. => s
  (if w < 48 then s.discardGuard w q.guard else s).settleWait w

/-- The callers of a domain. -/
def State.callersOf (s : State) (d : Nat) : List Nat := if d < 8 then s.ofRegion d else [48 + (d - 8)]

/-- Stream waits come in the order of their streams (R284); an acquire comes before the streams 1 and up of the same release (log 50). -/
def WaitForm.order : WaitForm → Nat
  | .stream st .. => st
  | _ => 0

/-- Puts a wait in the order of release, stream and pushing (R284). -/
def insertWait (q : Nat × Wait) : List (Nat × Wait) → List (Nat × Wait)
  | [] => [q]
  | p :: l =>
    if q.2.r < p.2.r || (q.2.r == p.2.r && q.1 == p.1 && q.2.form.order < p.2.form.order) then q :: p :: l else p :: insertWait q l

/-- The waits of callers that have reached their release at a stamp, in order (R284). -/
def State.dueWaits (s : State) (ws : List Nat) (c : Nat) : List (Nat × Wait) :=
  (ws.flatMap fun w => ((s.caller w).waits.filter (·.r ≤ c)).map fun q => (w, q)).foldl (fun l q => insertWait q l) []

/-- Whether a form is the stream form. -/
def WaitForm.isStream : WaitForm → Bool
  | .stream .. => true
  | _ => false

/-- Completes the due waits of some forms whose conditions hold, one after another; a stream WAIT that cannot be released holds back those
of its cluster that come after it (R284, R314). -/
def State.completeSome (s : State) (forms : WaitForm → Bool) (ws : List Nat) (c : Nat) : State :=
  ((s.dueWaits ws c).foldl (fun (p : State × List Nat) q =>
    if !forms q.2.form || (q.2.form.isStream && p.2.contains q.1) then p
    else if p.1.waitReady q.1 q.2.form then (p.1.completeWait q.1 q.2, p.2)
    else (p.1, if q.2.form.isStream then q.1 :: p.2 else p.2)) (s, [])).1

/-- Completes the due waits of callers (R284, R314). -/
def State.completeWaits (s : State) (ws : List Nat) (c : Nat) : State := s.completeSome (fun _ => true) ws c

/-- A FENCE completes at its release once every write that it covers is acknowledged (R323). -/
def State.completeFence (s : State) (w c : Nat) : State :=
  match (s.caller w).fence with
  | some f =>
    if f.r ≤ c && !s.fenceBusy w f then
      let s := s.fenced w f.scope ((s.det.far.filter fun o => o.origin == w && f.engines.testBit o.engine && o.ctx.earlier f.ctx
        && s.anyInScope f.scope w o.dsts).map (·.key))
      ((s.modCaller w fun k => { k with fence := none, syFree := f.r + 1 }).settleWait w).schedSy w
    else s
  | none => s

/-- The number of the object of a wait, and its form (R389, R641). -/
def WaitForm.codes : WaitForm → Nat × Nat
  | .stream st .. => (0, st)
  | .cue num _ => (1, num)
  | .mcue num _ => (2, num)
  | .tally num .. => (3, num)
  | .round q _ => (4, q)

/-- The out-of-scope signal that an object of a wait holds, if MISMATCH is set: object kind, scope, location of the signaller (R318). -/
def State.mismatchOf (s : State) (w : Nat) : WaitForm → Option (Nat × Nat × Nat)
  | .cue num _ =>
    let c := (tGet (s.clus w).cues num).getD {}
    if c.mismatch then some (0, c.mscope, c.mloc) else none
  | .tally num .. =>
    let c := (tGet (s.clus w).tallies num).getD {}
    if c.mismatch then some (2, c.mscope, c.mloc) else none
  | _ => none

/-- A wait has stalled for its DEADLINE: hold with CAUSE WAIT; where its object holds an out-of-scope signal, also a scope fault at
once (R285, R314, R318). -/
def State.expireWait (s : State) (w : Nat) (q : Wait) : State :=
  let d := s.domOf w
  let s := s.modCaller w fun k => { k with waits := k.waits.map fun p => if p = q then { q with held := some s.beat.boundaries } else p }
  let x := s.stampAt d (s.domN d).nt q.ctx
  let s := s.raiseHold 2 w (s.locCaller w 0) (some d) x
  match s.mismatchOf w q.form with
  | some (kind, scope, loc) =>
    s.unitFault w 4 (s.locLc w 0 0) x loc
      ([BitVec.ofNat 8 kind, BitVec.ofNat 8 w] ++ leBytes 2 q.form.codes.2 ++ [BitVec.ofNat 8 scope])
  | none => s

/-- A FENCE or a ROTATE has stalled for its DEADLINE (R294, R323). -/
def State.expireFence (s : State) (w : Nat) (f : Fence) : State :=
  (s.modCaller w fun k => { k with fence := some { f with held := some s.beat.boundaries } }).raiseHold 2 w (s.locCaller w 0)
    (some (s.domOf w)) (s.stampAt (s.domOf w) (s.domN (s.domOf w)).nt f.ctx)
def State.expireRotate (s : State) (n : Nat) (q : Rotating) : State :=
  (s.modCl n fun c => { c with rotating := c.rotating.map fun p => if p.id = q.id then { q with held := some s.beat.boundaries } else p
    }).raiseHold 2 n (s.locLc n 4 q.mover) (some (s.regionOf n)) (s.stampAt (s.regionOf n) (s.domN (s.regionOf n)).nt q.ctx)

/-- A released WAIT whose discarded granules stay absent for its DEADLINE (R285, R288). -/
def State.expirePlace (s : State) (n : Nat) (q : Placing) : State :=
  (s.modCl n fun c => { c with placing := c.placing.map fun p => if p.id = q.id then { q with held := some s.beat.boundaries } else p
    }).raiseHold 2 n (s.locLc n 0 0) (some (s.regionOf n)) (s.stampAt (s.regionOf n) (s.domN (s.regionOf n)).nt q.ctx)

/-- Whether what a wait waits for is absent: for a stream, one of its own granules (R285, R314). -/
def State.lacks (s : State) (w : Nat) (q : Wait) : Bool := !s.waitReady w q.form

/-- Every wait, FENCE and ROTATE of a domain that has stalled for its DEADLINE with its condition or its granules absent, and does not hold yet, raises
hold (R53, R285, R294, R314, R323). -/
def State.expire (s : State) (d : Nat) : State :=
  (s.callersOf d).foldl (fun (s : State) w =>
    let s := ((s.caller w).waits.filter fun q => q.held.isNone && q.deadline ≤ q.stalls && s.lacks w q).foldl (fun s q => s.expireWait w q) s
    let s := match (s.caller w).fence with
      | some f => if f.held.isNone && f.deadline ≤ f.stalls then s.expireFence w f else s
      | none => s
    if w < 48 then
      let s := ((s.clus w).placing.filter fun q => q.held.isNone && q.deadline ≤ q.stalls && q.stalls != 0 && !(s.clus w).placeReady q).foldl (fun s q => s.expirePlace w q) s
      ((s.clus w).rotating.filter fun q => q.held.isNone && q.deadline ≤ q.stalls && !(s.clus w).rotReady q).foldl (fun s q => s.expireRotate w q) s
    else s) s

/-- A hold with CAUSE WAIT that has lasted 4,096 beat boundaries (R286). -/
def State.waitFault (s : State) (w form num : Nat) (x : Ctx) : State :=
  let loc := s.locCaller w 0
  let x := s.stampAt (s.domOf w) (s.domN (s.domOf w)).nt x
  let detail := [BitVec.ofNat 8 form, 0] ++ leBytes 2 num
  if w < 48 then s.unitFault w 3 loc x loc detail else s.moduleFault 3 loc x detail

/-- Every wait, FENCE and ROTATE of a domain whose hold has lasted 4,096 beat boundaries becomes a fault (R286). -/
def State.waitTimeouts (s : State) (d : Nat) : State :=
  let old := fun (h : Option Nat) => h.any fun b => b + 4096 ≤ s.beat.boundaries
  (s.callersOf d).foldl (fun (s : State) w =>
    match (s.caller w).waits.find? fun q => old q.held with
    | some q => s.waitFault w q.form.codes.1 q.form.codes.2 q.ctx
    | none => match (s.caller w).fence with
      | some f => if old f.held then s.waitFault w 0 0 f.ctx else s
      | none => match (if w < 48 then (s.clus w).rotating else []).find? fun q => old q.held with
        | some q => s.waitFault w 0 31 q.ctx
        | none => match (if w < 48 then (s.clus w).placing else []).find? fun q => old q.held with
          | some q => s.waitFault w 0 q.st q.ctx
          | none => s) s

/-! ## Acknowledgements and BULK completions (R320, R321) -/

/-- An acknowledgement on its way reaches its sender (R321). -/
def State.writeAck (s : State) (k : Nat) : State :=
  match s.acks[k]? with
  | none => s
  | some a =>
    let s := { s with acks := s.acks.eraseIdx k }
    match a with
    | .direct n id => s.acked n id
    | .bulk id dst addr =>
      let s := match addr with
        | some a => s.bankAcked a (((s.bulks.find? fun (b : Bulk) => b.id == id).map fun (b : Bulk) => b.loc).getD 0)
        | none => s
      s.bulkAcked id dst

/-- A BULK command whose writes are all acknowledged completes: its contribution to the bar signature, and its cue as an untimed
signal (R310, R320, R383, R643). -/
def State.completeBulk (s : State) (b : Bulk) : State :=
  let s := { s with bulks := s.bulks.filter (·.id != b.id) }
  let who := if b.who < 48 then b.who else 48 + (b.who - 64) / 32
  let s := if b.signs then
      s.contribute who b.ctx (leBytes 5 b.ctx.step ++ leBytes 4 b.count ++ leBytes 4 (crc32c (b.data.flatMap (·.2))).toNat)
    else s
  match b.done with
  | some q =>
    s.applyUntimed { obj := q.obj, op := .bulk, scope := q.scope, src := 51, rel := [2 * b.id + 1], seg := b.ctx.seg, run := b.ctx.run
                     last := { module := s.moduleId, loc := b.loc, step := b.ctx.step, op := 6 } }
  | none => s

/-- An untimed signal on its way arrives and applies (R310). -/
def State.untimedArrive (s : State) (k : Nat) : State :=
  match s.untimed[k]? with
  | some g => ({ s with untimed := s.untimed.eraseIdx k }).applyUntimed g
  | none => s

end Sys2Proof.Machine
end

