-- ==== Sys2Proof/Machine/Links.lean ====
section
/-! DEFINITION. Partner links: frames, sequences, landing, acknowledgement and replay, tags, signals between modules, and link faults
(15_partner_links.md). -/

namespace Sys2Proof.Machine

/-! ## Sequences (R457) -/

/-- A sequence counted across epochs. -/
def Link.txFull (l : Link) : Nat := l.txEpoch.toNat * 2 ^ 32 + l.txSeq.toNat
def Link.rxFull (l : Link) : Nat := l.rxEpoch.toNat * 2 ^ 32 + l.rxSeen.toNat

/-- The sequence nearest to a base that has given low 32 bits. -/
def fullNear (base lo : Nat) : Nat :=
  let d := (lo + 2 ^ 32 - base % 2 ^ 32) % 2 ^ 32
  if d < 2 ^ 31 then base + d else base + d - 2 ^ 32

/-- A link whose sender's next sequence, or whose receiver's SEEN, is set. -/
def Link.setTx (l : Link) (v : Nat) : Link := { l with txSeq := BitVec.ofNat 32 v, txEpoch := BitVec.ofNat 32 (v / 2 ^ 32) }
def Link.setRx (l : Link) (v : Nat) : Link := { l with rxSeen := BitVec.ofNat 32 v, rxEpoch := BitVec.ofNat 32 (v / 2 ^ 32) }

/-- The lowest sequence not landed (R460). -/
def Link.ackSeq (l : Link) : Nat := l.missing.head?.getD l.rxFull

/-- Lists the sequences from SEEN up to a sequence as missing (R459, R465). -/
def Link.listTo (l : Link) (e : Nat) : Link :=
  let l' := { l with missing := (List.range (e - l.rxFull)).foldl (fun m i => insertNat (l.rxFull + i) m) l.missing }
  let l' := if l.rxFull < e then l'.setRx e else l'
  { l' with rxAck := BitVec.ofNat 32 l'.ackSeq }

/-- The body of a flit in SM4 counter mode under the key of a direction, either way (R458). -/
def linkCrypt (key : Option (BitVec 128)) (seq : Nat) (body : Bytes) : Bytes :=
  match key with
  | some k => sm4Ctr (leBytes 16 k.toNat) (seq / 2 ^ 32 * 2 ^ 96 + seq % 2 ^ 32 * 2 ^ 64) body
  | none => body

/-- The tag of a frame's bodies as sent, with the epoch and the SEQ_END of that frame (R472). -/
def linkTag (key : Option (BitVec 128)) (seqEnd : Nat) (bodies : Bytes) : Bytes :=
  gcmTag (leBytes 16 (key.getD 0).toNat) (beBytes 4 (seqEnd / 2 ^ 32) ++ beBytes 4 (seqEnd % 2 ^ 32)) [] bodies

/-- A flit head of a kind: HOLD, ALIVE and the CRC over its first two bytes and the body as sent (R456). -/
def flitHead (kind : Nat) (hold : Bool) (alive : Nat) (body : Bytes) : Nat :=
  let h := kind + 4 * b2n hold + 256 * (alive % 256)
  h + 2 ^ 16 * (crc32c (leBytes 2 h ++ body)).toNat

/-- Whether a flit passes its CRC (R453, R456). -/
def flitOk (head : BitVec 48) (body : Bytes) (bad : Bool) : Bool :=
  !bad && body.length == 256 && (crc32c (leBytes 2 (head.toNat % 65536) ++ body)).toNat == head.toNat / 65536

/-! ## Hold over links (R64, R471), link faults (R475) -/

/-- The cause LINK that a link has raised clears once none is out of service and each has at most 16 tags pending (R46, R472, R475). -/
def State.settleLink (s : State) : State :=
  if s.links.toList.any fun l => l.outSince.isSome || 16 < l.tags.length then s else s.clearCause 4 50

/-- Hold for CAUSE LINK raised by a link (R53, R472, R475). -/
def State.holdLink (s : State) (l : Nat) : State :=
  let loc := locDie (l / 8) 2 (l % 8)
  s.raiseHold 4 50 loc none s.nowCtx

/-- A hold that reaches the module: every region stops at its next step boundary, one that waits for its beat after a RESUME stays stopped, and every
link sends HOLD (R62, R64, R471). -/
def State.holdAll (s : State) : State :=
  let s := s.modDoms fun d => { d with stopPend := true }
  { s with beat := { s.beat with inHold := true } }.holdLinks

/-- A link leaves service and retrains with a new key exchange; sequences, replay buffers and landing memory stay (R475). -/
def State.retrain (s : State) (l : Nat) : State :=
  let k := s.link l
  if k.st == .up || k.st == .keying then
    let s := s.count (0x9080 + l) 10 1
    (s.modLink l fun k => { k with st := .retrain, lane := false, txKey := none, rxKey := none, tags := [], bodies := []
                                   rxEnd := none, prevEnd := none, txPrev := []
                                   outSince := some (k.outSince.getD s.beat.boundaries) }).holdLink l
  else s

/-- One uncorrectable codeword: the 64th of a beat sends the link to RETRAIN (R453, R475). -/
def State.badCodeword (s : State) (l : Nat) : State :=
  let s := (s.count (0x9080 + l) 2 1).modLink l fun k => { k with badCw := k.badCw + 1 }
  if 64 ≤ (s.link l).badCw then s.retrain l else s

/-! ## Codewords (R453) -/

/-- What a codeword that has been received counts for (R453, R475, R480). -/
def State.codeword (s : State) (l : Nat) : Fec → State
  | .clean => s
  | .corrected => s.count (0x9080 + l) 1 1
  | .uncorrectable => s.badCodeword l

/-- The codeword in which a byte of the message of a frame lies: 514 symbols of 10 bits each (R450, R453). -/
def codewordOf (byte : Nat) : Nat := 8 * byte / 5140

/-- The next wire slot of a frame is received: whether it touches an uncorrectable codeword. `fec` is what became of the codeword that it
is the first to touch, if it is the first to touch one (R453, R454). -/
def State.takeSlotCw (s : State) (l : Nat) (fec : Fec) : Bool × State :=
  let k := s.link l
  let first := codewordOf (644 + 262 * k.rxSlot)
  let last := codewordOf (644 + 262 * k.rxSlot + 261)
  let new := k.cwSeen ≤ last
  let bad := (first < k.cwSeen && k.cwBad) || (new && fec == .uncorrectable)
  let s := s.modLink l fun k =>
    { k with rxSlot := k.rxSlot + 1, cwSeen := max k.cwSeen (last + 1), cwBad := if new then fec == .uncorrectable else k.cwBad }
  (bad, if new then s.codeword l fec else s)

/-- What the frame in progress carried and did not arrive is missing: its beat-done report says how far it went (R459). -/
def Link.listEnd (k : Link) : Link :=
  match k.rxEnd with
  | some e => { k.listTo e with rxBase := max k.rxBase e }
  | none => k

/-- The last wire slot of a frame has been received (R459). -/
def State.endSlot (s : State) (l : Nat) : State := if (s.link l).rxSlot = 488 then s.modLink l Link.listEnd else s

/-- HOLD in an accepted head or block is a hold received (R64, R471). -/
def State.holdBit (s : State) (l : Nat) (h : Bool) : State :=
  if h then (s.modLink l fun k => { k with holdRx := true }).holdAll else s.modLink l fun k => { k with holdRx := false }

/-! ## Landing (R465-R467) -/

/-- Flits of a transfer. -/
def Xfr.flits (x : Xfr) : Nat := (x.count + 3) / 4

/-- The granules that a flit of a transfer carries: landing granule number in its die and place in the flit (R466). -/
def Xfr.places (x : Xfr) (l seq : Nat) : List (Nat × Nat) :=
  ((List.range 4).filter fun i => decide ((seq - x.first) * 4 + i < x.count)).map fun i =>
    (l % 8 * 32768 + (x.lidx + (seq - x.first) * 4 + i) % 32768, i)

/-- Landed granules of a die. -/
def State.landed (s : State) (d : Nat) : List Landed := if h : d < 2 then s.landing[d] else []

/-- Changes the landed granules of a die. -/
def State.modLanded (s : State) (d : Nat) (f : List Landed → List Landed) : State :=
  { s with landing := vmod s.landing d f }

/-- Whether a flit can land: an OPEN covers it, and every position that it needs is free (R466). -/
def State.landable (s : State) (l : Nat) (x : Xfr) (seq : Nat) : Bool :=
  (x.places l seq).all fun p => !(s.landed (l / 8)).any fun g => g.pos == p.1

/-- The transfer whose OPEN covers a sequence. -/
def Link.openOf (l : Link) (seq : Nat) : Option Xfr := l.opens.find? fun x => x.first ≤ seq && seq < x.first + x.flits

/-- A flit lands; the last granule of a transfer with a landing stream sets its module cue (R466, R467). -/
def State.landFlit (s : State) (l seq : Nat) (x : Xfr) (body : Bytes) : State :=
  let plain := linkCrypt (s.link l).rxKey seq body
  let ps := x.places l seq
  let s := s.modLanded (l / 8) fun g =>
    g ++ ps.map fun p => { pos := p.1, data := (plain.drop (64 * p.2)).take 64, kd := x.kd }
  let done := x.landed + ps.length == x.count
  let s := s.modLink l fun k =>
    { k with bodies := tPut k.bodies seq body
             opens := if done then k.opens.erase x else k.opens.map fun y => if y = x then { x with landed := x.landed + ps.length } else y }
  if done && x.stream != 0 then
    s.applyUntimed { obj := .mcue (768 + x.stream), op := .set, scope := 4, src := 51
                     last := { module := s.moduleId, loc := locDie (l / 8) 2 (l % 8), op := 1 } }
  else s

/-- A flit with a sequence lands, or is refused and its sequence listed as missing (R466, R419). -/
def State.takeFlit (s : State) (l seq : Nat) (body : Bytes) : State :=
  match (s.link l).openOf seq with
  | none => s.modLink l fun k => { k with missing := insertNat seq k.missing }
  | some x =>
    if s.landable l x seq then (s.modLink l fun k => { k with missing := k.missing.filter (· != seq) }).landFlit l seq x body
    else
      let loc := locDie (l / 8) 2 (l % 8)
      ((s.count (0x9080 + l) 7 1).hazard s.nowCtx 6 3 loc loc (3 * 2 ^ 62 + loc)).modLink l fun k =>
        { k with missing := insertNat seq k.missing }

/-- RX_ACK follows the lists (R460). -/
def State.settleAck (s : State) (l : Nat) : State := s.modLink l fun k => { k with rxAck := BitVec.ofNat 32 k.ackSeq }

/-- Receives a wire slot whose flit is of a kind: `take` is told whether the flit passes its checks (R453, R459). -/
def State.flit (s : State) (l kind : Nat) (head : BitVec 48) (body : Bytes) (fec : Fec) (take : Bool → State → State) : State :=
  if (s.link l).st != .up || bits head.toNat 1 0 != kind then s
  else
    let (bad, s) := s.takeSlotCw l fec
    if (s.link l).st != .up then s else (take (flitOk head body bad) s).endSlot l

/-- The sequence that an ALIVE value names, counted from the last accepted one (R362, R465). -/
def Link.seqOf (k : Link) (alive : Nat) : Nat := k.rxBase + (alive + 256 - k.rxBase % 256) % 256

/-- A DATA flit is received (R362, R465). One that fails its CRC in a data slot counts as the sequence after the highest one received. -/
def State.takeData (s : State) (l : Nat) (head : BitVec 48) (body : Bytes) (ok : Bool) : State :=
  let k := s.link l
  let alive := bits head.toNat 15 8
  if !ok then
    let s := s.count (0x9080 + l) 3 1
    if k.rxSlot % 61 = 0 then s else s.modLink l fun k => k.listTo (k.rxFull + 1)
  else
    let s := s.holdBit l (head.getLsbD 2)
    let seq := k.seqOf alive
    if (aliveCheck k.rxLast (BitVec.ofNat 8 alive)).1 || (seq < k.rxFull && !k.missing.contains seq) then s.count (0x9080 + l) 4 1
    else
      let s := s.modLink l fun k =>
        let k := k.listTo seq
        { k.setRx (max k.rxFull (seq + 1)) with rxBase := seq + 1, rxLast := BitVec.ofNat 8 alive }
      (s.takeFlit l seq body).settleAck l

/-- A DATA flit (R465). -/
def State.flitData (s : State) (l : Nat) (head : BitVec 48) (body : Bytes) (fec : Fec) : State :=
  s.flit l 1 head body fec fun ok s => s.takeData l head body ok

/-- A REPLAY flit is received: it takes the lowest missing sequence, or is rejected (R465). -/
def State.takeReplay (s : State) (l : Nat) (head : BitVec 48) (body : Bytes) (ok : Bool) : State :=
  let s := if ok then s.holdBit l (head.getLsbD 2) else s.count (0x9080 + l) 3 1
  match (s.link l).missing with
  | seq :: _ =>
    if ok && bits head.toNat 15 8 == seq % 256 then ((s.count (0x9080 + l) 5 1).takeFlit l seq body).settleAck l
    else s.count (0x9080 + l) 6 1
  | [] => s.count (0x9080 + l) 6 1

/-- A REPLAY flit (R465). -/
def State.flitReplay (s : State) (l : Nat) (head : BitVec 48) (body : Bytes) (fec : Fec) : State :=
  s.flit l 2 head body fec fun ok s => s.takeReplay l head body ok

/-- An IDLE flit is received: only its HOLD bit counts (R457, R471). -/
def State.flitIdle (s : State) (l : Nat) (head : BitVec 48) (body : Bytes) (fec : Fec) : State :=
  s.flit l 0 head body fec fun ok s => if ok then s.holdBit l (head.getLsbD 2) else s.count (0x9080 + l) 3 1

/-! ## Control words (R460, R469, R474) -/

/-- Marks of control words after an ACK. The first ACK after a frame was built before the frame arrived. A later one whose ACK_SEQ has reached the
SEQ_END of the frame covers it, and its words go; one that does not has them sent again (R460, R469; log 27). -/
def ackCtl (ack : Nat) (l : List CtlEntry) : List CtlEntry :=
  l.filterMap fun e => match e.sent with
    | none => some e
    | some q =>
      if !e.passed then some { e with passed := true }
      else if q ≤ ack then none
      else some { e with sent := none, passed := false }

/-- Wire slots from a slot upward that can carry a replay: retry slots always, every slot where no loaded flit follows (R454, R469). -/
def replaySlots (from_ idleFrom : Nat) : List Nat :=
  ((List.range 488).filter fun w => from_ ≤ w && ((w + 1) % 61 == 0 || idleFrom ≤ w))

/-- A flit of a kind in a wire slot of a frame: the first two bytes of its head without HOLD, and its body as sent (R456, R458). -/
def Link.inSlot (k : Link) (kind w : Nat) (f : TxFlit) : Nat × Nat × Bytes :=
  (w, kind + 256 * (f.seq % 256), linkCrypt k.txKey f.seq f.body)

/-- A replay of a flit in a wire slot (R457, R469). -/
def Link.replayIn (k : Link) (w : Nat) (f : TxFlit) : Nat × Nat × Bytes := k.inSlot 2 w f

/-- The flits of the frame sent last, with their heads; those from `holdAt` on carry HOLD (R456, R471). -/
def Link.flitsSent (k : Link) : List (Nat × BitVec 48 × Bytes) :=
  ((k.frame.map (·.2)).getD []).map fun f =>
    (f.1, BitVec.ofNat 48 (flitHead (f.2.1 % 4) (k.holdTx && k.holdAt ≤ f.1) (f.2.1 / 256) f.2.2), f.2.2)

/-- Puts the wanted replays into free slots of a frame's flits; what does not fit stays wanted. A link without its key sends none (R458, R469). -/
def Link.fillReplays (k : Link) (slots : List Nat) : Link :=
  match k.frame with
  | none => k
  | some (b, fl) =>
    if k.st != .up then k else
    let free := slots.filter fun w => !fl.any fun f => f.1 == w
    let fs := k.wanted.filterMap fun q => k.replay.find? (·.seq == q)
    let put := (List.zip free fs).map fun p => k.replayIn p.1 p.2
    { k with frame := some (b, fl ++ put), wanted := (fs.drop free.length).map (·.seq) }

/-- The wire slot after the last loaded flit of the frame sent last (R462, R469). -/
def Link.idleFrom (k : Link) : Nat :=
  match k.txPrev.getLast? with
  | some f => f.slot + f.slot / 60 + 1
  | none => 0

/-- Whether every link of its group has acknowledged a flit: none holds it unacknowledged, and none has still to load it (R297, R463, R469). -/
def State.ackedByAll (s : State) (f : TxFlit) : Bool :=
  f.acked && s.links.toList.all fun k =>
    (k.replay.all fun g => g.acked || g.bulk != f.bulk || g.idx != f.idx) && k.sending.all fun q => q.id != f.bulk || decide (f.idx < q.next)

/-- Replay buffers free the flits that every receiver has acknowledged (R297, R469). -/
def State.freeAcked (s : State) : State :=
  { s with links := s.links.map fun (k : Link) => { k with replay := k.replay.filter fun f => !s.ackedByAll f } }

/-- An ACK word: acknowledged flits are freed, and missing ones are replayed from the first slot that the ACK reaches on (R469). -/
def State.ackWord (s : State) (l : Nat) (w : Bytes) : State :=
  let k := s.link l
  let ack := fullNear k.txFull (recField w 2 4)
  let seen := fullNear k.txFull (recField w 6 4)
  let miss := (List.range (min 3 (recField w 1 1))).map fun i => ack + recField w (10 + 2 * i) 2
  let want := if ack < seen then ack :: miss else []
  let s := (k.replay.filter fun f => decide (f.seq < ack) && !f.acked).foldl (fun (s : State) f => s.bulkAcked f.bulk 48) s
  let slots := replaySlots 113 (if k.txPrev.isEmpty || k.txPart then k.idleFrom else 488)
  (s.modLink l fun k =>
    ({ k with peerAck := BitVec.ofNat 32 ack, replay := k.replay.map fun (f : TxFlit) => if f.seq < ack then { f with acked := true } else f
              wanted := want.filter fun q => k.replay.any (·.seq == q), ctl := ackCtl ack k.ctl }).fillReplays slots).freeAcked

/-- An OPEN word announces a transfer; one that is known already changes nothing (R460). -/
def State.openWord (s : State) (l : Nat) (w : Bytes) : State :=
  s.modLink l fun k =>
    let x : Xfr := { first := fullNear k.rxFull (recField w 4 4), count := recField w 8 3, group := recField w 1 1
                     stream := recField w 2 1, kd := recField w 3 1, lidx := recField w 11 4 }
    if k.opens.any (·.first == x.first) || x.count = 0 || x.first + x.flits ≤ k.ackSeq then k else { k with opens := k.opens ++ [x] }

/-- The link that carries signals for a module (R474, R480). -/
def State.nextLink (s : State) (m : Nat) : Nat := s.val (0x4100 + m / 128) (m % 128 + 1) 0xFF

/-- A SIGNAL word is applied as an untimed signal, forwarded, or discarded as unrouted (R474). -/
def State.signalWord (s : State) (l : Nat) (w : Bytes) : State :=
  let obj := bits (recField w 1 1) 7 6
  let op := bits (recField w 1 1) 2 0
  let num := recField w 2 2
  let tlc := recField w 4 1
  let v := recField w 5 2
  let tmod := recField w 7 2
  let smod := recField w 9 2
  let sloc := recField w 11 2
  let step := recField w 13 3
  if tmod = s.moduleId then
    let sop : Option SigOp := if obj ≤ 1 then (if op = 1 then some .set else if op = 2 then some .clear else none)
      else if obj = 2 then (if op = 3 then some (.add v) else if op = 4 then some .reset else none)
      else if op = 5 then some .arriveSeq else none
    let ok := if obj = 0 then tlc < s.lcMax && num < 256 else if obj = 1 then num < 1024
      else if obj = 2 then tlc < s.lcMax && num < 64 else num < 32
    match sop with
    | none => s
    | some op =>
      if !ok then s
      else
        s.applyUntimed { obj := if obj = 0 then .cue tlc num else if obj = 1 then .mcue num else if obj = 2 then .tally tlc num else .round num
                         op, scope := 5, src := 50, last := { module := smod, loc := sloc, step, op := op.code } }
  else
    let n := s.nextLink tmod
    if 16 ≤ n then
      (s.count (0x9080 + l) 9 1).event 0x84 (locDie (l / 8) 2 (l % 8)) [BitVec.ofNat 8 l, 0, 0xFF, 0xFF]
    else s.modLink n fun k => { k with ctl := k.ctl ++ [{ w := .signalW op obj num tlc v tmod smod sloc step }] }

/-- A beat block is received: one that fails its CRC is discarded as a whole; otherwise its report and its words are taken (R459, R460,
R471, R472). -/
def State.beatBlock (s : State) (l : Nat) (b : Bytes) (fec0 fec1 : Fec) : State :=
  if (s.link l).st != .up then s
  else
    let bad := fec0 == .uncorrectable || fec1 == .uncorrectable
    let s := s.modLink l fun k => { k.listEnd with rxSlot := 0, cwSeen := 2, cwBad := fec1 == .uncorrectable }
    let s := (s.codeword l fec0).codeword l fec1
    let k := s.link l
    let ok := !bad && b.length == 644 && recField b 0 2 == 0x4C52 && (crc32c (b.take 0x280)).toNat == recField b 0x280 4
    if k.st != .up then s
    else if !ok then (s.count (0x9080 + l) 3 1).modLink l fun k => { k with prevEnd := k.rxEnd, rxEnd := none }
    else
      let flags := recField b 2 1
      let seqEnd := fullNear k.rxFull (recField b 0x0B 4)
      let s := (s.modLink l fun k => { k with neighbour := BitVec.ofNat 10 (recField b 9 2) }).holdBit l (flags.testBit 0)
      -- the tag of the frame before becomes pending; a frame that carries nothing ends where it begins
      let s := s.modLink l fun k =>
        let k := { k with tags := match k.prevEnd, k.rxEnd with
                            | some a, some e => k.tags ++ [(a, e, BitVec.ofNat 128 (leNat ((b.drop 0x270).take 16)))]
                            | _, _ => k.tags
                          prevEnd := if flags.testBit 3 then k.rxEnd else some seqEnd, rxEnd := some seqEnd }
        if flags.testBit 3 then k else k.listEnd
      let s := if 16 < (s.link l).tags.length then s.holdLink l else s
      let words := (List.range 38).map fun i => (b.drop (16 + 16 * i)).take 16
      words.foldl (fun (s : State) w =>
        let kind := recField w 0 1
        if kind = 1 then s.ackWord l w else if kind = 2 then s.openWord l w else if kind = 3 then s.signalWord l w else s) s

/-- The oldest pending tag is checked once all its sequences have landed; one that fails raises a module fault (R472). -/
def State.tagCheck (s : State) (l : Nat) : State :=
  let k := s.link l
  match k.tags with
  | [] => s
  | (a, e, tag) :: rest =>
    if k.ackSeq < e then s
    else
      let bodies := (List.range (e - a)).flatMap fun i => (tGet k.bodies (a + i)).getD []
      let s := (s.modLink l fun k => { k with tags := rest, bodies := k.bodies.filter fun q => e ≤ q.1 }).settleLink
      if leNat (linkTag k.rxKey e bodies) = tag.toNat then s
      else
        s.moduleFault 9 (locDie (l / 8) 2 (l % 8)) s.nowCtx ([BitVec.ofNat 8 l, 0, 0, 0] ++ leBytes 4 e)

/-! ## Sending (R455, R461, R462, R469) -/

/-- Data slots of a frame (R454). -/
def dataSlots : Nat := 480

/-- Whether a transfer takes the next data slot of a working beat: the engine's first one, if it may stand there, and if it is not the
31st that begins in the beat (R461). -/
def Link.takes (k : Link) (beat : Nat) : Bool :=
  match k.sending with
  | [] => false
  | q :: _ => decide (q.firstBeat ≤ beat) && (q.next != 0 || decide (k.begun < 30))

/-- Whether the replay buffer has no room for a flit (R297, R299). -/
def Link.full (k : Link) : Bool := 4096 ≤ k.replay.length

/-- The slot engine loads the next data slot with a flit of its first transfer (R457, R461). -/
def Link.loadSlot (k : Link) : Link :=
  match k.sending with
  | [] => k
  | q :: rest =>
    let seq := k.txFull
    let f : TxFlit := { seq, body := padTo 256 (q.data.take 4).flatten, bulk := q.id, slot := k.slotsDone, idx := q.next, acked := false }
    let left := q.data.drop 4
    let k := if q.next = 0 then { k with begun := k.begun + 1, ctl := k.ctl ++ [{ w := .openW { q.what with first := seq } }] } else k
    ({ k with loaded := k.loaded ++ [f], replay := k.replay ++ [f]
              sending := if left.isEmpty then rest else { q with data := left, next := q.next + 1 } :: rest }).setTx (seq + 1)

/-- The data slots of a working beat up to a slot: one that no transfer may take stays idle, and a full replay buffer stops the engine at
the slot that a flit would take (R299, R461). -/
def Link.loadTo (k : Link) (beat slots : Nat) : Nat → Link
  | 0 => k
  | n + 1 =>
    if slots ≤ k.slotsDone || (k.takes beat && k.full) then k
    else
      let k := if k.takes beat then k.loadSlot else k
      Link.loadTo { k with slotsDone := k.slotsDone + 1 } beat slots n

/-- Whether a full replay buffer keeps the engine from a data slot below a slot (R299). -/
def Link.stuck (k : Link) (beat slots : Nat) : Bool := decide (k.slotsDone < slots) && k.takes beat && k.full

/-- Whether flits of the working beat have still to be loaded (R462). -/
def Link.cut (k : Link) (beat : Nat) : Bool := decide (k.slotsDone < dataSlots) && k.takes beat

/-- The number within the invocation of the working beat that a domain has open. -/
def State.beatNo (s : State) (d : Nat) : Nat := beatGap s.rt.firstBar (s.domN d).bar (s.domN d).beat

/-- The links of a die. -/
def linksOf (e : Nat) : List Nat := (List.range 8).map fun i => e * 8 + i

/-- The links of a die load the data slots of its working beat up to a slot; a transfer that is loaded whole has sent all its writes
(R320, R461). -/
def State.loadLinks (s : State) (e slots : Nat) : State :=
  if (linksOf e).all fun l => (s.link l).sending.isEmpty then s
  else
    let beat := s.beatNo (8 + e)
    let s := (linksOf e).foldl (fun (s : State) l => s.modLink l fun k => k.loadTo beat (min slots dataSlots) dataSlots) s
    let live := s.links.toList.flatMap fun k => k.sending.map (·.id)
    { s with bulks := s.bulks.map fun b =>
        if 64 ≤ b.who && (b.who - 64) % 32 / 8 = 2 && !b.sent && !live.contains b.id then { b with sent := true } else b }

/-- A full replay buffer stalls module-level issue on a die at a step cycle (R299, R461). -/
def State.replayFull (s : State) (e slots : Nat) : Bool :=
  (linksOf e).any fun l => (s.link l).stuck (s.beatNo (8 + e)) (min slots dataSlots)

/-- The data slots whose die step cycle a step cycle of the beat reaches (R461). -/
def slotsBy (cyc : Nat) : Nat := cyc / 2 + 1

/-- A new working beat of a die: its data slots are all to come (R461). -/
def State.newSlots (s : State) (e : Nat) : State :=
  (linksOf e).foldl (fun (s : State) l => s.modLink l fun k => { k with slotsDone := 0, begun := 0 }) s

/-- The bytes of a control word (R460). -/
def CtlWord.bytes : CtlWord → Bytes
  | .openW x => [2, BitVec.ofNat 8 x.group, BitVec.ofNat 8 x.stream, BitVec.ofNat 8 x.kd] ++ leBytes 4 x.first ++ leBytes 3 x.count
      ++ leBytes 4 x.lidx ++ [0]
  | .signalW op obj num tlc v tmod smod sloc step =>
      [3, BitVec.ofNat 8 (obj * 64 + op)] ++ leBytes 2 num ++ [BitVec.ofNat 8 tlc] ++ leBytes 2 v ++ leBytes 2 tmod ++ leBytes 2 smod
        ++ leBytes 2 sloc ++ leBytes 3 step

/-- The ACK word of a link (R460). -/
def Link.ackBytes (k : Link) : Bytes :=
  let ack := k.ackSeq
  let m := (k.missing.drop 1).take 3
  [1, BitVec.ofNat 8 m.length] ++ leBytes 4 ack ++ leBytes 4 k.rxFull ++ padTo 6 (m.flatMap fun q => leBytes 2 (q - ack))

/-- Whether a control word announces a transfer. -/
def CtlEntry.isOpen (e : CtlEntry) : Bool := match e.w with
  | .openW _ => true
  | _ => false

/-- The words of the next block, OPEN words first: those not sent, 37 at most (R460, R474). -/
def Link.nextWords (k : Link) : List CtlEntry :=
  let w := k.ctl.filter (·.sent.isNone)
  ((w.filter (·.isOpen)) ++ w.filter fun e => !e.isOpen).take 37

/-- Marks the words that a frame takes, the first ones of each kind in their order (R460, R474). -/
def markSent (seqEnd : Nat) : Nat → Nat → List CtlEntry → List CtlEntry
  | _, _, [] => []
  | opens, signals, e :: l =>
    if e.sent.isSome then e :: markSent seqEnd opens signals l
    else if e.isOpen then
      (if opens = 0 then e :: markSent seqEnd 0 signals l else { e with sent := some seqEnd } :: markSent seqEnd (opens - 1) signals l)
    else if signals = 0 then e :: markSent seqEnd opens 0 l
    else { e with sent := some seqEnd } :: markSent seqEnd opens (signals - 1) l

/-- The TAG of the frame sent last; the rules give none while no key is agreed (R472; log 87). -/
def State.frameTag (s : State) (k : Link) : Bytes × State :=
  if k.txKey.isSome then (linkTag k.txKey k.txPrevEnd (k.txPrev.flatMap fun f => linkCrypt k.txKey f.seq f.body), s)
  else let (r, s) := s.draw 128; (leBytes 16 r.toNat, s)

/-- A link sends the frame of a beat: its block, the flits loaded in the working beat `at_`, and replays still wanted (R455, R459,
R462, R469, R474). A link in KEYING has no key and sends no flit and no control word but ACK (R458; log 87). -/
def State.sendFrame (s : State) (l : Nat) (at_ : Nat × Nat) (cut : Bool) : State :=
  let k := s.link l
  if k.st != .up && k.st != .keying then s.modLink l fun k => { k with badCw := 0, loaded := [] }
  else
    let sent := if k.st == .up then k.loaded else []
    let carry := !sent.isEmpty
    let (bar, beat) := if carry then at_ else (s.beat.bar.toNat, s.beat.beat.toNat)
    let words := if k.st == .up then k.nextWords else []
    let opens := (words.filter (·.isOpen)).length
    let signals := words.length - opens
    let late := if k.st == .up then (k.ctl.filter fun e => e.sent.isNone && !e.isOpen).length - signals else 0
    let seqEnd := k.txFull
    let flags := b2n k.holdTx + 2 * b2n s.frozen + 4 * b2n s.ready + 8 * b2n carry + 16 * b2n (carry && cut)
    let (tag, s) := s.frameTag k
    let b := leBytes 2 0x4C52 ++ [BitVec.ofNat 8 flags, BitVec.ofNat 8 beat] ++ leBytes 5 bar ++ leBytes 2 (s.moduleId + 1024)
      ++ leBytes 4 seqEnd ++ [0] ++ padTo 608 (k.ackBytes ++ words.flatMap (·.w.bytes)) ++ tag
    let b := b ++ leBytes 4 (crc32c b).toNat
    let s := if late = 0 then s else s.count (0x9080 + l) 8 late
    s.modLink l fun k =>
      let k := { k with
        frame := some (b, sent.map fun (f : TxFlit) => k.inSlot 1 (f.slot + f.slot / 60) f), txPrev := sent, txPrevEnd := seqEnd, txPart := carry && cut
        loaded := [], badCw := 0, holdAt := 0
        ctl := markSent seqEnd opens signals k.ctl }
      k.fillReplays (replaySlots 60 (if carry then 488 else 0))

/-! ## Training (R452, R458, R476, R623) -/

/-- Whether software enables a link that the grade enables (R480). -/
def State.linkUsed (s : State) (l : Nat) : Bool := s.linkEnabled l && s.val (0x4010 + l) 1 0 == 1

/-- An event of a link (R641). -/
def State.linkEvent (s : State) (l nb : Nat) : State :=
  s.event 0x84 (locDie (l / 8) 2 (l % 8)) ([BitVec.ofNat 8 l, 0] ++ leBytes 2 nb)

/-- A training link reaches lane lock: it goes to KEYING at once under beat lock, and otherwise waits for it; a link with more than
120 ns does not come up (R452, R623). -/
def State.laneLock (s : State) (l latencyNs : Nat) : State :=
  let k := s.link l
  if !(k.st == .training || k.st == .retrain) || !k.cable || k.lane then s
  else if 120 < latencyNs then (s.modLink l fun k => { k with st := .down }).linkEvent l 0xFFFF
  else s.modLink l fun k => { k with lane := true, st := if s.beat.locked then .keying else k.st }

/-- The neighbour check and the key exchange complete: the link goes UP with new keys, or stays down (R458, R476, R623). -/
def State.keyed (s : State) (l : Nat) (nb : BitVec 10) : State :=
  let k := s.link l
  let want := s.val (0x4010 + l) 2 0x03FF
  if k.st != .keying then s
  else if want != 0xFFFF && want != nb.toNat then
    (s.modLink l fun k => { k with st := .down, lane := false, mismatch := true, neighbour := nb }).linkEvent l nb.toNat
  else
    let (t, s) := s.draw 128
    let (r, s) := s.draw 128
    (s.modLink l fun k =>
      { k with st := .up, neighbour := nb, txKey := some t, rxKey := some r, outSince := none
               wanted := (k.replay.filter fun f => !f.acked).map (·.seq)
               rxEnd := none, prevEnd := none, rxSlot := 0, cwSeen := 0, cwBad := false, txPrevEnd := k.txFull, txPrev := [] }).settleLink

/-- A link whose keys, sequences, replay buffer and landing memory are destroyed (R618, R629). -/
def Link.destroyed (k : Link) (training : Bool) : Link :=
  { st := if k.st = .disabled then .disabled else if training then .training else .down
    cable := k.cable, mismatch := k.mismatch, neighbour := k.neighbour }

/-- SIGNAL words that wait in a link, of those that cross into its unit (R338, R340; log 93). -/
def Link.signalsHeld (k : Link) : Nat := (k.ctl.filter fun e => !e.isOpen).length

/-- A link reset: DOWN with its state destroyed, then training; the signal words that its crossings drop are counted (R340, R627, R629). -/
def State.linkReset (s : State) (l : Nat) : State :=
  let base := l % 8 * 32768
  let s := s.count 0x9004 5 (s.link l).signalsHeld
  let s := s.modLink l fun k => k.destroyed (s.linkUsed l)
  s.modLanded (l / 8) fun g => g.filter fun q => !(base ≤ q.pos && q.pos < base + 32768)

/-- A link loses lane lock: it retrains, or goes through the reset that its neighbour has begun (R475, R629). -/
def State.lockLost (s : State) (l : Nat) (reset : Bool) : State := if reset then s.linkReset l else s.retrain l

/-- A link that is not back in service by the 4,096th beat boundary after it left: an ensemble fault (R475). -/
def State.retrainTimeout (s : State) (l : Nat) : State :=
  match (s.link l).outSince with
  | some b =>
    if b + 4096 ≤ s.beat.boundaries then
      (s.modLink l fun k => { k with outSince := none }).ensembleFault 0x0C (locDie (l / 8) 2 (l % 8)) [BitVec.ofNat 8 l]
    else s
  | none => s

end Sys2Proof.Machine
end

