-- ==== Sys2Proof/Machine/Service.lean ====
section
/-! DEFINITION. The intake and slotting unit: envelopes, cards, batch tables, the page pool, egress records and result tickets
(16_service_layer.md; 12_commands.md R406). -/

namespace Sys2Proof.Machine

/-! ## Settings (R511) -/

/-- A service entry as the unit uses it: a value written while a routine runs takes effect at the next SLOT (R511). -/
def State.svc (s : State) (idx sub dflt : Nat) : Nat := (tGet s.isu.held (idx * 256 + sub)).getD (s.val idx sub dflt)

/-- The location word of the unit (R22). -/
def locIsu : Nat := locDie 0 0xB 0

/-- The bar of a command (R71). -/
def Ctx.home (x : Ctx) : Nat := if x.tail then (x.bar + 2 ^ 40 - 1) % 2 ^ 40 else x.bar

/-- Adds to a counter of the unit: INTAKE_FRAME is 1 (R511, R593). -/
def State.countIsu (s : State) (sub : Nat) : State := s.count 0x9008 sub 1

/-- Rounds up to a multiple. -/
def roundUp (v m : Nat) : Nat := (v + m - 1) / m * m

/-! ## Cards and the page pool (R491, R492, R497) -/

/-- The card of a session of a key domain. -/
def State.cardOf (s : State) (kd ses : Nat) : Option (Nat × Card) :=
  s.isu.cards.find? fun c => c.2.kd == kd && c.2.session == ses

/-- Changes a card. -/
def State.modCard (s : State) (n : Nat) (f : Card → Card) : State :=
  { s with isu := { s.isu with cards := s.isu.cards.map fun c => if c.1 = n then (n, f c.2) else c } }

/-- The cards of a key domain. -/
def State.cardsOf (s : State) (kd : Nat) : List (Nat × Card) := s.isu.cards.filter (·.2.kd == kd)

/-- Pool pages, and host pages, that a card holds or that its scheduled moves reserve. -/
def Card.poolHeld (c : Card) : List Nat := c.pages ++ c.input ++ (if c.outward then [] else c.moves.map (·.2))
def Card.hostHeld (c : Card) : List Nat := c.hostPages ++ (if c.outward then c.moves.map (·.2) else [])

/-- The free pool pages of a domain in ascending order; pages 0 and 1 are the zero page and the sink page (R497). -/
def State.poolFree (s : State) (kd : Nat) : List Nat :=
  let held := (s.cardsOf kd).flatMap (·.2.poolHeld)
  (List.range (s.svc (0x5200 + kd) 3 0)).filter fun p => 2 ≤ p && !held.contains p

/-- The free host pages of a domain; page 0 is the sink page (R497). -/
def State.hostFree (s : State) (kd : Nat) : List Nat :=
  let held := (s.cardsOf kd).flatMap (·.2.hostHeld)
  (List.range (s.svc (0x5200 + kd) 6 0)).filter fun p => 1 ≤ p && !held.contains p

/-- The bank address of a pool page, the host address of a host page (R497). -/
def State.poolAddr (s : State) (kd p : Nat) : Nat := s.svc (0x5200 + kd) 2 0 + 65536 * p
def State.hostAddr (s : State) (kd p : Nat) : Nat := s.svc (0x5200 + kd) 5 0 + 65536 * p

/-- A write of the unit into pages of a domain; none into pages of another domain, or of one that it may not act for (R414, R550). -/
def State.svcPut (s : State) (kd a : Nat) (bs : Bytes) : State :=
  if bs.isEmpty || !s.serves kd || s.foreignBank kd a bs.length then s else s.bankPut a locIsu s.nowCtx bs

/-- A session ends: it moves to CLOSING with a reason; one that is ending keeps its reason (R488, R489, R496). -/
def Card.close (c : Card) (reason : Nat) : Card := if c.st = .closing then c else { c with st := .closing, reason }

/-! ## Batch tables (R493) -/

/-- A section of a batch table. -/
structure Sect where
  kd : Nat
  nslots : Nat
  first : Nat
  list : Nat
  deriving DecidableEq, Repr

/-- A batch table header. -/
structure Batch where
  pageMax : Nat
  tpp : Nat
  chunk : Nat
  carry : Nat
  base : Nat
  sects : List Sect
  deriving DecidableEq, Repr

/-- The size of an item, of a bar list, and where the list of a parity begins (R493). -/
def Batch.item (b : Batch) : Nat := roundUp (64 + 16 * b.pageMax + 4 * b.chunk) 64
def Batch.listLen (b : Batch) (q : Sect) : Nat := roundUp (q.nslots * b.item + (q.nslots + b.carry) * 64) 4096
def Batch.listAt (b : Batch) (q : Sect) (bar : Nat) : Nat := q.list + bar % 2 * b.listLen q

/-- Whether no two slot ranges of a list of sections overlap. -/
def sectsApart : List Sect → Bool
  | [] => true
  | q :: l => (l.all fun p => p.first + p.nslots ≤ q.first || q.first + q.nslots ≤ p.first || p.nslots = 0 || q.nslots = 0) && sectsApart l

/-- The header that 256 bytes hold, if they keep R493. -/
def State.parseBatch (s : State) (h : Bytes) : Option Batch :=
  let f := recField h
  let n := f 4 1
  let zero := fun a k => f a k == 0
  let sects := (List.range n).map fun i =>
    let a := 0x20 + 28 * i
    ({ kd := f a 1, nslots := f (a + 2) 2, first := f (a + 4) 2, list := f (a + 8) 8 } : Sect)
  let b : Batch := { pageMax := f 6 2, tpp := f 8 2, chunk := f 0xA 2, carry := f 0xC 2, base := f 0x10 4, sects }
  let ok := f 0 4 == 0x42544C31 && 1 ≤ n && n ≤ 8 && zero 5 1 && 1 ≤ b.pageMax && b.pageMax ≤ 256 && 1 ≤ b.tpp
    && 1 ≤ b.chunk && b.chunk ≤ 1024 && b.carry ≤ 8192 && zero 0xE 2 && zero 0x14 12
    && ((List.range n).all fun i => let a := 0x20 + 28 * i; zero (a + 1) 1 && zero (a + 6) 2 && zero (a + 16) 12)
    && (sects.map (·.nslots)).sum ≤ 8192 && sectsApart sects
    && sects.all fun q => q.kd < 64 && (b.listLen q = 0 || (q.list + 2 * b.listLen q ≤ 2 ^ 41 && !s.foreignBank q.kd q.list (2 * b.listLen q)))
  if ok then some b else none

/-- Reads `n` bytes of the service domain; nothing where a part of it lies outside (R493). -/
def State.svcRead (s : State) (x : Ctx) (a n : Nat) : Option Bytes × State :=
  if 2 ^ 41 < a + n || !s.serves 0 || s.foreignBank 0 a n then (none, s) else s.bankBytes a n locIsu x

/-- A command that finds its tables broken writes nothing and is logged once with reason RANGE (R493). -/
def State.isuBad (s : State) (x : Ctx) : State := s.skipLog x rRange locIsu

/-- Runs an action with the batch table at an address (R493). -/
def State.withBatch (s : State) (x : Ctx) (addr : Nat) (act : State → Batch → State) : State :=
  match s.svcRead x addr 256 with
  | (none, s) => s.isuBad x
  | (some h, s) => match s.parseBatch h with
    | some b => act s b
    | none => s.isuBad x

/-! ## TAKE (R484-R490) -/

/-- An intake ring as its entries give it (R483). -/
structure Ring where
  base : Nat
  size : Nat
  kd : Nat
  wptr : Nat
  rptr : Nat
  deriving DecidableEq, Repr

/-- The ring with a number, while it is enabled, lies where R483 says, and is of a domain that the unit may act for (R414, R550). -/
def State.intakeRing (s : State) (r : Nat) : Option Ring :=
  let g : Ring := { base := s.svc (0x5100 + r) 2 0, size := 2 ^ s.svc (0x5100 + r) 3 16, kd := s.svc (0x5100 + r) 4 0
                    wptr := s.base (0x5100 + r) 5 0, rptr := s.base (0x5100 + r) 6 0 }
  if s.svc (0x5100 + r) 1 0 = 1 && g.base % g.size = 0 && s.serves g.kd && !s.foreignBank g.kd g.base g.size then some g else none

/-- Sets a base value of the dictionary. -/
def State.setBase (s : State) (idx sub v : Nat) : State := { s with dict := { s.dict with vals := tPut s.dict.vals (idx * 256 + sub) v } }

/-- The bytes that a record takes in its ring (R484, R485): a PAD covers the rest of it. -/
def envSize (h : Bytes) (g : Ring) : Nat :=
  if recField h 3 1 = 0xF then g.size - g.rptr else 64 + roundUp (recField h 0x10 4 + 16) 64

/-- Step 1 of R488: the framing of a header, at the ring's RPTR. -/
def frameOk (h : Bytes) (g : Ring) : Bool :=
  let kind := recField h 3 1
  let len := recField h 0x10 4
  recField h 0 2 == 0x4E45 && recField h 2 1 == 1 && [1, 2, 3, 0xF].contains kind && recField h 5 1 / 2 == 0 && recField h 0x30 12 == 0
    && len ≤ 65440 && len % 4 == 0 && (kind ≤ 2 || len == 0) && (kind == 0xF || recField h 8 8 != 0) && g.rptr + envSize h g ≤ g.size

/-- The tokens of a plaintext (R485). -/
def tokensOf (p : Bytes) : List (BitVec 32) := (chunks 4 p.length p).map fun b => BitVec.ofNat 32 (leNat b)

/-- Stores plaintext in the input pages of a session, which take the lowest free pool pages as they fill; bytes for which the pool has no page
stay with the card alone (R490; log 97). -/
def State.storeInput (s : State) (n : Nat) (p : Bytes) : State :=
  match tGet s.isu.cards n with
  | none => s
  | some c =>
    let need := (c.inBytes + p.length + 65535) / 65536
    let new := (s.poolFree c.kd).take (need - c.input.length)
    let pages := c.input ++ new
    let s := (List.range pages.length).foldl (fun (s : State) i =>
      let lo := max (65536 * i) c.inBytes
      let hi := min (65536 * (i + 1)) (c.inBytes + p.length)
      match pages[i]? with
      | some p' => s.svcPut c.kd (s.poolAddr c.kd p' + lo % 65536) ((p.drop (lo - c.inBytes)).take (hi - lo))
      | none => s) s
    s.modCard n fun c => { c with input := pages, inBytes := c.inBytes + p.length }

/-- The session key (R486): the leading 16 bytes of SM3 over the intake key, the label and the session. -/
def sessionKey (k : BitVec 256) (ses : Nat) : BitVec 128 :=
  BitVec.ofNat 128 (leNat ((sm3Bytes (leBytes 32 k.toNat ++ ascii "ELOA-SES" ++ leBytes 8 ses)).take 16))

/-- A refused envelope places a REJECT in the queue of the section of its domain, or is dropped (R507). -/
def State.reject (s : State) (b : Batch) (kd ses reason : Nat) : State :=
  if !(b.sects.any (·.kd == kd)) || 64 ≤ (s.isu.rejects.filter (·.1 == kd)).length then s.countIsu 12
  else { s with isu := { s.isu with rejects := s.isu.rejects ++ [(kd, ses, reason, 0)] } }

/-- An input digest after a plaintext (R490). -/
def nextDigest (d : BitVec 256) (p : Bytes) : BitVec 256 := sm3 (leBytes 32 d.toNat ++ p)

/-- An authenticated OPEN (R489). -/
def State.openEnvelope (s : State) (b : Batch) (bar : Nat) (h p : Bytes) (key : BitVec 128) : State :=
  let kd := recField h 4 1
  let ses := recField h 8 8
  let free := (List.range 8192).find? fun n => (tGet s.isu.cards n).isNone
  match free with
  | none => s.reject b kd ses 1
  | some n =>
    if s.svc (0x5200 + kd) 1 0 ≤ (s.cardsOf kd).length then s.reject b kd ses 1
    else
      let ask := recField h 5 1 % 2 == 1
      let pinned := ask && decide (((s.cardsOf kd).filter (·.2.pinned)).length < s.svc (0x5200 + kd) 9 0)
      let s := if ask && !pinned then s.countIsu 7 else s
      let c : Card := { session := ses, kd, pinned, st := if p.isEmpty then .idle else .prefill, prior := .idle, outward := false
                        prompt := tokensOf p, pos := 0, next := 0, maxNew := recField h 0x14 4, stop := BitVec.ofNat 32 (recField h 0x20 4)
                        seed := BitVec.ofNat 64 (recField h 0x18 8), reply := 0, alive := recField h 6 2, egress := 0, wraps := 0
                        digest := nextDigest 0 p, key, pages := [], hostPages := [], input := [], inBytes := 0, moves := []
                        lastRun := bar, item := none, itemBar := 0, kept := none, reason := 0, victim := false }
      ({ s with isu := { s.isu with cards := tPut s.isu.cards n c } }).storeInput n p

/-- An authenticated APPEND or CLOSE of a session that holds a card: an APPEND moves an IDLE session to PREFILL, and an OUT one once its pages are
resident again, whatever its length (R489; log 56). -/
def State.actEnvelope (s : State) (b : Batch) (n : Nat) (c : Card) (kind : Nat) (p : Bytes) : State :=
  if kind = 3 then s.modCard n fun c => c.close 5
  else if c.st = .idle || c.st = .out then
    (s.modCard n fun c =>
      { c with prompt := c.prompt ++ tokensOf p, digest := nextDigest c.digest p, reply := 0
               st := if c.st = .idle then .prefill else c.st, prior := if c.st = .out then .prefill else c.prior }).storeInput n p
  else s.reject b c.kd c.session 3

/-- The refusal of an envelope as an event (R488, R641). -/
def State.refusedEvent (s : State) (r : Nat) : State := s.event 0x83 locIsu [0, 0, 0, BitVec.ofNat 8 r]

/-- Steps 5 to 7 of R488 on an envelope with its session key: whether its plaintext was opened. -/
def State.openSealed (s : State) (b : Batch) (bar r : Nat) (h ct tag : Bytes) (card : Option (Nat × Card)) (key : Option (BitVec 128)) :
    Bool × State :=
  let fail := fun (s : State) => (false, (s.countIsu 5).refusedEvent r)
  match key with
  | none => fail s
  | some k =>
    let kb := leBytes 16 k.toNat
    let iv := (h.drop 0x24).take 12
    if gcmTag kb iv (h.take 0x24) ct != tag then fail s
    else
      let p := gcmCrypt kb iv ct
      let last := (card.map (·.2.alive)).getD 0
      let got := recField h 6 2
      if got = last then (true, s.countIsu 6)
      else if got ≠ (last + 1) % 65536 then
        (true, match card with
          | some (n, _) => s.modCard n fun c => { c.close 4 with alive := got }
          | none => s)
      else (true, match card with
        | some (n, c) => (s.modCard n fun c => { c with alive := got }).actEnvelope b n c (recField h 3 1) p
        | none => s.openEnvelope b bar h p k)

/-- Steps 2 to 7 of R488 on a framed envelope: whether its plaintext was opened. A domain without an intake key is not served (R550). -/
def State.takeOne (s : State) (b : Batch) (bar r : Nat) (g : Ring) (h body : Bytes) : Bool × State :=
  let len := recField h 0x10 4
  let kind := recField h 3 1
  let ct := body.take len
  let tag := (body.drop len).take 16
  let kd := recField h 4 1
  let ses := recField h 8 8
  if (crc32c (h.take 0x3C ++ (if kind = 0xF then [] else ct ++ tag))).toNat ≠ recField h 0x3C 4 then (false, s.countIsu 2)
  else if kind = 0xF then (false, s)
  else if kd ≠ g.kd || s.svc (0x5200 + kd) 1 0 = 0 || (tGet s.sec.intake kd).isNone then (false, (s.countIsu 3).refusedEvent r)
  else match kind, s.cardOf kd ses with
    | 1, some _ => (false, s.countIsu 6)
    | 1, none => s.openSealed b bar r h ct tag none ((tGet s.sec.intake kd).map (sessionKey · ses))
    | _, some (n, c) => s.openSealed b bar r h ct tag (some (n, c)) (some c.key)
    | _, none => (false, s.countIsu 4)

/-- How far a TAKE may still go: envelopes and plaintext bytes, and whether it has stopped. -/
structure Taking where
  count : Nat
  bytes : Nat
  stop : Bool := false
  deriving DecidableEq, Repr

/-- A framing failure disables the ring (R488). -/
def State.disableRing (s : State) (r : Nat) (g : Ring) : State :=
  let s := { s with isu := { s.isu with held := tDel s.isu.held ((0x5100 + r) * 256 + 1) } }
  (((s.setBase (0x5100 + r) 1 0).countIsu 1).refusedEvent r).hostEvent g.kd 5 r g.rptr 0

/-- Takes the records of a ring below the WPTR of the start (R487, R488). -/
def State.takeRing (s : State) (b : Batch) (x : Ctx) (r : Nat) (g : Ring) (k : Taking) : Nat → Taking × State
  | 0 => (k, s)
  | fuel + 1 =>
    let avail := if g.rptr ≤ g.wptr then g.wptr - g.rptr else g.size - g.rptr
    if k.count = 0 then ({ k with stop := true }, s)
    else if avail < 64 then (k, s)
    else match s.bankBytes (g.base + g.rptr) 64 locIsu x with
      | (none, s) => ({ k with stop := true }, s)
      | (some h, s) =>
        if !frameOk h g then (k, s.disableRing r g)
        else
          let size := envSize h g
          let pad := recField h 3 1 == 0xF
          let len := recField h 0x10 4
          if avail < size then (k, s)
          else if k.bytes < len then ({ k with stop := true }, s)
          else match (if pad then (some [], s) else s.bankBytes (g.base + g.rptr + 64) (len + 16) locIsu x) with
            | (none, s) => ({ k with stop := true }, s)
            | (some body, s) =>
              let (opened, s) := s.takeOne b x.home r g h body
              let next := (g.rptr + size) % g.size
              State.takeRing (s.setBase (0x5100 + r) 6 next) b x r { g with rptr := next }
                { k with count := k.count - b2n (!pad), bytes := k.bytes - (if opened then len else 0) } fuel

/-- TAKE (R487). -/
def State.isuTake (s : State) (x : Ctx) (b : Batch) (count : Nat) : State :=
  let rings := (List.range 64).map fun i => (s.isu.ring + 1 + i) % 64
  let found := rings.filterMap fun r => (s.intakeRing r).map fun g => (r, g)
  let k : Taking := { count, bytes := s.svc 0x5000 2 1048576 }
  (found.foldl (fun (q : Taking × State) g =>
    if q.1.stop || q.1.count = 0 then q
    else
      let (k, s) := q.2.takeRing b x g.1 g.2 q.1 (count + 2)
      (k, if k.stop || k.count = 0 then { s with isu := { s.isu with ring := g.1 } } else s)) (k, s)).2

/-! ## SLOT (R494-R496, R499) -/

/-- Tokens that a card's next item runs (R495). -/
def Card.ntok (c : Card) (b : Batch) : Nat := if c.st = .prefill then min b.chunk c.prompt.length else 1

/-- Bars since a card last ran, as the 40-bit bar number counts; none where it runs in a bar to come (R494, R525). -/
def Card.waited (c : Card) (bar : Nat) : Nat := let g := barGap c.lastRun bar; if 2 ^ 39 ≤ g then 0 else g

/-- Whether a session is eligible for the lists of bar `n + 1`: a victim waits for its page-out (R491, R494, R499, R505). -/
def Card.eligible (c : Card) (n : Nat) : Bool :=
  ((c.st == .prefill && !c.prompt.isEmpty) || c.st == .decode) && c.item.isNone && c.itemBar != n + 1 && c.kept.isNone && c.moves.isEmpty && !c.victim

/-- Puts a card in the order of the bars since it last ran, longest first, then of card number. -/
def insertCard (bar : Nat) (e : Nat × Card) : List (Nat × Card) → List (Nat × Card)
  | [] => [e]
  | q :: l =>
    if q.2.waited bar < e.2.waited bar || (e.2.waited bar == q.2.waited bar && e.1 < q.1) then e :: q :: l else q :: insertCard bar e l

/-- Cards in that order. -/
def sortCards (bar : Nat) (l : List (Nat × Card)) : List (Nat × Card) := l.foldl (fun m e => insertCard bar e m) []

/-- A block-list entry of one page of 64 KiB (R274, R495). -/
def pageEntry (a : Nat) : Bytes := leBytes 16 (a % 2 ^ 48 + 1024 * 2 ^ 48)

/-- The sampling draw of an item (R503). -/
def drawOf (seed : BitVec 64) (t : Nat) : BitVec 32 := reelY0 seed (BitVec.ofNat 32 t) 0xFFFFFFF0 0

/-- The bytes of an item; an empty item has no card (R495, R500). -/
def itemBytes (b : Batch) (slot : Nat) (blank : Nat) (addr : Nat → Nat) : Option Card → Bytes
  | none => padTo b.item (List.replicate 64 0 ++ (List.replicate b.pageMax (pageEntry blank)).flatten)
  | some c =>
    let n := c.ntok b
    let sample := c.st != .prefill || n == c.prompt.length
    let y := if sample then (drawOf c.seed (c.pos + n)).toNat else 0
    let u := if sample then (toH16 { n := y / 2 ^ 22, k := -10 }).toNat else 0
    let npages := (c.pos + n + b.tpp - 1) / b.tpp
    let head := leBytes 8 c.session ++ leBytes 4 c.pos ++ leBytes 2 n ++ [BitVec.ofNat 8 (b2n sample), 0] ++ leBytes 2 npages ++ [0, 0]
      ++ leBytes 4 (b.base + slot * b.chunk) ++ leBytes 4 y ++ leBytes 2 u
    let input := if c.st = .prefill then c.prompt.take n else [c.next]
    let pages := (List.range b.pageMax).flatMap fun i =>
      pageEntry (if i < npages then addr ((c.pages[i]?).getD 0) else blank)
    padTo b.item (padTo 64 head ++ pages ++ input.flatMap fun t => leBytes 4 t.toNat)

/-- An override event: a software bound that the unit breaks (R499, R641). -/
def State.override (s : State) (idx sub v card : Nat) : State :=
  (s.countIsu 10).event 0x80 locIsu (leBytes 2 idx ++ [BitVec.ofNat 8 sub, 0] ++ leBytes 4 v ++ [0, 0] ++ leBytes 2 card)

/-- Marks one victim for page-out, in the order of R499. -/
def State.markVictim (s : State) (bar kd self : Nat) : State :=
  let l := sortCards bar ((s.cardsOf kd).filter fun c =>
    c.1 != self && c.2.item.isNone && !c.2.victim && c.2.moves.isEmpty && !c.2.pages.isEmpty)
  let one := l.find? fun c => c.2.st == .idle && !c.2.pinned
  let two := l.find? fun c => (c.2.st == .prefill || c.2.st == .decode) && !c.2.pinned
  let three := l.find? fun c => c.2.st == .idle && c.2.pinned
  let mark := fun (s : State) (c : Nat × Card) => s.modCard c.1 fun c => { c with victim := true }
  let room := fun (c : Nat × Card) => decide (c.2.pages.length ≤ (s.hostFree kd).length)
  match one, two, three with
  | some c, _, _ => if room c then mark s c else s.countIsu 11
  | none, some c, _ => if room c then (mark s c).override 0x5000 3 (s.svc 0x5000 3 64) c.1 else s.countIsu 11
  | none, none, some c => if room c then (mark s c).override (0x5200 + kd) 9 (s.svc (0x5200 + kd) 9 0) c.1 else s.countIsu 11
  | none, none, none => s.countIsu 11

/-- Tries to slot a session: it holds its pages then; otherwise it ends with QUOTA or stays unslotted, as one that this SLOT has marked for page-out
does (R496, R499). -/
def State.trySlot (s : State) (b : Batch) (bar n : Nat) : Option Card × State :=
  match tGet s.isu.cards n with
  | none => (none, s)
  | some c =>
    let k := c.ntok b
    let need := (c.pos + k + b.tpp - 1) / b.tpp
    if c.victim then (none, s)
    else if s.svc (0x5200 + c.kd) 4 256 < need || b.pageMax < need then (none, s.modCard n fun c => c.close 2)
    else
      let free := s.poolFree c.kd
      let more := need - c.pages.length
      if free.length < more then (none, s.markVictim bar c.kd n)
      else
        let sample := c.st != .prefill || k == c.prompt.length
        let f := fun (c : Card) => { c with pages := c.pages ++ free.take more, lastRun := (bar + 1) % 2 ^ 40, itemBar := (bar + 1) % 2 ^ 40 + 1
                                            item := some (c.pos, k, sample, c.digest) }
        (some { c with pages := c.pages ++ free.take more }, s.modCard n f)

/-- Fills the item of one bar slot from the sessions still to try (R494). -/
def State.fillSlot (s : State) (b : Batch) (bar : Nat) : List Nat → Option Card × List Nat × State
  | [] => (none, [], s)
  | n :: l => match s.trySlot b bar n with
    | (some c, s) => (some c, l, s)
    | (none, s) => State.fillSlot s b bar l

/-- Fills the items of a section in slot order. -/
def State.fillSlots (s : State) (b : Batch) (q : Sect) (bar : Nat) : Nat → Nat → List Nat → Bytes × State
  | 0, _, _ => ([], s)
  | left + 1, i, l =>
    let (c, l, s) := s.fillSlot b bar l
    let bs := itemBytes b (q.first + i) (s.poolAddr q.kd 0) (s.poolAddr q.kd) c
    let (rest, s) := State.fillSlots s b q bar left (i + 1) l
    (bs ++ rest, s)

/-- The section of a SLOT (R494, R497). -/
def State.slotSection (s : State) (b : Batch) (bar : Nat) (q : Sect) : State :=
  let able := (s.cardsOf q.kd).filter (·.2.eligible bar)
  let wait := s.svc (0x5200 + q.kd) 8 0
  let few := able.length < s.svc (0x5200 + q.kd) 7 0 && !able.any fun c => wait ≤ c.2.waited bar
  let order := if few then [] else
    (sortCards bar (able.filter (·.2.pinned))).map (·.1) ++ (sortCards bar (able.filter (!·.2.pinned))).map (·.1)
  let (items, s) := s.fillSlots b q bar q.nslots 0 order
  let s := s.svcPut q.kd (b.listAt q (bar + 1)) (items ++ List.replicate ((q.nslots + b.carry) * 64) 0)
  if q.nslots = 0 || s.svc (0x5200 + q.kd) 3 0 = 0 then s else s.svcPut q.kd (s.poolAddr q.kd 0) (List.replicate 65536 0)

/-- SLOT: service entries written meanwhile take effect, and the lists of the next bar are written, in the sections of domains that the
unit may act for (R414, R494, R511, R550). -/
def State.isuSlot (s : State) (x : Ctx) (b : Batch) : State :=
  b.sects.foldl (fun (s : State) q => if s.serves q.kd then s.slotSection b x.home q else s) s

/-! ## PAGE (R497, R498) -/

/-- The moves of the PAGE before this one are done (R498). -/
def Card.moved (c : Card) : Card :=
  if c.moves.isEmpty then c
  else if c.outward then
    { c with pages := [], hostPages := c.moves.map (·.2), moves := [], st := if c.st = .moving then .out else c.st }
  else
    { c with pages := c.moves.map (·.2), hostPages := [], moves := []
             st := if c.st = .moving then (if c.prompt.isEmpty then c.prior else .prefill) else c.st }

/-- Schedules whole sessions onto free destination pages while pairs are left: the pairs, and the state (R498). -/
def State.schedule (s : State) (outward : Bool) (free : List Nat) (room : Nat) : List (Nat × Card) → List (Nat × Nat) × State
  | [] => ([], s)
  | (n, c) :: l =>
    let src := if outward then c.pages else c.hostPages
    if src.isEmpty || room < src.length || free.length < src.length then State.schedule s outward free room l
    else
      let ps := List.zip src free
      let s := s.modCard n fun c => { c with moves := ps, outward, st := .moving, victim := false
                                             prior := if outward then c.st else c.prior }
      let (rest, s) := State.schedule s outward (free.drop src.length) (room - src.length) l
      (ps ++ rest, s)

/-- The section of a PAGE: a session whose return is done in this PAGE is eligible from here on, and no wallflower in it (R497, R498). -/
def State.pageSection (s : State) (bar addr count k : Nat) (fresh : List Nat) (q : Sect) : State :=
  let cards := sortCards bar (s.cardsOf q.kd)
  let idle := fun (c : Nat × Card) => [SesSt.prefill, .decode, .idle].contains c.2.st && c.2.item.isNone && c.2.moves.isEmpty
  let victims := cards.filter fun c => idle c && c.2.victim
  let flowers := cards.filter fun c => idle c && !c.2.victim && !c.2.pinned && !fresh.contains c.1 && s.svc 0x5000 3 64 ≤ c.2.waited bar
  let back := cards.filter fun c =>
    c.2.st == .out && c.2.moves.isEmpty && (!c.2.prompt.isEmpty || c.2.prior == .prefill || c.2.prior == .decode)
  let pool := s.poolFree q.kd
  let (outs, s) := s.schedule true (s.hostFree q.kd) count (victims ++ flowers)
  let (ins, s) := s.schedule false pool count back
  let fill := fun (l : List Bytes) (e : Bytes) => (l ++ List.replicate (count - l.length) e).flatten
  let bank := fun p => pageEntry (s.poolAddr q.kd p)
  let host := fun p => pageEntry (s.hostAddr q.kd p)
  s.svcPut 0 (addr + 4096 * (1 + k * (roundUp (64 * count) 4096 / 4096)))
    (fill (outs.map (bank ·.1)) (bank 0) ++ fill (outs.map (host ·.2)) (host 0)
      ++ fill (ins.map (host ·.1)) (host 0) ++ fill (ins.map (bank ·.2)) (bank 1))

/-- PAGE: the moves scheduled before are done, and a new schedule is written (R498). -/
def State.isuPage (s : State) (x : Ctx) (b : Batch) (addr count : Nat) : State :=
  if s.foreignBank 0 addr (4096 + b.sects.length * roundUp (64 * count) 4096) then s.isuBad x
  else
    let fresh := (s.isu.cards.filter fun c => !c.2.outward && !c.2.moves.isEmpty).map (·.1)
    let s := { s with isu := { s.isu with cards := s.isu.cards.map fun c => (c.1, c.2.moved) } }
    (List.zip (List.range 8) b.sects).foldl (fun (s : State) q =>
      if s.serves q.2.kd then s.pageSection x.home addr count q.1 fresh q.2 else s) s

/-! ## EGRESS (R504-R508) -/

/-- An egress ring while an EGRESS writes it: WPTR as it moves, RPTR as it stood at the start (R505). -/
structure Eg where
  kd : Nat
  base : Nat
  size : Nat
  w : Nat
  r : Nat
  deriving DecidableEq, Repr

/-- The head and the end of an egress record: header without CRC, ciphertext, tag, with the CRC put in (R485, R506). -/
def egressBytes (h ct tag : Bytes) : Bytes :=
  let h := padTo 60 h
  let b := h ++ leBytes 4 (crc32c (h ++ ct ++ tag)).toNat ++ ct ++ tag
  padTo (roundUp b.length 64) b

/-- The first 0x24 bytes of an egress header (R506). -/
def egressHead (kind kd alive ses len pos reason : Nat) : Bytes :=
  leBytes 2 0x4547 ++ [1, BitVec.ofNat 8 kind, BitVec.ofNat 8 kd, 0] ++ leBytes 2 alive ++ leBytes 8 ses ++ leBytes 4 len ++ leBytes 4 pos
    ++ [BitVec.ofNat 8 reason] ++ List.replicate 11 0

/-- The ring with a record placed, if it has room: 64 bytes stay free (R484, R505). -/
def State.placeRecord (s : State) (g : Eg) (b : Bytes) : Option (Eg × State) :=
  let wrap := g.size < g.w + b.length
  let need := b.length + (if wrap then g.size - g.w else 0)
  let free := g.size - 64 - (g.w + g.size - g.r) % g.size
  if free < need then none
  else
    let s := if wrap then s.svcPut g.kd (g.base + g.w) (egressBytes (egressHead 0xF g.kd 0 0 0 0 0) [] []) else s
    let at_ := if wrap then 0 else g.w
    some ({ g with w := (at_ + b.length) % g.size }, s.svcPut g.kd (g.base + at_) b)

/-- A record of a session: kind, position, token, reason, ticket. -/
abbrev EgRec := Nat × Nat × BitVec 32 × Nat × BitVec 256

/-- The bytes of a session's record, sealed under its key with its next egress count (R506). -/
def sealRecord (c : Card) (e : EgRec) : Bytes × Card :=
  let alive := (c.egress + 1) % 65536
  let wraps := if alive = 0 then c.wraps + 1 else c.wraps
  let ended := e.1 == 0x14
  let body := if ended then [] else leBytes 4 e.2.2.1.toNat ++ List.replicate 12 0 ++ leBytes 32 e.2.2.2.2.toNat
  let h := egressHead e.1 c.kd alive c.session body.length e.2.1 e.2.2.2.1
  let iv := [2] ++ leBytes 8 c.session ++ leBytes 2 alive ++ leBytes 1 wraps
  let kb := leBytes 16 c.key.toNat
  let ct := gcmCrypt kb iv body
  (egressBytes (h ++ iv) ct (gcmTag kb iv h ct), { c with egress := alive, wraps })

/-- Writes a session's record, or keeps it in the card; an ENDED record that is written frees the card (R492, R505). -/
def State.giveRecord (s : State) (g : Eg) (n : Nat) (e : EgRec) (again : Bool) : Eg × State :=
  match tGet s.isu.cards n with
  | none => (g, s)
  | some c =>
    let (b, c') := sealRecord c e
    match s.placeRecord g b with
    | some (g, s) =>
      (g, if e.1 = 0x14 then { s with isu := { s.isu with cards := tDel s.isu.cards n } }
          else s.modCard n fun c => { c with egress := c'.egress, wraps := c'.wraps, kept := none })
    | none => (g, (if again then s else s.countIsu 9).modCard n fun c => { c with kept := some e })

/-- The digest of the weight sets (R508). -/
def State.weights (s : State) : Bytes :=
  sm3Bytes (((List.range 16).map fun i => s.val 0x5300 (i + 1) 0).filter (· != 0) |>.flatMap fun v => leBytes 32 v)

/-- The result ticket of a sampled token (R508). -/
def State.ticketOf (s : State) (d : BitVec 256) (seed : BitVec 64) (t : Nat) : BitVec 256 :=
  sm3 (leBytes 32 s.rt.hdr.digest.toNat ++ s.weights ++ leBytes 32 d.toNat ++ leBytes 8 seed.toNat ++ leBytes 8 t)

/-- One entry of the output area (R502, R504). -/
def State.drainEntry (s : State) (g : Eg) (e : Bytes) : Eg × State :=
  let ses := recField e 0 8
  let pos := recField e 8 4
  let tok := BitVec.ofNat 32 (recField e 0xC 4)
  let fl := recField e 0x10 1
  let stray := (g, s.countIsu 8)
  match s.cardOf g.kd ses with
  | none => stray
  | some (n, c) => match c.item with
    | none => stray
    | some (p, k, _, d) =>
      if fl % 2 = 0 || p ≠ pos then stray
      else
        let s := s.modCard n fun c =>
          { c with pos := p + k, item := none, prompt := if c.st = .decode then c.prompt else c.prompt.drop k }
        if !(fl.testBit 1) || c.st = .closing then (g, s)
        else
          let final := (tok == c.stop && c.stop != 0xFFFFFFFF) || c.maxNew ≤ c.reply + 1
          let s := s.modCard n fun c => { c with reply := c.reply + 1, next := tok, st := if final then .idle else .decode }
          s.giveRecord g n (if final then 0x12 else 0x11, p + k, tok, 0, s.ticketOf d c.seed (p + k)) false

/-- The kept records of a section's sessions come first (R505). -/
def State.giveKept (s : State) (g : Eg) : Eg × State :=
  (s.cardsOf g.kd).foldl (fun (q : Eg × State) c => match c.2.kept with
    | some e => q.2.giveRecord q.1 c.1 e true
    | none => q) (g, s)

/-- The queued REJECT records of a section, as far as they fit (R506, R507). -/
def State.giveRejects (s : State) (g : Eg) : Eg × State :=
  (s.isu.rejects.filter (·.1 == g.kd)).foldl (fun (q : Eg × State) e =>
    match q.2.placeRecord q.1 (egressBytes (egressHead 0x13 g.kd 0 e.2.1 0 0 e.2.2.1) [] []) with
    | some (h, s) => (h, { s with isu := { s.isu with rejects := s.isu.rejects.erase e } })
    | none => q) (g, s)

/-- The sessions of a section that end: in CLOSING with no item awaited at the start of the EGRESS (R492). -/
def State.giveEnded (s : State) (g : Eg) (ns : List Nat) : Eg × State :=
  ns.foldl (fun (q : Eg × State) n => match tGet q.2.isu.cards n with
    | some c =>
      if c.kept.isSome then q
      else
        let (p, s) := q.2.draw 32
        s.giveRecord q.1 n (0x14, p.toNat, 0, c.reason, 0) false
    | none => q) (g, s)

/-- The section of an EGRESS: its ring record, its records, its new WPTR (R504, R505, R507). -/
def State.egressSection (s : State) (x : Ctx) (b : Batch) (addr k : Nat) (q : Sect) : State :=
  match s.svcRead x (addr + 64 * k) 64 with
  | (none, s) => s
  | (some h, s) =>
    let order := recField h 8 1
    let g : Eg := { kd := q.kd, base := recField h 0 8, size := 2 ^ order, w := recField h 0xC 4, r := recField h 0x10 4 }
    let at_ := b.listAt q x.home + q.nslots * b.item
    let ended := ((s.cardsOf q.kd).filter fun c => c.2.st == .closing && c.2.item.isNone && c.2.moves.isEmpty).map (·.1)
    match s.bankBytes at_ ((q.nslots + b.carry) * 64) locIsu x with
    | (none, s) => s
    | (some area, s) =>
      let (g', s) := s.giveKept g
      let (g', s) := s.giveRejects g'
      let (g', s) := (chunks 64 (q.nslots + b.carry) area).foldl (fun (r : Eg × State) e => r.2.drainEntry r.1 e) (g', s)
      let (g', s) := s.giveEnded g' ended
      if g'.w = g.w then s
      else
        let s := s.svcPut 0 (addr + 64 * k + 0xC) (leBytes 4 g'.w)
        { s with isu := { s.isu with tell := s.isu.tell ++ [(q.kd, k, g'.w)] } }

/-- Whether the ring record of a section keeps R505. -/
def State.ringOk (s : State) (q : Sect) (h : Bytes) : Bool :=
  let order := recField h 8 1
  12 ≤ order && order ≤ 26 && recField h 0xC 4 < 2 ^ order && recField h 0xC 4 % 64 == 0 && recField h 0x10 4 < 2 ^ order
    && recField h 0x10 4 % 64 == 0 && !s.foreignBank q.kd (recField h 0 8) (2 ^ order)

/-- EGRESS (R504, R505). -/
def State.isuEgress (s : State) (x : Ctx) (b : Batch) (addr : Nat) : State :=
  match s.svcRead x addr (64 * b.sects.length) with
  | (none, s) => s.isuBad x
  | (some rs, s) =>
    let qs := List.zip (List.range 8) b.sects
    if qs.all fun q => s.ringOk q.2 (rs.drop (64 * q.1)) then 
      qs.foldl (fun (s : State) q => if s.serves q.2.kd then s.egressSection x b addr q.1 q.2 else s) s
    else s.isuBad x

/-! ## Commands of the intake slot (R400, R406, R509) -/

/-- The address of the batch table of a command: ADDR itself, or the word that a schedule or a region holds (R498, R505). -/
def State.batchAddr (s : State) (x : Ctx) (j : IsJob) : Option Nat × State :=
  if j.op ≤ 2 then (some j.addr, s)
  else match s.svcRead x (j.addr + (if j.op = 3 then 0x200 else 0)) 8 with
    | (some b, s) => (some (leNat b), s)
    | (none, s) => (none, s)

/-- What a command of the unit does; while SERVICE is 0 nothing (R511). -/
def State.isuRun (s : State) (x : Ctx) (j : IsJob) : State :=
  let s := if j.op = 2 then { s with isu := { s.isu with held := [] } } else s
  if s.svc 0x5000 1 0 ≠ 1 then s
  else match s.batchAddr x j with
    | (none, s) => s.isuBad x
    | (some a, s) => s.withBatch x a fun s b =>
      if j.op = 1 then s.isuTake x b j.count
      else if j.op = 2 then s.isuSlot x b
      else if j.op = 3 then s.isuEgress x b j.addr
      else s.isuPage x b j.addr j.count

/-- A command of the unit starts: it runs alone until ISU_COMPLETE (R400, R509). -/
def State.isuStart (s : State) (x : Ctx) (j : IsJob) : State :=
  ({ s with isu := { s.isu with busy := some (x, j), tell := [] } }).isuRun x j

/-- The last write of the command that runs has been acknowledged: its module cue is set, its EGRESS events follow (R406, R529). -/
def State.isuDone (s : State) : State :=
  match s.isu.busy with
  | none => s
  | some (x, j) =>
    let tell := s.isu.tell
    let s := { s with isu := { s.isu with busy := none, tell := [] } }
    let s := match j.done with
      | some q => s.applyUntimed { obj := q.obj, op := .bulk, scope := q.scope, src := 51
                                   last := { module := s.moduleId, loc := locIsu, step := x.step, op := 6 } }
      | none => s
    tell.foldl (fun (s : State) e => s.hostEvent e.1 4 e.2.1 e.2.2 0) s

end Sys2Proof.Machine
end

