-- ==== Sys2Proof/Machine/Units.lean ====
section
/-! DEFINITION. The module-level units: bank movers, slot engines, module check units and the intake slot, with their queues
(12_commands.md R400-R406; 09_movers_and_streams.md R297-R300; 14_bank_memory.md R442; 15_partner_links.md R461-R468). -/

namespace Sys2Proof.Machine

/-! ## Queues (R400) -/

/-- Units of a die: bank movers 0-15, slot engines 16-23, the module check units 24-27, the intake slot 28. -/
def uEngine : Nat := 16
def uCheckQ : Nat := 24
def uIntake : Nat := 28

/-- A unit of a die. -/
def State.unit (s : State) (d u : Nat) : MUnit := s.unitN (d * 29 + u)

/-- Changes a unit of a die. -/
def State.setUnit (s : State) (d u : Nat) (f : MUnit → MUnit) : State := s.modUnit (d * 29 + u) f

/-- Schedules the head of a unit's queue: not while its command runs (R400, R509). -/
def State.schedUnit (s : State) (d u : Nat) : State :=
  let s := s.dropEvs (8 + d) (·.k == .unitStart d u)
  let v := s.unit d u
  if v.run.isSome || (u == uIntake && s.isu.busy.isSome) then s
  else match v.q with
    | (x, _) :: _ => s.post (8 + d) (max (x.t + 8) v.free) phStart u (.unitStart d u)
    | [] => s

/-- Pushes a command into a unit's queue. -/
def State.enqueueUnit (s : State) (d u : Nat) (x : Ctx) (cmd : UnitCmd) : State :=
  let s := s.setUnit d u fun v => { v with q := v.q ++ [(x, cmd)] }
  if (s.unit d u).q.length = 1 then s.schedUnit d u else s

/-- The reasons that every command of a unit shares. -/
def unitReasons (s : State) (d u : Nat) (x : Ctx) : List (Nat × Bool) :=
  (rQueue, 8 ≤ (s.unit d u).q.length) :: callerReasons s (48 + d) x

/-- Whether every page of a range of bank memory belongs to a domain that the routine may touch (R117, R551). -/
def State.mayReach (s : State) (a len : Nat) : Bool :=
  (List.range ((a + len - 1) / 2 ^ 26 - a / 2 ^ 26 + 1)).all fun i => (s.pageDomain (a + i * 2 ^ 26)).any s.mayTouch

/-- The reasons of a block list in bank memory (R117, R367). -/
def bankListReasons (s : State) (v : Int) (nent : Nat) : List (Nat × Bool) :=
  [(rRange, !okB v), (rProt, okB v && !s.mayReach v.toNat (16 * nent))]

/-- Whether every page of a range of bank memory lies on a subchannel of a die (R402, R436). -/
def onDie (d a len : Nat) : Bool :=
  (List.range ((a + len - 1) / 4096 - a / 4096 + 1)).all fun i => subchannelOf (pageOf (a + 4096 * i)) / 128 == d

/-- The reasons of a list of a BMOVE, which lies in the bank memory of its die (R402; log 86). -/
def moveListReasons (s : State) (d : Nat) (v : Int) (nent : Nat) : List (Nat × Bool) :=
  (rRange, okB v && !onDie d v.toNat (16 * nent)) :: bankListReasons s v nent

/-- The reasons that the push check of BMOVE finds (R117, R366, R367). -/
def bmoveReasons (s : State) (d i : Nat) (x : Ctx) (c : Cw) : List (Nat × Bool) :=
  let k := s.caller (48 + d)
  let snent := f0 c 47 36 + 1
  let dnent := f0 c 35 24 + 1
  let kd := f0 c 23 18
  let ssp := f0 c 17 16
  let dsp := f0 c 15 14
  let cen := f0 c 0 0 == 1
  let sl := exprVal k x.idx 64 (f1 c 63 32)
  let dl := exprVal k x.idx 64 (f1 c 31 0)
  let space := fun q => q == 3 || (q == 2 && d == 1)
  unitReasons s d i x ++
    [(rField, space ssp || space dsp || c.w2 != 0 || c.w3 != 0 || exprBad (f1 c 63 32) || exprBad (f1 c 31 0)),
     mdoneReason cen (f0 c 13 4) (f0 c 3 1), (rProt, !s.mayTouch kd)] ++ moveListReasons s d sl snent ++ moveListReasons s d dl dnent

/-- A BMOVE at its push (R402). -/
def State.pushBmove (s : State) (d i : Nat) (x : Ctx) (c : Cw) : State :=
  let k := s.caller (48 + d)
  let snent := f0 c 47 36 + 1
  let dnent := f0 c 35 24 + 1
  let kd := f0 c 23 18
  let ssp := f0 c 17 16
  let dsp := f0 c 15 14
  let cen := f0 c 0 0 == 1
  let sl := exprVal k x.idx 64 (f1 c 63 32)
  let dl := exprVal k x.idx 64 (f1 c 31 0)
  s.judge x (locDie d 1 i) (firstReason (bmoveReasons s d i x c))
    fun s => s.enqueueUnit d i x (.bmove { snent, dnent, kd, ssp, dsp, slist := sl.toNat, dlist := dl.toNat
                                           done := mdone cen (f0 c 13 4) (f0 c 3 1) })

/-- The links of a multicast group (R463, R480); group 0 is the engine's own link. -/
def State.groupLinks (s : State) (l g : Nat) : List Nat :=
  if g = 0 then [l] else (List.range 16).filter fun i => (s.val 0x4200 g 0).testBit i

/-- The reasons that the push check of LSEND finds (R117, R366, R367). -/
def lsendReasons (s : State) (l : Nat) (x : Ctx) (c : Cw) : List (Nat × Bool) :=
  let d := l / 8
  let k := s.caller (48 + d)
  let nent := f0 c 47 36 + 1
  let kd := f0 c 35 30
  let group := f0 c 21 14
  let cen := f0 c 0 0 == 1
  let list := exprVal k x.idx 64 (f1 c 63 32)
  let lidx := exprVal k x.idx 1 (f1 c 31 0)
  let ls := s.groupLinks l group
  let absent := !s.rt.hdr.links.getLsbD l
    || (group != 0 && (!ls.contains l || ls.any fun i => i / 8 != d || !s.linkUsed i || !s.rt.hdr.links.getLsbD i))
  unitReasons s d (uEngine + l % 8) x ++
    [(rField, c.w2 != 0 || c.w3 != 0 || exprBad (f1 c 63 32) || exprBad (f1 c 31 0)), mdoneReason cen (f0 c 13 4) (f0 c 3 1),
     (rLink, absent), (rRange, !okI lidx || lidx % 4 != 0), (rProt, !s.mayTouch kd)] ++ bankListReasons s list nent

/-- An LSEND at its push (R403, R463, R464). -/
def State.pushLsend (s : State) (l : Nat) (x : Ctx) (c : Cw) : State :=
  let d := l / 8
  let k := s.caller (48 + d)
  let nent := f0 c 47 36 + 1
  let kd := f0 c 35 30
  let group := f0 c 21 14
  let cen := f0 c 0 0 == 1
  let list := exprVal k x.idx 64 (f1 c 63 32)
  let lidx := exprVal k x.idx 1 (f1 c 31 0)
  s.judge x (locDie d 2 (l % 8)) (firstReason (lsendReasons s l x c)) fun s =>
    s.enqueueUnit d (uEngine + l % 8) x (.lsend { nent, kd, lstream := f0 c 29 22, group, list := list.toNat, lidx := lidx.toNat
                                                  done := mdone cen (f0 c 13 4) (f0 c 3 1) })

/-- The reasons that the push check of MCK finds (R117, R366, R367). -/
def mckReasons (s : State) (d : Nat) (x : Ctx) (c : Cw) : List (Nat × Bool) :=
  let inst := f0 c 47 45
  let op := f0 c 44 43
  let alg := f0 c 42 41
  let nent := f0 c 40 29 + 1
  let kd := f0 c 28 23
  let cen := f0 c 9 9 == 1
  let v := exprVal (s.caller (48 + d)) x.idx 64 (f1 c 63 32)
  let bad := 4 ≤ inst || op == 3 || f0 c 8 0 != 0 || f1 c 31 0 != 0 || (if op = 0 then alg == 3 || f1 c 63 32 != 0 else alg != 0)
    || (op != 1 && (f0 c 40 29 != 0 || kd != 0)) || (op != 2 && f0 c 22 9 != 0) || exprBad (f1 c 63 32)
  let addr := if op = 0 then [] else if op = 1 then (rProt, !s.mayTouch kd) :: bankListReasons s v nent
    else [(rRange, !okB v), (rProt, okB v && !s.mayReach v.toNat 8)]
  unitReasons s d (uCheckQ + inst) x ++
    [(rField, bad), mdoneReason cen (f0 c 22 13) (f0 c 12 10)] ++ addr

/-- An MCK at its push, in any of its operations (R404). -/
def State.pushMck (s : State) (d : Nat) (x : Ctx) (c : Cw) : State :=
  let inst := f0 c 47 45
  let op := f0 c 44 43
  let alg := f0 c 42 41
  let nent := f0 c 40 29 + 1
  let kd := f0 c 28 23
  let cen := f0 c 9 9 == 1
  let v := exprVal (s.caller (48 + d)) x.idx 64 (f1 c 63 32)
  s.judge x (locDie d 6 (inst % 4)) (firstReason (mckReasons s d x c)) fun s =>
    s.enqueueUnit d (uCheckQ + inst) x (.mck { inst, op, alg, nent, kd, addr := v.toNat, done := mdone cen (f0 c 22 13) (f0 c 12 10) })

/-- Whether an address of bank memory lies in the service domain or in one that the routine may touch (R117, R493, R551). -/
def State.servicePage (s : State) (a : Nat) : Bool := (s.pageDomain a).any s.serves

/-- The reasons that the push check of TAKE, SLOT, EGRESS and PAGE finds (R117, R366, R367). -/
def isuReasons (s : State) (x : Ctx) (c : Cw) : List (Nat × Bool) :=
  let cen := f0 c 34 34 == 1
  let addr := exprVal (s.caller 48) x.idx 64 (f0 c 31 0)
  let count := f1 c 15 0
  unitReasons s 0 uIntake x ++
    [(rField, f0 c 33 32 != 0 || f1 c 63 16 != 0 || exprBad (f0 c 31 0)), mdoneReason cen (f0 c 47 38) (f0 c 37 35),
     (rRange, !okB addr || count == 0 || 8192 < count), (rProt, okB addr && !s.servicePage addr.toNat)]

/-- A TAKE, SLOT, EGRESS or PAGE at its push (R406). -/
def State.pushIsu (s : State) (x : Ctx) (op : Nat) (c : Cw) : State :=
  let cen := f0 c 34 34 == 1
  let addr := exprVal (s.caller 48) x.idx 64 (f0 c 31 0)
  let count := f1 c 15 0
  s.judge x locIsu (firstReason (isuReasons s x c)) fun s =>
    s.enqueueUnit 0 uIntake x (.isu { op, addr := addr.toNat, count, done := mdone cen (f0 c 47 38) (f0 c 37 35) })

/-! ## Block lists of module-level units -/

/-- Reads a block list from bank memory and expands it for a space: 0 bank, 1 landing, 2 host (R276, R402, R442). A list that bank
memory does not return expands to nothing. -/
def State.unitList (s : State) (x : Ctx) (loc a nent kd space : Nat) (whole : Bool) : List Run × State :=
  match s.bankBytes a (16 * nent) loc x with
  | (none, s) => ([], s)
  | (some b, s) =>
    let bound := if space = 0 then some (2 ^ 41) else if space = 1 then some (2 ^ 24) else none
    let foreign := if space = 0 then s.foreignBank kd else fun _ _ => false
    s.listRuns x loc { bound, whole, foreign } 0 (chunks 16 nent b)

/-- The key pair of a domain, as bytes (R441). -/
def State.xtsKeys (s : State) (kd : Nat) : Bytes := leBytes 32 ((tGet s.sec.xts kd).getD 0).toNat

/-- The tweak of a page in host memory (R442). -/
def hostTweak (a : Nat) : Nat := 2 ^ 127 + a / 4096

/-- The landed granule at an address of a die's landing memory (R466). -/
def State.landedAt (s : State) (d a : Nat) : Option Landed := (s.landed d).find? fun g => g.pos == a / 64

/-- Reads a granule of a source space; collection frees a landing position (R442, R468). -/
def State.unitRead (s : State) (x : Ctx) (d loc kd space a : Nat) : Option Bytes × State :=
  if space = 0 then s.bankGet a loc x
  else if space = 1 then
    match s.landedAt d a with
    | some g => (some g.data, s.modLanded d fun l => l.filter (·.pos != a / 64))
    | none => (none, s)
  else
    let (g, s) := s.hostGet a 64
    (some (xtsGranule false (s.xtsKeys kd) (hostTweak a) (a % 4096 / 64) g), s)

/-- Writes a granule of a destination space (R442). -/
def State.unitWrite (s : State) (x : Ctx) (d loc kd space a : Nat) (b : Bytes) : State :=
  if space = 0 then s.bankPut a loc x b
  else if space = 1 then s.modLanded d fun l => (l.filter (·.pos != a / 64)) ++ [{ pos := a / 64, data := b, kd }]
  else s.hostPut a (xtsGranule true (s.xtsKeys kd) (hostTweak a) (a % 4096 / 64) b)

/-! ## Runs of BMOVE and FEED -/

/-- A unit's command has moved its last granule. A FEED is complete with it; a BMOVE once its writes are acknowledged (R400, R402, R405). -/
def State.unitDone (s : State) (d u t : Nat) (r : UnitRun) : State :=
  if u < uEngine then (s.modBulk r.id fun b => { b with sent := true }).setUnit d u fun v => { v with run := some { r with n := r.total } }
  else (s.setUnit d u fun v => { v with run := none, free := t + 1 }).schedUnit d u

/-- A unit begins a run over its lists: the first granule moves in the cycle after its start. -/
def State.beginRun (s : State) (d u t : Nat) (r : UnitRun) : State :=
  if r.total = 0 then s.unitDone d u t r
  else (s.setUnit d u fun v => { v with run := some r }).post (8 + d) (t + 1) phRead u (.unitStep d u)

/-- Marks what is left of the entry at the front of a list bad (R276, R468). -/
def spoil (l : List Run) : List Run :=
  match l.find? (·.n != 0) with
  | none => l
  | some q => l.map fun r => if r.entry = q.entry then { r with bad := true } else r

/-- A source granule whose KD tag differs makes its entry bad, with reason PROTECTION (R468). -/
def State.checkTag (s : State) (d loc : Nat) (j : BmJob) (r : UnitRun) : UnitRun × State :=
  match takeGranule r.src with
  | some (some a, _) =>
    if j.ssp = 1 && (s.landedAt d a).any fun g => g.kd != j.kd then ({ r with src := spoil r.src }, s.skipLog r.ctx rProt loc)
    else (r, s)
  | _ => (r, s)

/-- Whether the next source granule of a run still has to land (R468). -/
def State.awaitsLanding (s : State) (d : Nat) (r : UnitRun) : Bool :=
  match r.cmd, takeGranule r.src with
  | .bmove j, some (some a, _) => j.ssp == 1 && (s.landedAt d a).isNone
  | _, _ => false

/-- A destination position of landing memory whose granule has not been collected and belongs to another key domain makes its entry bad, with
reason PROTECTION (R276, R414; log 86). -/
def State.checkPlace (s : State) (d loc : Nat) (j : BmJob) (r : UnitRun) : UnitRun × State :=
  match takeGranule r.dst with
  | some (some a, _) =>
    if j.dsp = 1 && (s.landedAt d a).any fun g => g.kd != j.kd then ({ r with dst := spoil r.dst }, s.skipLog r.ctx rProt loc)
    else (r, s)
  | _ => (r, s)

/-- A BMOVE moves a granule (R276, R402, R468): a bad source entry gives zeros, a bad destination entry writes nothing. -/
def State.moveGranule (s : State) (d u t : Nat) (j : BmJob) (r : UnitRun) : State :=
  let loc := locDie d 1 u
  let (r, s) := s.checkTag d loc j r
  let (r, s) := s.checkPlace d loc j r
  match takeGranule r.src, takeGranule r.dst with
  | some (sa, src), some (da, dst) =>
    let (b, s) := match sa with
      | some a => s.unitRead r.ctx d loc j.kd j.ssp a
      | none => (some (List.replicate 64 0), s)
    if (s.unit d u).run.isNone then s
    else
      let b := b.getD (List.replicate 64 0)
      let s := match da with
        | some a =>
          let s := (s.unitWrite r.ctx d loc j.kd j.dsp a b).bulkSent r.id 48 1
          let s := if j.dsp = 0 then s.farLands (8 + d) t (2 * r.id + 1) none false (2 ^ 62 + a) r.ctx else s
          { s with acks := s.acks ++ [Ack.bulk r.id 48 (if j.dsp = 0 then some a else none)] }
        | none => s
      let s := s.bulkData r.id r.n b
      if r.n + 1 < r.total then
        (s.setUnit d u fun v => { v with run := some { r with src, dst, n := r.n + 1 } }).post (8 + d) (t + 1) phRead u (.unitStep d u)
      else s.unitDone d u t r
  | _, _ => s.unitDone d u t r

/-- A FEED reads a granule, bytes lowest first (R405). -/
def State.feedGranule (s : State) (d u t : Nat) (j : MckJob) (r : UnitRun) : State :=
  match takeGranule r.src with
  | none => s.unitDone d u t r
  | some (sa, src) =>
    let (b, s) := match sa with
      | some a => s.bankGet a (locDie d 6 j.inst) r.ctx
      | none => (some (List.replicate 64 0), s)
    if (s.unit d u).run.isNone then s
    else
      let b := b.getD (List.replicate 64 0)
      let i := d * 4 + j.inst
      let s := { s with mck := vmod s.mck i fun k => b.foldl checkByte k }
      if r.n + 1 < r.total then
        (s.setUnit d u fun v => { v with run := some { r with src, n := r.n + 1 } }).post (8 + d) (t + 1) phRead u (.unitStep d u)
      else s.unitDone d u t r

/-- A unit takes its next step; a granule that has not landed is looked for again in the next cycle (R468). -/
def State.unitStep (s : State) (d u t : Nat) : State :=
  match (s.unit d u).run with
  | none => s
  | some r =>
    if s.awaitsLanding d r then s.post (8 + d) (t + 1) phRead u (.unitStep d u)
    else match r.cmd with
      | .bmove j => s.moveGranule d u t j r
      | .mck j => s.feedGranule d u t j r
      | _ => s

/-! ## Starts -/

/-- A BMOVE starts: its lists expand, and where their counts differ the smaller one is copied (R402). -/
def State.bmoveStart (s : State) (d u t : Nat) (x : Ctx) (j : BmJob) : State :=
  let loc := locDie d 1 u
  let whole := j.ssp == 2 || j.dsp == 2
  let (src, s) := s.unitList x loc j.slist j.snent j.kd j.ssp whole
  let (dst, s) := s.unitList x loc j.dlist j.dnent j.kd j.dsp whole
  let (a, b) := (runsLen src, runsLen dst)
  let s := if a = b then s else s.skipLog x rRange loc
  let (id, s) := s.openBulk (64 + d * 32 + u) x loc [] j.done 0 (min a b) false
  s.beginRun d u t { ctx := x, cmd := .bmove j, id, src, dst, n := 0, total := min a b }

/-- The granules of a list, in order; zeros for those of a bad entry. -/
def State.gather (s : State) (x : Ctx) (loc : Nat) : Nat → List Run → List Bytes × State
  | 0, _ => ([], s)
  | n + 1, l => match takeGranule l with
    | none => ([], s)
    | some (a, l) =>
      let (b, s) := match a with
        | some a => s.bankGet a loc x
        | none => (some (List.replicate 64 0), s)
      let (rest, s) := State.gather s x loc n l
      (b.getD (List.replicate 64 0) :: rest, s)

/-- Whether an engine may take a transfer: no link of a group that it serves is still loading that group's transfer, and for a group it has
no transfer of its own (R463). -/
def State.engineFree (s : State) (i : Nat) (group : Bool) : Bool :=
  (s.links.toList.all fun k => k.sending.all fun q => q.what.group == 0 || !q.links.contains i) && (!group || (s.link i).sending.isEmpty)

/-- An LSEND starts: every link of its group takes the transfer (R461, R463, R464). A count that OPEN cannot name sends nothing; a granule
that bank memory has lost aborts the routine, and nothing is sent (R445). -/
def State.lsendStart (s : State) (d u t : Nat) (x : Ctx) (j : LsJob) : State :=
  let l := d * 8 + (u - uEngine)
  let loc := locDie d 2 (l % 8)
  let ls := s.groupLinks l j.group
  let run := s.running
  let (runs, s) := s.unitList x loc j.list j.nent j.kd 0 false
  let count := runsLen runs
  let fits := count < 2 ^ 24
  let s := if fits then s else s.skipLog x rRange loc
  let count := if fits then count else 0
  let (gs, s) := s.gather x loc count runs
  if run && !s.running then s
  else
  let (bar, beat, _) := (s.domN (8 + d)).stamp t
  let firstBeat := beatGap s.rt.firstBar bar beat + 3
  let what : Xfr := { first := 0, count, group := j.group, stream := j.lstream, kd := j.kd, lidx := j.lidx }
  let (id, s) := s.openBulk (64 + d * 32 + u) x loc [] j.done (ls.length * ((count + 3) / 4)) count (count == 0)
  let s := (List.zip (List.range count) gs).foldl (fun (s : State) g => s.bulkData id g.1 g.2) s
  let s := if count = 0 then s else ls.foldl (fun (s : State) i =>
    s.modLink i fun k =>
      { k with sending := k.sending ++ [{ id, what, data := gs, firstBeat, next := 0, links := ls }] }) s
  (s.setUnit d u fun v => { v with free := t + 1 }).schedUnit d u

/-- An MCK starts (R405). -/
def State.mckStart (s : State) (d u t : Nat) (x : Ctx) (j : MckJob) : State :=
  let i := d * 4 + j.inst
  let loc := locDie d 6 j.inst
  let next := fun (s : State) => (s.setUnit d u fun v => { v with free := t + 1 }).schedUnit d u
  if j.op = 0 then
    next { s with mck := vmod s.mck i fun _ => { alg := BitVec.ofNat 2 j.alg, state := checkInit j.alg } }
  else if j.op = 1 then
    let (src, s) := s.unitList x loc j.addr j.nent j.kd 0 false
    s.beginRun d u t { ctx := x, cmd := .mck j, id := 0, src, dst := [], n := 0, total := runsLen src }
  else
    let v := if h : i < 8 then checkValue s.mck[i] else 0
    let run := s.running
    let s := s.bankPut j.addr loc x (leBytes 8 v.toNat)
    if run && !s.running then s
    else
    let (id, s) := s.openBulk (64 + d * 32 + u) x loc [] j.done 1 0 true
    let s := s.modBulk id fun b => { b with signs := false }
    let s := s.farLands (8 + d) t (2 * id + 1) none false (2 ^ 62 + j.addr / 64 * 64) x
    next { s with acks := s.acks ++ [Ack.bulk id 48 (some j.addr)] }

/-- Whether the head of a slot engine's queue may start (R463). -/
def State.engineReady (s : State) (d u : Nat) (j : LsJob) : Bool :=
  let l := d * 8 + (u - uEngine)
  (s.groupLinks l j.group).all fun i => s.engineFree i (j.group != 0)

/-- The head of a unit's queue reaches its start cycle (R400). -/
def State.unitStart (s : State) (d u t : Nat) : State :=
  let v := s.unit d u
  match v.q with
  | [] => s
  | (x, cmd) :: rest =>
    let pop := fun (s : State) => s.setUnit d u fun v => { v with q := rest }
    match cmd with
    | .bmove j => (pop s).bmoveStart d u t x j
    | .mck j => (pop s).mckStart d u t x j
    | .isu j => (pop s).isuStart x j
    | .lsend j =>
      if s.engineReady d u j then (pop s).lsendStart d u t x j
      else s.post (8 + d) (t + 1) phStart u (.unitStart d u)

/-- The command of the intake slot that runs is complete: the next one may start (R406, R509). -/
def State.isuComplete (s : State) : State :=
  if s.isu.busy.isNone then s
  else (s.isuDone.setUnit 0 uIntake fun v => { v with free := (s.domN 8).nt }).schedUnit 0 uIntake

/-- A bank mover whose BMOVE is complete takes the next command of its queue (R400, R402). -/
def State.moverDone (s : State) (b : Bulk) : State :=
  let d := (b.who - 64) / 32
  let u := (b.who - 64) % 32
  if b.who < 64 || uEngine ≤ u then s
  else (s.setUnit d u fun v => { v with run := none, free := (s.domN (8 + d)).nt }).schedUnit d u

/-- The `k`-th BULK command that is not complete completes, if all its writes are acknowledged (R320, R400). -/
def State.bulkCompletion (s : State) (k : Nat) : State :=
  match s.bulks[k]? with
  | some b => if b.sent && b.left = 0 then (s.completeBulk b).moverDone b else s
  | none => s

/-- The source granules that a die's bank movers read by a stamp and that have not landed (R50, R468). -/
def State.landingMissing (s : State) (d c : Nat) : List Nat :=
  (s.domN (8 + d)).evs.filterMap fun e => match e.k with
    | .unitStep _ u =>
      if e.t ≤ c then
        match (s.unit d u).run with
        | some r => if s.awaitsLanding d r then (takeGranule r.src).bind (·.1) else none
        | none => none
      else none
    | _ => none

end Sys2Proof.Machine
end

