-- ==== Sys2Proof/Machine/Events.lean ====
section
/-! DEFINITION. Step time: what an event does, the events of a domain up to its next step cycle, and the events that a row of the
command table names (logs 2, 4). -/

namespace Sys2Proof.Machine

/-- What an event does at its stamp. -/
def State.runEv (s : State) (d t : Nat) : EvK → State
  | .mxStart n => s.mxStart n t
  | .mxHdr n t0 xhdr whdr smax x => s.mxHdr n t t0 xhdr whdr smax x
  | .tileRead n buf r tile scl x => s.tileRead n t buf r tile scl x
  | .msRead n j v p word => s.msRead n t j v p word
  | .msLand n f => s.msLand n f
  | .drainRead n r => s.drainRead n t r
  | .deliver n q => s.deliver n t q
  | .group n g => s.groupOn n g
  | .vxRead n => s.vxRead n t
  | .figLand n id v => s.figLand n t id v
  | .bandOut n o => s.bandOut n t o
  | .figStart n => s.figStart n t
  | .figRead n id v part => s.figRead n t id v part
  | .ftRead n first left src x => s.ftRead n t first left src x
  | .ftSet n first data => s.ftSet n first data
  | .cntStart n => s.cntStart n t
  | .cntRead n k => s.cntRead n t k
  | .cntLand n j count left => s.cntLand n t j count left
  | .mvStart n m => s.mvStart n t m
  | .mvList n m k x c acc => s.mvList n t m k x c acc
  | .mvFloor n m => s.mvFloor n t m
  | .arrive n g word bulk => s.arrive n t g word bulk
  | .place n left id => s.place n t left id
  | .syStart w => s.syStart w t
  | .sig g => s.applySig d t g
  | .mcueClear num => s.clearMcue d num
  | .roundGen q => s.roundStep d t q
  | .putRead n src dst final id x => s.putRead n t src dst final id x
  | .putSend n dst data final id x => s.putSend n t dst data final id x
  | .hput n hq h x => s.hput n t hq h x
  | .land n l => s.landDirect n t l
  | .chRead n ch j => s.chRead n t ch j
  | .chPad n ch => s.chPad n t ch
  | .chSend n ch j => s.chSend n t ch j
  | .chLand n w => s.chLand n t w
  | .credit ch bytes => s.credit ch bytes
  | .ckStart n => s.ckStart n t
  | .ckRead n left src x => s.ckRead n t left src x
  | .ckLand n dst tkt data x => s.ckLand n t dst tkt data x
  | .amaxGot n q merge addr data x => s.amaxGot n t q merge addr data x
  | .store n addr data id x => s.store n t addr data id x
  | .scrubRead n => s.scrubRead n (some t)
  | .scrubWrite n => s.scrubWrite n (some t)
  | .rotPlace n id left => s.rotPlace n t id left
  | .unitStart e u => s.unitStart e u t
  | .unitStep e u => s.unitStep e u t

/-- An event takes place; one of a mover in step cycle 0 or 10 of a beat waits for the next cycle (R270). -/
def State.happen (s : State) (d : Nat) (e : Ev) : State :=
  if e.mover && !(s.domN d).moverAt e.t then s.post d (e.t + 1) e.ph e.rank e.k true else s.runEv d e.t e.k

/-- The next event of a domain that comes before a stamp and phase. -/
def Dom.due (x : Dom) (t ph : Nat) : Option Ev := x.evs.head?.filter fun e => decide (e.t < t) || (e.t == t && decide (e.ph < ph))

/-- The events of a domain that come before a stamp and phase take place in order, `fuel` of them at most. -/
def State.runTo (s : State) (d t ph : Nat) : Nat → State
  | 0 => s
  | fuel + 1 => match (s.domN d).due t ph with
    | none => s
    | some e => State.runTo ((s.modDom d fun x => { x with evs := x.evs.tail }).happen d e) d t ph fuel

/-- How many events one command lets take place at most. -/
def evFuel : Nat := 4194304

/-- The events of a domain before its next step cycle take place. -/
def State.flush (s : State) (d : Nat) : State := s.runTo d (s.domN d).nt 0 evFuel

/-- The events of a domain before its next step cycle take place up to the first one that `stop` names. -/
def State.runUntil (s : State) (d : Nat) (stop : EvK → Bool) : Nat → State
  | 0 => s
  | fuel + 1 => match (s.domN d).due (s.domN d).nt 0 with
    | none => s
    | some e =>
      let s := (s.modDom d fun x => { x with evs := x.evs.tail }).happen d e
      if stop e.k then s else State.runUntil s d stop fuel

/-- A due event that `like` names takes place, after those before it; without one the state is unchanged (log 2). An event that counts
mover cycles down goes on until `stop` names it. -/
def State.fire (s : State) (d : Nat) (like stop : EvK → Bool) : State :=
  if (s.domN d).evs.any fun e => decide (e.t < (s.domN d).nt) && like e.k then s.runUntil d stop evFuel else s

/-- The queues' heads that start in a step cycle leave their queues before the pushes of that cycle (R371). -/
def State.flushStarts (s : State) (d : Nat) : State := s.runTo d (s.domN d).nt 1 evFuel

end Sys2Proof.Machine
end

