-- ==== Sys2Proof/Machine/Slots.lean ====
section
/-! DEFINITION. The command slots: what each opcode of a slot does when its command is pushed, with its length and location, and the
commands of the table as single pushes (03_routine.md R82, R101, R107-R118; 12_commands.md R369, R400, R401, R407-R409; log 3). -/

namespace Sys2Proof.Machine

/-! ## Slots (R82, R369, R401) -/

/-- What a slot's opcode names: its LEN, the location of its unit, and its push. -/
structure SlotOp where
  len : Nat
  loc : Nat
  push : Ctx → Cw → State → State

/-- Opcodes of the MX, VX and MV slots of a cluster (R369). -/
def engineOp (s : State) (n cls op : Nat) : Option SlotOp :=
  if cls = 0 then
    let loc := s.locLc n 1 0
    match op with
    | 0x01 => some ⟨1, loc, fun x c s => s.pushTload n x c⟩
    | 0x02 => some ⟨2, loc, fun x c s => s.pushMstream n x c⟩
    | 0x03 => some ⟨1, loc, fun x c s => s.pushMdset n x c⟩
    | 0x04 => some ⟨0, loc, fun x c s => s.pushMdrain n x c⟩
    | _ => none
  else if cls = 1 then
    let loc := s.locLc n 2 0
    match op with
    | 0x01 => some ⟨2, loc, fun x c s => s.pushFigure n x c⟩
    | 0x02 => some ⟨0, loc, fun x c s => s.pushFtload n x c⟩
    | _ => none
  else
    let m := op / 16
    let loc := s.locLc n 4 m
    match op with
    | 0x01 | 0x11 => some ⟨2, loc, fun x c s => s.pushIn n m x c⟩
    | 0x02 | 0x12 => some ⟨2, loc, fun x c s => s.pushOut n m x c⟩
    | 0x03 | 0x13 => some ⟨2, loc, fun x c s => s.pushXfer n m x c⟩
    | 0x04 | 0x14 => some ⟨2, loc, fun x c s => s.pushRotate n m x c⟩
    | 0x20 => some ⟨2, s.locLc n 7 0, fun x c s => s.pushCount n x c⟩
    | _ => none

/-- Opcodes that a sequencer slot accepts as a caller does (R401). -/
def sharedOp (s : State) (w op : Nat) : Option SlotOp :=
  let own := s.locCaller w 0
  let sy := s.locCaller w 6
  match op with
  | 0x01 => some ⟨1, own, fun x c s => s.pushRset w x c⟩
  | 0x02 => some ⟨0, own, fun x c s => s.pushRcalc w x c⟩
  | 0x05 => some ⟨0, own, fun x c s => s.pushPbind w x c⟩
  | 0x06 => some ⟨1, own, fun x c s => s.pushWait w x c⟩
  | 0x0A => some ⟨1, own, fun x c s => s.pushVkey w x c⟩
  | 0x10 => some ⟨0, sy, fun x c s => s.pushCue w x c⟩
  | 0x12 => some ⟨0, sy, fun x c s => s.pushRound w x c⟩
  | _ => none

/-- Opcodes of the CL slot of a cluster (R369). -/
def callerOp (s : State) (n op : Nat) : Option SlotOp :=
  let own := s.locLc n 0 0
  let sy := s.locLc n 6 0
  let ck := s.locLc n 5 0
  match op with
  | 0x03 => some ⟨0, own, fun x c s => s.pushHtake n x c⟩
  | 0x04 => some ⟨0, own, fun x c s => s.pushChtake n x c⟩
  | 0x07 => some ⟨0, own, fun x c s => s.pushTicket n x c⟩
  | 0x08 => some ⟨1, own, fun x c s => s.pushStep n x c⟩
  | 0x09 => some ⟨0, own, fun x c s => s.pushAmax n x c⟩
  | 0x11 => some ⟨0, sy, fun x c s => s.pushTally n x c⟩
  | 0x13 => some ⟨0, sy, fun x c s => s.pushFence n x c⟩
  | 0x14 => some ⟨0, sy, fun x c s => s.pushChsend n x c⟩
  | 0x15 => some ⟨0, sy, fun x c s => s.pushChfree n x c⟩
  | 0x16 => some ⟨0, sy, fun x c s => s.pushHput n x c⟩
  | 0x17 => some ⟨1, sy, fun x c s => s.pushPut n x c⟩
  | 0x20 => some ⟨0, ck, fun x c s => s.pushCkinit n x c⟩
  | 0x21 => some ⟨1, ck, fun x c s => s.pushCkfeed n x c⟩
  | 0x22 => some ⟨0, ck, fun x c s => s.pushCkread n x c⟩
  | _ => sharedOp s n op

/-- Opcodes of the module-level slots (R82, R369, R406). -/
def moduleOp (s : State) (pbit op : Nat) : Option SlotOp :=
  if pbit < 194 then sharedOp s (48 + (pbit - 192)) op
  else if pbit = 194 then
    if 1 ≤ op && op ≤ 4 then some ⟨1, locIsu, fun x c s => s.pushIsu x op c⟩ else none
  else if op ≠ 1 then none
  else if pbit < 197 then some ⟨1, locDie (pbit - 195) 6 0, fun x c s => s.pushMck (pbit - 195) x c⟩
  else if pbit < 232 then
    let d := (pbit - 200) / 16
    let i := (pbit - 200) % 16
    some ⟨2, locDie d 1 i, fun x c s => s.pushBmove d i x c⟩
  else
    let l := pbit - 232
    some ⟨2, locDie (l / 8) 2 (l % 8), fun x c s => s.pushLsend l x c⟩

/-- The die of a module-level slot (R82, R99). -/
def slotDie (pbit : Nat) : Nat :=
  if pbit < 194 then pbit - 192 else if pbit = 194 then 0 else if pbit < 197 then pbit - 195
  else if pbit < 232 then (pbit - 200) / 16 else (pbit - 232) / 8

/-- The caller that a slot's commands reach: a cluster's, or a die's routine sequencer (R82). -/
def slotCaller (pbit : Nat) : Nat := if pbit < 192 then pbit / 4 else 48 + slotDie pbit

/-- What an opcode names in a slot. -/
def slotOp (s : State) (pbit op : Nat) : Option SlotOp :=
  if pbit < 192 then
    (if pbit % 4 = 3 then callerOp s (pbit / 4) op else engineOp s (pbit / 4) (pbit % 4) op)
  else moduleOp s pbit op

/-- The location that a skip with RESERVED_OPCODE names (R409). -/
def reservedLoc (s : State) (pbit : Nat) : Nat :=
  if pbit < 192 then
    (if pbit % 4 = 0 then s.locLc (pbit / 4) 1 0 else if pbit % 4 = 1 then s.locLc (pbit / 4) 2 0 else s.locLc (pbit / 4) 0 0)
  else locDie (slotDie pbit) 0 0

/-- The predicates of the commands whose push cycle a domain has reached are sampled, before anything of that cycle takes place (R109). -/
def State.sampleDue (s : State) (d c : Nat) : State :=
  let due := fun (h : Handed) => h.go.isNone && decide (h.ctx.t + 4 ≤ c)
  let s := ((s.domN d).handed.filter due).foldl (fun (s : State) h => s.samples (slotCaller h.ctx.pbit) h.cw.psel.toNat h.ctx) s
  let seen := fun (h : Handed) => if due h then { h with go := some (s.sample (slotCaller h.ctx.pbit) h.cw.psel.toNat) } else h
  s.modDom d fun x => { x with handed := x.handed.map seen }

/-- The push of a command (R101, R109, R110, R116, R117): nothing where its predicate is false; RESERVED_OPCODE and LENGTH come first. -/
def State.pushSlot (s : State) (h : Handed) : State :=
  if !(h.go.getD (s.sample (slotCaller h.ctx.pbit) h.cw.psel.toNat)) then s
  else match slotOp s h.ctx.pbit h.ctx.op with
    | none => s.skipLog h.ctx rOpcode (reservedLoc s h.ctx.pbit)
    | some o => if h.len ≠ o.len then s.skipLog h.ctx rLength o.loc else o.push h.ctx h.cw s

/-! ## The commands of the table, pushed one at a time (log 3) -/

/-- A command reaches its slot's caller in the next push cycle of its issue domain: the domain's events before that cycle have taken
place, and the command is pushed under its predicate. No slot reaches a logical cluster that the grade does not offer (R29, R114), and none acts
without input power (R612). -/
def State.command (s : State) (pbit op : Nat) (c : Cw) (push : Ctx → State → State) : State :=
  let w := slotCaller pbit
  if !s.pow.on || (w < 48 && s.lcMax ≤ w) then s
  else
    let d := s.domOf w
    let s := (s.flush d).flushStarts d
    let x := { s.ctxNow d pbit op with tail := c.tail }
    let s := s.samples w c.psel.toNat x
    if s.sample w c.psel.toNat then push x s else s

/-- The slot bit of the CL commands of a caller. -/
def siteBit : Site → Nat
  | .lc n => 4 * n.val + 3
  | .seq d => 192 + d.val

/-- The number of a caller: a cluster, or 48 and 49 for a sequencer. -/
def siteNum : Site → Nat
  | .lc n => n.val
  | .seq d => 48 + d.val

/-- The words of a command whose row fixes the field of word 0 that starts at bit `lo`. -/
def cwForm (c : Cw) (k lo : Nat) : Cw := { c with w0 := BitVec.ofNat 48 (k * 2 ^ lo + c.w0.toNat % 2 ^ lo) }

/-- The words of an MCK command whose row fixes OP. -/
def mckForm (c : Cw) (k : Nat) : Cw :=
  { c with w0 := BitVec.ofNat 48 (c.w0.toNat / 2 ^ 45 * 2 ^ 45 + k * 2 ^ 43 + c.w0.toNat % 2 ^ 43) }

/-- TLOAD (R126, R372). -/
def execTload (n : Fin 48) (c : Cw) (s : State) : Host.Outcome State Fault Refusal :=
  commit s (s.command (4 * n.val) 0x01 c fun x s => s.pushTload n x c)

/-- MSTREAM (R132, R373). -/
def execMstream (n : Fin 48) (c : Cw) (s : State) : Host.Outcome State Fault Refusal :=
  commit s (s.command (4 * n.val) 0x02 c fun x s => s.pushMstream n x c)

/-- MDSET (R137, R375). -/
def execMdset (n : Fin 48) (c : Cw) (s : State) : Host.Outcome State Fault Refusal :=
  commit s (s.command (4 * n.val) 0x03 c fun x s => s.pushMdset n x c)

/-- MDRAIN (R139, R377). -/
def execMdrain (n : Fin 48) (c : Cw) (s : State) : Host.Outcome State Fault Refusal :=
  commit s (s.command (4 * n.val) 0x04 c fun x s => s.pushMdrain n x c)

/-- FIGURE (R181, R378). -/
def execFigure (n : Fin 48) (c : Cw) (s : State) : Host.Outcome State Fault Refusal :=
  commit s (s.command (4 * n.val + 1) 0x01 c fun x s => s.pushFigure n x c)

/-- FTLOAD (R180, R382). -/
def execFtload (n : Fin 48) (c : Cw) (s : State) : Host.Outcome State Fault Refusal :=
  commit s (s.command (4 * n.val + 1) 0x02 c fun x s => s.pushFtload n x c)

/-- IN (R272, R383). -/
def execInCmd (n : Fin 48) (m : Fin 2) (c : Cw) (s : State) : Host.Outcome State Fault Refusal :=
  commit s (s.command (4 * n.val + 2) (0x01 + 16 * m.val) c fun x s => s.pushIn n m x c)

/-- OUT (R277, R383). -/
def execOutCmd (n : Fin 48) (m : Fin 2) (c : Cw) (s : State) : Host.Outcome State Fault Refusal :=
  commit s (s.command (4 * n.val + 2) (0x02 + 16 * m.val) c fun x s => s.pushOut n m x c)

/-- XFER (R281, R383). -/
def execXfer (n : Fin 48) (m : Fin 2) (c : Cw) (s : State) : Host.Outcome State Fault Refusal :=
  commit s (s.command (4 * n.val + 2) (0x03 + 16 * m.val) c fun x s => s.pushXfer n m x c)

/-- ROTATE (R293, R384). -/
def execRotate (n : Fin 48) (m : Fin 2) (c : Cw) (s : State) : Host.Outcome State Fault Refusal :=
  commit s (s.command (4 * n.val + 2) (0x04 + 16 * m.val) c fun x s => s.pushRotate n m x c)

/-- COUNT (R252, R385). -/
def execCount (n : Fin 48) (c : Cw) (s : State) : Host.Outcome State Fault Refusal :=
  commit s (s.command (4 * n.val + 2) 0x20 c fun x s => s.pushCount n x c)

/-- RSET (R386). -/
def execRset (w : Site) (c : Cw) (s : State) : Host.Outcome State Fault Refusal :=
  commit s (s.command (siteBit w) 0x01 c fun x s => s.pushRset (siteNum w) x c)

/-- RCALC (R386). -/
def execRcalc (w : Site) (c : Cw) (s : State) : Host.Outcome State Fault Refusal :=
  commit s (s.command (siteBit w) 0x02 c fun x s => s.pushRcalc (siteNum w) x c)

/-- HTAKE (R291, R387). -/
def execHtake (n : Fin 48) (c : Cw) (s : State) : Host.Outcome State Fault Refusal :=
  commit s (s.command (4 * n.val + 3) 0x03 c fun x s => s.pushHtake n x c)

/-- CHTAKE (R356, R387). -/
def execChtake (n : Fin 48) (c : Cw) (s : State) : Host.Outcome State Fault Refusal :=
  commit s (s.command (4 * n.val + 3) 0x04 c fun x s => s.pushChtake n x c)

/-- PBIND (R108, R388). -/
def execPbind (w : Site) (c : Cw) (s : State) : Host.Outcome State Fault Refusal :=
  commit s (s.command (siteBit w) 0x05 c fun x s => s.pushPbind (siteNum w) x c)

/-- A stream WAIT (R283, R389). FORM is the one that the row names. -/
def execWaitStream (n : Fin 48) (c : Cw) (s : State) : Host.Outcome State Fault Refusal :=
  commit s (s.command (4 * n.val + 3) 0x06 c fun x s => s.pushWait n x (cwForm c 0 45))

/-- A WAIT on a cue (R313, R389). FORM is the one that the row names. -/
def execWaitCue (n : Fin 48) (c : Cw) (s : State) : Host.Outcome State Fault Refusal :=
  commit s (s.command (4 * n.val + 3) 0x06 c fun x s => s.pushWait n x (cwForm c 1 45))

/-- A WAIT on a module cue (R313, R389, R401). FORM is the one that the row names. -/
def execWaitModuleCue (w : Site) (c : Cw) (s : State) : Host.Outcome State Fault Refusal :=
  commit s (s.command (siteBit w) 0x06 c fun x s => s.pushWait (siteNum w) x (cwForm c 2 45))

/-- A WAIT on a tally (R313, R389). FORM is the one that the row names. -/
def execWaitTally (n : Fin 48) (c : Cw) (s : State) : Host.Outcome State Fault Refusal :=
  commit s (s.command (4 * n.val + 3) 0x06 c fun x s => s.pushWait n x (cwForm c 3 45))

/-- A WAIT on a round (R313, R389, R401). FORM is the one that the row names. -/
def execWaitRound (w : Site) (c : Cw) (s : State) : Host.Outcome State Fault Refusal :=
  commit s (s.command (siteBit w) 0x06 c fun x s => s.pushWait (siteNum w) x (cwForm c 4 45))

/-- TICKET (R144, R390). -/
def execTicket (n : Fin 48) (c : Cw) (s : State) : Host.Outcome State Fault Refusal :=
  commit s (s.command (4 * n.val + 3) 0x07 c fun x s => s.pushTicket n x c)

/-- STEP (R227, R391). -/
def execStepCmd (n : Fin 48) (c : Cw) (s : State) : Host.Outcome State Fault Refusal :=
  commit s (s.command (4 * n.val + 3) 0x08 c fun x s => s.pushStep n x c)

/-- AMAX BIND (R229, R392). OP is the one that the row names. -/
def execAmaxBind (n : Fin 48) (c : Cw) (s : State) : Host.Outcome State Fault Refusal :=
  commit s (s.command (4 * n.val + 3) 0x09 c fun x s => s.pushAmax n x (cwForm c 0 45))

/-- AMAX UNBIND (R229, R392). OP is the one that the row names. -/
def execAmaxUnbind (n : Fin 48) (c : Cw) (s : State) : Host.Outcome State Fault Refusal :=
  commit s (s.command (4 * n.val + 3) 0x09 c fun x s => s.pushAmax n x (cwForm c 1 45))

/-- AMAX SAVE (R230, R392). OP is the one that the row names. -/
def execAmaxSave (n : Fin 48) (c : Cw) (s : State) : Host.Outcome State Fault Refusal :=
  commit s (s.command (4 * n.val + 3) 0x09 c fun x s => s.pushAmax n x (cwForm c 2 45))

/-- AMAX LOAD (R230, R392). OP is the one that the row names. -/
def execAmaxLoad (n : Fin 48) (c : Cw) (s : State) : Host.Outcome State Fault Refusal :=
  commit s (s.command (4 * n.val + 3) 0x09 c fun x s => s.pushAmax n x (cwForm c 3 45))

/-- AMAX MERGE (R230, R392). OP is the one that the row names. -/
def execAmaxMerge (n : Fin 48) (c : Cw) (s : State) : Host.Outcome State Fault Refusal :=
  commit s (s.command (4 * n.val + 3) 0x09 c fun x s => s.pushAmax n x (cwForm c 4 45))

/-- VKEY (R239, R393). -/
def execVkey (w : Site) (c : Cw) (s : State) : Host.Outcome State Fault Refusal :=
  commit s (s.command (siteBit w) 0x0A c fun x s => s.pushVkey (siteNum w) x c)

/-- CUE SET (R329, R394). OP is the one that the row names. -/
def execCueSet (w : Site) (c : Cw) (s : State) : Host.Outcome State Fault Refusal :=
  commit s (s.command (siteBit w) 0x10 c fun x s => s.pushCue (siteNum w) x (cwForm c 0 47))

/-- CUE CLEAR (R329, R394). OP is the one that the row names. -/
def execCueClear (w : Site) (c : Cw) (s : State) : Host.Outcome State Fault Refusal :=
  commit s (s.command (siteBit w) 0x10 c fun x s => s.pushCue (siteNum w) x (cwForm c 1 47))

/-- TALLY ADD (R332, R394). OP is the one that the row names. -/
def execTallyAdd (n : Fin 48) (c : Cw) (s : State) : Host.Outcome State Fault Refusal :=
  commit s (s.command (4 * n.val + 3) 0x11 c fun x s => s.pushTally n x (cwForm c 0 47))

/-- TALLY RESET (R332, R394). OP is the one that the row names. -/
def execTallyReset (n : Fin 48) (c : Cw) (s : State) : Host.Outcome State Fault Refusal :=
  commit s (s.command (4 * n.val + 3) 0x11 c fun x s => s.pushTally n x (cwForm c 1 47))

/-- ROUND BIND (R333, R395). OP is the one that the row names. -/
def execRoundBind (w : Site) (c : Cw) (s : State) : Host.Outcome State Fault Refusal :=
  commit s (s.command (siteBit w) 0x12 c fun x s => s.pushRound (siteNum w) x (cwForm c 0 46))

/-- ROUND UNBIND (R333, R395). OP is the one that the row names. -/
def execRoundUnbind (w : Site) (c : Cw) (s : State) : Host.Outcome State Fault Refusal :=
  commit s (s.command (siteBit w) 0x12 c fun x s => s.pushRound (siteNum w) x (cwForm c 1 46))

/-- ROUND ARRIVE (R334, R395). OP is the one that the row names. -/
def execRoundArrive (w : Site) (c : Cw) (s : State) : Host.Outcome State Fault Refusal :=
  commit s (s.command (siteBit w) 0x12 c fun x s => s.pushRound (siteNum w) x (cwForm c 2 46))

/-- FENCE (R323, R396). -/
def execFence (n : Fin 48) (c : Cw) (s : State) : Host.Outcome State Fault Refusal :=
  commit s (s.command (4 * n.val + 3) 0x13 c fun x s => s.pushFence n x c)

/-- CHSEND (R350, R397). -/
def execChsend (n : Fin 48) (c : Cw) (s : State) : Host.Outcome State Fault Refusal :=
  commit s (s.command (4 * n.val + 3) 0x14 c fun x s => s.pushChsend n x c)

/-- CHFREE (R357, R397). -/
def execChfree (n : Fin 48) (c : Cw) (s : State) : Host.Outcome State Fault Refusal :=
  commit s (s.command (4 * n.val + 3) 0x15 c fun x s => s.pushChfree n x c)

/-- HPUT (R290, R397). -/
def execHput (n : Fin 48) (c : Cw) (s : State) : Host.Outcome State Fault Refusal :=
  commit s (s.command (4 * n.val + 3) 0x16 c fun x s => s.pushHput n x c)

/-- PUT (R398). -/
def execPut (n : Fin 48) (c : Cw) (s : State) : Host.Outcome State Fault Refusal :=
  commit s (s.command (4 * n.val + 3) 0x17 c fun x s => s.pushPut n x c)

/-- CKINIT (R364, R399). -/
def execCkinit (n : Fin 48) (c : Cw) (s : State) : Host.Outcome State Fault Refusal :=
  commit s (s.command (4 * n.val + 3) 0x20 c fun x s => s.pushCkinit n x c)

/-- CKFEED (R364, R399). -/
def execCkfeed (n : Fin 48) (c : Cw) (s : State) : Host.Outcome State Fault Refusal :=
  commit s (s.command (4 * n.val + 3) 0x21 c fun x s => s.pushCkfeed n x c)

/-- CKREAD (R364, R399). -/
def execCkread (n : Fin 48) (c : Cw) (s : State) : Host.Outcome State Fault Refusal :=
  commit s (s.command (4 * n.val + 3) 0x22 c fun x s => s.pushCkread n x c)

/-- MCK INIT (R404, R405). OP is the one that the row names. -/
def execMckInit (d : Fin 2) (c : Cw) (s : State) : Host.Outcome State Fault Refusal :=
  commit s (s.command (195 + d.val) 0x01 c fun x s => s.pushMck d x (mckForm c 0))

/-- MCK FEED (R404, R405). OP is the one that the row names. -/
def execMckFeed (d : Fin 2) (c : Cw) (s : State) : Host.Outcome State Fault Refusal :=
  commit s (s.command (195 + d.val) 0x01 c fun x s => s.pushMck d x (mckForm c 1))

/-- MCK READ (R404, R405). OP is the one that the row names. -/
def execMckRead (d : Fin 2) (c : Cw) (s : State) : Host.Outcome State Fault Refusal :=
  commit s (s.command (195 + d.val) 0x01 c fun x s => s.pushMck d x (mckForm c 2))

/-- TAKE (R406, R487). -/
def execTake (c : Cw) (s : State) : Host.Outcome State Fault Refusal :=
  commit s (s.command (194) 0x01 c fun x s => s.pushIsu x 1 c)

/-- SLOT (R406, R494). -/
def execSlot (c : Cw) (s : State) : Host.Outcome State Fault Refusal :=
  commit s (s.command (194) 0x02 c fun x s => s.pushIsu x 2 c)

/-- EGRESS (R406, R504). -/
def execEgress (c : Cw) (s : State) : Host.Outcome State Fault Refusal :=
  commit s (s.command (194) 0x03 c fun x s => s.pushIsu x 3 c)

/-- PAGE (R406, R498). -/
def execPage (c : Cw) (s : State) : Host.Outcome State Fault Refusal :=
  commit s (s.command (194) 0x04 c fun x s => s.pushIsu x 4 c)

/-- BMOVE (R402). -/
def execBmove (d : Fin 2) (i : Fin 16) (c : Cw) (s : State) : Host.Outcome State Fault Refusal :=
  commit s (s.command (200 + 16 * d.val + i.val) 0x01 c fun x s => s.pushBmove d i x c)

/-- LSEND (R403, R461). -/
def execLsend (l : Fin 16) (c : Cw) (s : State) : Host.Outcome State Fault Refusal :=
  commit s (s.command (232 + l.val) 0x01 c fun x s => s.pushLsend l x c)

end Sys2Proof.Machine
end

