-- ==== Sys2Proof/Machine/EventRows.lean ====
section
/-! DEFINITION. The event rows of the command table in step time: engine events, landings, signals, waits, acknowledgements and their
deadlines. One that is not due changes nothing (log 2). -/

namespace Sys2Proof.Machine

/-- A due event of a cluster's domain that `like` names takes place. -/
def State.fireCl (s : State) (n : Nat) (like : EvK → Bool) : State :=
  if s.lcMax ≤ n then s else s.fire (s.regionOf n) like like

/-! ## Engines -/

/-- A TLOAD that has waited for its buffer or the tile port begins (R128). -/
def execTloadDelayedStart (n : Fin 48) (s : State) : Host.Outcome State Fault Refusal :=
  let m := (s.clus n).mx
  let delayed := match m.q with
    | (x, .tload b k q f c i) :: _ => decide (m.startAt x (.tload b k q f c i) < m.freeAt (.tload b k q f c i))
        || decide (m.startAt x (.tload b k q f c i) < (s.domN (s.regionOf n)).nt)
    | _ => false
  commit s (if delayed then s.fireCl n (· == .mxStart n) else s)

/-- A matrix command that is held for absent operands starts once they are at hand, also in a stop (R146, R149). -/
def execMatrixOperandsReady (n : Fin 48) (s : State) : Host.Outcome State Fault Refusal :=
  commit s (
    if !(s.clus n).mx.starved || s.lcMax ≤ n then s
    else if (s.domN (s.regionOf n)).stopped then s.startAhead n 8
    else s.fireCl n (· == .mxStart n))

/-- The array winds down by its idle count, or in a stop (R151, R152). -/
def execArrayWindDown (n : Fin 48) (s : State) : Host.Outcome State Fault Refusal :=
  commit s (if s.lcMax ≤ n then s else (s.flush (s.regionOf n)).windDown n)

/-- A position leaves the drain (R133, R138). -/
def execDrainDelivery (n : Fin 48) (s : State) : Host.Outcome State Fault Refusal :=
  commit s (s.fireCl n fun k => match k with
    | .deliver m _ => m == n.val
    | _ => false)

/-- A figure reaches its start cycle (R215). -/
def execFigureStart (n : Fin 48) (s : State) : Host.Outcome State Fault Refusal :=
  commit s (s.fireCl n (· == .figStart n))

/-- A vector of a figure, or a band, lands (R191, R194). -/
def execFigureLanding (n : Fin 48) (s : State) : Host.Outcome State Fault Refusal :=
  commit s (s.fireCl n fun k => match k with
    | .figLand m .. => m == n.val
    | .bandOut m _ => m == n.val
    | _ => false)

/-- The record of an AMAX LOAD or MERGE arrives (R230). -/
def execAmaxRecordArrival (n : Fin 48) (s : State) : Host.Outcome State Fault Refusal :=
  commit s (s.fireCl n fun k => match k with
    | .amaxGot m _ _ _ d _ => m == n.val && d.isSome
    | _ => false)

/-- The result word of a COUNT lands (R255, R256). -/
def execCountResult (n : Fin 48) (s : State) : Host.Outcome State Fault Refusal :=
  commit s (if s.lcMax ≤ n then s else s.fire (s.regionOf n)
    (fun k => match k with
      | .cntLand m .. => m == n.val
      | _ => false)
    (fun k => match k with
      | .cntLand m _ _ left => m == n.val && left == 0
      | _ => false))

/-- The scrubber writes its corrected words back, ten cycles after their read; in a held beat it does so past every other use
(R266). -/
def execScrubWriteBack (n : Fin 48) (s : State) : Host.Outcome State Fault Refusal :=
  commit s (
    if s.lcMax ≤ n then s
    else if s.beat.order = 0 then s.fireCl n (· == .scrubWrite n)
    else s.scrubWrite n none)

/-! ## Movers and bank reads -/

/-- A mover's request side issues its next granule request (R280). -/
def execGranuleRequest (n : Fin 48) (m : Fin 2) (s : State) : Host.Outcome State Fault Refusal :=
  commit s (s.granuleRequest n m)

/-- A granule reaches staging: of an XFER or ROTATE at its stamp, in a stop the next one on its way, or of the `k`-th request outstanding
(R63, R278, R281). -/
def execGranuleArrival (n : Fin 48) (inbound : Bool) (k : Nat) (s : State) : Host.Outcome State Fault Refusal :=
  let mine := fun e => match e with
    | EvK.arrive m .. => m == n.val
    | _ => false
  commit s (
    if !inbound then s.bankAnswer n k
    else if s.lcMax ≤ n then s
    else
      let d := s.regionOf n
      match (if (s.domN d).stopped then (s.domN d).evs.find? fun e => mine e.k else none) with
      | some e => (s.modDom d fun x => { x with evs := x.evs.erase e }).runEv d e.t e.k
      | none => s.fireCl n mine)

/-- The second read of a granule whose first read failed (R445). -/
def execBankReread (n : Fin 48) (k : Nat) (s : State) : Host.Outcome State Fault Refusal := commit s (s.bankAgain n k)

/-- A placement of a ROTATE lands (R293). -/
def execRotatePlace (n : Fin 48) (s : State) : Host.Outcome State Fault Refusal :=
  commit s (if s.lcMax ≤ n then s else s.fire (s.regionOf n)
    (fun k => match k with
      | .rotPlace m .. => m == n.val
      | _ => false)
    (fun k => match k with
      | .rotPlace m _ left => m == n.val && left == 0
      | _ => false))

/-- A BULK command whose writes are all acknowledged completes (R320). -/
def execBulkCompletion (k : Nat) (s : State) : Host.Outcome State Fault Refusal := commit s (s.bulkCompletion k)

/-! ## Signals, waits, acknowledgements -/

/-- A signal applies: a timed one at its stamp, an untimed one on arrival (R308, R310). -/
def execSignalApply (w : SignalSel) (s : State) : Host.Outcome State Fault Refusal :=
  commit s (match w with
    | .timed d =>
      let sig := fun k => match k with
        | EvK.sig _ => true
        | _ => false
      s.fire d sig sig
    | .untimed k => s.untimedArrive k)

/-- The stream waits of a cluster at their release are released, once their granules are in staging (R284). -/
def execWaitRelease (n : Fin 48) (s : State) : Host.Outcome State Fault Refusal :=
  commit s (
    if s.lcMax ≤ n then s
    else
      let d := s.regionOf n
      let s := s.flush d
      (s.sampleDue d (s.domN d).nt).completeSome (·.isStream) [n.val] (s.domN d).nt)

/-- Acquires of a caller at their release complete, once their conditions hold (R314, R315). -/
def execWaitComplete (w : Site) (s : State) : Host.Outcome State Fault Refusal :=
  commit s (
    let d := s.domOf (siteNum w)
    let s := s.flush d
    (s.sampleDue d (s.domN d).nt).completeWaits [siteNum w] (s.domN d).nt)

/-- Waits, fences and rotations of a domain that have stalled for their DEADLINE raise hold (R285, R294, R314, R318, R323). -/
def execWaitDeadline (d : Fin 10) (s : State) : Host.Outcome State Fault Refusal := commit s (s.expire d)

/-- A hold with CAUSE WAIT has lasted 4,096 beat boundaries (R286). -/
def execWaitHoldTimeout (d : Fin 10) (s : State) : Host.Outcome State Fault Refusal := commit s (s.waitTimeouts d)

/-- A FENCE completes at its release once every covered write is acknowledged (R323). -/
def execFenceComplete (n : Fin 48) (s : State) : Host.Outcome State Fault Refusal :=
  commit s (if s.lcMax ≤ n then s else
    let d := s.regionOf n
    let s := s.flush d
    s.completeFence n (s.domN d).nt)

/-- An acknowledgement reaches its sender (R321). -/
def execWriteAck (k : Nat) (s : State) : Host.Outcome State Fault Refusal := commit s (s.writeAck k)

/-- A DIRECT write lands in a floor (R249, R325). -/
def execRemoteWriteLand (n : Fin 48) (s : State) : Host.Outcome State Fault Refusal :=
  commit s (s.fireCl n fun k => match k with
    | .land m _ => m == n.val
    | _ => false)

/-- A FINAL write that its slot still holds at the 4,096th beat boundary: a unit fault (R326). -/
def execFinalHoldTimeout (n : Fin 48) (tid : Fin 64) (s : State) : Host.Outcome State Fault Refusal :=
  commit s (s.finalTimeout n tid)

/-- Granules on their way go on into staging while their region stands at a step cycle: those due by then, and one stamp more for every
stalled cycle (R63, R278, R281; log 83). -/
def State.arrivals (s : State) (d : Nat) : State :=
  let x := s.domN d
  let due := x.evs.filter fun e => decide (e.t ≤ x.nt + x.waited) && match e.k with
    | .arrive .. => true
    | _ => false
  let s := s.modDom d fun x => { x with evs := x.evs.filter fun e => !due.contains e }
  due.foldl (fun (s : State) e => s.runEv d e.t e.k) s

/-- A stalled cycle of a domain: it consumes a cycle of the beat, the signals of the step cycle that the domain has reached apply, and the
arrays go on (R50, R148, R308, R335). -/
def State.stallCycle (s : State) (d : Nat) : State :=
  let s := s.modDom d fun x => { x with left := x.left - 1, stalls := x.stalls + 1, waited := x.waited + 1 }
  let x := s.domN d
  let s := s.signals d x.nt (x.nt + x.waited)
  if d < 8 then (s.ofRegion d).foldl (fun (s : State) n => s.arrayOn n (some (x.nt + x.waited)) 4096) s else s

/-- Whether an event brings data over a clock boundary (R30). -/
def EvK.crosses (s : State) (d : Nat) : EvK → Bool
  | .land _ l => s.regionOf l.origin != d
  | .chLand _ w => ((s.route w.ch).map fun r => s.regionOf r.src != d).getD false
  | .arrive _ _ _ id => (s.bulks.find? (·.id == id)).any fun b => b.who < 48 && s.regionOf b.who != d
  | .credit ch _ => (s.route ch).any fun r => s.regionOf r.dst != d
  | _ => false

/-- The last granule of a record lands: it is checked, and a MESSAGE enters its descriptor (R354, R355). -/
def execRecordLanded (n : Fin 48) (s : State) : Host.Outcome State Fault Refusal :=
  commit s (s.fireCl n fun k => match k with
    | .chLand m w => m == n.val && w.last
    | _ => false)

/-- A credit word applies at the sender (R357). -/
def execCreditApply (n : Fin 48) (s : State) : Host.Outcome State Fault Refusal :=
  commit s (s.fireCl n fun k => match k with
    | .credit ch _ => (s.route ch).any (·.src == n.val)
    | _ => false)

/-- The command of the intake slot that runs is complete (R406). -/
def execIsuComplete (s : State) : Host.Outcome State Fault Refusal := commit s s.isuComplete

/-! ## Partner links -/

/-- A DATA flit (R465). -/
def execFlitData (l : Fin 16) (head : BitVec 48) (body : Bytes) (fec : Fec) (s : State) : Host.Outcome State Fault Refusal :=
  commit s (s.flitData l head body fec)

/-- A REPLAY flit (R465). -/
def execFlitReplay (l : Fin 16) (head : BitVec 48) (body : Bytes) (fec : Fec) (s : State) : Host.Outcome State Fault Refusal :=
  commit s (s.flitReplay l head body fec)

/-- An IDLE flit (R457, R471). -/
def execFlitIdle (l : Fin 16) (head : BitVec 48) (body : Bytes) (fec : Fec) (s : State) : Host.Outcome State Fault Refusal :=
  commit s (s.flitIdle l head body fec)

/-- A beat block (R459, R460). -/
def execBeatBlock (l : Fin 16) (block : Bytes) (fecs : Fec × Fec) (s : State) : Host.Outcome State Fault Refusal :=
  commit s (s.beatBlock l block fecs.1 fecs.2)

/-- The oldest pending tag is checked (R472). -/
def execTagCheck (l : Fin 16) (s : State) : Host.Outcome State Fault Refusal := commit s (s.tagCheck l)

/-- A link loses lane lock (R475). -/
def execLaneLockLoss (l : Fin 16 × Bool) (s : State) : Host.Outcome State Fault Refusal := commit s (s.lockLost l.1 l.2)

/-- The 64th uncorrectable codeword of a beat (R475). -/
def execCodewordErrorLimit (l : Fin 16) (s : State) : Host.Outcome State Fault Refusal :=
  commit s (if 63 ≤ (s.link l).badCw && (s.link l).st == .up then s.badCodeword l else s)

/-- A link has been out of service for 4,096 beat boundaries (R475). -/
def execLinkRetrainTimeout (l : Fin 16) (s : State) : Host.Outcome State Fault Refusal := commit s (s.retrainTimeout l)

/-- A training link reaches lane lock (R452, R623). -/
def execLinkLaneLock (l : Fin 16) (latencyNs : Nat) (s : State) : Host.Outcome State Fault Refusal := commit s (s.laneLock l latencyNs)

/-- The neighbour check and the key exchange of a link complete (R458, R476, R623). -/
def execLinkKeyed (l : Fin 16) (neighbour : BitVec 10) (s : State) : Host.Outcome State Fault Refusal := commit s (s.keyed l neighbour)

end Sys2Proof.Machine
end

