-- ==== Sys2Proof/Machine/Routine.lean ====
section
/-! DEFINITION. The step stream: records, repeat blocks, segments, tail merge, issue cycles with stalls and stops, and the beginning and
the end of an invocation (03_routine.md; 02_beats_and_bars.md R49-R53, R61-R63, R69). -/

namespace Sys2Proof.Machine

/-! ## Records (R79-R89) -/

/-- A word of routine space. -/
def State.rtWord (s : State) (i : Nat) : Nat := ((s.rt.words[i]?).getD 0).toNat

/-- The record kind at a place: 1 STEP, 2 REST, 3 BEAT, 4 OPEN, 5 CLOSE; a place inside a rest reads REST (R79). -/
def State.kindAt (s : State) (c : Cursor) : Nat := if c.rest = 0 then bits (s.rtWord c.pc) 63 60 else 2

/-- The command words of the present slots, from a word on: slot, LEN, OPCODE, words (R81, R82). -/
def State.slotsFrom (s : State) (pos : Nat) : List Nat → List (Nat × Nat × Nat × Cw)
  | [] => []
  | b :: l =>
    let w := s.rtWord pos
    let len := bits w 63 62
    let n := if len = 0 then 1 else if len = 1 then 2 else 4
    let at_ := fun i => if i < n then BitVec.ofNat 64 (s.rtWord (pos + i)) else 0
    (b, len, bits w 55 48, { tail := bit w 61, psel := BitVec.ofNat 4 (bits w 59 56), w0 := BitVec.ofNat 48 w, w1 := at_ 1, w2 := at_ 2
                             w3 := at_ 3 }) :: State.slotsFrom s (pos + n) l

/-- One cycle of a section: the slots that are present, and the place after it (R79-R84). A place at any other record waits there. -/
def State.tick (s : State) (c : Cursor) : List (Nat × Nat × Nat × Cw) × Cursor :=
  if s.kindAt c = 1 then
    let h := s.rtWord c.pc
    let same := bit h 59
    let map : BitVec 256 := if same then c.map else
      BitVec.ofNat 256 (s.rtWord (c.pc + 1) + 2 ^ 64 * s.rtWord (c.pc + 2) + 2 ^ 128 * s.rtWord (c.pc + 3) + 2 ^ 192 * s.rtWord (c.pc + 4))
    let present := (List.range 256).filter fun i => map.getLsbD i
    (s.slotsFrom (c.pc + (if same then 1 else 5)) present, { c with pc := c.pc + 1 + bits h 47 32, map })
  else if s.kindAt c = 2 then
    let n := if c.rest = 0 then bits (s.rtWord c.pc) 15 0 else c.rest
    ([], if n ≤ 1 then { c with pc := c.pc + 1, rest := 0 } else { c with rest := n - 1 })
  else ([], c)

/-- A place after an OPEN record (R87). -/
def State.openAt (s : State) (c : Cursor) : Cursor :=
  let w := s.rtWord c.pc
  { c with pc := c.pc + 1, reps := { idx := bits w 59 58, start := c.pc + 1, left := bits w 15 0, j := 0 } :: c.reps }

/-- A place after a CLOSE record: the body again, or what follows it (R87). -/
def Cursor.close (c : Cursor) : Cursor :=
  match c.reps with
  | [] => { c with pc := c.pc + 1 }
  | r :: l =>
    if r.left = 0 then { c with pc := c.pc + 1, reps := l }
    else { c with pc := r.start, reps := { r with left := r.left - 1, j := r.j + 1 } :: l }

/-- The index registers at a place (R87). -/
def Cursor.idx (c : Cursor) : List Nat := [0, 1, 2, 3].map fun i => ((c.reps.find? (·.idx == i)).map (·.j)).getD 0

/-! ## Segments and runs (R90-R95, R655) -/

/-- The segment-table entry with a number. -/
def State.segN (s : State) (n : Nat) : Seg := (s.rt.hdr.segs[n]?).getD { body := 0, tail := 0, bars := 1, runs := 1 }

/-- RUN of a run of a segment, counted across loops (R118). -/
def State.runOf (s : State) (seg segRun loops : Nat) : Nat :=
  if s.rt.hdr.loopFrom ≤ seg then loops * (s.segN seg).runs + segRun else segRun

/-- The run that R91 runs next: segment, run within it, times the loop was taken. -/
def State.nextRun (s : State) (seg segRun loops : Nat) : Option (Nat × Nat × Nat) :=
  let h := s.rt.hdr
  if segRun + 1 < (s.segN seg).runs then some (seg, segRun + 1, loops)
  else if seg + 1 < h.segs.length then some (seg + 1, 0, loops)
  else if h.loopCount = 0xFFFFFFFF || loops < h.loopCount then some (h.loopFrom, 0, loops + 1)
  else none

/-- The run that holds a working beat counted from the start of a run: the runs before it, and their beats, pass one after another (R91, R95). -/
def State.runOver (s : State) (seg segRun loops no g : Nat) : Nat → Nat
  | 0 => no
  | fuel + 1 =>
    let k := 64 * (s.segN seg).bars
    if g < k then no
    else match s.nextRun seg segRun loops with
      | some (a, b, c) => State.runOver s a b c (no + 1) (g - k) fuel
      | none => no

/-- The segment, the run within it and the times that the loop was taken at which an invocation begins (R91, R655). -/
def State.armedPlace (s : State) : Nat × Nat × Nat :=
  let g := s.rt.armedSeg
  let r := s.rt.armedRun
  let k := (s.segN g).runs
  let loops := if s.rt.hdr.loopFrom ≤ g then r / k else 0
  (g, r - loops * k, loops)

/-- The number, from the start of the invocation, of the run whose body a working beat expands; a merged beat belongs to the following run (R92,
R95). -/
def State.runOfBeat (s : State) (bar beat : Nat) : Nat :=
  let (g, r, l) := s.armedPlace
  let n := beatGap s.rt.firstBar bar beat
  s.runOver g r l 0 n (n / 64 + 1)

/-- A place at the start of a section. -/
def startAt (off : Nat) : Cursor := { pc := off / 8 }

/-! ## The routine buffer (R96-R98) -/

/-- The places that a domain's open beat issues from. -/
def Dom.active (x : Dom) : List Cursor := x.head.toList ++ x.tailc.toList

/-- Words that an image holds at most (R73). -/
def imageWords : Nat := 2 ^ 29

/-- The records of a beat, each once however often a block within the beat repeats it: the places, the TAIL bits of the commands, and the
place after the beat (R90, R98). -/
def State.walkBeat (s : State) (c : Cursor) (recs : List Nat) (tails : List Bool) : Nat → List Nat × List Bool × Cursor
  | 0 => (recs, tails, c)
  | fuel + 1 =>
    let recs := if recs.contains c.pc then recs else recs ++ [c.pc]
    match s.kindAt c with
    | 1 => let (l, c') := s.tick c; State.walkBeat s c' recs (tails ++ l.map fun q => q.2.2.2.tail) fuel
    | 2 => State.walkBeat s { c with pc := c.pc + 1 } recs tails fuel
    | 3 => (recs, tails, { c with pc := c.pc + 1 })
    | 4 =>
      let inBeat := bits (s.rtWord c.pc) 57 57 = 0
      let c' := s.openAt c
      State.walkBeat s (if inBeat then { c' with reps := c'.reps.map fun r => if r.start = c.pc + 1 then { r with left := 0 } else r } else c')
        recs tails fuel
    | 5 => State.walkBeat s c.close recs tails fuel
    | _ => (recs, tails, c)

/-- Words of a record. -/
def State.recWords (s : State) (p : Nat) : Nat :=
  if bits (s.rtWord p) 63 60 = 1 then 1 + bits (s.rtWord p) 47 32 else 1

/-- The granules of routine space that words take, from a word on. -/
def routineGranules (p n : Nat) : List Nat := (List.range ((p + n - 1) / 8 - p / 8 + 1)).map (p / 8 + ·)

/-- The granules of the records that a domain's next beat holds (R97, R98). -/
def State.beatGranules (s : State) (d : Nat) : List Nat :=
  ascending ((s.domN d).active.flatMap fun c => (s.walkBeat c [] [] imageWords).1.flatMap fun p => routineGranules p (s.recWords p))

/-- Whether a granule belongs to a repeat body that a domain has open (R97). -/
def State.inBody (s : State) (d g : Nat) : Bool :=
  (s.domN d).active.any fun c => c.reps.any fun r => (routineGranules r.start (bits (s.rtWord (r.start - 1)) 39 16)).contains g

/-- A die's sequencer fetches the records of its next beat that its buffer does not hold, over the routine-fetch share of its own
subchannels. It keeps the bodies of open repeat blocks. A granule that two reads do not decode is a module fault (R96, R97, R445). -/
def State.fetchBeat (s : State) (e : Nat) : State :=
  let held := (s.domN (8 + e)).buffer
  let need := s.beatGranules (8 + e)
  let kept := held.filter fun g => need.contains g || s.inBody (8 + e) g
  let s := (need.filter fun g => !held.contains g).foldl (fun (s : State) g =>
    (s.bankGet (routineAddr e (64 * g)) (locDie e 0 0) (s.ctxNow (8 + e) 0 0)).2) s
  s.modDom (8 + e) fun x => { x with buffer := need ++ kept.filter fun g => !need.contains g }

/-- A domain's run ends (R91, R92, R94, R95): the next run with the tail to merge, or the last tail. -/
def State.endRun (s : State) (d : Nat) : State :=
  let x := s.domN d
  let w := s.rt.hdr.overlap
  let tail := if w = 0 then none else some (startAt (s.segN x.seg).tail)
  let stop := s.rt.stopping && s.rt.stopAt ≤ x.runNo
  let next := s.nextRun x.seg x.segRun x.loops
  let s := s.modDom d fun x => { x with tailc := tail, tseg := x.seg, trun := x.run, runNo := x.runNo + 1 }
  match (if stop then none else next) with
  | some (g, r, l) =>
    s.modDom d fun x => { x with head := some (startAt (s.segN g).body), seg := g, segRun := r, loops := l, run := s.runOf g r l }
  | none =>
    let at_ := match next with
      | some (g, r, l) => if stop then (g, s.runOf g r l) else (0, 0)
      | none => (0, 0)
    { s.modDom d fun x => { x with head := none, last := w == 0 } with rt := { s.rt with resumeAt := at_ } }

/-- Whether every place of the open beat stands at its BEAT record, and no full replay buffer holds the data slots of the beat back (R86, R299). -/
def State.atBeat (s : State) (d : Nat) : Bool :=
  let x := s.domN d
  x.words && !x.last && (x.active.all fun c => s.kindAt c == 3) && !(8 ≤ d && s.replayFull (d - 8) dataSlots)

/-- The last step of the routine has issued in a domain: in the tail's further bar, or in the last bar itself (R94). -/
def State.noteLast (s : State) (d : Nat) : State :=
  let bar := (s.domN d).bar
  { s with rt := { s.rt with lastBar := some (s.rt.lastBar.getD (if s.rt.hdr.overlap = 0 then bar else (bar + (2 ^ 40 - 1)) % 2 ^ 40)) } }

/-- The step words of a domain's beat end, and its places stand at the next beat (R84, R86, R91). -/
def State.passBeat (s : State) (d : Nat) : State :=
  let w := s.rt.hdr.overlap
  let past := fun (c : Cursor) => { c with pc := c.pc + 1, beats := c.beats + 1 }
  let s := s.modDom d fun x =>
    let t := x.tailc.map past
    let done := t.any fun c => w ≤ c.beats
    { x with words := false, head := x.head.map past, tailc := if done then none else t
             last := x.last || (done && x.head.isNone) }
  let s := if (s.domN d).last then s.noteLast d else s
  match (s.domN d).head with
  | some c =>
    if c.beats = 64 * (s.segN (s.domN d).seg).bars then
      let s := s.endRun d
      if (s.domN d).last then s.noteLast d else s
    else s
  | none => s

/-- The step words of a domain's beat end; the links of a die load the data slots that are left, and its sequencer fetches the records of the
next beat (R86, R96, R461; log 88). -/
def State.endWords (s : State) (d : Nat) : State :=
  let s := if 8 ≤ d then s.loadLinks (d - 8) dataSlots else s
  let s := s.passBeat d
  if 8 ≤ d then s.fetchBeat (d - 8) else s

/-- Where a late or stopped die clock has not come to the end of its beat when the next one opens, its sequencer fetches the records of that one all
the same, beside those that it still issues (R97). -/
def State.fetchAhead (s : State) (e : Nat) : State :=
  let d := 8 + e
  let x := s.domN d
  if !s.running || !x.words || x.last then s
  else
    let past := fun (c : Cursor) => let c' := (s.walkBeat c [] [] imageWords).2.2; { c' with pc := c'.pc - 1 }
    let need := ((s.modDom d fun x => { x with head := x.head.map past, tailc := x.tailc.map past }).passBeat d).beatGranules d
    let new := need.filter fun g => !x.buffer.contains g
    let s := new.foldl (fun (s : State) g => (s.bankGet (routineAddr e (64 * g)) (locDie e 0 0) (s.ctxNow d 0 0)).2) s
    s.modDom d fun x => { x with buffer := x.buffer ++ new }

/-! ## Stops (R61-R63, R69) -/

/-- Every region has stopped: causes LATE have cleared, and the earliest beat stands for the report (R46). -/
def State.noteFrozen (s : State) : State :=
  if s.frozen then { s with beat := { s.beat with live := s.beat.live.filter (·.cause != 1) } } else s

/-- Puts the pushes of a cycle in the order of their slots, a sequencer's own slot last (R104). -/
def pushOrder (h : Handed) : Nat := if h.ctx.pbit = 192 || h.ctx.pbit = 193 then 256 else h.ctx.pbit

/-- Puts a command in that order. -/
def insertHanded (h : Handed) : List Handed → List Handed
  | [] => [h]
  | x :: l => if pushOrder h < pushOrder x then h :: x :: l else x :: insertHanded h l

/-- Whether what an event does can bear on the push of a command: its predicate, its operands, its checks, the room in its queue. -/
def EvK.bearsOnPush : EvK → Bool
  | .mxHdr .. => false | .tileRead .. => false | .msRead .. => false | .msLand .. => false | .drainRead .. => false
  | .group .. => false | .vxRead .. => false | .figRead .. => false | .ftRead .. => false | .ftSet .. => false
  | .cntRead .. => false | .mvFloor .. => false | .arrive .. => false | .putRead .. => false | .chRead .. => false
  | .ckRead .. => false | .scrubRead .. => false | .scrubWrite .. => false
  | _ => true

/-- Whether nothing is left in a domain that step time would bring before the push cycle of a command of a caller and that could bear on it. -/
def State.settledBefore (s : State) (d w q : Nat) : Bool :=
  !((s.domN d).evs.any fun e => (decide (e.t < q) || (e.t == q && e.ph == 0)) && e.k.bearsOnPush && e.k.engineOf.all (· == w))
  && (s.caller w).waits.all (fun y => decide (q ≤ y.r)) && (s.caller w).fence.all fun f => decide (q ≤ f.r)

/-- After a stop the commands issued before it are pushed at their fixed offset, in order, but for those of callers in `kept`: a command whose push
step time still has something to bring before, and its caller's commands behind it, follow at resume (R9, R102, R113; log 58). -/
def State.pushAfter (s : State) (d : Nat) (kept : List Nat) : List Handed → State
  | [] => s
  | h :: l =>
    let w := slotCaller h.ctx.pbit
    if !kept.contains w && s.settledBefore d w (h.ctx.t + 4) then
      let s := if h.go.isNone then s.samples w h.cw.psel.toNat h.ctx else s
      State.pushAfter ((s.modDom d fun x => { x with handed := x.handed.erase h }).pushSlot h) d kept l
    else State.pushAfter s d (w :: kept) l

/-- Commands handed to callers in the order of their pushes (R101, R104). -/
def inPushOrder (l : List Handed) : List Handed :=
  (ascending (l.map (·.ctx.t))).flatMap fun t => (l.filter (·.ctx.t == t)).foldl (fun l h => insertHanded h l) []

/-- A domain stops: what it has issued is pushed, and its arrays carry on what R63 and R149 permit (R61, R102, R335). -/
def State.stopDom (s : State) (d : Nat) : State :=
  if (s.domN d).stopped then s
  else
    let s := s.flush d
    let s := s.modDom d fun x => { x with stopped := true, stopPend := false, waited := 0 }
    let nt := (s.domN d).nt
    let s := (if nt = 0 then s else s.signals d (nt - 1) (nt + 256)).pushAfter d [] (inPushOrder (s.domN d).handed)
    (if d < 8 then (s.ofRegion d).foldl (fun (s : State) n => s.startAhead n 8) s else s).noteFrozen

/-! ## Issue (R49, R50, R99-R102) -/

/-- Whether a slot belongs to a domain (R99, R100). -/
def State.ownSlot (s : State) (d pbit : Nat) : Bool :=
  if pbit < 192 then pbit / 4 < s.lcMax && s.regionOf (pbit / 4) == d else 8 + slotDie pbit == d

/-- Whether a domain may issue a step cycle now. -/
def State.mayIssue (s : State) (d : Nat) : Bool :=
  let x := s.domN d
  s.running && s.beat.locked && s.beat.order == 0 && x.words && !x.stopped && x.left != 0

/-- A ROTATE placement that is due and lacks its granules (R293). -/
def State.rotBlocked (s : State) (d c : Nat) : List (Nat × Nat) :=
  (s.domN d).evs.filterMap fun e => match e.k with
    | .rotPlace n id 0 =>
      if e.t ≤ c && (s.domN d).moverAt c && ((s.clus n).rotating.find? (·.id == id)).any fun q => !(s.clus n).rotReady q then some (n, id)
      else none
    | _ => none

/-- A placement of a released WAIT that is due and lacks its granules (R285, R288). -/
def State.placeBlocked (s : State) (d c : Nat) : List (Nat × Nat) :=
  (s.domN d).evs.filterMap fun e => match e.k with
    | .place n 0 id =>
      if e.t ≤ c && (s.domN d).moverAt c && ((s.clus n).placing.find? (·.id == id)).any fun p => !(s.clus n).placeReady p then some (n, id)
      else none
    | _ => none

/-- The fences of a domain's callers that have passed their release (R323). -/
def State.fenceBlocked (s : State) (d c : Nat) : List Nat :=
  (s.callersOf d).filter fun w => ((s.caller w).fence.map fun f => decide (f.r ≤ c)).getD false

/-- Acquires and fences of a domain complete at a cycle, where they can (R284, R314, R323). -/
def State.release (s : State) (d c : Nat) : State :=
  let s := s.completeWaits (s.callersOf d) c
  (s.callersOf d).foldl (fun (s : State) w => s.completeFence w c) s

/-- A stalled cycle counts for every wait, FENCE, ROTATE and placement that causes it (R285, R294, R323). -/
def State.countStalls (s : State) (d c : Nat) : State :=
  let rot := s.rotBlocked d c
  let plc := s.placeBlocked d c
  let fen := s.fenceBlocked d c
  let s := (s.callersOf d).foldl (fun (s : State) w =>
    let s := s.modCaller w fun k =>
      { k with waits := k.waits.map fun q => if q.r ≤ c then { q with stalls := q.stalls + 1 } else q
               fence := k.fence.map fun f => if fen.contains w then { f with stalls := f.stalls + 1 } else f }
    if w < 48 then s.modCl w fun k =>
      { k with rotating := k.rotating.map fun q => if rot.contains (w, q.id) then { q with stalls := q.stalls + 1 } else q
               placing := k.placing.map fun q => if plc.contains (w, q.id) then { q with stalls := q.stalls + 1 } else q }
    else s) s
  s.stallCycle d

/-- The commands of a section's cycle, as handed to their callers (R101). -/
def handedOf (x : Ctx) (c : Cursor) (seg run : Nat) (l : List (Nat × Nat × Nat × Cw)) : List Handed :=
  l.map fun q => { ctx := { x with step := c.pc, seg, run, idx := c.idx, pbit := q.1, op := q.2.2.1, tail := q.2.2.2.tail }
                   len := q.2.1, cw := q.2.2.2 }

/-- Clusters to which MDRAINs are handed over, or whose MDRAINs have met their push, name their deliveries afresh (R194; log 99). -/
def State.foreseeDrains (s : State) (l : List Handed) : State :=
  (l.filter fun h => h.ctx.pbit < 192 && h.ctx.pbit % 4 == 0 && h.ctx.op == 4).foldl (fun (s : State) h => s.foreseeMx (h.ctx.pbit / 4)) s

/-- The commands of a cycle are handed to the callers of a domain (R79, R92, R99). -/
def State.hand (s : State) (d : Nat) : State :=
  let x := s.domN d
  let at_ : Ctx := { t := x.nt, bar := x.bar, beat := x.beat, cyc := x.cyc }
  let one := fun (c : Option Cursor) (seg run : Nat) => match c with
    | some c => let (l, c') := s.tick c; (handedOf at_ c seg run (l.filter fun q => s.ownSlot d q.1), some c')
    | none => ([], none)
  let (h, head) := one x.head x.seg x.run
  let (t, tailc) := one x.tailc x.tseg x.trun
  let s := s.modDom d fun x => { x with handed := x.handed ++ h ++ t, head, tailc }
  s.foreseeDrains (h ++ t)

/-- The pushes of a cycle (R101, R104). -/
def State.pushes (s : State) (d c : Nat) : State :=
  let now := ((s.domN d).handed.filter fun h => h.ctx.t + 4 ≤ c).foldl (fun l h => insertHanded h l) []
  let s := s.modDom d fun x => { x with handed := x.handed.filter fun h => !decide (h.ctx.t + 4 ≤ c) }
  (now.foldl (fun (s : State) h => s.pushSlot h) s).foreseeDrains now

/-- One of a domain's places that stands at an OPEN record moves past it (R87). -/
def State.openMark (s : State) (d : Nat) : State :=
  s.modDom d fun x =>
    if x.head.any fun c => s.kindAt c == 4 then { x with head := x.head.map s.openAt }
    else if x.tailc.any fun c => s.kindAt c == 4 then { x with tailc := x.tailc.map s.openAt }
    else x

/-- One of a domain's places that stands at a CLOSE record moves past it (R87). -/
def State.closeMark (s : State) (d : Nat) : State :=
  s.modDom d fun x =>
    if x.head.any fun c => s.kindAt c == 5 then { x with head := x.head.map Cursor.close }
    else if x.tailc.any fun c => s.kindAt c == 5 then { x with tailc := x.tailc.map Cursor.close }
    else x

/-! ## Landing gates (R30, R50, R679) -/

/-- A domain's places move past the OPEN and CLOSE records at which they stand (R87). -/
def State.passMarks (s : State) (d : Nat) : Nat → State
  | 0 => s
  | fuel + 1 =>
    let k := (s.domN d).active.map s.kindAt
    if k.contains 4 || k.contains 5 then State.passMarks ((s.openMark d).closeMark d) d fuel else s

/-- The step stream of a domain's open beat up to a stamp, as it is planned: what it hands over, pushes and sends when nothing stalls it (R30, R679). -/
def State.foretell (s : State) (r upTo : Nat) : Nat → State
  | 0 => s.flush r
  | fuel + 1 =>
    let s := s.flush r
    let c := (s.domN r).nt
    if upTo ≤ c || !(s.domN r).words || !s.running then s
    else
      let s := s.passMarks r 4096
      if ((s.domN r).active.map s.kindAt).contains 3 then s
      else
        let s := (((s.sampleDue r c).flushStarts r).pushes r c).hand r
        State.foretell (s.modDom r fun x => { x with nt := c + 1, cyc := x.cyc + 1 }) r upTo fuel

/-- The fewest cycles that a word takes which crosses a clock: R31 and R114 admit no shorter planned latency (R267). -/
def crossMin : Nat := 26

/-- A region that is behind a domain in step time has still to send what its step stream plans to be there by the domain's next step cycle (R30,
R50, R679; log 4). -/
def State.awaited (s : State) (d : Nat) : Bool :=
  let nt := (s.domN d).nt
  (List.range 8).any fun r => r != d && decide ((s.domN r).nt + crossMin ≤ nt) &&
    let t := s.foretell r (nt + 1 - crossMin) nt
    (t.domN d).evs.any fun e => decide (e.t ≤ nt) && e.k.crosses t d && !(s.domN d).evs.contains e

/-- Whether a landing register has reached its planned release without its data (R30, R50, R679). -/
def State.gateShut (s : State) (d : Nat) : Bool :=
  let nt := (s.domN d).nt
  (s.domN d).gates.any (fun g => decide (g.1 ≤ nt)) || s.awaited d

/-- A landing register releases its data at the planned cycle; where the data is absent, the domain stalls for a cycle (R30, R50). -/
def execLandingRelease (d : Fin 10) (s : State) : Host.Outcome State Fault Refusal :=
  commit s (
    if (s.domN d).evs.any fun e => decide (e.t < (s.domN d).nt) && e.k.crosses s d then s.fire d (EvK.crosses s d) (EvK.crosses s d)
    else if s.gateShut d && (s.domN d).words && !(s.domN d).stopped && (s.domN d).left != 0 then s.stallCycle d
    else s)

/-- What stalls a domain in a cycle (R50, R294, R299, R323, R468). -/
def State.blocked (s : State) (d c : Nat) : Bool :=
  !(s.dueWaits (s.callersOf d) c).isEmpty || !(s.fenceBlocked d c).isEmpty || !(s.rotBlocked d c).isEmpty || !(s.placeBlocked d c).isEmpty || s.gateShut d
    || (8 ≤ d && (!(s.landingMissing (d - 8) c).isEmpty || s.replayFull (d - 8) (slotsBy (s.domN d).cyc)))

/-- A drain beat's rest has been counted out (R94). -/
def Dom.drained (x : Dom) : Dom := if x.last && x.head.any (·.rest == 0) then { x with head := none, words := false } else x

/-- The links of a die whose drain beat has been counted out load what is left of its data slots (R94, R461). -/
def State.endDrain (s : State) (d : Nat) : State :=
  if 8 ≤ d && !(s.domN d).words then s.loadLinks (d - 8) dataSlots else s

/-- A cycle in which a domain stalls; a pending stop takes effect at its end (R50, R61). -/
def State.stalled (s : State) (d c : Nat) : State :=
  let s := s.countStalls d c
  if (s.domN d).stopPend then s.stopDom d else s

/-- One step cycle of a domain: the events before it, the granules that arrive, the samples of predicates, releases, a stall or the pushes of
the cycle; then, unless one of these stalls, the hand-over of its slots. A pending stop takes effect at its end (R50, R61, R101, R109, R314). -/
def State.cycle (s : State) (d : Nat) : State :=
  let c := (s.domN d).nt
  let s := (((s.flush d).arrivals d).sampleDue d c).release d c
  let s := if 8 ≤ d then s.loadLinks (d - 8) (slotsBy (s.domN d).cyc) else s
  if !s.running then s
  else if s.blocked d c then s.stalled d c
  else
    let s := ((s.flushStarts d).pushes d c).release d c
    if !s.running then s
    else if s.blocked d c then s.stalled d c
    else
      let s := (s.hand d).modDom d fun x => { x with nt := c + 1, cyc := x.cyc + 1, left := x.left - 1, waited := 0 }
      let s := (s.modDom d Dom.drained).endDrain d
      if (s.domN d).stopPend then s.stopDom d else s

/-- The kinds of record at the places of a domain's open beat. -/
def State.kinds (s : State) (d : Nat) : List Nat := (s.domN d).active.map s.kindAt

/-- A STEP record issues its step cycle (R79); in a merged beat the cycle carries the slots of both sections (R92). -/
def execStepRecord (d : Fin 10) (s : State) : Host.Outcome State Fault Refusal :=
  let k := s.kinds d
  commit s (if s.mayIssue d && k.contains 1 && !k.contains 4 && !k.contains 5 then s.cycle d else s)

/-- Issues cycles while only rests are open and every place stands where it stood. -/
def State.restGo (s : State) (d : Nat) (at_ : List Nat) : Nat → State
  | 0 => s
  | fuel + 1 =>
    let k := s.kinds d
    if s.mayIssue d && k.contains 2 && !k.contains 1 && !k.contains 4 && !k.contains 5 && (s.domN d).active.map (·.pc) == at_ then
      State.restGo (s.cycle d) d at_ fuel
    else s

/-- A REST record issues its count of cycles, as far as the beat delivers them; each is a step boundary, so that one command names an issue
domain and a number of cycles and issues up to as many (R61, R84, R85). -/
def execRestRecord (run : Fin 10 × Nat) (s : State) : Host.Outcome State Fault Refusal :=
  commit s (s.restGo run.1 ((s.domN run.1).active.map (·.pc)) (min run.2 (s.domN run.1).left))

/-- A BEAT record ends the step words of the beat (R84, R86). -/
def execBeatRecord (d : Fin 10) (s : State) : Host.Outcome State Fault Refusal :=
  commit s (if s.running && s.atBeat d then s.endWords d else s)

/-- An OPEN record begins a repeat body (R87). -/
def execOpenRecord (d : Fin 10) (s : State) : Host.Outcome State Fault Refusal :=
  commit s (if s.running && (s.domN d).words then s.openMark d else s)

/-- A CLOSE record ends an iteration of its body (R87). -/
def execCloseRecord (d : Fin 10) (s : State) : Host.Outcome State Fault Refusal :=
  commit s (if s.running && (s.domN d).words then s.closeMark d else s)

/-- A hold that has travelled to a region stops it (R62). -/
def execRegionStop (d : Fin 10) (s : State) : Host.Outcome State Fault Refusal :=
  commit s (if s.beat.holdReq || s.beat.order != 0 || (s.domN d).stopPend then s.stopDom d else s)

/-! ## Beats of a domain (R47, R49, R69, R94) -/

/-- Nominal cycles of a beat at a setting, compiled budget of a budget mode (R47). -/
def nominal (setting : Nat) : Nat := if setting = 3 then 1536 else if setting = 2 then 1344 else 1024
def budgetOf (mode : Nat) : Nat := if mode = 1 then 1472 else if mode = 2 then 1288 else 980

/-- The scrubbers of a region read and write back at their step cycles (R266). -/
def State.planScrub (s : State) (d : Nat) : State :=
  if 8 ≤ d then s
  else
    let t := (s.domN d).nt
    (s.ofRegion d).foldl (fun (s : State) n =>
      ((if (s.clus n).scrub.isEmpty then s else s.scrubWrite n none).post d t phRead 0 (.scrubRead n)).post d (t + 10) phGw 0
        (.scrubWrite n)) s

/-- A RUN frame opens a working beat in a domain: the next beat begins, or the beat in which the domain stopped goes on (R49, R69), unless a further
hold has reached the domain meanwhile (R62, R64); after the last step the domain counts step time (R94). -/
def State.openBeat (s : State) (d bar beat cycles : Nat) : State :=
  let x := s.domN d
  if !s.running then s.modDom d fun x => { x with bar, beat, stopped := false, stopPend := false, words := false }
  else if x.stopped then
    if x.bar = bar && x.beat = beat && !x.stopPend then s.modDom d fun x => { x with stopped := false, left := cycles } else s
  else if x.words || (beatGap s.rt.firstBar bar beat ≤ beatGap s.rt.firstBar x.bar x.beat && !x.marks.isEmpty) then s
  else
    let s := if 8 ≤ d then s.newSlots (d - 8) else s
    let s := s.modDom d fun x =>
      { x with bar, beat, cyc := 0, left := cycles, stalls := 0, stretched := 0, marks := (x.nt, bar, beat) :: x.marks.take 127
               words := true
               head := if x.last then some { pc := 0, rest := budgetOf s.rt.hdr.budget } else x.head }
    s.planScrub d

/-! ## The invocation (R94, R251, R574, R655) -/

/-- The bytes of a cluster's floor that resident sets hold (R251, R258). -/
def State.keepsByte (s : State) (n a : Nat) : Bool := s.residents.toList.any fun r => r.meets n (a / 64 * 64) 64

/-- A cluster at the start of an invocation (R103, R107, R129, R179, R227, R228, R251, R287, R328, R365). -/
def State.freshCluster (s : State) (n : Nat) (c : Cluster) : Cluster :=
  { floor := c.floor.filter fun b => s.keepsByte n b.1
    upsets := c.upsets.filter fun u => s.keepsByte n (8 * u.1)
    scrub := c.scrub.filter fun e => s.keepsByte n e.1
    scrubNext := c.scrubNext, fenced := c.fenced
    vx := { sticky := c.vx.sticky, figure := c.vx.figure, vnext := c.vx.vnext } }

/-- A link at the start of an invocation: sequences at 0 (R457); landing memory stays. -/
def Link.fresh (k : Link) : Link :=
  { k with txSeq := 0, txEpoch := 0, peerAck := 0, rxAck := 0, rxSeen := 0, rxEpoch := 0, rxBase := 0, rxLast := 255, missing := [], replay := [], wanted := []
           sending := [], loaded := [], slotsDone := 0, begun := 0, ctl := [], opens := [], bodies := [], tags := []
           rxEnd := some 0, prevEnd := some 0, txPrev := [], txPrevEnd := 0, txPart := false }

/-- A channel at the start of an invocation (R346). -/
def freshChan (r : Route) : Chan := { free := BitVec.ofNat 21 r.ring }

/-- The domain at the start of an invocation, at the start of a segment's run (R91, R655). -/
def State.freshDom (s : State) (bar : Nat) (_ : Dom) : Dom :=
  let (g, r, loops) := s.armedPlace
  { bar, beat := 0, head := some (startAt (s.segN g).body), seg := g, segRun := r, loops, run := s.rt.armedRun }

/-- The state of the module as an invocation begins, before its first working beat. -/
def State.beginInvocation (s : State) : State :=
  let bar := s.beat.bar.toNat
  { s with
    cl := Vector.ofFn fun (i : Fin 48) => s.freshCluster i s.cl[i]
    dom := s.dom.map (s.freshDom bar)
    seqs := Vector.replicate 2 {}
    units := Vector.replicate 58 {}
    mck := Vector.replicate 8 {}
    chans := s.rt.routes.map fun (e : Nat × Route) => (e.1, freshChan e.2)
    hqs := [], acks := [], bulks := [], paths := [], voids := [], crossings := [], untimed := [], contribs := [], closed := 0
    skips := [], hazards := [], det := {}
    links := s.links.map Link.fresh
    rt := { s.rt with runState := 2, invocations := s.rt.invocations + 1, firstBar := bar, lastBar := none, stopAsked := false, stopping := false
                      abortAt := none } }

/-- An armed routine begins at the RUN frame that opens beat 0 of its bar (R574). Its first beat delivers the nominal cycles of the setting in force,
also where this boundary has changed the setting (R58; log 101). -/
def execRoutineBegin (s : State) : Host.Outcome State Fault Refusal :=
  commit s (
    if s.rt.runState == 1 && s.beat.locked && s.beat.order == 0 && s.beat.beat == 0 && s.beat.bar.toNat == s.rt.armedBar then
      let s := (s.beginInvocation.fetchBeat 0).fetchBeat 1
      let s := (List.range 10).foldl (fun (s : State) d => s.openBeat d s.beat.bar.toNat 0 (nominal s.beat.setting.toNat)) s
      if s.beat.holdReq && s.beat.inHold then s.modDoms fun x => { x with stopPend := true } else s
    else s)

/-- Whether an effect of the invocation has still to take place (R94). -/
def State.effectsPending (s : State) : Bool :=
  s.dom.toList.any (fun x => !x.last || x.words || !x.handed.isEmpty || x.evs.any fun e => match e.k with
    | .roundGen _ => false
    | .scrubRead _ => false
    | .scrubWrite _ => false
    | _ => true)
  || !s.bulks.isEmpty || s.isu.busy.isSome || s.units.toList.any (fun u => !u.q.isEmpty || u.run.isSome)
  || ((List.range 50).any fun w => !(s.caller w).waits.isEmpty || (s.caller w).fence.isSome || !(s.caller w).syq.isEmpty)
  || s.cl.toList.any fun c => !c.placing.isEmpty || !c.rotating.isEmpty || !c.mx.q.isEmpty

/-- Closes the bars that are still open, up to a bar. -/
def State.closeUpTo (s : State) (bar : Nat) : Nat → State
  | 0 => s
  | fuel + 1 =>
    if s.running && s.closed ≤ barGap s.rt.firstBar bar then State.closeUpTo s.closeNext bar fuel else s

/-- The routine ends once every pending effect has taken place: the last bar closes, and the end is reported (R94, R655, R529). -/
def execRoutineEnd (s : State) : Host.Outcome State Fault Refusal :=
  commit s (
    if !s.running then s
    else
      let t := (List.range 10).foldl (fun (s : State) d => s.flush d) s
      if !t.running then t
      else if t.effectsPending then s
      else
        let t := t.closeUpTo (t.rt.lastBar.getD t.beat.bar.toNat) 64
        if !t.running then t
        else
        let t := t.endInvocation
        let t := { t with rt := { t.rt with runState := 4 } }
        let t := (t.setBase 0x1320 1 t.rt.resumeAt.1).setBase 0x1320 2 t.rt.resumeAt.2
        (t.hostEvent 0 3 0 0 0).discrepancies1)

/-- A STOP is accepted at a beat boundary (R95): the current run is that of the working beat which the boundary opens; a HOLD or RESUME frame opens
none, and there it is that of the working beat opened last (log 102). -/
def State.acceptStop (s : State) (opens : Option (Nat × Nat)) : State :=
  if s.running && s.rt.stopAsked then
    let at_ := opens.getD (s.beat.bar.toNat, s.beat.beat.toNat)
    let no := s.runOfBeat at_.1 at_.2
    { s with rt := { s.rt with stopAsked := false, stopping := true, stopAt := no, runState := 3 } }
  else s

/-- A STOP that reaches a module which is frozen in a hold, before its RESUME, ends the invocation at once (R638). -/
def State.stopHeld (s : State) : State :=
  s.abort 0 s.frozenAt.1 (locDie 0 0 0)

/-- STOP (R95, R638): refused with RANGE by the dictionary while no routine runs, so that it changes nothing here. -/
def State.stopCmd (s : State) : State :=
  if !s.running then s
  else if s.frozen && s.beat.inHold then s.stopHeld
  else { s with rt := { s.rt with stopAsked := true } }

end Sys2Proof.Machine
end

