-- ==== Sys2Proof/Machine/Entries.lean ====
section
/-! DEFINITION. The entries of the object dictionary: types, access, defaults, ranges, and the values that they read
(19_dictionary.md R564-R593; 15_partner_links.md R480; 16_service_layer.md R511; 18_security.md R562; 20_power_clocks.md R613;
21_reset.md R632; 22_faults.md R654; 08_floor.md R258). -/

namespace Sys2Proof.Machine

/-- Types of R564. -/
inductive Ty where
  | bool
  | u8
  | u16
  | u32
  | u64
  | i16
  | str16
  | blob (maxLen : Nat)
  | cmd
  deriving DecidableEq, Repr

/-- Access codes of R565. -/
inductive Acc2 where
  | ro
  | rw
  | rwp
  | rw2
  | wo
  deriving DecidableEq, Repr

/-- An entry: its type, access, default, and whether its complement is held beside it (R559). -/
structure Entry where
  ty : Ty
  acc : Acc2
  dflt : Nat := 0
  comp : Bool := false
  deriving DecidableEq, Repr

/-- Bytes of a scalar type; 0 for a BLOB (R564). -/
def Ty.size : Ty → Nat
  | .bool => 1
  | .u8 => 1
  | .u16 => 2
  | .u32 => 4
  | .u64 => 8
  | .i16 => 2
  | .str16 => 16
  | .blob _ => 0
  | .cmd => 4

/-- The TYPE code of an image item, in the order of R564 (R583). -/
def Ty.code : Ty → Nat
  | .bool => 0
  | .u8 => 1
  | .u16 => 2
  | .u32 => 3
  | .u64 => 4
  | .i16 => 5
  | .str16 => 8
  | .blob _ => 9
  | .cmd => 10

/-! ## The table of entries -/

/-- The entry with a sub-index from 1, of a list. -/
def nthEntry (l : List Entry) (sub : Nat) : Option Entry := if sub = 0 then none else l[sub - 1]?

/-- Read-only entries, working values, persistent values, protected values, commands. -/
def ro (t : Ty) : Entry := { ty := t, acc := .ro }
def rw (t : Ty) (d : Nat) : Entry := { ty := t, acc := .rw, dflt := d }
def rwp (t : Ty) (d : Nat) : Entry := { ty := t, acc := .rwp, dflt := d }
def rw2 (t : Ty) (d : Nat) (c : Bool) : Entry := { ty := t, acc := .rw2, dflt := d, comp := c }
def wo (t : Ty) : Entry := { ty := t, acc := .wo }
def cmd : Entry := { ty := .cmd, acc := .wo }

/-- Area 0x1000 (R573, R632, R654). -/
def area1 (i : Nat) : List Entry :=
  if i = 0x1000 then [ro .str16, ro .str16, ro .str16, ro .u8, ro .u64, ro .u32]
  else if i = 0x1010 then [cmd, cmd, ro .u8, ro .u32, ro .u32]
  else if i = 0x1020 then [ro .u64, rwp .u8 0xFF, rwp .u8 8]
  else if i = 0x1030 then [ro .u8]
  else if i = 0x1100 then [rw .u64 0, rw .u64 0, rw .u64 0, cmd, ro .u8, ro .u8, rw .u64 0, cmd, cmd, ro .u8, ro .u32]
  else if i = 0x1200 then [cmd, cmd, cmd, cmd, ro .u8, ro .u8, ro .u8, ro .u16]
  else if i = 0x1300 then [rwp .u64 0, rwp .u8 16, ro .u32]
  else if i = 0x1310 then [rwp .u8 0, rwp .u64 0, rwp .u64 0, rwp .u16 0, rwp .u16 0, rwp .u16 32640, rwp .u16 0, rwp .u16 0, cmd, cmd, cmd,
    cmd, ro .u8, ro .u32, ro .u32]
  else if i = 0x1320 then [rw .u32 0, rw .u32 0]
  else if i = 0x1330 then [cmd, ro .u64, ro .u8]
  else []

/-- Areas 0x2000 and 0x3000 (R575, R577). -/
def area2 (i : Nat) : List Entry :=
  if i = 0x2000 then [rwp .u8 2, ro .u8, rwp .u8 0, ro .u8, ro .u8, ro .bool, ro .u64, ro .u8, ro .u8, ro .u8]
  else if i = 0x3000 then [ro .u64, ro .u64, ro .u16]
  else if 0x3010 ≤ i && i < 0x3030 then [ro .u8]
  else []

/-- Area 0x4000 (R480). -/
def area4 (i : Nat) : List Entry :=
  if i = 0x4000 then [rwp .u16 0]
  else if 0x4010 ≤ i && i < 0x4020 then [rwp .bool 0, rwp .u16 0x03FF, ro (.blob 16)]
  else if 0x4100 ≤ i && i < 0x4108 then List.replicate 128 (rwp .u8 0xFF)
  else if i = 0x4200 then List.replicate 255 (rwp .u16 0)
  else []

/-- Area 0x5000 (R511). -/
def area5 (i : Nat) : List Entry :=
  if i = 0x5000 then [rwp .bool 0, rwp .u32 1048576, rwp .u16 64, ro .u16]
  else if 0x5100 ≤ i && i < 0x5140 then [rwp .bool 0, rwp .u64 0, rwp .u8 16, rwp .u8 0, rw .u32 0, ro .u32]
  else if 0x5200 ≤ i && i < 0x5240 then
    [rwp .u16 0, rwp .u64 0, rwp .u32 0, rwp .u16 256, rwp .u64 0, rwp .u32 0, rwp .u16 0, rwp .u16 0, rwp .u16 0, ro .u32]
  else if i = 0x5300 then List.replicate 16 (rw (.blob 32) 0)
  else []

/-- Area 0x6000 (R562). -/
def area6 (i : Nat) : List Entry :=
  if i = 0x6000 then [rw2 (.blob 64) 0 true, rw2 (.blob 64) 0 true, ro (.blob 32), wo (.blob 4096), cmd, ro .u32,
    { ty := .u32, acc := .ro, comp := true }, ro (.blob 32), ro (.blob 32)]
  else if i = 0x6010 then [rw2 .bool 0 true, rw2 .u64 0 true, rw2 .bool 0 true]
  else if i = 0x6020 then [rw2 .u8 0 true, ro .u8, rw2 (.blob 32) 0 false, wo (.blob 6291456), cmd]
  else if i = 0x6030 then [ro .u32, rw .u16 0, ro (.blob 64)]
  else if 0x6100 ≤ i && i < 0x6140 then [rw2 .u8 0 true, rw2 .bool 0 true, rw2 (.blob 129) 0 false, ro (.blob 16)]
  else if 0x6200 ≤ i && i < 0x6204 then List.replicate 10 (rw2 .u8 7 true)
  else if i = 0x6300 then List.replicate 8 (rw2 (.blob 32) 0 false)
  else if 0x6400 ≤ i && i < 0x64FF then List.replicate 128 (rw2 .u8 0xFF true)
  else []

/-- Area 0x7000 (R613). -/
def area7 (i : Nat) : List Entry :=
  if i = 0x7000 then [ro .u16, ro .u16, { ty := .u16, acc := .rwp, dflt := 1600, comp := true }, ro .u16, rwp .u8 1, rwp .u8 3, rwp .u8 95,
    rwp .u8 100, rwp .u8 16, ro .u32, ro .u32]
  else if 0x7010 ≤ i && i < 0x7018 then [ro .i16, ro .u8, ro .u32, ro .u16, ro .u8]
  else []

/-- Area 0x8000 (R258, R587, R592). -/
def area8 (i : Nat) : List Entry :=
  if 0x8000 ≤ i && i < 0x8030 then [rwp .bool 1, ro .u8, ro .u8, ro .u16, ro .u32]
  else if 0x8100 ≤ i && i < 0x8130 then [ro .u8, ro .u8]
  else if 0x8400 ≤ i && i < 0x8440 then [ro .u8, rw .u8 0, rw .u8 0, rw .u32 0, rw .u32 0, rw .u64 0, ro .u8, ro (.blob 32), wo .u64, cmd,
    cmd, cmd, cmd]
  else []

/-- The number of counters of an index of area 0x9000 (R593, R642). -/
def counterSubs (i : Nat) : Nat :=
  if i = 0x9001 then 11 else if i = 0x9002 then 3 else if i = 0x9003 then 7 else if i = 0x9004 then 5 else if i = 0x9005 then 4
  else if i = 0x9006 then 6 else if i = 0x9007 then 5 else if i = 0x9008 then 12 else if i = 0x9009 then 4 else if i = 0x900A then 2
  else if 0x9010 ≤ i && i < 0x9014 then 6 else if 0x9080 ≤ i && i < 0x9090 then 10 else if i = 0x9100 then 6
  else if 0x9110 ≤ i && i < 0x9116 then 0x87 else 0

/-- Areas 0x9000 and 0xA000 (R582, R593). -/
def area9 (i : Nat) : List Entry :=
  if i = 0x9000 then [cmd]
  else if 0xA000 ≤ i && i < 0xA008 then [rwp .bool 0, ro .u8, wo (.blob 4096), wo .u32, rw .u8 0, ro (.blob 4096)]
  else List.replicate (counterSubs i) (ro .u64)

/-- The entries of an index, sub-index 1 first; none where the index does not exist. -/
def entriesAt (i : Nat) : List Entry :=
  if i < 0x2000 then area1 i
  else if i < 0x4000 then area2 i
  else if i < 0x5000 then area4 i
  else if i < 0x6000 then area5 i
  else if i < 0x7000 then area6 i
  else if i < 0x8000 then area7 i
  else if i < 0x9000 then area8 i
  else area9 i

/-- An entry by index and sub-index; sub-index 0 of an index that exists is a U8 with access ro (R564). -/
def entry (i sub : Nat) : Option Entry :=
  if sub = 0 then (if (entriesAt i).isEmpty then none else some (ro .u8)) else nthEntry (entriesAt i) sub

/-- The indices that exist, ascending. -/
def indices : List Nat :=
  [0x1000, 0x1010, 0x1020, 0x1030, 0x1100, 0x1200, 0x1300, 0x1310, 0x1320, 0x1330, 0x2000, 0x3000]
  ++ (List.range 32).map (0x3010 + ·) ++ [0x4000] ++ (List.range 16).map (0x4010 + ·) ++ (List.range 8).map (0x4100 + ·) ++ [0x4200, 0x5000]
  ++ (List.range 64).map (0x5100 + ·) ++ (List.range 64).map (0x5200 + ·) ++ [0x5300, 0x6000, 0x6010, 0x6020, 0x6030]
  ++ (List.range 64).map (0x6100 + ·) ++ (List.range 4).map (0x6200 + ·) ++ [0x6300] ++ (List.range 255).map (0x6400 + ·) ++ [0x7000]
  ++ (List.range 8).map (0x7010 + ·) ++ (List.range 48).map (0x8000 + ·) ++ (List.range 48).map (0x8100 + ·)
  ++ (List.range 64).map (0x8400 + ·) ++ [0x9000] ++ (List.range 8).map (0xA000 + ·)

/-- The entries of an index with their sub-indices. -/
def withSubs (i : Nat) : List (Nat × Nat × Entry) :=
  let l := entriesAt i
  (List.range l.length).filterMap fun j => (l[j]?).map fun e => (i, j + 1, e)

/-- The entries that a condition selects, in ascending index and sub-index. -/
def selectEntries (p : Nat → Nat → Entry → Bool) : List (Nat × Nat × Entry) :=
  indices.flatMap fun i => (withSubs i).filter fun e => p e.1 e.2.1 e.2.2

/-- Whether an entry is kept by the persistent image: every rwp entry, every rw2 entry but DEBUG_ENABLE and DEBUG_MASK, and
CO_SEQUENCE (R557, R558, R583; log 30). -/
def persists (i sub : Nat) (e : Entry) : Bool :=
  e.acc == .rwp || (e.acc == .rw2 && !(i == 0x6010 && sub ≤ 2)) || (i == 0x6000 && sub == 7)

/-- Whether an entry belongs to the protection set (R552). -/
def protectedEntry (e : Entry) : Bool := e.acc == .rw2

/-! ## Working values -/

/-- Sets a working value, with its complement where one is held (R559). -/
def State.setVal (s : State) (i sub v : Nat) : State :=
  let s := s.setBase i sub v
  if (entry i sub).any (·.comp) then { s with dict := { s.dict with compl := tPut s.dict.compl (i * 256 + sub) v } } else s

/-- The working value of an entry, or its default. -/
def State.work (s : State) (i sub : Nat) : Nat := s.base i sub (((entry i sub).map (·.dflt)).getD 0)

/-- The value in force of an entry (R578). -/
def State.inForce (s : State) (i sub : Nat) : Nat := s.val i sub (((entry i sub).map (·.dflt)).getD 0)

/-- Bytes that a value of an entry takes. -/
def Ty.width : Ty → Nat
  | .blob n => n
  | t => t.size

/-! ## Modes (R3, R47, R48) -/

/-- The ceiling setting of a mode (R47). -/
def modeCeiling (m : Nat) : Nat := if m = 1 then 3 else if m = 3 then 1 else 2

/-- The setting of a budget mode's clock (R47). -/
def budgetSetting (m : Nat) : Nat := if m = 1 then 3 else if m = 3 then 1 else 2

/-- Whether the grade accepts a mode (R3). -/
def State.gradeAccepts (s : State) (m : Nat) : Bool := 1 ≤ m && m ≤ 4 && !(s.grade == 3 && (m == 1 || m == 4))

/-! ## Values that are read (R573-R593, R613, R632, R654) -/

/-- The 16 bytes of a STR16 (R564). -/
def str16 (t : String) : Nat := leNat (padTo 16 (ascii t))

/-- The ordering number of the grade (R3). -/
def State.ordering (s : State) : Nat :=
  str16 (if s.grade = 2 then "7104-0048-T" else if s.grade = 3 then "7104-0048-S" else "7104-0048-F")

/-- STATE of a resident set as a code (R258). -/
def RsState.code : RsState → Nat
  | .empty => 0
  | .loading => 1
  | .settled => 2
  | .dirty => 3
  | .unsettled => 4
  | .failed => 5

/-- STATE of a link as a code (R481). -/
def LinkSt.code : LinkSt → Nat
  | .down => 0
  | .training => 1
  | .keying => 2
  | .up => 3
  | .retrain => 4
  | .disabled => 5

/-- The status record of a link (R481). -/
def Link.status (k : Link) : Bytes :=
  leBytes 16 (k.st.code + 8 * b2n k.holdTx + 16 * b2n k.holdRx + 32 * k.neighbour.toNat + 2 ^ 15 * b2n k.mismatch
    + 2 ^ 16 * k.replay.length + 2 ^ 32 * k.txSeq.toNat + 2 ^ 64 * k.peerAck.toNat + 2 ^ 96 * k.rxAck.toNat)

/-- A log entry as its 64 bytes (R544). -/
def LogEntry.bytes (e : LogEntry) : Bytes :=
  leBytes 4 e.seq ++ [BitVec.ofNat 8 e.mr, BitVec.ofNat 8 e.kind, 0, 0] ++ leBytes 8 (e.bar % 2 ^ 40 + 2 ^ 40 * e.beat) ++ leBytes 16 e.detail
    ++ leBytes 32 e.digest.toNat

/-- The key check value of a domain (R562). -/
def State.kcv (s : State) (d : Nat) : Nat :=
  match tGet s.sec.intake d with
  | some k => leNat ((sm3Bytes (ascii "ELOA-KCV" ++ leBytes 32 k.toNat)).take 16)
  | none => 0

/-- The bytes by which an entry of the protection set enters PROTECTION_DIGEST (R552). -/
def State.protectBytes (s : State) (q : Nat × Nat × Entry) : Bytes :=
  leBytes 2 q.1 ++ leBytes 1 q.2.1
    ++ (if 0x6100 ≤ q.1 && q.1 < 0x6140 && q.2.1 == 3 then leBytes 16 (s.kcv (q.1 - 0x6100)) else leBytes q.2.2.ty.width (s.work q.1 q.2.1))

/-- PROTECTION_DIGEST (R552). -/
def State.protectionDigest (s : State) : BitVec 256 :=
  sm3 ((selectEntries fun _ _ e => protectedEntry e).flatMap s.protectBytes)

/-- A value of index 0x7000 as the monitors use it: one written in a beat takes effect at the next beat boundary (R613). -/
def State.bound7 (s : State) (sub : Nat) : Nat := (tGet s.pow.held sub).getD (s.inForce 0x7000 sub)

/-- The largest bar mean of input power of a mode (R596). -/
def modeMaximum (m : Nat) : Nat := if m = 1 then 1600 else if m = 3 then 900 else 1350

/-- The cap of R594 in watts: input voltage times 33.3 A between 40 V and 48 V. -/
def State.voltageCap (s : State) : Nat :=
  let v := s.pow.vin.toNat
  if 40000 ≤ v && v < 48000 then v * 333 / 10000 else 65535

/-- The power limit in force: POWER_LIMIT, the mode maximum, the cap of R594 (R596). -/
def State.powerLimit (s : State) : Nat := min (s.bound7 3) (min (modeMaximum s.mode.toNat) s.voltageCap)

/-- ACTUAL of the cluster with a physical index (R587). -/
def State.logicalOf (s : State) (p : Nat) : Nat := ((List.range s.lcMax).find? fun n => s.phys n == p).getD 0xFF

/-- An item of an overlay in the layout of PUT (R582). -/
def overlayItem (q : Nat × Nat) : Bytes :=
  leBytes 2 (q.1 / 256) ++ leBytes 1 (q.1 % 256) ++ [0] ++ leBytes (((entry (q.1 / 256) (q.1 % 256)).map (·.ty.width)).getD 0) q.2

/-- The items of an overlay. -/
def State.overlay (s : State) (k : Nat) : Table Nat := if h : k < 8 then s.dict.overlays[k] else []

/-- The reported safe setting of the module, capped by the mode ceiling (R46). -/
def State.safeSetting (s : State) : Nat :=
  min (modeCeiling s.mode.toNat) (s.pow.mon.toList.foldl (fun m q => min m q.safe.toNat) 3)

/-- Read-only values of area 0x1000 and of 0x3000. -/
def State.read1 (s : State) (i sub : Nat) : Nat :=
  match i, sub with
  | 0x1000, 1 => str16 "RISIBA"
  | 0x1000, 2 => str16 "ELOA EL48"
  | 0x1000, 3 => s.ordering
  | 0x1000, 4 => s.grade.toNat
  | 0x1000, 5 => Config.serial.toNat
  | 0x1000, 6 => s.sec.version.toNat
  | 0x1010, 3 => s.dict.storeStatus.toNat
  | 0x1010, 4 => match s.dict.inForce with
    | some c => recField s.dict.commits[c] 4 4
    | none => 0
  | 0x1010, 5 => s.dict.storeCount.toNat
  | 0x1020, 1 => (Config.macOf Config.serial).toNat
  | 0x1030, 1 => s.dict.eid.toNat
  | 0x1100, 5 => s.rt.loadStatus.toNat
  | 0x1100, 6 => s.rt.refusal.toNat
  | 0x1100, 10 => s.rt.runState.toNat
  | 0x1100, 11 => s.rt.invocations.toNat
  | 0x1200, 5 => s.pow.lastReset.toNat
  | 0x1200, 6 => s.pow.resetCause.toNat
  | 0x1200, 7 => s.pow.bringup.toNat
  | 0x1200, 8 => s.pow.bringupFault.toNat
  | 0x1300, 3 => s.sigWptr.toNat
  | 0x1310, 13 => s.snap.status.toNat
  | 0x1310, 14 => s.snap.progress.toNat
  | 0x1310, 15 => s.snap.gen.toNat
  | 0x1330, 2 => s.rt.abortBar.toNat
  | 0x1330, 3 => s.rt.abortClass.toNat
  | 0x3000, 1 => 2199023255552
  | 0x3000, 2 => 2190433320960
  | 0x3000, 3 => 14400
  | _, _ => 0

/-- Read-only values of areas 0x2000, 0x4000, 0x5000. -/
def State.read2 (s : State) (i sub : Nat) : Nat :=
  match i, sub with
  | 0x2000, 2 => s.mode.toNat
  | 0x2000, 4 => s.beat.setting.toNat
  | 0x2000, 5 => bits s.beat.report.toNat 93 92
  | 0x2000, 6 => b2n s.beat.locked
  | 0x2000, 7 => s.beat.bar.toNat
  | 0x2000, 8 => s.beat.beat.toNat
  | 0x2000, 9 => if s.beat.horizon = 0 then 0 else s.beat.horizon.toNat + 1
  | 0x2000, 10 => s.beat.lastCause.toNat
  | 0x5000, 4 => s.isu.cards.length
  | _, _ =>
    if 0x4010 ≤ i && i < 0x4020 then leNat (s.link (i - 0x4010)).status
    else if 0x5100 ≤ i && i < 0x5140 then s.base i sub 0
    else if 0x5200 ≤ i && i < 0x5240 then (s.poolFree (i - 0x5200)).length
    else 0

/-- Read-only values of area 0x6000. -/
def State.read6 (s : State) (i sub : Nat) : Nat :=
  match i, sub with
  | 0x6000, 3 => s.sec.nonce.toNat
  | 0x6000, 6 => s.sec.status.toNat
  | 0x6000, 7 => s.work 0x6000 7
  | 0x6000, 8 => s.protectionDigest.toNat
  | 0x6000, 9 => Config.identityDigest
  | 0x6020, 2 => s.sec.svn.toNat
  | 0x6030, 1 => s.sec.log.length
  | 0x6030, 3 => match s.sec.log[s.work 0x6030 2]? with
    | some e => leNat e.bytes
    | none => 0
  | _, _ => if 0x6100 ≤ i && i < 0x6140 then s.kcv (i - 0x6100) else 0

/-- Read-only values of areas 0x7000, 0x8000 and 0xA000; PLACE of a logical number that the grade does not offer reads 0 (R29, R480; log 90). -/
def State.read7 (s : State) (i sub : Nat) : Nat :=
  match i, sub with
  | 0x7000, 1 => s.pow.vin.toNat
  | 0x7000, 2 => s.pow.watts.toNat
  | 0x7000, 4 => s.powerLimit
  | 0x7000, 10 => s.pow.overrides.toNat
  | 0x7000, 11 => s.pow.unmet.toNat
  | _, _ =>
    if 0x7010 ≤ i && i < 0x7018 then
      let m := s.monN (i - 0x7010)
      if sub = 1 then (BitVec.ofInt 16 m.temp).toNat else if sub = 2 then m.safe.toNat else if sub = 3 then m.stretch.toNat
      else if sub = 4 then m.vcore.toNat
      else (List.range 4).foldl (fun a j => a + 2 ^ j * b2n ((m.sensors.toList[j]?).any (·.failed))) 0
    else if 0x8000 ≤ i && i < 0x8030 then
      let n := i - 0x8000
      if sub = 2 then s.actualCode n else if sub = 3 then s.fenceCause n
      else if sub = 4 then (if n < s.lcMax then s.locLc n 0 0 else 0)
      else (if h : n < 48 then s.discrepancies[n].toNat else 0)
    else if 0x8100 ≤ i && i < 0x8130 then
      let n := s.logicalOf (i - 0x8100)
      if sub = 1 then (if n = 0xFF then 3 else s.actualCode n) else n
    else if 0x8400 ≤ i && i < 0x8440 then
      let r := s.resident (i - 0x8400)
      if sub = 1 then r.state.code else if sub = 7 then r.rotation.toNat else r.digest.toNat
    else if 0xA000 ≤ i && i < 0xA008 then
      if sub = 2 then (s.overlay (i - 0xA000)).length
      else match (s.overlay (i - 0xA000))[s.work i 5]? with
        | some q => leNat (overlayItem q)
        | none => 0
    else 0

/-- Fields of a resident set that software writes (R258, R592). -/
def Resident.field (r : Resident) (sub : Nat) : Nat :=
  if sub = 2 then r.kd.toNat else if sub = 3 then r.flags.toNat else if sub = 4 then r.base.toNat else if sub = 5 then r.length.toNat
  else if sub = 6 then r.members.toNat else r.source.toNat

/-- TRAINED of a package (R577). -/
def State.trainedOf (s : State) (p : Nat) : Nat := (tGet s.pkgs p).getD 0

/-- The number that an entry reads (R564, R565): for an entry of the dictionary's own store its working value; INTAKE_KEY reads 0
(R562). -/
def State.entryNat (s : State) (i sub : Nat) (e : Entry) : Nat :=
  if sub = 0 then (entriesAt i).length
  else if 0x9001 ≤ i && i < 0xA000 then ((tGet s.counters (i * 256 + sub)).getD 0).toNat
  else if e.acc == .ro then
    if 0x3010 ≤ i && i < 0x3030 then s.trainedOf (i - 0x3010)
    else if i < 0x2000 || (0x3000 ≤ i && i < 0x4000) then s.read1 i sub
    else if i < 0x6000 then s.read2 i sub
    else if i < 0x7000 then s.read6 i sub
    else s.read7 i sub
  else if 0x8400 ≤ i && i < 0x8440 then (s.resident (i - 0x8400)).field sub
  else if 0x6100 ≤ i && i < 0x6140 && sub == 3 then 0
  else s.work i sub

/-- The bytes of an entry's value as a read gives it: a log entry or an overlay item past the last is empty. -/
def State.entryBytes (s : State) (i sub : Nat) (e : Entry) : Bytes :=
  if i = 0x6030 && sub = 3 then ((s.sec.log[s.work 0x6030 2]?).map (·.bytes)).getD []
  else if 0xA000 ≤ i && i < 0xA008 && sub = 6 then (((s.overlay (i - 0xA000))[s.work i 5]?).map overlayItem).getD []
  else leBytes (if sub = 0 then 1 else e.ty.width) (s.entryNat i sub e)

end Sys2Proof.Machine
end

