-- ==== Sys2Proof/Machine/Measure.lean ====
section
/-! DEFINITION. Measurements, the boot ROM, persistent settings, and change orders (18_security.md R537-R563;
19_dictionary.md R583-R586). -/

namespace Sys2Proof.Machine

/-! ## Measurements (R543-R545) -/

/-- Sets that a directory restores. -/
def dirSets (l : List Chunk) : List Nat := ((l.filter (·.shard)).map fun c => c.source % 256).eraseDups

/-- Entries that the log keeps for what is in progress: a load, a store of either kind, the digest of each set, each set that a restore covers
(R545; log 106). -/
def State.logReserved (s : State) : Nat :=
  2 * b2n s.dict.load.isSome + b2n s.dict.storing.isSome + b2n s.sec.storing.isSome
    + (s.residents.toList.filter (·.action != 0)).length + (if s.snap.action = 2 then (dirSets s.snap.chunks).length else 0)

/-- The log takes further entries, beside those that it keeps (R545). -/
def State.logRoom (s : State) (k : Nat) : Bool := s.sec.log.length + s.logReserved + k ≤ 4096

/-- Extends a measurement register with a digest and logs it; a full log takes nothing, so that it always replays to the registers
(R543-R545). -/
def State.extend (s : State) (i kind detail : Nat) (m : BitVec 256) : State :=
  if h : i < 8 then
    if 4096 ≤ s.sec.log.length then s
    else
      let e : LogEntry := { seq := s.sec.log.length, mr := i, kind, bar := s.beat.bar.toNat, beat := s.beat.beat.toNat, detail, digest := m }
      { s with sec := { s.sec with
        mr := s.sec.mr.set i (sm3 (leBytes 32 s.sec.mr[i].toNat ++ leBytes 32 m.toNat)), log := s.sec.log ++ [e] } }
  else s

/-- SM3 of the fuse map, as a mask of physical indices, and the grade code (R543; log 31). -/
def State.fuseDigest (s : State) : BitVec 256 :=
  sm3 (leBytes 6 (s.fused.foldl (fun (a : Nat) p => a ||| 2 ^ p) 0) ++ leBytes 1 s.grade.toNat)

/-! ## Persistent settings (R583-R586) -/

/-- An item of an image (R583). -/
def imageItem (i sub code len v : Nat) : Bytes :=
  leBytes 2 i ++ leBytes 1 sub ++ leBytes 1 code ++ leBytes 2 len ++ [0, 0] ++ padTo ((len + 7) / 8 * 8) (leBytes len v)

/-- The image of base values and overlays (R583). -/
def imageOf (vals : Table Nat) (overlays : List (Table Nat)) : Bytes :=
  let base := (selectEntries persists).flatMap fun q =>
    imageItem q.1 q.2.1 q.2.2.ty.code q.2.2.ty.width ((tGet vals (q.1 * 256 + q.2.1)).getD q.2.2.dflt)
  let ovs := (List.range overlays.length).flatMap fun k =>
    let t := (overlays[k]?).getD []
    imageItem (0xA000 + k) 0 Ty.u8.code 1 t.length ++ t.flatMap fun q =>
      match entry (q.1 / 256) (q.1 % 256) with
      | some e => imageItem (q.1 / 256) (q.1 % 256) e.ty.code e.ty.width q.2
      | none => []
  base ++ ovs

/-- The items of an image, read back: base values, and the items of each overlay (R583). -/
def parseImage : Nat → Bytes → Option Nat → Table Nat × Vector (Table Nat) 8 → Table Nat × Vector (Table Nat) 8
  | 0, _, _, r => r
  | fuel + 1, b, cur, (vals, ov) =>
    if b.length < 8 then (vals, ov)
    else
      let i := recField b 0 2
      let sub := recField b 2 1
      let len := recField b 4 2
      let v := recField b 8 len
      let rest := b.drop (8 + (len + 7) / 8 * 8)
      if sub = 0 then parseImage fuel rest (some (i % 8)) (vals, ov)
      else match cur with
        | some k => parseImage fuel rest cur (vals, if h : k < 8 then ov.set k (tPut ov[k] (i * 256 + sub) v) else ov)
        | none => parseImage fuel rest cur (tPut vals (i * 256 + sub) v, ov)

/-- A commit record (R584). -/
def commitRecord (gen bank : Nat) (img : Bytes) : Bytes :=
  let b := ascii "ELCM" ++ leBytes 4 gen ++ leBytes 1 bank ++ [0, 0, 0] ++ leBytes 4 img.length ++ sm3Bytes img ++ List.replicate 12 0
  b ++ leBytes 4 (crc32c b).toNat

/-- The image of the bank that a commit record names. -/
def State.bankImage (s : State) (c : Bytes) : Bytes :=
  (if recField c 8 1 = 0 then s.dict.banks[0] else s.dict.banks[1]).take (recField c 0xC 4)

/-- Whether a commit record is valid (R586). -/
def State.validCommit (s : State) (c : Bytes) : Bool :=
  c.length == 64 && c.take 4 == ascii "ELCM" && recField c 8 1 ≤ 1 && (crc32c (c.take 0x3C)).toNat == recField c 0x3C 4
    && (s.bankImage c).length == recField c 0xC 4 && sm3Bytes (s.bankImage c) == (c.drop 0x10).take 32

/-- The commit slot whose record governs: valid, and of the higher GENERATION (R586). -/
def State.commitSlot (s : State) : Option (Fin 2) :=
  let a := s.dict.commits[0]
  let b := s.dict.commits[1]
  if s.validCommit a && s.validCommit b then some (if recField a 4 4 < recField b 4 4 then 1 else 0)
  else if s.validCommit a then some 0
  else if s.validCommit b then some 1
  else none

/-- Loads the working values from the persistent memory: every rwp and kept rw2 entry from the record in force, every other entry at
its default (R565, R586). -/
def State.loadSettings (s : State) : State :=
  let at_ := s.commitSlot
  let (vals, ov) := match at_ with
    | some c => let img := s.bankImage s.dict.commits[c]; parseImage img.length img none ([], Vector.replicate 8 [])
    | none => ([], Vector.replicate 8 [])
  let vals := tPut vals (0x6020 * 256 + 1) s.sec.minSvn.toNat
  let s := { s with dict := { s.dict with vals, compl := vals, overlays := ov, inForce := at_, storeStatus := 0, storing := none
                                          modeNext := none, userNext := none } }
  let s := { s with
    mode := if s.gradeAccepts (s.work 0x2000 1) then BitVec.ofNat 8 (s.work 0x2000 1) else 2
    dict := { s.dict with userOverlay := s.work 0x2000 3 } }
  if at_.isNone then s.event 0x83 (locDie 0 0xC 0) [0, 0, 0, 0xFF] else s

/-- The values of an image whose complements are written with it (R559). -/
def complOf (img : Bytes) : Table Nat :=
  (parseImage img.length img none ([], Vector.replicate 8 [])).1.filter fun e => (entry (e.1 / 256) (e.1 % 256)).any (·.comp)

/-- Writes an image and a record that puts it in force, into the bank and the slot that are not (R585). -/
def State.commitImage (s : State) (img : Bytes) : State :=
  let old := s.dict.inForce
  let rec_ := match old with
    | some c => s.dict.commits[c]
    | none => []
  let bank := match old with
    | some _ => 1 - recField rec_ 8 1 % 2
    | none => 0
  let slot : Fin 2 := match old with
    | some c => 1 - c
    | none => 0
  let c := commitRecord (recField rec_ 4 4 + 1) bank img
  { s with dict := { s.dict with
    banks := if bank = 0 then s.dict.banks.set 0 img else s.dict.banks.set 1 img
    commits := s.dict.commits.set slot c
    bankCompl := if bank = 0 then s.dict.bankCompl.set 0 (complOf img) else s.dict.bankCompl.set 1 (complOf img)
    inForce := some slot, storeCount := s.dict.storeCount + 1 } }

/-- Whether a store of either kind is in progress (R585). -/
def State.storeBusy (s : State) : Bool := s.dict.storing.isSome || s.sec.storing.isSome

/-! ## Firmware (R539-R541) -/

/-- Whether an image passes the checks of the boot ROM for its kind (R539, R540). -/
def State.imageOk (s : State) (kind : Nat) (b : Bytes) : Bool :=
  b.take 8 == ascii "ELOA-FWI" && recField b 8 1 == kind && recField b 0x10 4 ≤ 6291200 && b.length == 256 + recField b 0x10 4
    && sm3Bytes (b.drop 256) == (b.drop 0x20).take 32
    && ((Config.firmwareKey (recField b 0x40 32)).any fun k => Config.sm2Verify k (b.take 0x60) (recField b 0x60 64))
    && s.sec.minSvn.toNat ≤ recField b 9 1

/-- An image of the firmware store: slot, KIND. -/
def State.fwImage (s : State) (slot : Fin 2) (kind : Nat) : Bytes := (s.sec.images.toList[2 * slot.val + (kind - 1)]?).getD []

/-- Whether the boot ROM accepts a slot; one that was filled and not committed since is left out (R540, R541; log 32). -/
def State.slotOk (s : State) (slot : Fin 2) : Bool :=
  (slot == s.sec.slot || s.sec.filled == 0) && s.imageOk 1 (s.fwImage slot 1) && s.imageOk 2 (s.fwImage slot 2)

/-- The slot that the boot ROM boots (R540). -/
def State.bootSlot (s : State) : Option (Fin 2) :=
  if s.slotOk 0 && s.slotOk 1 then some (if recField (s.fwImage 0 1) 9 1 < recField (s.fwImage 1 1) 9 1 then 1 else 0)
  else if s.slotOk 0 then some 0
  else if s.slotOk 1 then some 1
  else none

/-- SVN and VERSION of an image as the detail of its log entry (R544; log 31). -/
def imageDetail (b : Bytes) : Nat := recField b 9 1 + 2 ^ 32 * recField b 0xC 4

/-- Whether the complement pairs of the fuse counter and of the persistent copies in force agree (R560; log 63). -/
def State.pairsAgree (s : State) : Bool :=
  s.sec.minSvnC == ~~~s.sec.minSvn && match s.commitSlot with
    | none => true
    | some c =>
      let r := s.dict.commits[c]
      complOf (s.bankImage r) == (if recField r 8 1 = 0 then s.dict.bankCompl[0] else s.dict.bankCompl[1])

/-- The boot ROM: it measures and starts the firmware of a slot; it enters RECOVERY where a known-answer test fails, where a complement pair disagrees,
or where it accepts neither slot (R540, R543, R553, R560; log 63). -/
def State.bootRom (s : State) : State :=
  let (n, s) := s.draw 256
  let s := { s with sec := { s.sec with nonce := n, marked := false } }
  match (if Config.knownAnswers s.free && s.pairsAgree then s.bootSlot else none) with
  | none => { s with sec := { s.sec with recovery := true } }
  | some k =>
    let a := s.fwImage k 1
    let b := s.fwImage k 2
    let s := { s with sec := { s.sec with recovery := false, slot := k, svn := BitVec.ofNat 8 (recField a 9 1)
                                          version := BitVec.ofNat 32 (recField b 0xC 4), cleared := false } }
    let s := (s.extend 0 1 0 (BitVec.ofNat 256 Config.romDigest)).extend 0 2 (imageDetail a) (BitVec.ofNat 256 (recField a 0x20 32))
    let s := (s.extend 1 3 (imageDetail b) (BitVec.ofNat 256 (recField b 0x20 32))).extend 2 4 0 s.fuseDigest
    s.extend 3 5 0 (sm3 (imageOf s.dict.vals s.dict.overlays.toList))

/-- A mask with one bit put at a value. -/
def maskPut (m k : Nat) (v : Bool) : Nat := m - m / 2 ^ k % 2 * 2 ^ k + 2 ^ k * b2n v

/-- FW_IMAGE fills the inactive slot with an image of its KIND, which is new unless the running slot holds the very image (R541; log 32); nothing
where the bytes are no image of a kind. -/
def State.fillFirmware (s : State) (b : Bytes) : State :=
  let kind := recField b 8 1
  let at_ := 2 * (1 - s.sec.slot.val) + (kind - 1)
  if h : at_ < 4 then
    { s with sec := { s.sec with
      images := s.sec.images.set at_ b, filled := maskPut s.sec.filled (kind - 1) (b != s.fwImage s.sec.slot kind), marked := false } }
  else s

/-- Whether FW_IMAGE accepts bytes: an image of KIND 1 or 2 that fits its half of a slot (R539). -/
def fwFits (b : Bytes) : Bool := 256 ≤ b.length && b.length ≤ 6291456 && (recField b 8 1 == 1 || recField b 8 1 == 2)

/-- Whether the image of a KIND in the inactive slot, if it is new, passes the checks and is approved (R541). -/
def State.newImageOk (s : State) (kind : Nat) : Bool :=
  let b := s.fwImage (1 - s.sec.slot) kind
  !bit s.sec.filled (kind - 1) || (s.imageOk kind b && recField b 0x20 32 == s.work 0x6020 3)

/-- FW_COMMIT marks the inactive slot where it holds a new image and each one passes the checks and is approved; otherwise it records an event
(R541). -/
def State.commitFirmware (s : State) : State :=
  if s.sec.filled != 0 && s.newImageOk 1 && s.newImageOk 2 then
    { s with sec := { s.sec with marked := true, filled := 0 } }
  else s.event 0x83 (locDie 0 0xA 0) (leBytes 2 0x6020 ++ [5, 0xFF])

/-! ## Change orders (R552-R558, R563) -/

/-- An item of a change order. -/
structure CoItem where
  idx : Nat
  sub : Nat
  val : Bytes
  deriving DecidableEq, Repr

/-- The items of a change order and the length of its body, if every head and padding is right (R554). -/
def coItems : Nat → Nat → Bytes → Option (List CoItem × Nat)
  | 0, at_, _ => some ([], at_)
  | n + 1, at_, b =>
    let len := recField b (at_ + 4) 2
    let size := 8 + (len + 7) / 8 * 8
    if b.length < at_ + size || recField b (at_ + 3) 1 != 0 || recField b (at_ + 6) 2 != 0 || len = 0 || 256 < len
        || recField b (at_ + 8 + len) (size - 8 - len) != 0 then none
    else match coItems n (at_ + size) b with
      | some (l, e) => some ({ idx := recField b at_ 2, sub := recField b (at_ + 2) 1, val := (b.drop (at_ + 8)).take len } :: l, e)
      | none => none

/-- Whether an order replaces a custodian. -/
def coNewKey (b : Bytes) : Bool := bit (recField b 6 2) 0

/-- Whether the head of an order is right (R554). -/
def coHeadOk (b : Bytes) : Bool :=
  b.length ≤ 4096 && b.take 4 == ascii "ELCO" && recField b 4 1 == 1 && 1 ≤ recField b 5 1 && recField b 5 1 ≤ 32 && recField b 6 2 ≤ 1
    && recField b 0x4C 4 == 0

/-- An order's items and body length, where its form is right (R554). -/
def coParse (b : Bytes) : Option (List CoItem × Nat) :=
  if !coHeadOk b then none
  else match coItems (recField b 5 1) 0x50 b with
    | some (l, e) => if b.length = e + (if coNewKey b then 192 else 128) then some (l, e) else none
    | none => none

/-- The number from 1 of the first item with a wrong LEN, reserved field or padding; 0 where there is none before the order ends (R554, R555). -/
def coBadForm : Nat → Nat → Nat → Bytes → Nat
  | 0, _, _, _ => 0
  | left + 1, j, at_, b =>
    let len := recField b (at_ + 4) 2
    let size := 8 + (len + 7) / 8 * 8
    if b.length < at_ + 8 then 0
    else if recField b (at_ + 3) 1 != 0 || recField b (at_ + 6) 2 != 0 || len = 0 || 256 < len then j
    else if b.length < at_ + size then 0
    else if recField b (at_ + 8 + len) (size - 8 - len) != 0 then j
    else coBadForm left (j + 1) (at_ + size) b

/-- The failing item of an order whose form is wrong; 0 where the head or the length is (R555). -/
def coFormItem (b : Bytes) : Nat := if coHeadOk b then coBadForm (recField b 5 1) 1 0x50 b else 0

/-- The value that a list of items writes to an entry. -/
def coValue (l : List CoItem) (i sub : Nat) : Option Nat := (l.find? fun q => q.idx == i && q.sub == sub).map fun q => leNat q.val

/-- Whether an item writes a custodian entry. -/
def CoItem.custodian (q : CoItem) : Bool := q.idx == 0x6000 && (q.sub == 1 || q.sub == 2)

/-- Whether an item names an rw2 entry with a value of its size and within its range (R555, R562). -/
def State.coEntryOk (s : State) (q : CoItem) : Bool :=
  match entry q.idx q.sub with
  | none => false
  | some e =>
    let v := leNat q.val
    protectedEntry e && q.val.length == e.ty.width
      && (if q.idx = 0x6010 && q.sub ≠ 2 then decide (v ≤ 1)
          else if q.idx = 0x6020 && q.sub = 1 then decide (v ≤ 63) && decide (s.sec.minSvn.toNat ≤ v)
          else if 0x6100 ≤ q.idx && q.idx < 0x6140 then (if q.sub = 1 then decide (v ≤ 2) else if q.sub = 2 then decide (v ≤ 1) else true)
          else if 0x6200 ≤ q.idx && q.idx < 0x6204 then decide (v ≤ 7)
          else if 0x6400 ≤ q.idx then decide (v < 64) || v == 0xFF
          else true)

/-- The value of an entry in the end state of an order. -/
def State.coEnd (s : State) (l : List CoItem) (i sub : Nat) : Nat := (coValue l i sub).getD (s.work i sub)

/-- Whether the end state of an order keeps R550 and R563. -/
def State.coEndOk (s : State) (l : List CoItem) : Bool :=
  ((List.range 32640).all fun x =>
    let d := s.coEnd l (0x6400 + x / 128) (x % 128 + 1)
    64 ≤ d || s.coEnd l (0x6100 + d) 1 != 0)
  && (List.range 3).any fun p => s.coEnd l (0x6200 + p) 6 % 8 == 7

/-- The number from 1 of the first item that breaks an entry's rules or writes an entry again (R555). -/
def State.coBadItem (s : State) (l : List CoItem) : Option Nat :=
  ((List.range l.length).find? fun j => match l[j]? with
    | some q => !s.coEntryOk q || (l.take j).any fun p => p.idx == q.idx && p.sub == q.sub
    | none => false).map (· + 1)

/-- The number from 1 of the first INTAKE_KEY item that does not unwrap (R555). -/
def coBadKey (l : List CoItem) : Option Nat :=
  ((List.range l.length).find? fun j => match l[j]? with
    | some q => 0x6100 ≤ q.idx && q.idx < 0x6140 && q.sub == 3 && (Config.unwrapIntakeKey (leNat q.val)).isNone
    | none => false).map (· + 1)

/-- The number from 1 of the item that breaks the rule on custodian entries: the first one without NEWKEY, the second one with it; 0 where no single
item does (R555; log 30). -/
def coBadCustodian (newKey enrol : Bool) (l : List CoItem) : Nat :=
  let at_ := ((List.range l.length).filter fun j => (l[j]?).any (·.custodian)).map (· + 1)
  if enrol then 0 else if newKey then (at_[1]?).getD 0 else (at_[0]?).getD 0

/-- Both custodian entries hold zero: no enrolment has been applied (R556). -/
def State.unenrolled (s : State) : Bool := s.work 0x6000 1 == 0 && s.work 0x6000 2 == 0

/-- Whether an order's items are exactly those of an enrolment (R556). -/
def enrolment (l : List CoItem) : Bool := l.length == 2 && (coValue l 0x6000 1).isSome && (coValue l 0x6000 2).isSome

/-- The result code of an order, with the number of its failing item; 1 is STAGED (R555, R556). -/
def State.coCode (s : State) (b : Bytes) : Nat × Nat :=
  match coParse b with
  | none => (0x10, coFormItem b)
  | some (l, e) =>
    let body := b.take e
    let enrol := s.unenrolled
    let sig := fun k => recField b (e + 64 * k) 64
    let keyA := if enrol then coValue l 0x6000 1 else some (s.work 0x6000 1)
    let keyB := if enrol then coValue l 0x6000 2 else some (s.work 0x6000 2)
    let ok := fun (k : Option Nat) j => k.any fun k => Config.sm2Verify k body (sig j)
    let cust := l.filter (·.custodian)
    let newKey := coNewKey b
    if recField b 8 32 != Config.identityDigest then (0x11, 0)
    else if recField b 0x28 32 != s.sec.nonce.toNat then (0x12, 0)
    else if recField b 0x48 4 != s.work 0x6000 7 + 1 then (0x13, 0)
    else if !ok keyA 0 then (0x14, 0)
    else if !ok keyB 1 then (0x15, 0)
    else if (if newKey then enrol || cust.length != 1 || !(cust.head?.any fun q => Config.sm2Verify (leNat q.val) body (sig 2))
             else !enrol && !cust.isEmpty) then (0x16, coBadCustodian newKey enrol l)
    else match s.coBadItem l with
      | some j => (0x17, j)
      | none =>
        if (enrol && !enrolment l) || !s.coEndOk l then (0x17, 0)
        else match coBadKey l with
          | some j => (0x19, j)
          | none => if s.sec.locked then (0x1B, 0) else (1, 0)

/-- A change order written to CO_BUFFER is checked at once and staged or rejected (R555). -/
def State.coBuffer (s : State) (b : Bytes) : State :=
  let (code, item) := s.coCode b
  { s with sec := { s.sec with status := BitVec.ofNat 32 (code + 256 * item), staged := if code = 1 then some b else s.sec.staged } }

/-- Whether an item changes a domain state, ROUTINE_OK or an extent (R557). -/
def State.coTouches (s : State) (q : CoItem) : Bool :=
  ((0x6100 ≤ q.idx && q.idx < 0x6140 && (q.sub == 1 || q.sub == 2)) || (0x6400 ≤ q.idx && q.idx < 0x64FF))
    && leNat q.val != s.work q.idx q.sub

/-- CODE of CO_STATUS. -/
def State.coStatus (s : State) (code : Nat) : State := { s with sec := { s.sec with status := BitVec.ofNat 32 code } }

/-- CO_STORE begins to apply the staged order (R557, R561). -/
def State.coStoreBegin (s : State) : State :=
  match s.sec.staged with
  | none => s
  | some b =>
    if s.sec.locked then s.coStatus 0x1B
    else match coParse b with
      | none => s
      | some (l, _) =>
        if s.running && l.any s.coTouches then s.coStatus 0x18 else { s with sec := { s.sec with storing := some b } }

/-- The image that a change order commits: the values kept by the image in force, with the kept items of the order and its SEQUENCE
(R557; log 30). -/
def State.coImage (s : State) (l : List CoItem) (seq : Nat) : Bytes :=
  let (vals, ov) := match s.dict.inForce with
    | some c => let img := s.bankImage s.dict.commits[c]; parseImage img.length img none ([], Vector.replicate 8 [])
    | none => ([], Vector.replicate 8 [])
  let vals := l.foldl (fun t q => tPut t (q.idx * 256 + q.sub) (leNat q.val)) vals
  imageOf (tPut vals (0x6000 * 256 + 7) seq) ov.toList

/-- A key domain makes the transition that an order gives it: to ACTIVE it draws an XTS pair where it has none, to UNASSIGNED it loses the pair and
the intake key (R550). -/
def State.settleDomain (was : Nat → Nat) (s : State) (d : Nat) : State :=
  let st := s.work (0x6100 + d) 1
  if st = 1 && (was d = 0 || (tGet s.sec.xts d).isNone) then
    let (k, s) := s.draw 256
    { s with sec := { s.sec with xts := tPut s.sec.xts d k } }
  else if st = 0 && was d != 0 then { s with sec := { s.sec with xts := tDel s.sec.xts d, intake := tDel s.sec.intake d } }
  else s

/-- The extents that an order gives to a key domain which did not own them, by number (R438, R439). -/
def State.coMoved (s : State) (l : List CoItem) : List Nat :=
  l.filterMap fun q => if 0x6400 ≤ q.idx && q.idx < 0x64FF && s.coTouches q && leNat q.val < 64 then some ((q.idx - 0x6400) * 128 + (q.sub - 1)) else none

/-- An item of an applied order comes into force (R542, R557). -/
def State.coApply (s : State) (q : CoItem) : State :=
  let v := leNat q.val
  let s := s.setVal q.idx q.sub v
  let s := if 0x6100 ≤ q.idx && q.idx < 0x6140 && q.sub == 3 then
      match Config.unwrapIntakeKey v with
      | some k => { s with sec := { s.sec with intake := tPut s.sec.intake (q.idx - 0x6100) (BitVec.ofNat 256 k) } }
      | none => s
    else s
  if q.idx = 0x6020 && q.sub = 1 then { s with sec := { s.sec with minSvn := BitVec.ofNat 8 v, minSvnC := ~~~BitVec.ofNat 8 v } } else s

/-- A change-order store ends (R557): it applies every item or none; nothing where a routine runs by now and the order touches what a
running routine may rely on, so that it stays staged (R439), or where the unit is locked (R561). Reassigned extents are written with zeros under the new key (R439). -/
def State.coStoreEnd (s : State) (ok : Bool) : State :=
  match s.sec.storing with
  | none => s
  | some b =>
    let s := { s with sec := { s.sec with storing := none } }
    match coParse b with
      | none => s
      | some (l, _) =>
        if s.sec.locked then s.coStatus 0x1B
        else if s.running && l.any s.coTouches then s.coStatus 0x18
        else if !ok then s.coStatus 0x1A
        else
          let seq := recField b 0x48 4
          let moved := s.coMoved l
          let s := s.commitImage (s.coImage l seq)
          let was := fun d => s.work (0x6100 + d) 1
          let s := l.foldl State.coApply s
          let s := (List.range 64).foldl (State.settleDomain was) s
          let s := moved.foldl (fun (s : State) x => s.bankZero (x * 2 ^ 26) (2 ^ 26) (locDie 0 0xA 0)) s
          let s := (s.setVal 0x6000 7 seq).extend 6 9 seq (sm3 b)
          let (n, s) := s.draw 256
          ({ s with sec := { s.sec with staged := none, nonce := n } }).coStatus 2

/-- Debug access is unlocked (R428, R561). -/
def State.unlocked (s : State) : Bool := s.work 0x6010 1 == 1 && !s.sec.locked

/-! ## Complement-protected values (R559, R561) -/

/-- Protected entries whose two copies disagree, as index times 256 plus sub-index: an entry that neither copy lists is at its default in both. -/
def State.complDiffers (s : State) : List Nat :=
  ((s.dict.vals ++ s.dict.compl).map (·.1)).filter fun k =>
    tGet s.dict.vals k != tGet s.dict.compl k && (entry (k / 256) (k % 256)).any (·.comp)

/-- The first protected entry whose two copies disagree. -/
def State.complBad (s : State) : Option (Nat × Nat) :=
  match s.complDiffers with
  | [] => none
  | k :: l => let m := l.foldl min k; some (m / 256, m % 256)

/-- The comparison of the two copies, which each row that uses a protected entry makes first, with input power (R559, R612; log 105): a mismatch raises a module fault, is recorded as an event, and locks the unit (R561). -/
def State.complCheck (s : State) : State :=
  if !s.pow.on || s.sec.locked then s
  else match s.complBad with
    | none => s
    | some (i, sub) =>
      let detail := leBytes 2 i ++ leBytes 1 sub
      let loc := locDie 0 0xA 0
      let s := s.event 0x0A loc detail
      ({ s with sec := { s.sec with locked := true } }).moduleFault 0x0A loc s.nowCtx detail

/-! ## The rows of the security unit -/

/-- FW_IMAGE (R541). -/
def execFwImage (data : Bytes) (s : State) : Host.Outcome State Fault Refusal := commit s (if s.pow.on && fwFits data then s.fillFirmware data else s)

/-- FW_COMMIT (R541). -/
def execFwCommit (_arg : BitVec 32) (s : State) : Host.Outcome State Fault Refusal := commit s (if s.pow.on then s.complCheck.commitFirmware else s)

/-- CO_BUFFER (R555). -/
def execCoBuffer (data : Bytes) (s : State) : Host.Outcome State Fault Refusal := commit s (if s.pow.on then s.complCheck.coBuffer data else s)

/-- Whether a CO_STORE is refused with BUSY or for want of room in the measurement log (R545, R585). -/
def State.coStoreRefused (s : State) : Bool := s.storeBusy || !s.logRoom 1

/-- CO_STORE (R557). -/
def execCoStore (_arg : BitVec 32) (s : State) : Host.Outcome State Fault Refusal :=
  commit s (if !s.pow.on || s.coStoreRefused then s else s.complCheck.coStoreBegin)

/-- The end of a change-order store (R557). -/
def execCoStoreDone (ok : Bool) (s : State) : Host.Outcome State Fault Refusal := commit s (s.complCheck.coStoreEnd ok)

/-- A comparison of the complement-protected values (R559). -/
def execComplementCheck (s : State) : Host.Outcome State Fault Refusal := commit s s.complCheck

end Sys2Proof.Machine
end

