-- ==== Sys2Proof/Machine/Resets.lean ====
section
/-! DEFINITION. Resets and bring-up (21_reset.md R614-R632; 23_module_signals.md R668-R673; 20_power_clocks.md R594, R595, R609, R612). -/

namespace Sys2Proof.Machine

/-! ## Where a reset stands (R616) -/

/-- Bring-up stages 1 to 5 are in progress. -/
def State.resetting (s : State) : Bool := 1 ≤ s.pow.bringup && s.pow.bringup ≤ 5

/-- A module reset is discarded during a cold reset; bring-up that has stopped in RECOVERY or FAILED takes one (R616, R620). -/
def State.moduleBarred (s : State) : Bool := !s.pow.on || (s.pow.lastReset == 1 && s.resetting && !s.sec.recovery)

/-- A warm reset is discarded during a wider reset, in RECOVERY, and where bring-up has failed (R616, R620). -/
def State.warmBarred (s : State) : Bool :=
  !s.pow.on || s.pow.bringup == 0xF || s.sec.recovery || (s.pow.lastReset != 3 && s.resetting)

/-! ## Cold and module resets (R614, R618) -/

/-- What a cold reset keeps: the non-volatile memories, the keys of domains, and what lies outside the module (R618). -/
def State.coldKept (s : State) : State :=
  { State.reset with
    pending := s.pending, free := s.free, uid := s.uid, grade := s.grade, fused := s.fused, host := s.host, buddy := s.buddy
    links := s.links.map fun (k : Link) => { cable := k.cable }
    sec := { images := s.sec.images, slot := s.sec.slot, marked := s.sec.marked, filled := s.sec.filled, minSvn := s.sec.minSvn, minSvnC := s.sec.minSvnC
             xts := s.sec.xts, intake := s.sec.intake }
    dict := { banks := s.dict.banks, commits := s.dict.commits, bankCompl := s.dict.bankCompl, storeCount := s.dict.storeCount }
    pow := { vin := s.pow.vin, modrst := s.pow.modrst, warmrst := s.pow.warmrst, perst := s.pow.perst } }

/-- ACTUAL follows COMMANDED at a cold or module reset (R588, R618). -/
def State.actualFromCommanded (s : State) : State :=
  { s with actual := ((List.range 48).filter fun n => s.base (0x8000 + n) 1 1 == 0).map fun n => (n, 4) }

/-- A cold reset: the whole module, from stage 1 on (R614, R618). -/
def State.coldReset (s : State) (cause : Nat) : State :=
  let t := s.coldKept
  { t with pow := { t.pow with on := true, bringup := 1, lastReset := 1, resetCause := BitVec.ofNat 8 cause } }

/-- The conversion stops: nothing is left but the non-volatile memories (R612). The error log stays until the next cold reset clears
it (R618; log 33). -/
def State.powerOff (s : State) (cause : Nat) (trip : Bool) : State :=
  let t := s.coldKept
  { t with errs := s.errs, errSeq := s.errSeq
           pow := { t.pow with on := false, bringup := 0, trip := trip, resetCause := BitVec.ofNat 8 cause } }

/-- The port trains: SPEED, WIDTH and FLIT follow from the link partner (R512, R526). -/
def State.trainPort (s : State) : State :=
  let (x, s) := s.draw 8
  let (y, s) := s.draw 8
  let (z, s) := s.draw 1
  { s with
    pow := { s.pow with trained := true }
    port := { s.port with speed := BitVec.ofNat 3 (1 + x.toNat % 6), width := BitVec.ofNat 5 (2 ^ (y.toNat % 5)), flit := z == 1 } }

/-- The boot stage begins once MODRST_N is high, and after stage 1 WARMRST_N too; a WARMRST_N that is low during a module reset has been discarded
(R540, R615, R616, R618, R669). The module reads its commit slots first, and a port whose PERST_N is high trains (R586; log 9). -/
def State.startBoot (s : State) : State :=
  if s.pow.modrst && (s.pow.warmrst || s.pow.bringup != 1) then
    let s := s.loadSettings.actualFromCommanded
    let s := { s with pow := { s.pow with bringup := 2, booted := false }, scanned := Vector.replicate 2 none }.bootRom
    if s.pow.perst then s.trainPort else s
  else s

/-- A module reset: everything but the conversion and the non-volatile memories; the error log is kept (R614, R618). -/
def State.moduleReset (s : State) (cause : Nat) : State :=
  let t := s.coldKept
  let t := { t with
    errs := s.errs, errSeq := s.errSeq, taps := s.taps
    pow := { t.pow with on := true, pwrgd := s.pow.pwrgd, trip := s.pow.trip, ref100 := s.pow.ref100, bringup := 2, lastReset := 2
                        resetCause := BitVec.ofNat 8 cause } }
  t.startBoot

/-! ## Warm reset (R617, R619, R626, R627, R630) -/

/-- Whether an event of a domain stands for a word that crosses a clock on its way there: a signal of another domain, the clear of a module cue,
data from another region (R14, R309, R338). -/
def State.wordCrosses (s : State) (d : Nat) : EvK → Bool
  | .sig g => s.domOf g.src != d
  | .mcueClear _ => true
  | k => k.crosses s d

/-- Whether an acknowledgement crosses a clock: from another region, or from bank memory. -/
def State.ackCrosses (s : State) : Ack → Bool
  | .direct n id => (s.clus n).unacked.any fun o => o.id == id && s.regionOf o.dst != s.regionOf n
  | .bulk id dst _ => dst == 48 || (s.bulks.find? (·.id == id)).any fun b => 48 ≤ b.who || s.regionOf dst != s.regionOf b.who

/-- Words in flight across the crossings of the module: timed and untimed signals, SIGNAL words that wait in links, data words and acknowledgements
between clocks, and granules on their way between bank memory and a region (R338, R340, R627; log 93). -/
def State.inFlight (s : State) : Nat :=
  s.untimed.length + (s.links.toList.map Link.signalsHeld).sum + (s.acks.filter s.ackCrosses).length
    + ((List.range 10).map fun d => ((s.domN d).evs.filter fun e => s.wordCrosses d e.k).length).sum
    + (s.cl.toList.map fun c => (c.movers.toList.map fun v => v.out.length).sum).sum

/-- A rotation of a set is under way: a member has made its first read and ROTATION has not advanced (R630). -/
def State.rotating (s : State) (k : Nat) : Bool :=
  let r := s.resident k
  r.turned != 0 || r.memberList.any fun n =>
    (s.clus n).rotating.any (·.set == k) || (s.clus n).movers.toList.any fun m => m.floor.any fun j => match j.cmd with
      | .rotate set _ _ _ => set == k && 0 < j.n
      | _ => false

/-- A set whose rotation a warm reset interrupts becomes UNSETTLED, with an event (R630). -/
def State.unsettle (s : State) (k : Nat) : State :=
  if s.rotating k && (s.resident k).state != .empty then
    let s := s.modResident k fun r => { r with state := .unsettled, turned := 0 }
    let d := leBytes 32 (s.resident k).digest.toNat
    s.event 0x85 (locDie 0 0 0) ([BitVec.ofNat 8 k, BitVec.ofNat 8 RsState.unsettled.code] ++ d.take 14)
  else s

/-- A cluster after its logic has been reset: the floor outside resident sets is not kept (R618, R628). -/
def State.resetCluster (s : State) (n : Nat) (c : Cluster) : Cluster :=
  { floor := c.floor.filter fun b => s.keepsByte n b.1
    upsets := c.upsets.filter fun u => s.keepsByte n (8 * u.1)
    fenced := c.fenced }

/-- Enabled links begin training (R623). -/
def State.trainLinks (s : State) : State :=
  { s with links := Vector.ofFn fun (l : Fin 16) =>
      if s.linkUsed l && !(s.links[l].st == .up || s.links[l].st == .keying) then { s.links[l] with st := .training, lane := false }
      else s.links[l] }

/-- The bytes of a cluster's floor that the march of a warm self-test skips: those of sets that are SETTLED, DIRTY or UNSETTLED (R626). -/
def State.marchSkips (s : State) (n a : Nat) : Bool :=
  s.residents.toList.any fun r => (r.state == .settled || r.state == .dirty || r.state == .unsettled) && r.meets n (a / 64 * 64) 64

/-- A cluster after a warm self-test: what the march has not skipped is not kept (R618, R626). -/
def State.marchCluster (s : State) (n : Nat) (c : Cluster) : Cluster :=
  { floor := c.floor.filter fun b => s.marchSkips n b.1
    upsets := c.upsets.filter fun u => s.marchSkips n (8 * u.1)
    fenced := c.fenced }

/-- The core set point of a rail at a setting, in mV (R598). -/
def corePointOf (setting : Nat) : BitVec 16 := if setting = 3 then 800 else if setting = 2 then 720 else 620

/-- Beat lock is lost: HOLD_REQ with CAUSE FAULT until it returns; stamps read 0 and the generators run at 0b01 before it does (R45, R612,
R617, R621, R624; log 96). -/
def State.unlockBeat (s : State) : State :=
  { s with beat := { s.beat with locked := false, valid := 0, holdReq := true, cause := 6, bar := 0, beat := 0, setting := 1, announced := none }
           pow := { s.pow with mon := s.pow.mon.map fun (m : Monitor) => { m with corePoint := corePointOf 1 } } }

/-- A warm reset: an invocation ends, logic and links reset, crossings resynchronise, and bring-up enters its warm form
(R614, R617-R619, R626, R627, R630), which waits in stage 2 where REF100 is not valid (R668); the security unit draws a new nonce, which voids a staged order, and gives up a store of one
(R553, R557). -/
def State.warmReset (s : State) (cause : Nat) : State :=
  let words := s.inFlight
  let (nonce, s) := s.draw 256
  let s := { s with sec := { s.sec with nonce, staged := none, storing := none } }
  let s := (List.range 64).foldl State.unsettle s
  let s := (s.endInvocation).stopSnap true
  let s := s.count 0x9004 5 words
  let s := { s with
    cl := Vector.ofFn fun (i : Fin 48) => s.marchCluster i s.cl[i]
    dom := s.dom.map fun (_ : Dom) => ({ stopped := s.rt.faultReport } : Dom)
    seqs := Vector.replicate 2 {}
    mck := Vector.replicate 8 {}
    chans := s.rt.routes.map fun (e : Nat × Route) => (e.1, freshChan e.2)
    landing := Vector.replicate 2 []
    links := Vector.ofFn fun (l : Fin 16) => s.links[l].destroyed (s.linkUsed l)
    contribs := []
    isu := { s.cancelItems.isu with tell := [], busy := none }
    rt := { s.rt with runState := 0 }
    beat := { s.beat with live := s.beat.live.filter (·.cause == 6), inHold := false }
    pow := { s.pow with bringup := if s.pow.ref100 then 3 else 2, booted := true, bringupFault := 0, warm := true, lastReset := 3, resetCause := BitVec.ofNat 8 cause, testing := [] } }
  s.unlockBeat

/-! ## Cluster and link resets (R616, R628, R629) -/

/-- Whether CLUSTER_RESET and LINK_RESET are refused (R616). -/
def State.blockResetBarred (s : State) : Bool := s.running || s.pow.bringup != 7

/-- A cluster reset (R628). -/
def State.clusterReset (s : State) (n : Nat) : State :=
  let s := s.modCl n (s.resetCluster n)
  { s with pow := { s.pow with testing := s.pow.testing.filter (· != n) ++ [n] } }

/-- The test of R641 by the POS and the UNIT of the location word of what has failed. -/
def testOf (loc : Nat) : Nat :=
  let unit := bits loc 9 6
  if bits loc 12 10 < 6 then
    (match unit with
     | 1 => 1
     | 2 => 2
     | 3 => 0
     | 5 => 4
     | 6 => 3
     | _ => 6)
  else if bits loc 12 10 = 6 then (if unit = 3 then 5 else 6)
  else if unit = 4 || unit = 5 then 5
  else if unit = 6 then 4
  else 6

/-- ACTUAL after a cluster's self-test: from COMMANDED where it passes, FENCED with CAUSE UNIT_FAULT where a unit fails (R588, R628, R641). -/
def State.clusterTested (s : State) (n : Nat) (failed : Option (Fin 8)) : State :=
  let s := { s with pow := { s.pow with testing := s.pow.testing.filter (· != n) } }
  match failed with
  | none =>
    let s := s.modCl n fun c => { c with fenced := false }
    ({ s with actual := if s.base (0x8000 + n) 1 1 = 1 then tDel s.actual n else tPut s.actual n 4 }).discrepancies1
  | some u =>
    let loc := s.locLc n u 0
    s.unitFault n 8 loc s.nowCtx loc [BitVec.ofNat 8 (testOf loc)]

/-! ## Rows -/

/-- The input reaches its start threshold (R595, R614): 44 V, and below 58 V after a stop above 60 V. -/
def execColdReset (vin : Nat) (s : State) : Host.Outcome State Fault Refusal :=
  commit s (
    let high := 60000 < s.pow.vin.toNat
    if !s.pow.on && !s.pow.trip && 44000 ≤ vin && vin ≤ 60000 && (!high || vin < 58000) then
      ({ s with pow := { s.pow with vin := BitVec.ofNat 16 vin } }).coldReset s.pow.resetCause.toNat
    else s)

/-- MODULE_RESET (R616, R632). -/
def State.moduleCmd (s : State) : State := if s.moduleBarred then s else s.moduleReset 4

/-- WARM_RESET (R616, R632). -/
def State.warmCmd (s : State) : State := if s.warmBarred then s else s.warmReset 4

/-- MODULE_RESET: its argument is 0x5453_524D (R632). -/
def execModuleReset (arg : BitVec 32) (s : State) : Host.Outcome State Fault Refusal :=
  commit s (if arg = 0x5453524D then s.moduleCmd else s)

/-- WARM_RESET: its argument is 0x5453_5257 (R632). -/
def execWarmReset (arg : BitVec 32) (s : State) : Host.Outcome State Fault Refusal :=
  commit s (if arg = 0x54535257 then s.warmCmd else s)

/-- Whether CLUSTER_RESET accepts an argument: a cluster that is there and enabled (R616, R632). -/
def State.clusterResetOk (s : State) (arg : Nat) : Bool := !s.blockResetBarred && decide (arg < s.lcMax) && s.base (0x8000 + arg) 1 1 == 1

/-- Whether LINK_RESET accepts an argument (R616, R632). -/
def State.linkResetOk (s : State) (arg : Nat) : Bool := !s.blockResetBarred && decide (arg < 16) && s.linkUsed arg

/-- CLUSTER_RESET (R628, R632). -/
def execClusterReset (arg : BitVec 32) (s : State) : Host.Outcome State Fault Refusal :=
  commit s (if s.pow.on && s.clusterResetOk arg.toNat then s.clusterReset arg.toNat else s)

/-- LINK_RESET (R629, R632). -/
def execLinkReset (arg : BitVec 32) (s : State) : Host.Outcome State Fault Refusal :=
  commit s (if s.pow.on && s.linkResetOk arg.toNat then s.linkReset arg.toNat else s)

/-- MODRST_N low for a time: from 16 µs on a module reset starts, which holds until the pin rises; in stage 1 of a cold reset the pin
only holds bring-up (R615, R669). -/
def execModrstN (lowUs : Nat) (s : State) : Host.Outcome State Fault Refusal :=
  commit s (
    if lowUs < 16 || !s.pow.modrst then s
    else
      let barred := s.moduleBarred
      let s := { s with pow := { s.pow with modrst := false } }
      if barred then s else s.moduleReset 3)

/-- WARMRST_N low for a time: from 16 µs on a warm reset starts, which holds until the pin rises (R615). -/
def execWarmrstN (lowUs : Nat) (s : State) : Host.Outcome State Fault Refusal :=
  commit s (
    if lowUs < 16 || !s.pow.warmrst then s
    else
      let barred := s.warmBarred
      let s := { s with pow := { s.pow with warmrst := false } }
      if barred then s else s.warmReset 3)

/-- The filtered rising edge of MODRST_N or WARMRST_N: a reset that it held goes on (R615, R669). -/
def execFilteredRisingEdge (warm : Bool) (s : State) : Host.Outcome State Fault Refusal :=
  commit s (
    if (if warm then s.pow.warmrst else s.pow.modrst) then s
    else
      let s := { s with pow := { s.pow with warmrst := s.pow.warmrst || warm, modrst := s.pow.modrst || !warm }
                        scanned := if warm then s.scanned else Vector.replicate 2 none }
      let waits := (s.pow.bringup == 1 && s.pow.pwrgd) || (s.pow.bringup == 2 && s.sec.cleared && !s.sec.recovery)
      if s.pow.on && waits then s.startBoot else s)

/-- Stage 1 ends: PWRGD rises, and boot begins unless a reset pin is low; a conversion that does not regulate stops (R620, R669). -/
def execPowerStageDone (inRegulation : Bool) (s : State) : Host.Outcome State Fault Refusal :=
  commit s (
    if !s.pow.on || s.pow.bringup != 1 || s.pow.pwrgd then s
    else if inRegulation then ({ s with pow := { s.pow with pwrgd := true } }).startBoot
    else s.powerOff s.pow.resetCause.toNat s.pow.trip)

/-- Stage 2 ends once the firmware runs; stage 3 waits for REF100 (R620, R668). -/
def execBootDone (s : State) : Host.Outcome State Fault Refusal :=
  commit s (
    if s.pow.bringup != 2 || s.sec.recovery || s.sec.cleared then s
    else { s with pow := { s.pow with booted := true, bringup := if s.pow.ref100 then 3 else 2 } })

/-- REF100 has been valid for 1 ms (R668). -/
def execRef100Valid (s : State) : Host.Outcome State Fault Refusal :=
  commit s (
    if !s.pow.on then s
    else { s with pow := { s.pow with ref100 := true, bringup := if s.pow.bringup == 2 && s.pow.booted then 3 else s.pow.bringup } })

/-- A block fails its self-test: a cluster is fenced, a region-level block faults its region, a die-level block faults the module and
fails bring-up (R621). -/
def State.testFailed (s : State) (loc : Nat) : State :=
  let pos := bits loc 12 10
  let region := bits loc 15 15 * 4 + bits loc 14 13
  let detail := [BitVec.ofNat 8 (testOf loc)]
  if pos < 6 then
    let n := s.logicalOf (region * 6 + pos)
    if n < 48 then s.unitFault n 8 loc s.nowCtx loc detail else s
  else if pos = 6 then s.regionFault region 8 loc detail
  else
    let s := s.moduleFault 8 loc s.nowCtx detail
    { s with pow := { s.pow with bringup := 0xF, bringupFault := BitVec.ofNat 16 loc } }

/-- Stage 3 ends: the failed blocks are handled, and memory training follows, or link training after a warm reset (R620, R621,
R626). -/
def execSelftestDone (failed : List (BitVec 16)) (s : State) : Host.Outcome State Fault Refusal :=
  commit s (
    if s.pow.bringup != 3 || (s.pow.lastReset == 3 && !s.pow.warmrst) then s
    else
      let words := ascending ((failed.map (·.toNat)).filter locNames)
      let s := words.foldl State.testFailed s
      if s.pow.bringup == 0xF then s
      else if s.pow.warm then ({ s with pow := { s.pow with bringup := 5 } }).trainLinks
      else { s with pow := { s.pow with bringup := 4 } })

/-- The self-test of a cluster reset ends: every unit passes, or one by its UNIT code fails (R628, R641). -/
def execClusterSelftestDone (n : Fin 48) (failed : Option (Fin 8)) (s : State) : Host.Outcome State Fault Refusal :=
  commit s (if s.pow.testing.contains n.val then s.clusterTested n failed else s)

/-- Stage 4 ends: TRAINED of every package, and zero data in every burst; a package that fails, fails bring-up (R620, R622). -/
def execMemtrainDone (failed : List (Fin 32)) (s : State) : Host.Outcome State Fault Refusal :=
  commit s (
    if s.pow.bringup != 4 then s
    else
      let s := { s with pkgs := (List.range 32).map fun p => (p, if failed.any (·.val == p) then 2 else 1) }
      match failed with
      | p :: _ => { s with pow := { s.pow with bringup := 0xF, bringupFault := BitVec.ofNat 16 (locDie (p.val / 16) 3 (p.val % 16)) } }
      | [] =>
        let bad := s.bankErr.filterMap fun (e : Nat × BurstErr) => if e.2.defect = 0 then none else some (e.1, { e.2 with stored := 0 })
        ({ s with bank := [], bankErr := bad, bankScrub := [], pow := { s.pow with bringup := 5 } }).trainLinks)

/-- Link training ends: a link without lane lock stays DOWN, with an event; in bring-up stage 5 follows (R620, R623, R629). -/
def execLinktrainDone (s : State) : Host.Outcome State Fault Refusal :=
  commit s (
    if s.pow.bringup != 5 && s.pow.bringup != 6 && s.pow.bringup != 7 then s
    else
      let late := (List.range 16).filter fun l => (s.link l).st == .training && !(s.link l).lane
      let s := late.foldl (fun (s : State) l => (s.modLink l fun k => { k with st := .down }).linkEvent l 0xFFFF) s
      if s.pow.bringup = 5 then { s with pow := { s.pow with bringup := 6 } } else s)

/-- The input leaves 40 V to 60 V: the conversion stops (R594, R595, R612). -/
def execPowerLoss (vin : Nat) (s : State) : Host.Outcome State Fault Refusal :=
  commit s (
    if s.pow.on && (vin < 40000 || 60000 < vin) then
      (({ s with pow := { s.pow with vin := BitVec.ofNat 16 (min vin 65535) } }).powerOff 1 false)
    else s)

/-- The trip latch releases once VIN has been below 40 V for 1 s (R609, R672). -/
def execThermtripRelease (lowMs : Nat) (s : State) : Host.Outcome State Fault Refusal :=
  commit s (if s.pow.trip && 1000 ≤ lowMs then { s with pow := { s.pow with trip := false } } else s)

/-- CBL_3V3 of a link: on only for an enabled link with a cable present (R664). -/
def State.cbl3v3 (s : State) (l : Nat) : Bool := (s.link l).cable && s.linkUsed l

/-- CBL_PRSNT_N of a link changes (R664). -/
def execCblPrsntN (l : Fin 16) (present : Bool) (s : State) : Host.Outcome State Fault Refusal :=
  commit s (s.modLink l fun k => { k with cable := present })

end Sys2Proof.Machine
end

