-- ==== Sys2Proof/Machine/Monitors.lean ====
section
/-! DEFINITION. Region monitors and the safe setting: sensors, thermal steps, droop and power steps, overrides, the thermal trip
(20_power_clocks.md R596-R609, R613; 02_beats_and_bars.md R51, R59). -/

namespace Sys2Proof.Machine

/-! ## Temperature (R601-R604) -/

/-- The median of at most three samples (R601): of two, the higher. -/
def median : List Int → Int
  | [a, b, c] => max (min a b) (min (max a b) c)
  | [a, b] => max a b
  | [a] => a
  | _ => 0

/-- A sensor after the sample of a beat (R601, R602): samples outside -40 °C to 150 °C are invalid. -/
def Sensor.take (q : Sensor) (v : Int) : Sensor :=
  if -400 ≤ v && v ≤ 1500 then { q with recent := (v :: q.recent).take 3, missed := 0 } else { q with missed := q.missed + 1 }

/-- The region's temperature: the highest reading among its sensors that have not failed (R601). -/
def Monitor.hottest (m : Monitor) : Int :=
  (m.sensors.toList.filter fun q => !q.failed && !q.recent.isEmpty).foldl
    (fun (a : Option Int) q => some (match a with
      | some v => max v (median q.recent)
      | none => median q.recent)) none |>.getD m.temp

/-- Thresholds of the steps in 0.1 °C: TEMP_STEP1, TEMP_STEP2, 103 °C, 108 °C (R603). -/
def State.stepAt (s : State) (i : Nat) : Int :=
  if i = 0 then 10 * s.bound7 7 else if i = 1 then 10 * s.bound7 8 else if i = 2 then 1030 else 1080

/-- A step after a beat at a temperature: it takes effect at its threshold, and its beats at 3 °C or more below it are counted
(R603). -/
def StepReq.heat (q : StepReq) (temp threshold : Int) : StepReq :=
  if threshold ≤ temp then { on := true, cool := 0 }
  else if q.on then { q with cool := if temp ≤ threshold - 30 then q.cool + 1 else 0 }
  else q

/-- The samples of a beat form a region's temperature and its steps (R601, R603). -/
def State.sampleRegion (s : State) (r : Nat) (temps : List Int) : State :=
  s.modMon r fun m =>
    let m := { m with sensors := Vector.ofFn fun (i : Fin 4) =>
      match temps[4 * r + i.val]? with
      | some v => m.sensors[i].take v
      | none => m.sensors[i].take 9999 }
    let t := m.hottest
    { m with temp := t, steps := Vector.ofFn fun (i : Fin 4) => m.steps[i].heat t (s.stepAt i) }

/-- Whether a step of a region is in force. -/
def Monitor.step (m : Monitor) (i : Nat) : Bool := (m.steps.toList[i]?).any (·.on)

/-! ## The safe setting (R602, R603, R605-R608) -/

/-- The power limit in force comes from POWER_LIMIT alone (R607, R608). -/
def State.softLimit (s : State) : Bool := s.bound7 3 < min (modeMaximum s.mode.toNat) s.voltageCap

/-- What the protective rows require of a region: the hardware rows of R603, the mode maximum, the cap of R594 (R607). -/
def State.hardReq (s : State) (m : Monitor) : Nat :=
  min (if m.step 2 || m.step 3 then 1 else 3) (if s.pow.step && !s.softLimit then s.pow.stepSet else 3)

/-- What the other monitors of a region require: failed sensors, software thresholds, droop, POWER_LIMIT (R602, R603, R605, R606). -/
def State.softReq (s : State) (m : Monitor) : Nat :=
  let f := if m.anyFailed then 2 else 3
  let t1 := if m.step 0 then 2 else 3
  let t2 := if m.step 1 then 1 else 3
  let d := if m.droop.on then m.droopSet else 3
  let p := if s.pow.step && s.softLimit then s.pow.stepSet else 3
  min f (min t1 (min t2 (min d p)))

/-- The safe setting that a region reports (R607). -/
def State.reported (s : State) (m : Monitor) : Nat :=
  let floor_ := s.bound7 5
  let hard := s.hardReq m
  let want := if hard < floor_ then hard else max floor_ (min hard (s.softReq m))
  min want (min (s.bound7 6) (modeCeiling s.mode.toNat))

/-- The hardware bounds of a region that require less than SETTING_FLOOR: row 2 (103 °C) and row 3 (108 °C) of R603, and 4 for the mode maximum and the
cap of R594 (R607). -/
def State.hardBounds (s : State) (m : Monitor) : List Nat :=
  let f := s.bound7 5
  (if m.step 2 && 1 < f then [2] else []) ++ (if m.step 3 && 1 < f then [3] else [])
    ++ (if s.pow.step && !s.softLimit && s.pow.stepSet < f then [4] else [])

/-- The entry that an override names for a hardware bound, with its value: LIMIT_IN_FORCE for a power bound; the rows of R603 have no entry, and the
SETTING_FLOOR that they override stands for them (R607, R641; log 34). -/
def State.hardEntry (s : State) (k : Nat) : Nat × Nat := if k = 4 then (4, s.powerLimit) else (5, s.bound7 5)

/-- The software bounds of a region that require less than SETTING_FLOOR: sub-index and value (R608). -/
def State.unmetBounds (s : State) (m : Monitor) : List (Nat × Nat) :=
  let f := s.bound7 5
  (if s.pow.step && s.softLimit && s.pow.stepSet < f then [(3, s.bound7 3)] else [])
  ++ (if m.step 0 && 2 < f then [(7, s.bound7 7)] else [])
  ++ (if m.step 1 && 1 < f then [(8, s.bound7 8)] else [])
  ++ (if m.droop.on && m.droopSet < f then [(9, s.bound7 9)] else [])

/-- The detail of an override or of an unmet bound: the entry, its value, the setting applied (R641). -/
def boundDetail (idx sub v applied : Nat) : Bytes := leBytes 2 idx ++ leBytes 1 sub ++ [0] ++ leBytes 4 v ++ leBytes 1 applied

/-- The sensor of a region whose reading is its temperature, the lowest such one (R22, R601). -/
def State.locHottest (s : State) (r : Nat) : Nat :=
  let m := s.monN r
  locRegion r 2 ((m.sensors.toList.findIdx? fun q => !q.failed && !q.recent.isEmpty && median q.recent == m.temp).getD 0)

/-- The voltage and droop monitor of a region (R22). -/
def locDroop (r : Nat) : Nat := locRegion r 1 0

/-- The block whose requirement a bound of a region answers: a sensor for a temperature, otherwise the voltage and droop monitor, also for a bound of
the module's input power, which no unit of R22 stands for (R22, R607, R608; DESIGN CHOICE, log 34). -/
def State.locBound (s : State) (r sub : Nat) : Nat := if sub = 5 || sub = 7 || sub = 8 then s.locHottest r else locDroop r

/-- A region reports its safe setting. An override is recorded as its bound begins to be overridden, or as the setting applied changes; an unmet bound
as it begins to be unmet (R607, R608; log 34). -/
def State.reportRegion (s : State) (r : Nat) : State :=
  let m := s.monN r
  let v := s.reported m
  let hard := (s.hardBounds m).map fun k => (k, v)
  let soft := s.unmetBounds m
  let s := (hard.filter fun k => !m.overriding.contains k).foldl (fun (s : State) k =>
    let b := s.hardEntry k.1
    let s := s.event 0x80 (s.locBound r b.1) (boundDetail 0x7000 b.1 b.2 v)
    { s with pow := { s.pow with overrides := s.pow.overrides + 1 } }) s
  let s := (soft.filter fun b => !m.unmetting.contains b.1).foldl (fun (s : State) b =>
    let s := s.event 0x81 (s.locBound r b.1) (boundDetail 0x7000 b.1 b.2 0)
    { s with pow := { s.pow with unmet := s.pow.unmet + 1 } }) s
  s.modMon r fun m =>
    { m with safe := BitVec.ofNat 2 v, overriding := hard, unmetting := soft.map (·.1)
             below := if v < s.beat.setting.toNat then some (m.below.getD s.beat.bar.toNat) else none }

/-- Every region reports (R601, R607). -/
def State.reportAll (s : State) : State := (List.range 8).foldl State.reportRegion s

/-- The causes PROTECT and SETTING hold READY until they clear (R59, R60, R604). -/
def State.settleProtect (s : State) : State :=
  let ok := (List.range 8).all fun r => s.beat.setting.toNat ≤ (s.monN r).safe.toNat && !(s.monN r).step 3
  if ok then s.clearCause 5 50 else s

/-! ## The monitors of a beat -/

/-- A thermal trip (R603, R609): the record, THERMTRIP, and the loss of power. -/
def State.thermalTrip (s : State) : State :=
  let detail := (List.range 8).flatMap fun r => leBytes 2 (BitVec.ofInt 16 (s.monN r).temp).toNat
  (s.event 0x0D (locDie 0 7 0) detail).powerOff 2 true

/-- A region that reaches 108 °C raises hold at once, with an event that names the region and its temperature, also where a hold with CAUSE PROTECT
stands (R603, R604). -/
def State.hotHold (s : State) (r : Nat) : State :=
  let m := s.monN r
  let hot := m.step 3
  let s := s.modMon r fun m => { m with hot }
  if !hot || m.hot then s
  else
    let loc := s.locHottest r
    let s := s.event 0x80 loc (boundDetail (0x7010 + r) 1 m.temp.toNat m.safe.toNat)
    (s.raiseHold 5 50 loc none s.nowCtx).holdAll

/-- The regulators of the rails follow the setting: to the set point of a higher one that is announced, before its bar begins, and to that of a lower
one within the beat in which it comes into force (R598, R599). -/
def State.moveRails (s : State) : State :=
  let at_ := corePointOf (max s.beat.setting.toNat ((s.beat.announced.map (·.1)).getD 0))
  { s with pow := { s.pow with mon := s.pow.mon.map fun (m : Monitor) => { m with corePoint := at_ } } }

/-- A beat boundary of the power area: values written in the beat take effect, the rails follow the setting, and a generator that lost lock has it
again (R597-R599, R613; log 104). -/
def State.powerBeat (s : State) : State :=
  let s := { s with pow := { s.pow with held := [], mon := s.pow.mon.map fun (m : Monitor) => { m with lock := true } } }
  s.moveRails

/-- The droop monitor judges the beat that has ended: more stretched periods than DROOP_LIMIT require one setting less (R605). -/
def State.judgeDroop (s : State) (r : Nat) : State :=
  let n := (s.domN r).stretched
  let limit := s.bound7 9
  let set := max 1 (s.beat.setting.toNat - 1)
  let s := s.modMon r fun m =>
    if limit < n then { m with droop := { on := true, cool := 0 }, droopSet := if m.droop.on then min m.droopSet set else set }
    else if m.droop.on then { m with droop := { m.droop with cool := m.droop.cool + 1 } }
    else m
  s.modDom r fun x => { x with stretched := 0 }

/-- The bar mean of input power is judged at a bar boundary (R606, R613). -/
def State.judgePower (s : State) (watts : Nat) : State :=
  let s := { s with pow := { s.pow with
    watts := BitVec.ofNat 16 watts
    mon := s.pow.mon.map fun (m : Monitor) => { m with stretch := m.stretchNow, stretchNow := 0 } } }
  if s.powerLimit < watts then { s with pow := { s.pow with step := true, stepSet := max 1 (s.beat.setting.toNat - 1) } } else s

/-- What the module senses in a beat: temperatures, rails and the input voltage (R596, R601, R613). -/
def State.senseBeat (s : State) (e : Sense) : State :=
  let s := { s with pow := { s.pow with
    vin := BitVec.ofNat 16 e.vin
    mon := Vector.ofFn fun (r : Fin 8) => { s.pow.mon[r] with vcore := BitVec.ofNat 16 ((e.rails[r.val]?).getD 0) } } }
  let s := (List.range 8).foldl (fun (s : State) r => s.sampleRegion r e.temps) s
  if (List.range 8).any fun r => 1150 ≤ (s.monN r).temp then s.thermalTrip
  else (List.range 8).foldl State.hotHold s

/-! ## Rows -/

/-- A sensor without a valid sample for 8 beats has failed; the fourth of a region faults it at the next bar boundary (R602). -/
def State.failSensor (s : State) (r i : Nat) : State :=
  let m := s.monN r
  if h : i < 4 then
    if m.sensors[i].failed || m.sensors[i].missed < 8 then s
    else
      let m := { m with sensors := m.sensors.set i { m.sensors[i] with failed := true }, anyFailed := true }
      let mask := (List.range 4).foldl (fun a j => a + 2 ^ j * b2n ((m.sensors.toList[j]?).any (·.failed))) 0
      (s.modMon r fun _ => m).event 7 (locRegion r 2 i) [BitVec.ofNat 8 mask]
  else s

/-- A region with four failed sensors faults at the next bar boundary (R602). -/
def State.sensorFaults (s : State) : State :=
  (List.range 8).foldl (fun (s : State) r =>
    if (s.monN r).sensors.toList.all (·.failed) && !(s.monN r).faulted then
      (s.modMon r fun m => { m with faulted := true }).regionFault r 7 (locRegion r 2 0) [0xF]
    else s) s

/-- SENSOR_FAILED (R602). -/
def execSensorFailed (r : Fin 8) (i : Fin 4) (s : State) : Host.Outcome State Fault Refusal := commit s (s.failSensor r i)

/-- Thermal steps of a region that have been 3 °C or more below their thresholds for 64 beats are released (R603). -/
def execThermalStepRelease (r : Fin 8) (s : State) : Host.Outcome State Fault Refusal :=
  commit s (s.modMon r fun m =>
    { m with steps := m.steps.map fun q => if q.on && 64 ≤ q.cool then { on := false, cool := 0 } else q })

/-- The droop step of a region is released after 64 beats within DROOP_LIMIT (R605). -/
def execDroopStepRelease (r : Fin 8) (s : State) : Host.Outcome State Fault Refusal :=
  commit s (s.modMon r fun m =>
    if m.droop.on && 64 ≤ m.droop.cool then { m with droop := { on := false, cool := 0 }, droopSet := 3 } else m)

/-- The power step is released after a bar whose mean lies below 90 % of the limit (R606). -/
def execPowerStepRelease (s : State) : Host.Outcome State Fault Refusal :=
  commit s (
    if s.pow.step && 10 * s.pow.watts.toNat < 9 * s.powerLimit then { s with pow := { s.pow with step := false, stepSet := 3 } } else s)

/-- Droop thresholds by setting in mV (R598). -/
def droopThreshold (setting : Nat) : Nat := if setting = 3 then 770 else if setting = 2 then 690 else 600

/-- A rail below the droop threshold stretches the next period: one cycle less in the beat, of a region's clock or of a die clock (R51, R100, R600). The
counts of R605 and R613 are those of regions. -/
def execDroopStretch (d : Fin 10) (railMv : Nat) (s : State) : Host.Outcome State Fault Refusal :=
  commit s (
    if !s.pow.on || droopThreshold s.beat.setting.toNat ≤ railMv then s
    else
      let s := s.modDom d fun x => { x with stretched := x.stretched + 1, left := x.left - 1 }
      s.modMon d fun m => { m with stretchNow := m.stretchNow + 1 })

/-- A generator loses lock: a region fault (R18, R597). -/
def execGeneratorLockLoss (r : Fin 8) (s : State) : Host.Outcome State Fault Refusal :=
  commit s (
    if s.pow.on && (s.monN r).lock then (s.modMon r fun m => { m with lock := false }).regionFault r 7 (locRegion r 0 0) []
    else s)

/-- REF100 shows no rising edge for 50 ns: an ensemble fault (R20, R671). The detail names the last valid frame. -/
def execRef100Loss (s : State) : Host.Outcome State Fault Refusal :=
  commit s (
    if !s.pow.on then s
    else
      let s := { s with pow := { s.pow with ref100 := false } }
      (s.ensembleFault 0x0B (locDie 0 7 0) (leBytes 16 s.beat.frame.toNat)).unlockBeat)

/-- The setting in force exceeds a region's safe setting at the first beat of the third bar after the bar in which the region first
reported it: hold with CAUSE PROTECT, and the override as an event (R59). -/
def execSafeSettingDeadline (r : Fin 8) (s : State) : Host.Outcome State Fault Refusal :=
  commit s (
    match (s.monN r).below with
    | none => s
    | some b =>
      if s.beat.order != 0 || barGap b s.beat.bar.toNat < 3 || s.beat.setting.toNat ≤ (s.monN r).safe.toNat
          || s.beat.live.contains { cause := 5, who := 50 } then s
      else
        let loc := if s.hardReq (s.monN r) < s.beat.setting.toNat && !((s.monN r).step 2 || (s.monN r).step 3) then locDroop r else s.locHottest r
        let s := s.event 0x80 loc (boundDetail (0x7010 + r) 2 (s.monN r).safe.toNat s.beat.setting.toNat)
        (s.raiseHold 5 50 loc none s.nowCtx).holdAll)

end Sys2Proof.Machine
end

