-- ==== Sys2Proof/Machine/Beats.lean ====
section
/-! DEFINITION. Beat frames and beat boundaries: validity, prediction, lock, lateness, settings, hold and resume, the report, and what
each boundary does on the module (02_beats_and_bars.md R37-R72; 22_faults.md R637, R644). -/

namespace Sys2Proof.Machine

/-! ## Frames (R40-R45) -/

/-- The fields of a BEATSYNC frame (R40). -/
structure Frame where
  order : Nat
  bar : Nat
  beat : Nat
  setting : Nat
  next : Nat
  nextBar : Nat
  horizon : Nat
  deriving DecidableEq, Repr

/-- Reads the fields of a frame (R40). -/
def frameOf (f : BitVec 128) : Frame :=
  let n := f.toNat
  { order := bits n 109 106, bar := bits n 105 66, beat := bits n 65 60, setting := bits n 59 58, next := bits n 57 56
    nextBar := bits n 55 40, horizon := bits n 39 36 }

/-- The CRC over bits [111:32] of a frame, in sending order (R40). -/
def frameCrc (n : Nat) : Nat := (crc32c ((List.range 10).map fun i => BitVec.ofNat 8 (bits n (111 - 8 * i) (104 - 8 * i)))).toNat

/-- Whether a frame is valid in itself (R40, R43). -/
def frameValid (f : BitVec 128) : Bool :=
  let n := f.toNat
  let q := frameOf f
  bits n 127 112 == 0xE2B5 && bits n 111 110 == 1 && decide (q.order ≤ 2) && q.setting != 0 && q.horizon != 0 && frameCrc n == bits n 31 0

/-- The place of a working beat in the count of working beats. -/
def Frame.lin (q : Frame) : Nat := q.bar * 64 + q.beat

/-- The frame that continues the last one: the same order, and for a RUN the next working beat (R43); after a RESUME the RUN that R42
requires (log 36). -/
def State.predicted (s : State) : Frame :=
  let b := s.beat
  let lin := (b.bar.toNat * 64 + b.beat.toNat + (if b.order = 0 then 1 else 0)) % 2 ^ 46
  { order := if b.order = 2 then 0 else b.order.toNat, bar := lin / 64, beat := lin % 64, setting := b.setting.toNat, next := b.nextSetting.toNat
    nextBar := b.nextBar.toNat, horizon := b.horizon.toNat }

/-- A valid RUN frame names another working beat than the predicted one, and no RESUME went before it; or HORIZON changes while a
routine runs (R44). -/
def State.sequenceBad (s : State) (q : Frame) : Bool :=
  (q.order == 0 && q.lin != s.predicted.lin && s.beat.order != 2) || (s.running && q.horizon != s.beat.horizon.toNat)

/-! ## The report (R46) -/

/-- The BEATREPORT frame of the module's present state (R46). -/
def State.reportFrame (s : State) : BitVec 128 :=
  let b := s.beat
  let frozen := s.frozen
  let at_ := s.frozenAt
  let n := 2 ^ 112 * 0x1D4A + 2 ^ 110 + 2 ^ 100 * (s.moduleId % 1024) + 2 ^ 99 * b2n b.holdReq
    + 2 ^ 96 * (if b.holdReq then b.cause.toNat else 0) + 2 ^ 95 * b2n frozen + 2 ^ 94 * b2n s.ready + 2 ^ 92 * s.safeSetting
    + 2 ^ 52 * (at_.1 % 2 ^ 40) + 2 ^ 46 * (at_.2 % 64)
  BitVec.ofNat 128 (n + frameCrc n)

/-! ## What a boundary does -/

/-- A beat boundary counts, and the last frame is noted; a change that a frame announces for a later bar stands until it takes effect (R39, R57). -/
def State.noteFrame (s : State) (q : Frame) : State :=
  { s with beat := { s.beat with
    order := BitVec.ofNat 4 q.order, bar := BitVec.ofNat 40 q.bar, beat := BitVec.ofNat 6 q.beat
    horizon := BitVec.ofNat 4 q.horizon
    nextSetting := BitVec.ofNat 2 q.next, nextBar := BitVec.ofNat 16 q.nextBar
    announced := if q.next = 0 || q.nextBar = q.bar % 65536 then s.beat.announced else some (q.next, q.nextBar) } }

/-- The first RUN frame after RESUME: the hold is over, unless a fault has not been acknowledged (R46, R471, R637). -/
def State.resumeRun (s : State) : State :=
  let stays := s.rt.faultReport && !s.rt.faultAcked
  let s := { s with
    rt := { s.rt with faultReport := stays, faultAcked := false }
    beat := { s.beat with holdReq := stays, cause := if stays then 6 else 0
                          live := if stays then s.beat.live else s.beat.live.filter (·.cause != 6) } }
  if stays then s else { s with links := s.links.map fun (k : Link) => { k with holdTx := false, holdAt := 0, holdRx := false } }

/-- A granule that a bank mover of a die misses is listed as missing by its link: a replay has not come in time (R53, R468). -/
def State.missesReplay (s : State) (d : Nat) : Bool :=
  let pos := s.landingMissing d (s.domN (8 + d)).nt
  (List.range 8).any fun i =>
    let l := d * 8 + i
    let k := s.link l
    k.missing.any fun q => match k.openOf q with
      | some x => (x.places l q).any fun p => pos.any fun a => a / 64 == p.1
      | none => false

/-- The location word of a domain's clock or sequencer (R22). -/
def locDom (d : Nat) : Nat := if d < 8 then locRegion d 0 0 else locDie (d - 8) 0 0

/-- A domain whose step words of the previous beat remain unissued is late: it raises hold and stops after one more step (R52,
R61). -/
def State.lateness (s : State) (d : Nat) : State :=
  let s := if s.atBeat d then s.endWords d else s
  let x := s.domN d
  if !s.running || !x.words || x.stopped then s
  else
    let link := 8 ≤ d && (s.missesReplay (d - 8) || s.replayFull (d - 8) dataSlots)
    (s.raiseHold (if link then 4 else 1) (if link then 40 + d else 50) (locDom d) (some d) (s.ctxNow d 0 0)).modDom d fun x =>
      { x with left := max x.left 1 }

/-- The cause LINK that a late die has raised clears once the granule that it missed has landed and its replay buffers have room (R46, R299,
R468). -/
def State.settleLate (s : State) (e : Nat) : State :=
  if (s.landingMissing e (s.domN (8 + e)).nt).isEmpty && !s.replayFull e dataSlots then s.clearCause 4 (48 + e) else s

/-- The working beats since the start of the invocation that a domain has finished. -/
def State.finished (s : State) (x : Dom) : Nat := beatGap s.rt.firstBar x.bar x.beat + (if x.words then 0 else 1)

/-- Closes the bars whose last overlap beat every domain has finished; the routine's last bar closes when the routine ends, and the bar at whose end
an abort is due closes with the abort (R71, R94, R635, R644). -/
def State.closeBars (s : State) : Nat → State
  | 0 => s
  | fuel + 1 =>
    let past := s.rt.lastBar.any fun b => decide (barGap s.rt.firstBar b ≤ s.closed)
    if s.running && !past && (s.rt.abortAt.all fun a => decide (s.closed < barGap s.rt.firstBar a.1)) && s.dom.toList.all fun x => (s.closed + 1) * 64 + s.rt.hdr.overlap ≤ s.finished x then
      State.closeBars s.closeNext fuel
    else s

/-- Whether an armed routine begins at the RUN frame that opens a working beat (R574). -/
def State.beginsAt (s : State) (bar beat : Nat) : Bool := s.rt.runState == 1 && beat == 0 && bar == s.rt.armedBar

/-- The links send their frames: the data slots of the working beat that has ended, or of the part of it that was issued. The frame of a held beat
carries HOLD, and sequences start at 0 with the frame that opens an invocation (R455, R457, R459, R461, R462, R471). -/
def State.sendFrames (s : State) (hold begins : Bool) : State :=
  (List.range 16).foldl (fun (s : State) l =>
    let x := s.domN (8 + l / 8)
    let s := s.modLink l fun k =>
      let k := if hold then { k with holdTx := true } else k
      if begins then k.fresh else k
    s.sendFrame l (x.bar, x.beat) (x.words && (s.link l).cut (s.beatNo (8 + l / 8)))) s

/-- The setting that earlier frames have announced for the bar whose beat 0 a RUN frame opens (R57, R58). -/
def State.settingDue (s : State) (q : Frame) : Option Nat :=
  if q.order = 0 && q.beat = 0 then s.beat.announced.bind fun a => if q.bar % 65536 = a.2 then some a.1 else none else none

/-- A change that is due comes into force, and its announcement is spent (R16, R58). -/
def State.applySetting (s : State) (q : Frame) : State :=
  match s.settingDue q with
  | some v => { s with beat := { s.beat with setting := BitVec.ofNat 2 v, announced := none } }
  | none => s

/-- Cycles of a relock beat: a free number from the nominal cycles of the lower setting less 12 up to those of the higher one
(R58; log 5). -/
def State.relockCycles (s : State) (a b : Nat) : Nat × State :=
  let lo := min (nominal a) (nominal b) - 12
  let hi := max (nominal a) (nominal b)
  let (r, s) := s.draw 16
  (lo + r.toNat % (hi - lo + 1), s)

/-- An abort at the end of a bar is due once a later bar opens (R635). -/
def State.abortDue (s : State) (bar : Nat) : Bool :=
  s.rt.abortAt.any fun a => decide (barGap s.rt.firstBar a.1 < barGap s.rt.firstBar bar)

/-- A RUN frame opens its working beat in every domain, unless an abort ends the invocation first or a fault report stands; in a beat that changes the
setting from `old` the clocks relock (R41, R49, R58, R69, R635, R637). -/
def State.openBeats (s : State) (q : Frame) (old : Nat) : State :=
  let new := s.beat.setting.toNat
  if s.rt.faultReport || s.abortDue q.bar then s
  else (List.range 10).foldl (fun (s : State) d =>
    let (n, s) := if new ≠ old then s.relockCycles old new else (nominal new, s)
    s.openBeat d q.bar q.beat n) s

/-- A RUN frame whose SETTING lies below the clock of the routine's budget mode raises hold; an adequate one clears the cause (R60). -/
def State.settingLow (s : State) (q : Frame) : State :=
  if q.order != 0 then s
  else if (s.running || s.beginsAt q.bar q.beat) && q.setting < budgetSetting s.rt.hdr.budget then
    (s.raiseHold 7 50 (locDie 0 7 0) none s.nowCtx).holdAll
  else s.clearCause 7 50

/-- A HOLD or RESUME frame: every domain that has not stopped stops; at RESUME the hold is over and the arrays ramp up again (R41, R64,
R69, R152). -/
def State.heldBeat (s : State) (q : Frame) : State :=
  let s := (List.range 10).foldl State.stopDom (if q.order = 1 then s.holdAll else s)
  let s := { s with beat := { s.beat with inHold := q.order == 1 } }
  if q.order = 2 then (List.range s.lcMax).foldl (fun (s : State) n => s.rampBack n) (s.modDoms fun x => { x with stopPend := false }) else s

/-- The scrubbers of regions that open no working beat read in the first cycle of the beat all the same; those of a beat that opens an invocation, or
that a region opens anew after a stop, read once (R266; log 100). -/
def State.scrubIdle (s : State) (q : Frame) : State :=
  (List.range 8).foldl (fun (s : State) d =>
    let x := s.domN d
    let opens := q.order == 0 && x.words && x.cyc == 0 && x.marks.head? == some (x.nt, q.bar, q.beat)
    if opens || s.beginsAt q.bar q.beat then s
    else (s.ofRegion d).foldl (fun (s : State) n =>
      (if (s.clus n).scrub.isEmpty then s else s.scrubWrite n none).scrubRead n none) s) s

/-- Clusters that a disable has let drain: their queues are empty and their writes acknowledged (R589). -/
def State.drained (s : State) (n : Nat) : Bool :=
  let c := s.clus n
  c.caller.syq.isEmpty && c.caller.fence.isNone && c.mx.q.isEmpty && c.mx.finAwait.isEmpty && c.vx.q.isEmpty && c.vx.figs.isEmpty
    && c.cntq.isEmpty && c.counting.isEmpty && c.ckq.isEmpty && c.unacked.isEmpty && c.rotating.isEmpty
    && (c.movers.toList.all fun m => m.q.isEmpty && m.floor.isEmpty && m.reqs.isEmpty && m.out.isEmpty && !m.reading)
    && !(s.bulks.any fun b => b.who == n)

/-- Drained clusters are noted at a boundary, and DRAINING ones see a bar boundary (R588, R589). -/
def State.noteDrains (s : State) (bar : Bool) : State :=
  { s with actual := s.actual.map fun (e : Nat × Nat) =>
      (e.1, if e.2 = 2 && s.drained e.1 then 3 else if e.2 = 1 && bar then 7 else e.2) }

/-- A hold that the module has raised before a boundary has reached every region and die clock by then, one beat after it at the latest
(R62; log 82). One that waits for its beat after a RESUME stays stopped. -/
def State.holdSpreads (s : State) : State :=
  if s.running && s.beat.holdReq && s.beat.inHold then s.modDoms fun x => { x with stopPend := true } else s

/-- One boundary more since beat lock or reset. -/
def State.countBoundary (s : State) : State := { s with beat := { s.beat with boundaries := s.beat.boundaries + 1 } }

/-- What every boundary does under beat lock, in order: lateness, the end of bars, frames of the links, the opening of the beat or the
stop, scrubbing, the safe setting and the report, and the samples of the new beat. What a beat uses of protected entries is compared as it opens
(R559; log 105). -/
def State.boundary (s : State) (q : Frame) (e : Sense) : State :=
  let bar := q.order == 0 && q.beat == 0
  let resumed := s.beat.order == 2 && q.order == 0
  let s := s.complCheck.countBoundary
  let s := if resumed then s.resumeRun else s
  let s := s.rampEnd.holdSpreads.bankBeat
  let s := if q.order = 0 then (((List.range 10).foldl State.lateness s).fetchAhead 0).fetchAhead 1 else s
  let s := ((s.acceptStop (if q.order = 0 then some (q.bar, q.beat) else none)).closeBars 64).sendFrames (q.order == 1) (q.order == 0 && s.beginsAt q.bar q.beat)
  let old := s.beat.setting.toNat
  let s := ((s.applySetting q).noteFrame q).settingLow q
  let s := ((List.range 8).foldl State.judgeDroop s).powerBeat
  let s := s.noteDrains bar
  let s := if q.order = 0 then s.openBeats q old else s.heldBeat q
  let s := s.scrubIdle q
  let s := if bar then s.sensorFaults.discrepancies1 else s
  let s := ((s.reportAll.settleProtect).settleLate 0).settleLate 1
  let s := { s with beat := { s.beat with report := s.reportFrame } }
  let s := s.senseBeat e
  if bar then s.judgePower e.power else s

/-- A boundary before beat lock: stamps stay 0, the report asks for hold with CAUSE FAULT, and the monitors run (R45, R612, R665). -/
def State.unlockedBeat (s : State) (e : Sense) : State :=
  let s := s.countBoundary
  let s := ((List.range 8).foldl State.judgeDroop s.bankBeat).powerBeat
  let s := s.reportAll
  let s := { s with beat := { s.beat with report := s.reportFrame } }
  s.senseBeat e

/-- Beat lock: bring-up ends, the setting in BEATSYNC applies, and links that wait go on to their key exchange (R45, R620, R623,
R624). -/
def State.lockBeat (s : State) (q : Frame) : State :=
  let s := { s with
    beat := { s.beat with locked := true, valid := 8, invalid := 0, setting := BitVec.ofNat 2 q.setting, announced := none
                          holdReq := s.rt.faultReport || !s.beat.live.isEmpty
                          cause := if s.rt.faultReport then 6 else ((s.beat.live.head?).map fun (l : LiveCause) => BitVec.ofNat 3 l.cause).getD 0 }
    pow := { s.pow with bringup := if s.pow.bringup = 6 then 7 else s.pow.bringup, warm := false }
    links := s.links.map fun (k : Link) => if k.lane && (k.st == LinkSt.training || k.st == LinkSt.retrain) then { k with st := .keying } else k }
  s.noteFrame q

/-- Before beat lock, but from stage 3 on, the module reports every 128 periods (R620, R665; log 96). -/
def State.reportsAlone (s : State) : Bool := s.pow.on && 3 ≤ s.pow.bringup && s.pow.bringup ≤ 5

/-- Whether the module takes frames: it is powered, and bring-up has reached beat lock (R620, R665). -/
def State.takesFrames (s : State) : Bool := s.pow.on && (s.pow.bringup == 6 || s.pow.bringup == 7)

/-- A valid frame (R43-R45): towards lock, or as the next boundary. -/
def State.validFrame (s : State) (f : BitVec 128) (e : Sense) : State :=
  let q := frameOf f
  if s.beat.locked then
    let s := if s.sequenceBad q then s.ensembleFault 0x0B (locDie 0 7 0) (leBytes 16 f.toNat) else s
    ({ s with beat := { s.beat with frame := f, invalid := 0, valid := min 8 (s.beat.valid + 1) } }).boundary q e
  else
    let s := { s with beat := { s.beat with frame := f, invalid := 0, valid := s.beat.valid + 1 } }
    if 8 ≤ s.beat.valid then (s.lockBeat q).boundary q e else s.unlockedBeat e

/-- An invalid frame is replaced by the predicted one; the fourth in a row raises an ensemble fault, and lock is lost (R43, R45). -/
def State.invalidFrame (s : State) (e : Sense) : State :=
  let n := s.beat.invalid + 1
  let s := { s with beat := { s.beat with invalid := n, valid := 0 } }
  if !s.beat.locked then s.unlockedBeat e
  else if n = 4 then
    let s := s.ensembleFault 0x0B (locDie 0 7 0) (leBytes 16 s.beat.frame.toNat)
    s.unlockBeat.unlockedBeat e
  else s.boundary s.predicted e

/-! ## Rows -/

/-- A valid frame, or 128 periods before the stage of beat lock. -/
def State.frameRow (s : State) (f : BitVec 128) (e : Sense) : State :=
  if s.takesFrames then s.validFrame f e else if s.reportsAlone then s.unlockedBeat e else s

/-- A valid RUN frame opens a working beat (R41, R69). -/
def execBeatsyncRun (f : BitVec 128) (e : Sense) (s : State) : Host.Outcome State Fault Refusal :=
  commit s (if frameValid f && (frameOf f).order == 0 then s.frameRow f e else s)

/-- A valid HOLD frame opens a held beat (R41, R64). -/
def execBeatsyncHold (f : BitVec 128) (e : Sense) (s : State) : Host.Outcome State Fault Refusal :=
  commit s (if frameValid f && (frameOf f).order == 1 then s.frameRow f e else s)

/-- A valid RESUME frame opens a held beat that names the beat at which the ensemble resumes (R41, R42). -/
def execBeatsyncResume (f : BitVec 128) (e : Sense) (s : State) : Host.Outcome State Fault Refusal :=
  commit s (if frameValid f && (frameOf f).order == 2 then s.frameRow f e else s)

/-- An invalid frame, by its bits or by its time, is replaced by a predicted one (R43). -/
def execBeatsyncInvalidFrame (f : BitVec 128) (onTime : Bool) (e : Sense) (s : State) : Host.Outcome State Fault Refusal :=
  commit s (
    if frameValid f && onTime then s
    else if s.takesFrames then s.invalidFrame e
    else if s.reportsAlone then s.unlockedBeat e
    else s)

/-- The fourth invalid frame in a row raises an ensemble fault (R43). -/
def execInvalidFrameLimit (f : BitVec 128) (onTime : Bool) (e : Sense) (s : State) : Host.Outcome State Fault Refusal :=
  commit s (if s.takesFrames && !(frameValid f && onTime) && s.beat.invalid == 3 then s.invalidFrame e else s)

/-- The eighth valid frame in a row locks the beat (R45). -/
def execBeatLock (f : BitVec 128) (e : Sense) (s : State) : Host.Outcome State Fault Refusal :=
  commit s (if s.takesFrames && frameValid f && !s.beat.locked && s.beat.valid == 7 then s.validFrame f e else s)

/-- An abort at the bar ends the invocation at the boundary that opens the next bar, or where every region has stopped under hold
(R635, R637). -/
def execAbortAtBar (s : State) : Host.Outcome State Fault Refusal :=
  commit s (match s.rt.abortAt with
    | none => s
    | some (n, loc) =>
      if s.running && (s.frozen || (s.beat.order == 0 && s.abortDue s.beat.bar.toNat)) then s.abort 3 n loc
      else s)

/-- The first bar boundary after a cluster became DRAINING: it counts as drained, and its pending waits are discarded (R589). -/
def execClusterDrained (n : Fin 48) (s : State) : Host.Outcome State Fault Refusal :=
  commit s (
    if tGet s.actual n == some 7 then
      ({ s with actual := tPut s.actual n 2 }).modCl n fun c => { c with caller := { c.caller with waits := [] } }
    else s)

/-- The next bar boundary after a cluster has drained: FENCED with cause DISABLE, and ACTIVE again where no routine runs and COMMANDED is 1
(R588). -/
def execClusterFenceDisable (n : Fin 48) (s : State) : Host.Outcome State Fault Refusal :=
  commit s (
    if tGet s.actual n == some 3 && s.beat.order == 0 && s.beat.beat == 0 then
      (if !s.running && s.base (0x8000 + n) 1 1 == 1 then { s with actual := tDel s.actual n }
       else { s with actual := tPut s.actual n 4 }).discrepancies1
    else s)

/-- STOP (R95, R638): its argument is 0, and it is refused while no routine runs. -/
def execStop (arg : BitVec 32) (s : State) : Host.Outcome State Fault Refusal := commit s (if arg = 0 then s.stopCmd else s)

end Sys2Proof.Machine
end

