-- ==== Sys2Proof/Machine/Residents.lean ====
section
/-! DEFINITION. Resident sets: definition, load, record, verify, clear (08_floor.md R258-R263; 19_dictionary.md R592; 21_reset.md R631). -/

namespace Sys2Proof.Machine

/-! ## Definitions (R258, R259) -/

/-- A definition names floor that a cluster holds. -/
def Resident.defined (r : Resident) : Bool := r.length != 0 && r.members != 0

/-- Whether two definitions meet in the floor of a cluster. -/
def Resident.overlaps (a b : Resident) : Bool :=
  (a.members &&& b.members) != 0 && a.base.toNat < b.base.toNat + b.length.toNat && b.base.toNat < a.base.toNat + a.length.toNat

/-- Whether the entries keep R259: within one cluster no overlap, and 12 MiB at most. -/
def residentsOk (rs : List Resident) : Bool :=
  let ds := rs.filter (·.defined)
  ((List.range ds.length).all fun i => (List.range i).all fun j => match ds[i]?, ds[j]? with
    | some a, some b => !a.overlaps b
    | _, _ => true)
  && (List.range 48).all fun n => ((ds.filter fun r => r.members.getLsbD n).map (·.length.toNat)).sum ≤ 12 * 2 ^ 20

/-- An entry with a field written (R258, R592). -/
def Resident.put (r : Resident) (sub v : Nat) : Resident :=
  if sub = 2 then { r with kd := BitVec.ofNat 8 v }
  else if sub = 3 then { r with flags := BitVec.ofNat 8 v }
  else if sub = 4 then { r with base := BitVec.ofNat 32 v }
  else if sub = 5 then { r with length := BitVec.ofNat 32 v }
  else if sub = 6 then { r with members := BitVec.ofNat 64 v }
  else { r with source := BitVec.ofNat 64 v }

/-- Whether a write to a field is in range (R258, R259, R592). -/
def State.residentOk (s : State) (k sub v : Nat) : Bool :=
  let r := s.resident k
  if sub = 9 then !s.running
  else
    r.state == .empty
      && (if sub = 2 then decide (v < 64)
          else if sub = 3 then decide (v < 4)
          else if sub = 4 then v % 65536 == 0 && decide (v < 2 ^ 24)
          else if sub = 5 then v % 65536 == 0 && decide (65536 ≤ v) && decide (v ≤ 2 ^ 24)
          else decide (v < 2 ^ s.lcMax))
      && (let r := r.put sub v
          decide (r.base.toNat + r.length.toNat ≤ 2 ^ 24) && residentsOk ((s.modResident k fun _ => r).residents.toList))

/-- RESIDENT_SET_WRITE: sub-indices 2 to 6 and 9 (R258, R592). -/
def execResidentSetWrite (k : Fin 64) (sub : BitVec 8) (v : BitVec 64) (s : State) : Host.Outcome State Fault Refusal :=
  commit s (
    if s.pow.on && ([2, 3, 4, 5, 6, 9].contains sub.toNat) && s.residentOk k sub.toNat v.toNat then s.modResident k fun r => r.put sub.toNat v.toNat
    else s)

/-! ## Shards (R260, R261) -/

/-- The member that holds a shard (R260). -/
def Resident.holder (r : Resident) (sh : Nat) : Nat :=
  let ms := r.memberList
  (ms[(r.rotation.toNat + sh) % ms.length]?).getD 48

/-- The shards of a set, read in shard order from the members' floors (R261). -/
def State.readShards (s : State) (r : Resident) : Bytes × State :=
  (List.range r.memberList.length).foldl (fun (q : Bytes × State) sh =>
    let (b, s) := q.2.floorPeek (r.holder sh) r.base.toNat r.length.toNat q.2.nowCtx
    (q.1 ++ b, s)) ([], s)

/-- The location word of the lead die's management controller, from which sets are loaded (R22). -/
def locLoad : Nat := locDie 0 9 0

/-- Copies the shards of a set from bank memory into the members' floors; what was read, or nothing where a granule is lost (R592). -/
def State.copyShards (s : State) (r : Resident) : Option Bytes × State :=
  (List.range r.memberList.length).foldl (fun (q : Option Bytes × State) sh =>
    match q.1 with
    | none => q
    | some got =>
      match q.2.bankBytes (r.source.toNat + sh * r.length.toNat) r.length.toNat locLoad q.2.nowCtx with
      | (some b, s) => (some (got ++ b), s.floorPoke (r.holder sh) r.base.toNat b)
      | (none, s) => (none, s)) (some [], s)

/-- An event of a set with the digest held before and the digest found (R641). -/
def State.residentEvent (s : State) (k : Nat) (before found : BitVec 256) : State :=
  s.event 0x85 (locDie 0 0 0) ([BitVec.ofNat 8 k, BitVec.ofNat 8 (s.resident k).state.code]
    ++ (leBytes 32 before.toNat).take 14 ++ (leBytes 32 found.toNat).take 14)

/-! ## Commands (R592) -/

/-- Whether a command of a set is refused with BUSY: its action, or another of the set, is in progress. -/
def State.residentBusy (s : State) (k : Nat) : Bool := (s.resident k).action != 0

/-- Whether the shards of a set lie in bank memory of its ACTIVE domain. -/
def State.sourceOk (s : State) (r : Resident) : Bool :=
  let n := r.memberList.length * r.length.toNat
  r.source.toNat % 64 == 0 && r.source.toNat + n ≤ 2 ^ 41 && s.domainState r.kd.toNat == 1 && !s.foreignBank r.kd.toNat r.source.toNat n

/-- Whether LOAD is accepted (R545, R592, R631). -/
def State.loadSetOk (s : State) (k : Nat) : Bool :=
  let r := s.resident k
  !s.running && !s.residentBusy k && (r.state == .empty || r.state == .failed || r.state == .unsettled) && r.defined && s.logRoom 1
    && s.sourceOk r

/-- Whether RECORD is accepted (R545, R592). -/
def State.recordSetOk (s : State) (k : Nat) : Bool :=
  !s.running && !s.residentBusy k && (s.resident k).state == .dirty && s.logRoom 1

/-- Whether VERIFY is accepted (R545, R592, R631). -/
def State.verifySetOk (s : State) (k : Nat) : Bool :=
  !s.running && !s.residentBusy k && ((s.resident k).state == .settled || (s.resident k).state == .dirty) && s.logRoom 1

/-- LOAD begins: the set is LOADING; action 4 is the load of an UNSETTLED set (R592, R631). -/
def State.loadSet (s : State) (k : Nat) : State :=
  s.modResident k fun r => { r with action := if r.state = .unsettled then 4 else 1, state := .loading }

/-- LOAD ends: the digest is recorded; one of an UNSETTLED set must equal the digest that the set held (R261, R631). -/
def State.loadSetEnd (s : State) (k : Nat) : State :=
  let r := s.resident k
  match s.copyShards r with
  | (none, s) => s.modResident k fun r => { r with state := .failed, action := 0 }
  | (some b, s) =>
    let d := sm3 b
    let ok := r.action = 1 || d = r.digest
    let s := s.modResident k fun r => { r with state := if ok then .settled else .failed, digest := d, action := 0 }
    let s := s.extend 7 0xA k d
    if ok then s else s.residentEvent k r.digest d

/-- RECORD or VERIFY begins. -/
def State.beginDigest (s : State) (k action : Nat) : State := s.modResident k fun r => { r with action := action }

/-- RECORD ends: the DIRTY set is SETTLED with its new digest (R261, R592). -/
def State.recordSetEnd (s : State) (k : Nat) : State :=
  let (b, s) := s.readShards (s.resident k)
  let d := sm3 b
  let s := s.modResident k fun r => { r with state := if r.state = .dirty then .settled else r.state, digest := d, action := 0 }
  s.extend 7 0xA k d

/-- VERIFY ends: a mismatch sets the set FAILED, with an event (R261). -/
def State.verifySetEnd (s : State) (k : Nat) : State :=
  let before := (s.resident k).digest
  let (b, s) := s.readShards (s.resident k)
  let d := sm3 b
  let ok := decide (d = before)
  let s := s.modResident k fun r => { r with state := if ok then r.state else .failed, action := 0 }
  let s := s.extend 7 0xA k d
  if ok then s else s.residentEvent k before d

/-- CLEAR: the range is zeroed and the set is EMPTY (R592). -/
def State.clearSet (s : State) (k : Nat) : State :=
  let r := s.resident k
  let s := r.memberList.foldl (fun (s : State) n => s.modCl n fun c =>
    { c with floor := zeroMem c.floor r.base.toNat r.length.toNat
             scrub := scrubLeft c.scrub r.base.toNat r.length.toNat
             upsets := c.upsets.filter fun u => !(r.base.toNat ≤ 8 * u.1 && 8 * u.1 < r.base.toNat + r.length.toNat) }) s
  s.modResident k fun r => { r with state := .empty, rotation := 0, digest := 0, action := 0, turned := 0 }

/-! ## Rows -/

/-- RESIDENT_LOAD (R592). -/
def execResidentLoad (k : Fin 64) (arg : BitVec 32) (s : State) : Host.Outcome State Fault Refusal :=
  commit s (if s.pow.on && arg = 0 && s.loadSetOk k then s.loadSet k else s)

/-- The end of a resident-set load (R261, R631). -/
def execResidentLoadDone (k : Fin 64) (s : State) : Host.Outcome State Fault Refusal :=
  commit s (if !s.running && ((s.resident k).action = 1 || (s.resident k).action = 4) then s.loadSetEnd k else s)

/-- RESIDENT_RECORD (R592). -/
def execResidentRecord (k : Fin 64) (arg : BitVec 32) (s : State) : Host.Outcome State Fault Refusal :=
  commit s (if s.pow.on && arg = 0 && s.recordSetOk k then s.beginDigest k 2 else s)

/-- The end of a record (R261). -/
def execResidentRecordDone (k : Fin 64) (s : State) : Host.Outcome State Fault Refusal :=
  commit s (if !s.running && (s.resident k).action = 2 then s.recordSetEnd k else s)

/-- RESIDENT_VERIFY (R592). -/
def execResidentVerify (k : Fin 64) (arg : BitVec 32) (s : State) : Host.Outcome State Fault Refusal :=
  commit s (if s.pow.on && arg = 0 && s.verifySetOk k then s.beginDigest k 3 else s)

/-- The end of a verify (R261). -/
def execResidentVerifyDone (k : Fin 64) (s : State) : Host.Outcome State Fault Refusal :=
  commit s (if !s.running && (s.resident k).action = 3 then s.verifySetEnd k else s)

/-- RESIDENT_CLEAR (R592). -/
def execResidentClear (k : Fin 64) (arg : BitVec 32) (s : State) : Host.Outcome State Fault Refusal :=
  commit s (if s.pow.on && arg = 0 && !s.running then s.clearSet k else s)

end Sys2Proof.Machine
end

