-- ==== Sys2Proof/Machine/Loader.lean ====
section
/-! DEFINITION. Loading a routine: the container checks, the route table, the domains, the measurements, and START
(03_routine.md R74-R98, R114, R115; 11_channels.md R344, R345; 18_security.md R551; 19_dictionary.md R573, R574; 22_faults.md R655). -/

namespace Sys2Proof.Machine

/-! ## Header and tables (R75-R78) -/

/-- A header as the image gives it. -/
structure RawHeader where
  raw : Bytes
  budget : Nat
  lc : Nat
  overlap : Nat
  links : Nat
  segCount : Nat
  loopFrom : Nat
  loopCount : Nat
  latCount : Nat
  segTable : Nat
  latTable : Nat
  deriving DecidableEq, Repr

/-- Reads the 256 bytes of a header (R75). -/
def readHeader (b : Bytes) : RawHeader :=
  { raw := b, budget := recField b 0xB 1, lc := recField b 0xC 1, overlap := recField b 0xD 1, links := recField b 0xE 2
    segCount := recField b 0x10 4, loopFrom := recField b 0x14 4, loopCount := recField b 0x18 4, latCount := recField b 0x1C 4
    segTable := recField b 0x20 8, latTable := recField b 0x28 8 }

/-- FORMAT (R114). -/
def RawHeader.formatOk (h : RawHeader) : Bool :=
  h.raw.take 8 == ascii "ELOA-RTN" && recField h.raw 8 2 == 1 && recField h.raw 0xA 1 == 3 && recField h.raw 0x30 16 == 0
    && recField h.raw 0x60 160 == 0 && 1 ≤ h.budget && h.budget ≤ 3 && 1 ≤ h.lc && h.lc ≤ 48 && h.overlap ≤ 8 && 1 ≤ h.segCount
    && h.segCount ≤ 65536 && (if h.loopCount = 0 then h.loopFrom == 0 else decide (h.loopFrom < h.segCount))

/-- A segment-table entry and whether its reserved bytes are 0 (R78). -/
def readSeg (b : Bytes) : Seg × Bool :=
  ({ body := recField b 0 8, tail := recField b 8 8, bars := recField b 0x10 4, runs := recField b 0x14 4 }, recField b 0x18 8 == 0)

/-- A latency-table entry: source, destination, path kind, latency, and whether its reserved bytes are 0 (R76). -/
structure Lat where
  src : Nat
  dst : Nat
  kind : Nat
  lat : Nat
  clean : Bool
  deriving DecidableEq, Repr

/-- Reads a latency-table entry (R76). -/
def readLat (b : Bytes) : Lat :=
  { src := recField b 0 1, dst := recField b 1 1, kind := recField b 2 1, lat := recField b 4 2
    clean := recField b 3 1 == 0 && recField b 6 2 == 0 }

/-- Whether an entry keeps the limits of R76. -/
def Lat.ok (e : Lat) (lc : Nat) : Bool := e.src < lc && e.dst < lc && e.kind ≤ 2 && e.clean

/-! ## The records of a section (R79-R90, R98) -/

/-- An open block of a scan: its index, FORM, the place of its CLOSE record, its iterations, and whether a first STEP record was owed
where it opened. -/
structure Blk where
  idx : Nat
  form : Nat
  at_ : Nat
  times : Nat
  owed : Bool
  deriving DecidableEq, Repr

/-- Where a scan of a section stands: the open blocks; what the next STEP record owes; the cycles and words of the beat; the beats so
far; and what was found. -/
structure Scan where
  pos : Nat
  stack : List Blk := []
  needMap : Bool := true
  map : Nat := 0
  boundary : Bool := true
  afterBeat : Bool := false
  cyc : Nat := 0
  words : Nat := 0
  beats : Nat := 0
  bad : Bool := false
  long : Bool := false
  fetch : Bool := false
  deriving DecidableEq, Repr

/-- How often a place in a section is issued, by blocks of a FORM (R87). -/
def Scan.times (q : Scan) (form : Nat) : Nat := (q.stack.filter (·.form == form)).foldl (fun n e => n * e.times) 1

/-- Words of the commands of `n` present slots; nothing where a head breaks R82: LEN 3, or its reserved bit 60, which counts as a bit of the
STEP record and is not left to RESERVED_FIELD (R83, R114; log 81). -/
def commandWords (word : Nat → Nat) : Nat → Nat → Option Nat
  | 0, _ => some 0
  | n + 1, pos =>
    let w := word pos
    let len := bits w 63 62
    if len = 3 || bit w 60 then none
    else
      let k := if len = 0 then 1 else if len = 1 then 2 else 4
      (commandWords word n (pos + k)).map (· + k)

/-- Whether a presence map keeps R114: no reserved bit, no cluster beyond LC_COUNT, no slot engine outside LINK_MASK. -/
def mapOk (map lc links : Nat) : Bool :=
  (List.range 256).all fun i => !bit map i
    || (if i < 192 then decide (i / 4 < lc) else if i < 197 then true else if i < 200 then false else if i < 232 then true
        else if i < 248 then bit links (i - 232) else false)

/-- One record of a section (R79-R90). -/
def Scan.step (word : Nat → Nat) (lc links budget : Nat) (q : Scan) : Scan :=
  let w := word q.pos
  let kind := bits w 63 60
  let inner := q.stack.any (·.form == 0)
  if kind = 1 then
    let same := bit w 59
    let map := if same then q.map else word (q.pos + 1) + 2 ^ 64 * word (q.pos + 2) + 2 ^ 128 * word (q.pos + 3) + 2 ^ 192 * word (q.pos + 4)
    let first := q.pos + (if same then 1 else 5)
    let n := ((List.range 256).filter fun i => bit map i).length
    let len := bits w 47 32
    let ok := bits w 58 48 == 0 && bits w 31 0 == 0 && !(same && q.needMap) && mapOk map lc links
      && (commandWords word n first).any fun k => k + (if same then 0 else 4) == len
    { q with pos := q.pos + 1 + len, needMap := false, map, boundary := false, afterBeat := false, cyc := q.cyc + q.times 0
             words := q.words + 1 + len, bad := q.bad || !ok }
  else if kind = 2 then
    { q with pos := q.pos + 1, boundary := false, afterBeat := false, cyc := q.cyc + bits w 15 0 * q.times 0, words := q.words + 1
             bad := q.bad || bits w 59 16 != 0 || bits w 15 0 == 0 }
  else if kind = 3 then
    { q with pos := q.pos + 1, boundary := true, afterBeat := true, cyc := 0, words := 0, beats := q.beats + q.times 1
             bad := q.bad || bits w 59 0 != 0 || inner, long := q.long || budget < q.cyc, fetch := q.fetch || 32768 < q.words + 1 }
  else if kind = 4 then
    let idx := bits w 59 58
    let form := bits w 57 57
    let body := bits w 39 16
    let ok := bits w 56 40 == 0 && body != 0 && q.stack.length < 4 && !(q.stack.any (·.idx == idx))
      && (form == 0 || (q.boundary && !inner))
    { q with pos := q.pos + 1, stack := { idx, form, at_ := q.pos + 1 + body, times := bits w 15 0 + 1, owed := q.needMap } :: q.stack, needMap := true
             boundary := q.boundary && form == 1, afterBeat := false, words := q.words + 1, bad := q.bad || !ok
             fetch := q.fetch || 262144 < body }
  else if kind = 5 then
    match q.stack with
    | [] => { q with pos := q.pos + 1, bad := true }
    | k :: l =>
      let ok := bits w 57 0 == 0 && bits w 59 58 == k.idx && q.pos == k.at_ && (k.form == 0 || q.afterBeat)
      { q with pos := q.pos + 1, stack := l, boundary := q.boundary && k.form == 1, afterBeat := false, words := q.words + 1
               needMap := q.needMap && k.owed
               bad := q.bad || !ok }
  else { q with pos := q.pos + 1, bad := true }

/-- Scans a section until its beats are complete, or something is found that ends it. -/
def Scan.run (word : Nat → Nat) (lc links budget target : Nat) : Nat → Scan → Scan
  | 0, q => { q with bad := true }
  | fuel + 1, q =>
    if q.bad || (target ≤ q.beats && q.stack.isEmpty) then q
    else Scan.run word lc links budget target fuel (q.step word lc links budget)

/-! ## Beats of a loaded section, expanded (R90, R92, R93, R98) -/

/-- A place after the OPEN and CLOSE records at it. -/
def State.settle (s : State) (c : Cursor) : Nat → Cursor
  | 0 => c
  | fuel + 1 =>
    if s.kindAt c = 4 then State.settle s (s.openAt c) fuel else if s.kindAt c = 5 then State.settle s c.close fuel else c

/-- The cycles of a beat as the slots present, and the place after it. A beat of more than 2,048 cycles breaks R85 and is not looked at
further. -/
def State.expand (s : State) (c : Cursor) (cyc : List (List Nat)) : Nat → List (List Nat) × Cursor
  | 0 => (cyc, c)
  | fuel + 1 =>
    let c := s.settle c 16
    if s.kindAt c = 3 then (cyc, { c with pc := c.pc + 1 })
    else
      let (l, c') := s.tick c
      State.expand s c' (cyc ++ [l.map (·.1)]) fuel

/-- The first `n` beats of a section, cycle by cycle. -/
def State.firstBeats (s : State) (c : Cursor) : Nat → List (List (List Nat))
  | 0 => []
  | n + 1 =>
    let (cyc, c') := s.expand c [] 2048
    cyc :: State.firstBeats s c' n

/-- The records of the first `n` beats of a section. -/
def State.firstWalks (s : State) (c : Cursor) : Nat → List (List Nat × List Bool)
  | 0 => []
  | n + 1 =>
    let (recs, tails, c') := s.walkBeat c [] [] imageWords
    (recs, tails) :: State.firstWalks s c' n

/-- Whether the TAIL bits of a segment body keep R90: TAIL only in the first `w` beats of its second and later bars. -/
def State.tailsOk (s : State) (w : Nat) (c : Cursor) (at_ : Nat) : Nat → Bool
  | 0 => true
  | n + 1 =>
    let (_, tails, c') := s.walkBeat c [] [] imageWords
    (tails.all fun t => !t || (64 ≤ at_ && at_ % 64 < w)) && State.tailsOk s w c' (at_ + 1) n

/-- Whether the tail of one segment merges with the head of another (R93), and the merged beats keep R98. -/
def State.mergeOk (s : State) (w : Nat) (a b : Seg) : Bool × Bool :=
  let places := fun (off : Nat) => (s.firstWalks (startAt off) w).map (·.1)
  ((List.zip (s.firstBeats (startAt a.tail) w) (s.firstBeats (startAt b.body) w)).all fun p =>
      (List.zip p.1 p.2).all fun q => q.1.all fun x => !q.2.contains x,
   (List.zip (places a.tail) (places b.body)).all fun p => ((p.1 ++ p.2).map s.recWords).sum ≤ 32768)

/-- The pairs of segments whose runs R91 makes adjacent. -/
def adjacent (segs : List Seg) (loopFrom loopCount : Nat) : List (Seg × Seg) :=
  (segs.filter fun g => 1 < g.runs).map (fun g => (g, g)) ++ List.zip segs (segs.drop 1)
    ++ (match segs.getLast?, segs[loopFrom]? with
        | some a, some b => if loopCount = 0 then [] else [(a, b)]
        | _, _ => [])

/-! ## The checks (R114, R345, R551) -/

/-- What the checks of an image found: the refusal code, and the image. -/
structure Checked where
  code : Nat
  words : List (BitVec 64) := []
  hdr : Header := {}
  /-- Bytes that the image takes; 0 where the checks did not get so far. -/
  length : Nat := 0
  deriving DecidableEq, Repr

/-- The sections of a segment table: offset and beats (R78, R90). A TAIL of 0 names no section. -/
def sections (segs : List Seg) (w : Nat) : List (Nat × Nat) :=
  segs.flatMap fun g => (g.body, 64 * g.bars) :: (if w = 0 || g.tail = 0 then [] else [(g.tail, w)])

/-- The first check that fails, with its code (R114). -/
def firstCode (l : List (Nat × Bool)) : Nat := ((l.find? fun e => e.2).map (·.1)).getD 0

/-- Whether every section's beats are exactly those of R90, with the TAIL bits as R90 wants them. -/
def State.barsBad (s : State) (segs : List Seg) (w : Nat) (scans : List (Scan × Nat)) : Bool :=
  (segs.any fun g => g.bars == 0 || (w == 0 && g.tail != 0) || (w != 0 && g.tail == 0))
  || (scans.any fun q => q.1.beats != q.2)
  || segs.any fun g => !s.tailsOk w (startAt g.body) 0 (64 * g.bars)
      || (w != 0 && !((s.firstWalks (startAt g.tail) w).all fun b => b.2.all id))

/-- Checks an image at a bank address (R114). An address that is no multiple of 64, and an offset that is no multiple of 8, are refused
with SPACE (log 67). -/
def State.checkImage (s : State) (addr : Nat) : Checked :=
  let word := fun i => leNat (s.bankView (addr + 8 * i) 8)
  let h := readHeader (s.bankView addr 256)
  if !h.formatOk then { code := 1 }
  else
    let raw := (List.range h.segCount).map fun i => readSeg (s.bankView (addr + h.segTable + 32 * i) 32)
    let segs := raw.map (·.1)
    let lats := (List.range h.latCount).map fun i => readLat (s.bankView (addr + h.latTable + 8 * i) 8)
    let budget := budgetOf h.budget
    let secs := sections segs h.overlap
    let scans := secs.map fun q =>
      (Scan.run word h.lc h.links budget q.2 imageWords { pos := q.1 / 8 : Scan }, q.2)
    let length := (scans.map fun q => 8 * q.1.pos).foldl max (max 256 (max (h.segTable + 32 * h.segCount) (h.latTable + 8 * h.latCount)))
    let outside := addr % 64 != 0 || 2 ^ 32 < length || 2 ^ 41 < addr + length || s.foreignBank 0 addr length || h.segTable % 8 != 0 || h.latTable % 8 != 0
      || secs.any fun q => q.1 % 8 != 0
    if outside then { code := 2 }
    else
      let image := s.bankView addr length
      let words := (List.range ((length + 7) / 8)).map fun i => BitVec.ofNat 64 (word i)
      let hdr : Header := { budget := h.budget, lc := h.lc, overlap := h.overlap, links := BitVec.ofNat 16 h.links, loopFrom := h.loopFrom
                            loopCount := h.loopCount, segs
                            lats := lats.foldl (fun t e => tPut t (e.src * 64 + e.dst) e.lat) []
                            digest := BitVec.ofNat 256 (recField h.raw 0x40 32) }
      let t := { s with rt := { s.rt with words, hdr } }
      let kept := lats.filter fun e => e.ok h.lc
      let container := scans.any (fun q => q.1.bad) || lats.any (fun e => !e.ok h.lc) || raw.any (fun e => !e.2 || e.1.runs == 0)
        || (lats.map fun e => e.src * 256 + e.dst).eraseDups.length != lats.length
      let merges := (adjacent segs h.loopFrom h.loopCount).map fun p => t.mergeOk h.overlap p.1 p.2
      let code := firstCode
        [(3, decide (s.lcMax < h.lc)),
         (4, decide (modeCeiling s.mode.toNat < budgetSetting h.budget)),
         (5, (List.range 16).any fun l => bit h.links l && !s.linkEnabled l),
         (6, kept.any fun e => decide (e.lat < s.pathLat e.src e.dst)),
         (7, container),
         (8, t.barsBad segs h.overlap scans),
         (9, scans.any fun q => q.1.long),
         (0xA, h.overlap != 0 && merges.any fun m => !m.1),
         (0xB, (scans.any fun q => q.1.fetch) || (h.overlap != 0 && merges.any fun m => !m.2)),
         (0xC, sm3Bytes (image.take 0x40 ++ List.replicate 32 0 ++ image.drop 0x60) != (h.raw.drop 0x40).take 32)]
      { code, words, hdr, length }

/-- An entry of the route table (R344): its FLAGS, its fields, and whether its reserved fields are 0. -/
def readRoute (b : Bytes) : Bool × Route × Bool × Nat × Nat :=
  let ro := recField b 3 1
  let so := recField b 0xC 1
  (bit (recField b 2 1) 0,
   { src := recField b 0 1, dst := recField b 1 1, ring := 2 ^ ro, ringBase := recField b 4 4, spill := 2 ^ so, spillBase := recField b 8 4
     lat := recField b 0xD 2 },
   recField b 2 1 < 2 && recField b 0xF 1 == 0, ro, so)

/-- The floor areas that a route takes: cluster, base, size, and whether it is a ring. -/
def Route.areas (r : Route) : List (Nat × Nat × Nat) := [(r.dst, r.ringBase, r.ring), (r.src, r.spillBase, r.spill)]

/-- Whether two areas meet. -/
def areasMeet (a b : Nat × Nat × Nat) : Bool := a.1 == b.1 && a.2.1 < b.2.1 + b.2.2 && b.2.1 < a.2.1 + a.2.2

/-- Whether areas meet anywhere. -/
def anyMeet : List (Nat × Nat × Nat) → Bool
  | [] => false
  | a :: l => l.any (areasMeet a) || anyMeet l

/-- Checks the route table: whether it is refused, and its VALID entries (R345). -/
def State.checkRoutes (s : State) (addr lc : Nat) : Bool × Table Route :=
  let es := (List.range 256).map fun i => (i, readRoute (s.bankView (addr + 16 * i) 16))
  let valid := es.filter fun e => e.2.1
  let bad := 2 ^ 41 < addr + 4096 || s.foreignBank 0 addr 4096
    || (es.any fun e => !e.2.2.2.1)
    || (valid.any fun e =>
        let r := e.2.2.1
        let ro := e.2.2.2.2.1
        let so := e.2.2.2.2.2
        lc ≤ r.src || lc ≤ r.dst || ro < 12 || 20 < ro || so < 12 || 20 < so || r.ringBase % r.ring != 0 || r.spillBase % r.spill != 0
          || 2 ^ 24 < r.ringBase + r.ring || 2 ^ 24 < r.spillBase + r.spill || r.lat < s.pathLat r.src r.dst)
    || anyMeet (valid.flatMap fun e => e.2.2.1.areas)
  (bad, valid.map fun e => (e.1, e.2.2.1))

/-- Whether the domain mask of a load is refused; a locked unit refuses every load (R551, R561). -/
def State.domainsBad (s : State) (mask : Nat) : Bool :=
  s.sec.locked || (List.range 64).any fun d => bit mask d && (s.domainState d != 1 || s.base (0x6100 + d) 2 0 != 1)

/-- A LOAD while a routine runs (R114). -/
def State.loadBusy (s : State) : Bool := s.running

/-- The module reads a range for a LOAD: whether every granule decodes (R444, R445). -/
def State.loadRead (s : State) (a n : Nat) : Bool × State :=
  match s.bankBytes a n (locDie 0 9 0) s.nowCtx with
  | (some _, s) => (true, s)
  | (none, s) => (false, s)

/-- LOAD (R114, R345, R551, R545): the checks, and the copy of the image where none fails. A granule that the module cannot read leaves the
digest unmet (log 80); a START that waits for its bar is dropped (log 81). -/
def State.loadCmd (s : State) : State :=
  let s := { s with snap := { s.snap with resumable := false, stopped := false } }
  if s.loadBusy then ({ s with rt := { s.rt with refusal := 0xD } }).hostEvent 0 2 0 0xD 0
  else
    let mask := s.base 0x1100 3 0
    let c := s.checkImage (s.base 0x1100 1 0)
    let r := s.checkRoutes (s.base 0x1100 2 0) c.hdr.lc
    let table := s.bankView (s.base 0x1100 2 0) 4096
    let (got, s) := s.loadRead (s.base 0x1100 1 0) (max 256 c.length)
    let (gotR, s) := if c.code = 0 then s.loadRead (s.base 0x1100 2 0) 4096 else (true, s)
    let code := if c.code ≠ 0 then c.code
      else firstCode [(0xC, !got || !gotR), (0xE, r.1), (0xF, s.domainsBad mask), (0x10, !s.logRoom 2)]
    let job : LoadJob := { code, routeDigest := sm3 table }
    let rt := { s.rt with loadStatus := 1, refusal := 0, runState := if s.rt.runState = 1 then 0 else s.rt.runState }
    { s with
      rt := if code = 0 then { rt with words := c.words, hdr := c.hdr, routes := r.2, domains := BitVec.ofNat 64 mask }
            else { rt with words := [], hdr := {}, routes := [], domains := 0 }
      dict := { s.dict with load := some job } }

/-- LOAD: argument 0; nothing loads in RECOVERY, or while a load is in progress (R540, R573). -/
def State.loadOk (s : State) : Bool := !s.sec.recovery && s.dict.load.isNone

/-- LOAD (R114). -/
def execLoad (arg : BitVec 32) (s : State) : Host.Outcome State Fault Refusal :=
  commit s (if s.pow.on && arg = 0 && s.loadOk then s.loadCmd else s)

/-- A die's copy of routine space takes the words of the image, under the routine key (R73, R437, R441). -/
def State.storeRoutine (s : State) (d : Nat) : State :=
  (List.range ((s.rt.words.length + 7) / 8)).foldl (fun (s : State) g =>
    s.granulePut (routineAddr d (64 * g)) (locDie d 0 0) ((List.range 8).flatMap fun i => leBytes 8 (s.rtWord (8 * g + i)))) s

/-- A load ends: LOADED with a new routine key and MR4 extended, or REFUSED; the LOAD event follows (R441, R529, R543). -/
def State.loadEnd (s : State) : State :=
  match s.dict.load with
  | none => s
  | some j =>
    let s := { s with dict := { s.dict with load := none } }
    if j.code = 0 then
      let (k, s) := s.draw 256
      let s := { s with rt := { s.rt with loadStatus := 2, refusal := 0 }, sec := { s.sec with routineKey := some k } }
      let s := (s.storeRoutine 0).storeRoutine 1
      ((s.extend 4 6 0 s.rt.hdr.digest).extend 4 7 0 j.routeDigest).hostEvent 0 2 0 0 0
    else ({ s with rt := { s.rt with loadStatus := 3, refusal := BitVec.ofNat 8 j.code } }).hostEvent 0 2 0 j.code 0

/-- LOAD_COMPLETE (R114). -/
def execLoadComplete (s : State) : Host.Outcome State Fault Refusal := commit s s.loadEnd

/-! ## START (R574, R625, R655) -/

/-- Whether R91 reaches a run: segment, RUN counted across loops (R118, R655). -/
def Header.reaches (h : Header) (g r : Nat) : Bool :=
  match h.segs[g]? with
  | none => false
  | some q =>
    if h.loopFrom ≤ g && h.loopCount != 0 then h.loopCount == 0xFFFFFFFF || r < q.runs * (h.loopCount + 1) else r < q.runs

/-- Whether a value of START_BAR lies two bars or more after the current bar, as the 40-bit bar number counts (R40, R574; log 98). -/
def State.barAhead (s : State) (b : Nat) : Bool :=
  let g := barGap s.beat.bar.toNat b
  b < 2 ^ 40 && 2 ≤ g && g < 2 ^ 39

/-- Whether START is accepted (R574, R625, R655). -/
def State.startOk (s : State) : Bool :=
  s.rt.loadStatus == 2 && !s.running && s.barAhead (s.base 0x1100 7 0)
    && ((List.range s.rt.hdr.lc).all fun n => s.actualCode n == 0)
    && budgetSetting s.rt.hdr.budget ≤ modeCeiling s.mode.toNat
    && ((List.range 16).all fun l => !s.rt.hdr.links.getLsbD l || (s.link l).st == .up)
    && s.rt.hdr.reaches (s.base 0x1320 1 0) (s.base 0x1320 2 0)

/-- START arms the routine (R574, R655). -/
def State.startCmd (s : State) : State :=
  { s with
    rt := { s.rt with runState := 1, armedBar := s.base 0x1100 7 0, armedSeg := s.base 0x1320 1 0, armedRun := s.base 0x1320 2 0 }
    snap := { s.snap with resumable := false, stopped := false } }

/-- START (R574). -/
def execStart (arg : BitVec 32) (s : State) : Host.Outcome State Fault Refusal :=
  commit s (if arg = 0 && s.startOk then s.startCmd else s)

end Sys2Proof.Machine
end

