-- ==== Sys2Proof/Machine/Snapshots.lean ====
section
/-! DEFINITION. FAULT_ACK, snapshots, interrupted snapshots and restore (22_faults.md R637, R646-R655). -/

namespace Sys2Proof.Machine

/-! ## FAULT_ACK (R637) -/

/-- The cause of an ensemble fault persists: no beat lock, or a link of LINK_MASK that is not UP (R637). -/
def State.ensembleBad (s : State) : Bool :=
  !s.beat.locked || (List.range 16).any fun l => s.rt.hdr.links.getLsbD l && (s.link l).st != .up

/-- Whether FAULT_ACK is refused: whatever the class of the abort (R637; log 74). -/
def State.ackRefused (s : State) : Bool := s.ensembleBad

/-- An accepted FAULT_ACK: the module reports READY from now on (R637). -/
def State.ackFault (s : State) : State := { s with rt := { s.rt with faultAcked := s.rt.faultReport } }

/-- FAULT_ACK: its argument is 0x4B43_4146 (R637, R654). -/
def execFaultAck (arg : BitVec 32) (s : State) : Host.Outcome State Fault Refusal :=
  commit s (if arg = 0x4B434146 && !s.ackRefused then s.ackFault else s)

/-! ## The target (R648) -/

/-- The memory of a target. -/
def State.target (s : State) (buddy : Bool) : Mem := if buddy then s.buddy else s.host

/-- Writes bytes of a target. -/
def State.targetPut (s : State) (buddy : Bool) (a : Nat) (bs : Bytes) : State :=
  if buddy then { s with buddy := writeMem s.buddy a bs } else s.hostPut a bs

/-- SNAP_TARGET names a buddy. -/
def State.toBuddy (s : State) : Bool := s.inForce 0x1310 1 == 1

/-- The first of the links in SNAP_LINKS. -/
def State.snapLink (s : State) : Option Nat := (List.range 16).find? fun l => bit (s.inForce 0x1310 4) l

/-- The receive area of the buddy: its first extent, and its extents per slot (R648, R654; log 37). -/
def State.buddyArea (s : State) : Nat × Nat :=
  let a := Config.buddyArea ((s.snapLink.map fun l => (s.link l).neighbour.toNat).getD 0)
  (a.1, a.2 / 2)

/-- Where a slot of the target begins (R648). -/
def State.slotAt (s : State) (k : Nat) : Nat :=
  if s.toBuddy then (s.buddyArea.1 + k * s.buddyArea.2) * 2 ^ 26 else s.inForce 0x1310 2 + k * s.inForce 0x1310 3

/-- Bytes that a slot of the target holds. -/
def State.slotRoom (s : State) : Nat := if s.toBuddy then s.buddyArea.2 * 2 ^ 26 else s.inForce 0x1310 3

/-- The header of a slot. -/
def State.slotHeader (s : State) (k : Nat) : Bytes := readMem (s.target s.toBuddy) (s.slotAt k) 4096

/-- Whether a header is that of a COMPLETE snapshot. -/
def headerComplete (h : Bytes) : Bool :=
  h.take 4 == ascii "ELSN" && recField h 8 1 == 2 && recField h 0xFFC 4 == (crc32c (h.take 0xFFC)).toNat

/-- The slot that holds the newest COMPLETE snapshot at the target, with its GENERATION (R648). -/
def State.newestSlot (s : State) : Option (Nat × Nat) :=
  let g := fun (k : Nat) => let h := s.slotHeader k; if headerComplete h then some (k, recField h 4 4) else none
  match g 0, g 1 with
  | some a, some b => some (if a.2 < b.2 then b else a)
  | some a, none => some a
  | none, b => b

/-! ## What a snapshot covers (R646, R649) -/

/-- Extents that a snapshot covers: number and key domain (R646). -/
def State.coveredExtents (s : State) : List (Nat × Nat) :=
  (((List.range (s.inForce 0x1310 6)).map fun j => s.inForce 0x1310 5 + j).filter (· < 32640)).filterMap fun e =>
    (s.pageDomain (e * 2 ^ 26)).map fun d => (e, d)

/-- Resident sets that a snapshot covers (R646). -/
def State.coveredSets (s : State) : List Nat :=
  (List.range 64).filter fun k => (s.resident k).state == .settled || (s.resident k).state == .dirty

/-- Chunks with their OFFSETs: each starts on a 64 KiB boundary (R648, R649). -/
def placeChunks : Nat → List Chunk → List Chunk
  | _, [] => []
  | at_, c :: l => { c with at_ } :: placeChunks (at_ + (c.len + 65535) / 65536) l

/-- The directory of a snapshot that begins, every entry pending (R649, R650; log 38). -/
def State.directory (s : State) : List Chunk :=
  let ext := s.coveredExtents.map fun e : Nat × Nat =>
    ({ shard := false, kd := e.2, written := false, source := e.1, len := 2 ^ 26, at_ := 0, tag := 0, digest := 0 } : Chunk)
  let sh := s.coveredSets.flatMap fun k =>
    let r := s.resident k
    (List.range r.memberList.length).map fun j =>
      ({ shard := true, kd := r.kd.toNat, written := false, source := k + 256 * j + 2 ^ 24 * r.rotation.toNat, len := r.length.toNat
         at_ := 0, tag := 0, digest := 0 } : Chunk)
  placeChunks 64 (ext ++ sh)

/-- The first 16 bytes of a directory entry (R649). -/
def Chunk.head (c : Chunk) : Bytes :=
  [if c.shard then 2 else 1, BitVec.ofNat 8 c.kd, BitVec.ofNat 8 (b2n c.written), 0] ++ leBytes 4 c.source ++ leBytes 4 c.len ++ leBytes 4 c.at_

/-- A directory entry (R649). -/
def Chunk.bytes (c : Chunk) : Bytes := c.head ++ leBytes 16 c.tag.toNat ++ leBytes 32 c.digest.toNat

/-- Bytes that a slot needs for a directory. -/
def slotNeed (l : List Chunk) : Nat := l.foldl (fun m c => max m (c.at_ * 65536 + c.len)) 0x400000

/-- The header of a slot (R648). -/
def State.headerBytes (s : State) (state slot gen count : Nat) (dirDigest : Nat) : Bytes :=
  let b := ascii "ELSN" ++ leBytes 4 gen ++ leBytes 1 state ++ leBytes 1 slot ++ leBytes 2 s.moduleId ++ leBytes 4 count
    ++ leBytes 32 s.rt.hdr.digest.toNat ++ leBytes 4 (s.base 0x1320 1 0) ++ leBytes 4 (s.base 0x1320 2 0) ++ leBytes 2 (s.inForce 0x1310 5)
    ++ leBytes 2 (s.inForce 0x1310 6) ++ leBytes 4 0 ++ leBytes 32 dirDigest ++ List.replicate 3996 0
  b ++ (if state = 2 then leBytes 4 (crc32c b).toNat else leBytes 4 0)

/-! ## SNAPSHOT (R646, R650-R652) -/

/-- A snapshot or a restore is in progress. -/
def State.snapBusy (s : State) : Bool := s.snap.action != 0

/-- The snapshot key of a domain (R647). -/
def State.snapKey (s : State) (d : Nat) : Option Bytes :=
  (tGet s.sec.intake d).map fun k => (sm3Bytes (leBytes 32 k.toNat ++ ascii "ELOA-SNP")).take 16

/-- The links of SNAP_LINKS are UP and have one neighbour (R651). -/
def State.snapLinksOk (s : State) : Bool :=
  let ls := (List.range 16).filter fun l => bit (s.inForce 0x1310 4) l
  match ls with
  | [] => false
  | a :: _ => ls.all fun l => (s.link l).st == .up && (s.link l).neighbour == (s.link a).neighbour

/-- Whether SNAPSHOT is refused with RANGE (R646, R651; log 38). -/
def State.snapRefused (s : State) : Bool :=
  let dir := s.directory
  s.running || s.pow.bringup != 7 || dir.any (fun c => (s.snapKey c.kd).isNone) || (s.toBuddy && !s.snapLinksOk)
    || (!s.toBuddy && decide (s.slotRoom < slotNeed dir))

/-- The set entries that a snapshot covers: entry, BASE, MEMBERS (R653). -/
def State.setsCovered (s : State) : List (Nat × Nat × BitVec 64) := s.coveredSets.map fun k => (k, (s.resident k).base.toNat, (s.resident k).members)

/-- SNAPSHOT begins: the header INCOMPLETE and a pending directory; a buddy that cannot hold the slot refuses it (R648, R650,
R651). -/
def State.snapBegin (s : State) : State :=
  let dir := s.directory
  let newest := s.newestSlot
  let slot := match newest with
    | some (k, _) => 1 - k
    | none => 0
  let gen := (newest.map (·.2)).getD 0 + 1
  let b := s.toBuddy
  if b && s.slotRoom < slotNeed dir then
    { s with snap := { s.snap with status := 4, progress := 0, resumable := false, stopped := false } }
  else
    let place := s.slotAt slot
    let s := s.targetPut b place (s.headerBytes 1 slot gen dir.length 0)
    let s := s.targetPut b (place + 0x1000) (dir.flatMap Chunk.bytes)
    { s with snap := { s.snap with status := 1, progress := 0, slot, slotGen := gen, action := 1, resumable := false, stopped := false, buddy := b
                                   place, chunks := dir, sets := s.setsCovered, setsGen := gen } }

/-- SNAPSHOT: its argument is 0x5041_4E53 (R646, R654). -/
def execSnapshot (arg : BitVec 32) (s : State) : Host.Outcome State Fault Refusal :=
  commit s (if arg = 0x50414E53 && !s.snapBusy && !s.snapRefused then s.snapBegin else s)

/-- The plaintext of a chunk: an extent, or a shard under the rotation that its entry records (R646, R649). -/
def State.chunkData (s : State) (c : Chunk) : Option Bytes × State :=
  if c.shard then
    let r := { s.resident (c.source % 256) with rotation := BitVec.ofNat 8 (c.source / 2 ^ 24) }
    let (b, s) := s.floorPeek (r.holder (c.source / 256 % 256)) r.base.toNat c.len s.nowCtx
    (some b, s)
  else s.bankBytes (c.source * 2 ^ 26) c.len (locDie 0 1 0) s.nowCtx

/-- The initialisation vector of a chunk (R647). -/
def chunkIv (gen i slot : Nat) : Bytes := leBytes 4 gen ++ leBytes 4 i ++ leBytes 1 slot ++ [0, 0, 0]

/-- Writes one chunk, then its directory entry (R647, R650). -/
def State.writeChunk (s : State) (i : Nat) : State :=
  match s.snap.chunks[i]? with
  | none => s
  | some c =>
    if c.written || s.snap.action != 1 then s
    else match s.chunkData c with
      | (none, s) => s
      | (some p, s) =>
        if s.snap.action != 1 then s
        else
          let key := (s.snapKey c.kd).getD []
          let iv := chunkIv s.snap.slotGen i s.snap.slot
          let c := { c with written := true, digest := sm3 p }
          let ct := gcmCrypt key iv p
          let c := { c with tag := BitVec.ofNat 128 (leNat (gcmTag key iv c.head ct)) }
          let s := s.targetPut s.snap.buddy (s.snap.place + c.at_ * 65536) ct
          let s := s.targetPut s.snap.buddy (s.snap.place + 0x1000 + 64 * i) c.bytes
          { s with snap := { s.snap with progress := s.snap.progress + 1, chunks := s.snap.chunks.set i c } }

/-- A snapshot ends: every pending chunk, then the header COMPLETE with DIR_DIGEST and CRC (R650). -/
def State.snapEnd (s : State) : State :=
  let s := (List.range s.snap.chunks.length).foldl State.writeChunk s
  if s.snap.action != 1 then s
  else
    let dir := s.snap.chunks.flatMap Chunk.bytes
    let s := s.targetPut s.snap.buddy s.snap.place (s.headerBytes 2 s.snap.slot s.snap.slotGen s.snap.chunks.length (sm3 dir).toNat)
    { s with snap := { s.snap with status := 2, action := 0, gen := BitVec.ofNat 32 s.snap.slotGen } }

/-- Where a part of a neighbour's snapshot lands, if this module takes it: no routine runs, the receive area holds it, and it lies in KD0 extents
(R651; log 37). -/
def State.buddyPlace (s : State) (q : BuddyPart) : Option Nat :=
  let room := s.inForce 0x1310 8 / 2 * 2 ^ 26
  let a := s.inForce 0x1310 7 * 2 ^ 26 + q.slot.val * room + q.off
  if s.running || s.pow.bringup != 7 || room < q.off + q.data.length || q.data.isEmpty || s.foreignBank 0 a q.data.length then none else some a

/-- A part of a neighbour's snapshot lands in the receive area, or its slot is refused (R651). -/
def State.buddyTake (s : State) (q : BuddyPart) : State :=
  match s.buddyPlace q with
  | some a => s.bankPut a (locDie 0 2 0) s.nowCtx q.data
  | none => s

/-- SNAPSHOT_DONE: the module's own snapshot ends, or a part of that of a neighbour arrives, of which this module is the buddy (R650, R651). -/
def execSnapshotDone (s : State) (part : Option BuddyPart := none) : Host.Outcome State Fault Refusal :=
  commit s (match part with
    | some q => if s.pow.on then s.buddyTake q else s
    | none => if s.snap.action = 1 then s.snapEnd else s)

/-- Whether SNAP_RESUME is refused with RANGE (R652). -/
def State.resumeRefused (s : State) : Bool := !s.snap.resumable || s.snap.status != 3 || s.running || s.pow.bringup != 7

/-- SNAP_RESUME writes the pending chunks of the interrupted slot (R652). -/
def State.snapResume (s : State) : State := { s with snap := { s.snap with status := 1, action := 1, resumable := false, stopped := false } }

/-- SNAP_RESUME: its argument is 0x4D55_5352 (R652, R654). -/
def execSnapResume (arg : BitVec 32) (s : State) : Host.Outcome State Fault Refusal :=
  commit s (if arg = 0x4D555352 && !s.snapBusy && !s.resumeRefused then s.snapResume else s)

/-- SNAP_DISCARD sets the STATE of the incomplete slot to EMPTY (R652). -/
def State.snapDiscard (s : State) : State :=
  if s.snap.status = 3 then
    let s := s.targetPut s.snap.buddy (s.snap.place + 8) [0]
    { s with snap := { s.snap with status := 0, resumable := false, stopped := false, chunks := [] } }
  else s

/-- SNAP_DISCARD: its argument is 0x4353_4944 (R652, R654). -/
def execSnapDiscard (arg : BitVec 32) (s : State) : Host.Outcome State Fault Refusal :=
  commit s (if s.pow.on && arg = 0x43534944 && !s.snapBusy then s.snapDiscard else s)

/-! ## RESTORE (R653) -/

/-- A directory entry read back. -/
def readChunk (b : Bytes) : Chunk :=
  { shard := recField b 0 1 == 2, kd := recField b 1 1, written := recField b 2 1 == 1, source := recField b 4 4, len := recField b 8 4
    at_ := recField b 0xC 4, tag := BitVec.ofNat 128 (recField b 0x10 16), digest := BitVec.ofNat 256 (recField b 0x20 32) }

/-- The directory of a slot. -/
def State.slotDirectory (s : State) (k : Nat) : List Chunk :=
  (List.range (recField (s.slotHeader k) 0xC 4)).map fun i =>
    readChunk (readMem (s.target s.toBuddy) (s.slotAt k + 0x1000 + 64 * i) 64)

/-- Whether a set entry is the one whose shards a snapshot holds: as many members as shards, and, where the module has taken the snapshot and remembers
the entry, its BASE and its MEMBERS (R653; log 39). -/
def State.setAgrees (s : State) (gen k shards : Nat) : Bool :=
  let r := s.resident k
  r.memberList.length == shards
    && (s.snap.setsGen != gen || s.snap.sets.all fun e => e.1 != k || (e.2.1 == r.base.toNat && e.2.2 == r.members))

/-- Whether a chunk of a slot is refused with RANGE: its domain, or its set entry (R653; log 39). -/
def State.chunkRefused (s : State) (gen : Nat) (dir : List Chunk) (c : Chunk) : Bool :=
  s.domainState c.kd != 1 || (tGet s.sec.intake c.kd).isNone
    || (c.shard &&
      (let k := c.source % 256
       let r := s.resident k
       let shards := dir.filter fun q => q.shard && q.source % 256 == k
       64 ≤ k || r.kd.toNat != c.kd || r.length.toNat != c.len || r.memberList.length ≤ c.source / 256 % 256
         || !s.setAgrees gen k shards.length || !(r.state == .empty || r.state == .failed || r.state == .unsettled)))

/-- Whether RESTORE is refused with RANGE (R545, R653). -/
def State.restoreRefused (s : State) : Bool :=
  match s.newestSlot with
  | none => true
  | some (k, gen) =>
    let dir := s.slotDirectory k
    s.running || s.pow.bringup != 7 || (s.toBuddy && !s.snapLinksOk) || recField (s.slotHeader k) 0x10 32 != s.rt.hdr.digest.toNat
      || dir.any (s.chunkRefused gen dir) || !s.logRoom (dirSets dir).length

/-- RESTORE begins. -/
def State.restoreBegin (s : State) : State :=
  match s.newestSlot with
  | none => s
  | some (k, gen) =>
    { s with snap := { s.snap with status := 5, progress := 0, slot := k, slotGen := gen, action := 2, resumable := false, stopped := false
                                   buddy := s.toBuddy, place := s.slotAt k, chunks := s.slotDirectory k } }

/-- RESTORE: its argument is 0x5254_5352 (R653, R654). -/
def execRestore (arg : BitVec 32) (s : State) : Host.Outcome State Fault Refusal :=
  commit s (if arg = 0x52545352 && !s.snapBusy && !s.restoreRefused then s.restoreBegin else s)

/-- Covered extents after a failed restore hold undefined data (R653). -/
def State.blurExtents (s : State) : State :=
  (s.snap.chunks.filter fun c => !c.shard && c.source < 32640).foldl (fun (s : State) c =>
    let (v, s) := s.draw (8 * 2 ^ 26)
    s.bankPut (c.source * 2 ^ 26) (locDie 0 1 0) s.nowCtx (leBytes (2 ^ 26) v.toNat)) s

/-- A check of a chunk fails (R653). -/
def State.restoreFailed (s : State) (i : Nat) : State :=
  let s := s.event 0x86 (locDie 0 9 0) ([BitVec.ofNat 8 s.snap.slot, 0, 0, 0] ++ leBytes 4 s.snap.slotGen ++ leBytes 4 i)
  ({ s with snap := { s.snap with status := 4, action := 0 } }).blurExtents

/-- Writes one chunk back after its TAG and DIGEST are checked (R653). -/
def State.restoreChunk (s : State) (i : Nat) : State :=
  match s.snap.chunks[i]? with
  | none => s
  | some c =>
    if s.snap.action != 2 then s
    else
      let key := (s.snapKey c.kd).getD []
      let iv := chunkIv s.snap.slotGen i s.snap.slot
      let ct := readMem (s.target s.snap.buddy) (s.snap.place + c.at_ * 65536) c.len
      let p := gcmCrypt key iv ct
      if leNat (gcmTag key iv c.head ct) != c.tag.toNat || sm3 p != c.digest || (!c.shard && (32640 ≤ c.source || c.len != 2 ^ 26)) then
        s.restoreFailed i
      else
        let s := { s with snap := { s.snap with progress := s.snap.progress + 1 } }
        if c.shard then
          let r := { s.resident (c.source % 256) with rotation := BitVec.ofNat 8 (c.source / 2 ^ 24) }
          let s := s.modResident (c.source % 256) fun _ => r
          s.floorPoke (r.holder (c.source / 256 % 256)) r.base.toNat p
        else s.bankPut (c.source * 2 ^ 26) (locDie 0 1 0) s.nowCtx p

/-- A restored set records its digest and is SETTLED (R261, R653). -/
def State.restoreSet (s : State) (k : Nat) : State :=
  let (b, s) := s.readShards (s.resident k)
  let d := sm3 b
  (s.modResident k fun r => { r with state := .settled, digest := d, turned := 0 }).extend 7 0xA k d

/-- A restore ends: chunks, sets, and the restart point of the header (R653). -/
def State.restoreEnd (s : State) : State :=
  let h := readMem (s.target s.snap.buddy) s.snap.place 4096
  let s := (List.range s.snap.chunks.length).foldl State.restoreChunk s
  if s.snap.action != 2 then s
  else
    let s := (dirSets s.snap.chunks).foldl State.restoreSet s
    let s := (s.setBase 0x1320 1 (recField h 0x30 4)).setBase 0x1320 2 (recField h 0x34 4)
    { s with snap := { s.snap with status := 6, action := 0 } }

/-- RESTORE_DONE (R653). -/
def execRestoreDone (s : State) : Host.Outcome State Fault Refusal := commit s (if s.snap.action = 2 then s.restoreEnd else s)

end Sys2Proof.Machine
end

