-- ==== Sys2Proof/Machine/Writes.lean ====
section
/-! DEFINITION. Writes to dictionary entries: ranges, overlays, modes, cluster enables, stores, and the commands of CMD entries
(19_dictionary.md R564-R593; 15_partner_links.md R480; 16_service_layer.md R483, R511; 20_power_clocks.md R613; 22_faults.md R654). -/

namespace Sys2Proof.Machine

/-! ## Service entries written while a routine runs (R511) -/

/-- Service entries that accept writes only while no routine runs: the pools and WEIGHT_DIGEST (R511). -/
def poolEntry (i sub : Nat) : Bool :=
  (0x5200 ≤ i && i < 0x5240 && [2, 3, 5, 6].contains sub) || i == 0x5300

/-- The service entries whose writes wait for the next SLOT. -/
def serviceEntries : List (Nat × Nat × Entry) :=
  ([0x5000] ++ (List.range 64).map (0x5100 + ·) ++ (List.range 64).map (0x5200 + ·)).flatMap fun i =>
    (withSubs i).filter fun (e : Nat × Nat × Entry) => e.2.2.acc == Acc2.rwp && !poolEntry e.1 e.2.1

/-- A state `t` that follows `s` by a write: while a routine runs, each service entry keeps the value that it had in force until the
next SLOT (R511). -/
def State.holdService (t s : State) : State :=
  if !s.running then t
  else
    { t with isu := { t.isu with held := serviceEntries.foldl (fun h e =>
        let old := s.svc e.1 e.2.1 e.2.2.dflt
        if t.val e.1 e.2.1 e.2.2.dflt = old then h else tPut h (e.1 * 256 + e.2.1) old) t.isu.held } }

/-- An entry of the power area that takes a new value keeps the one in force until the next beat boundary (R579, R613). -/
def State.holdPower (t s : State) : State :=
  { t with pow := { t.pow with held := [3, 5, 6, 7, 8, 9].foldl (fun h sub =>
      if t.inForce 0x7000 sub = s.inForce 0x7000 sub then h else tPut h sub (s.bound7 sub)) t.pow.held } }

/-- What a write or a change of overlays leaves in force for a time: in the service area and in the power area (R511, R579, R613). -/
def State.holdOld (t s : State) : State := (t.holdService s).holdPower s

/-! ## Overlays (R578-R582) -/

/-- An overlay's list changed. -/
def State.modOverlay (s : State) (k : Nat) (f : Table Nat → Table Nat) : State :=
  { s with dict := { s.dict with overlays := vmod s.dict.overlays k f } }

/-- Whether an overlay may hold an entry (R580). -/
def overlayMay (i sub : Nat) (e : Entry) : Bool :=
  e.acc == Acc2.rwp && !poolEntry i sub
    && ((0x2000 ≤ i && i < 0x4000 && !(i == 0x2000 && (sub == 1 || sub == 3))) || (0x5000 ≤ i && i < 0x6000) || (0x7000 ≤ i && i < 0x8000))

/-- An entry's value in force comes from an overlay in use (R581). -/
def State.overlaid (s : State) (i sub : Nat) : Bool :=
  (4 ≤ s.dict.userOverlay && (s.overlayVal s.dict.userOverlay i sub).isSome) || (s.overlayVal (s.mode.toNat - 1) i sub).isSome

/-! ## Ranges of plain entries -/

/-- Whether a value lies in the range of an entry of area 0x1000 (R573, R654). -/
def range1 (i sub v : Nat) : Bool :=
  if i = 0x1020 then (if sub = 2 then (1 ≤ v && v ≤ 31) || v == 0xFF else 2 ≤ v && v ≤ 32)
  else if i = 0x1300 then sub != 2 || (10 ≤ v && v ≤ 24)
  else if i = 0x1310 then
    (if sub = 1 then decide (v ≤ 1) else if sub = 2 || sub = 3 then v % 65536 == 0 else if sub = 4 then true else decide (v ≤ 32640))
  else true

/-- Whether a value lies in the range of an entry of area 0x4000 (R480). -/
def State.range4 (s : State) (i sub v : Nat) : Bool :=
  if i = 0x4000 then decide (v ≤ 1023) && !s.running
  else if i < 0x4100 then (if sub = 1 then decide (v ≤ 1) && s.linkEnabled (i - 0x4010) else v ≤ 1023 || v == 0xFFFF)
  else if i < 0x4200 then v < 16 || v == 0xFF
  else true

/-- Whether a value lies in the range of an entry of area 0x5000 (R483, R511). -/
def State.range5 (s : State) (i sub v : Nat) : Bool :=
  !(poolEntry i sub && s.running)
    && (if i = 0x5000 then (if sub = 1 then decide (v ≤ 1) else if sub = 2 then decide (65440 ≤ v) else decide (2 ≤ v))
        else if i < 0x5200 then
          (if sub = 1 then decide (v ≤ 1) else if sub = 3 then 16 ≤ v && v ≤ 26 else if sub = 4 then decide (v < 64)
           else if sub = 5 then decide (v < 2 ^ s.inForce i 3) else true)
        else if i < 0x5300 then
          (if sub = 2 || sub = 5 then v % 65536 == 0 else if sub = 3 || sub = 6 then v == 0 || 2 ≤ v else true)
        else s.logRoom 1)

/-- Whether a value lies in the range of an entry of area 0x7000, beside the other values in force (R613). -/
def State.range7 (s : State) (sub v : Nat) : Bool :=
  if sub = 3 then 600 ≤ v && v ≤ 1600
  else if sub = 5 then 1 ≤ v && v ≤ 3 && v ≤ s.inForce 0x7000 6
  else if sub = 6 then 1 ≤ v && v ≤ 3 && s.inForce 0x7000 5 ≤ v
  else if sub = 7 then 70 ≤ v && v ≤ 100 && v + 1 ≤ s.inForce 0x7000 8
  else if sub = 8 then s.inForce 0x7000 7 + 1 ≤ v && v ≤ 102
  else 4 ≤ v && v ≤ 40

/-- Whether a value lies in the range of a plain entry. -/
def State.rangeOk (s : State) (i sub v : Nat) : Bool :=
  if i < 0x2000 then range1 i sub v
  else if 0x4000 ≤ i && i < 0x5000 then s.range4 i sub v
  else if 0x5000 ≤ i && i < 0x6000 then s.range5 i sub v
  else if 0x7000 ≤ i && i < 0x8000 then s.range7 sub v
  else if 0x8400 ≤ i && i < 0x8440 then s.residentOk (i - 0x8400) sub v
  else if 0xA000 ≤ i && i < 0xA008 then (if sub = 1 then decide (v ≤ 1) else decide (v < (s.overlay (i - 0xA000)).length))
  else true

/-! ## MODE and USER_OVERLAY (R6, R576, R579) -/

/-- Whether a write to MODE is accepted (R576). -/
def State.modeOk (s : State) (v : Nat) : Bool :=
  s.gradeAccepts v
    && !(s.running && ((v == 4) != (s.mode == 4) || modeCeiling v < budgetSetting s.rt.hdr.budget))

/-- A refused write to MODE: of a mode that an EL48-S does not accept it is recorded as an event (R6). -/
def State.modeRefused (s : State) (v : Nat) : State :=
  if 1 ≤ v && v ≤ 4 && !s.gradeAccepts v then s.event 0x83 (locDie 0 9 0) [0x00, 0x20, 1, 0xFF] else s

/-- A mode comes into force: ACTUAL_MODE and the overlays change (R576, R579). -/
def State.setMode (s : State) (v : Nat) : State :=
  ({ s with mode := BitVec.ofNat 8 v, dict := { s.dict with modeNext := none } }).holdOld s

/-- An accepted write to MODE: at once while no routine runs, otherwise at the next bar boundary (R576). -/
def State.modeWrite (s : State) (v : Nat) : State :=
  let s := s.setVal 0x2000 1 v
  if s.running then { s with dict := { s.dict with modeNext := some (v, s.beat.bar.toNat) } } else s.setMode v

/-- MODE (R576). -/
def execMode (v : BitVec 8) (s : State) : Host.Outcome State Fault Refusal :=
  commit s (if !s.pow.on then s else if s.modeOk v.toNat then s.modeWrite v.toNat else s.modeRefused v.toNat)

/-- Whether a write that waited for the next bar boundary is due. -/
def State.barDue (s : State) (bar : Nat) : Bool := !s.running || s.beat.bar.toNat != bar

/-- The regions report anew in the beat of the boundary at which a mode has come into force: its ceiling holds from this beat on (R576, R607). -/
def State.reportAgain (s : State) : State :=
  let s := s.reportAll
  { s with beat := { s.beat with report := s.reportFrame } }

/-- The bar boundary at which a mode comes into force (R576). -/
def execModeTakesEffect (s : State) : Host.Outcome State Fault Refusal :=
  commit s (match s.dict.modeNext with
    | some (v, bar) => if s.barDue bar then (s.setMode v).reportAgain else s
    | none => s)

/-- Whether a write to USER_OVERLAY is accepted (R575). -/
def userOk (v : Nat) : Bool := v == 0 || (4 ≤ v && v ≤ 7)

/-- A user overlay comes into use (R579). -/
def State.setUser (s : State) (v : Nat) : State :=
  ({ s with dict := { s.dict with userOverlay := v, userNext := none } }).holdOld s

/-- An accepted write to USER_OVERLAY (R579). -/
def State.userWrite (s : State) (v : Nat) : State :=
  let s := s.setVal 0x2000 3 v
  if s.running then { s with dict := { s.dict with userNext := some (v, s.beat.bar.toNat) } } else s.setUser v

/-- USER_OVERLAY (R575, R579). -/
def execUserOverlay (v : BitVec 8) (s : State) : Host.Outcome State Fault Refusal :=
  commit s (if s.pow.on && userOk v.toNat then s.userWrite v.toNat else s)

/-- The bar boundary at which a user overlay comes into use (R579). -/
def execUserOverlayTakesEffect (s : State) : Host.Outcome State Fault Refusal :=
  commit s (match s.dict.userNext with
    | some (v, bar) => if s.barDue bar then s.setUser v else s
    | none => s)

/-! ## PUT and REMOVE (R580, R582) -/

/-- Whether PUT accepts an item (R580, R582). -/
def State.putOk (s : State) (k : Nat) (b : Bytes) : Bool :=
  let i := recField b 0 2
  let sub := recField b 2 1
  match entry i sub with
  | none => false
  | some e =>
    overlayMay i sub e && b.length == 4 + e.ty.width && recField b 3 1 == 0 && s.rangeOk i sub (recField b 4 e.ty.width)
      && (decide ((s.overlay k).length < 128) || (tGet (s.overlay k) (i * 256 + sub)).isSome)

/-- PUT adds or replaces an item. -/
def State.overlayPut (s : State) (k : Nat) (b : Bytes) : State :=
  (s.modOverlay k fun t => tPut t (recField b 0 2 * 256 + recField b 2 1) (recField b 4 (b.length - 4))).holdOld s

/-- OVERLAY_PUT (R580, R582). -/
def execOverlayPut (k : Fin 8) (data : Bytes) (s : State) : Host.Outcome State Fault Refusal :=
  commit s (if s.pow.on && s.putOk k data then s.overlayPut k data else s)

/-- Whether REMOVE finds its item (R582). -/
def State.removeOk (s : State) (k v : Nat) : Bool := v < 2 ^ 24 && (tGet (s.overlay k) v).isSome

/-- REMOVE deletes an item. -/
def State.overlayRemove (s : State) (k v : Nat) : State := (s.modOverlay k fun t => tDel t v).holdOld s

/-- OVERLAY_REMOVE (R582). -/
def execOverlayRemove (k : Fin 8) (v : BitVec 32) (s : State) : Host.Outcome State Fault Refusal :=
  commit s (if s.pow.on && s.removeOk k v.toNat then s.overlayRemove k v.toNat else s)

/-! ## COMMANDED (R587, R588) -/

/-- Whether a write to COMMANDED is in range. -/
def State.commandedOk (s : State) (n v : Nat) : Bool := n < s.lcMax && v ≤ 1

/-- A write to COMMANDED, and ACTUAL under R588. -/
def State.commandedWrite (s : State) (n v : Nat) : State :=
  let s := s.setVal (0x8000 + n) 1 v
  let s :=
    if v = 0 then
      (if (tGet s.actual n).isNone then { s with actual := tPut s.actual n (if s.running then 1 else 4) } else s)
    else if !s.running && tGet s.actual n == some 4 then { s with actual := tDel s.actual n }
    else s
  if s.running then s.noteDiscrepancies else s.discrepancies1

/-- COMMANDED (R587, R588). -/
def execCommanded (n : Fin 48) (v : BitVec 8) (s : State) : Host.Outcome State Fault Refusal :=
  commit s (if s.pow.on && s.commandedOk n v.toNat then s.commandedWrite n v.toNat else s)

/-! ## ENABLE of a link (R480, R481) -/

/-- A write to ENABLE of a link: a link that goes out of use is DISABLED, one that comes into use trains from bring-up stage 5 on
(log 40). -/
def State.linkWrite (s : State) (l v : Nat) : State :=
  let s := s.setVal (0x4010 + l) 1 v
  if v = 0 then s.modLink l fun k => { k.destroyed false with st := .disabled }
  else if (s.link l).st == .disabled || (s.link l).st == .down then
    s.modLink l fun k => { k with st := if 5 ≤ s.pow.bringup && s.pow.bringup ≤ 7 then .training else .down, lane := false }
  else s

/-! ## STORE, DEFAULTS, CLEAR_ALL (R573, R585, R593) -/

/-- STORE takes the working values at its start (R585). -/
def State.storeBegin (s : State) : State :=
  { s with dict := { s.dict with storeStatus := 1, storing := some (imageOf s.dict.vals s.dict.overlays.toList) } }

/-- Whether STORE is refused, with its code (R545, R585). -/
def State.storeCode (s : State) : Nat := if s.storeBusy then 7 else if !s.logRoom 1 then 9 else 0

/-- STORE: its argument is 0x524F_5453 (R573, R585). -/
def execStore (arg : BitVec 32) (s : State) : Host.Outcome State Fault Refusal :=
  commit s (if s.pow.on && arg = 0x524F5453 && s.storeCode = 0 then s.storeBegin else s)

/-- A store ends: the new record is in force and MR3 is extended; or it has failed, and the old record stays (R543, R585). -/
def State.storeEnd (s : State) (ok : Bool) : State :=
  match s.dict.storing with
  | none => s
  | some img =>
    let s := { s with dict := { s.dict with storing := none } }
    if ok then
      let s := s.commitImage img
      ({ s with dict := { s.dict with storeStatus := 2 } }).extend 3 5 0 (sm3 img)
    else ({ s with dict := { s.dict with storeStatus := 3 } }).count 0x900A 2 1

/-- STORE_DONE (R585). -/
def execStoreDone (ok : Bool) (s : State) : Host.Outcome State Fault Refusal := commit s (s.storeEnd ok)

/-- Writes a plain entry: a service entry waits for the next SLOT while a routine runs (R511), one of the power area for the next beat (R613);
WEIGHT_DIGEST extends MR5 (R543). -/
def State.plainWrite (s : State) (i sub v : Nat) : State :=
  let t := s.setVal i sub v
  if i = 0x5300 then t.extend 5 8 sub (BitVec.ofNat 256 v)
  else if (0x5000 ≤ i && i < 0x5300) || (0xA000 ≤ i && sub == 1) || i == 0x7000 then t.holdOld s
  else t

/-- Entries that take no write while a routine runs (R480, R511). -/
def keptWhileRunning (i sub : Nat) : Bool := i == 0x4000 || poolEntry i sub

/-- One entry returns to its default, as by a write; one that takes no write while a routine runs stays as it is then (R480, R511; log 72). -/
def State.toDefault (s : State) (q : Nat × Nat × Entry) : State :=
  let (i, sub, e) := q
  if s.work i sub = e.dflt then s
  else if i = 0x2000 && sub = 1 then (if s.modeOk 2 then s.modeWrite 2 else s.setVal i sub 2)
  else if i = 0x2000 then s.userWrite 0
  else if 0x8000 ≤ i && i < 0x8030 then s.commandedWrite (i - 0x8000) 1
  else if 0x4010 ≤ i && i < 0x4020 && sub = 1 then s.linkWrite (i - 0x4010) 0
  else if s.running && keptWhileRunning i sub then s
  else s.plainWrite i sub e.dflt

/-- DEFAULTS: every rwp entry and every overlay takes its default (R573). -/
def State.defaults (s : State) : State :=
  let s := (selectEntries fun _ _ e => e.acc == Acc2.rwp).foldl State.toDefault s
  ({ s with dict := { s.dict with overlays := Vector.replicate 8 [] } }).holdOld s

/-- DEFAULTS: its argument is 0x544C_4644 (R573). -/
def execDefaults (arg : BitVec 32) (s : State) : Host.Outcome State Fault Refusal :=
  commit s (if s.pow.on && arg = 0x544C4644 then s.defaults else s)

/-- CLEAR_ALL: every counter of the area is 0 (R593). -/
def State.clearAll (s : State) : State := { s with counters := [] }

/-- CLEAR_ALL: its argument is 0x5253_4C43 (R593). -/
def execClearAll (arg : BitVec 32) (s : State) : Host.Outcome State Fault Refusal :=
  commit s (if s.pow.on && arg = 0x52534C43 then s.clearAll else s)

/-- The I3C bus owner assigns the dynamic address and the endpoint ID (R566, R573). -/
def execEndpointIdAssignment (eid : BitVec 8) (dynAddr : BitVec 7) (s : State) : Host.Outcome State Fault Refusal :=
  commit s (if s.pow.on then { s with dict := { s.dict with eid := eid, dynAddr := dynAddr } } else s)

/-! ## CMD entries -/

/-- Whether the action of a CMD entry is still in progress (R567, R585). -/
def State.cmdBusy (s : State) (i sub : Nat) : Bool :=
  if (i = 0x1010 && sub = 1) || (i = 0x6000 && sub = 5) then s.storeBusy
  else if i = 0x1100 && sub = 4 then s.dict.load.isSome
  else if i = 0x1310 then s.snapBusy
  else if 0x8400 ≤ i && i < 0x8440 && sub != 13 then s.residentBusy (i - 0x8400)
  else false

/-- Whether a CMD entry accepts an argument now (R573, R574, R592, R616, R632, R654). -/
def State.cmdOk (s : State) (i sub a : Nat) : Bool :=
  match i, sub with
  | 0x1010, 1 => a == 0x524F5453 && s.storeCode == 0
  | 0x1010, _ => a == 0x544C4644
  | 0x1100, 4 => a == 0 && s.loadOk
  | 0x1100, 8 => a == 0 && s.startOk
  | 0x1100, _ => a == 0 && s.running
  | 0x1200, 1 => a == 0x5453524D && !s.moduleBarred
  | 0x1200, 2 => a == 0x54535257 && !s.warmBarred
  | 0x1200, 3 => s.clusterResetOk a
  | 0x1200, _ => s.linkResetOk a
  | 0x1310, 9 => a == 0x50414E53 && !s.snapRefused
  | 0x1310, 10 => a == 0x52545352 && !s.restoreRefused
  | 0x1310, 11 => a == 0x4D555352 && !s.resumeRefused
  | 0x1310, _ => a == 0x43534944
  | 0x1330, _ => a == 0x4B434146 && !s.ackRefused
  | 0x6000, _ => s.logRoom 1
  | 0x6020, _ => true
  | 0x9000, _ => a == 0x52534C43
  | _, _ =>
    let k := i - 0x8400
    a == 0 && (if sub = 10 then s.loadSetOk k else if sub = 11 then s.recordSetOk k else if sub = 12 then s.verifySetOk k else !s.running)

/-- The action of an accepted CMD entry. -/
def State.cmdRun (s : State) (i sub a : Nat) : State :=
  match i, sub with
  | 0x1010, 1 => s.storeBegin
  | 0x1010, _ => s.defaults
  | 0x1100, 4 => s.loadCmd
  | 0x1100, 8 => s.startCmd
  | 0x1100, _ => s.stopCmd
  | 0x1200, 1 => s.moduleCmd
  | 0x1200, 2 => s.warmCmd
  | 0x1200, 3 => s.clusterReset a
  | 0x1200, _ => s.linkReset a
  | 0x1310, 9 => s.snapBegin
  | 0x1310, 10 => s.restoreBegin
  | 0x1310, 11 => s.snapResume
  | 0x1310, _ => s.snapDiscard
  | 0x1330, _ => s.ackFault
  | 0x6000, _ => s.coStoreBegin
  | 0x6020, _ => s.commitFirmware
  | 0x9000, _ => s.clearAll
  | _, _ =>
    let k := i - 0x8400
    if sub = 10 then s.loadSet k else if sub = 11 then s.beginDigest k 2 else if sub = 12 then s.beginDigest k 3 else s.clearSet k

/-! ## Any write -/

/-- Whether the value that a write completes is in range, and the module's state permits it now (R567). -/
def State.writeOk (s : State) (i sub : Nat) (e : Entry) (b : Bytes) : Bool :=
  let v := leNat b
  if e.ty = .cmd then s.cmdOk i sub v
  else if e.ty = .bool && 1 < v then false
  else if i = 0x2000 then (if sub = 1 then s.modeOk v else userOk v)
  else if i = 0x6000 then true
  else if i = 0x6020 then fwFits b
  else if i = 0x5300 && b.length ≠ 32 then false
  else if 0x8000 ≤ i && i < 0x8030 then s.commandedOk (i - 0x8000) v
  else if 0xA000 ≤ i && sub = 3 then s.putOk (i - 0xA000) b
  else if 0xA000 ≤ i && sub = 4 then s.removeOk (i - 0xA000) v
  else s.rangeOk i sub v

/-- Whether a doorbell's proposal becomes WPTR (R530). -/
def State.bellOk (s : State) (b : Bell) : Bool :=
  let i := 0x5100 + b.ring
  let z := 2 ^ s.svc i 3 16
  let ahead := fun w => (w + z - s.base i 6 0 % z) % z
  s.svc i 1 0 == 1 && s.svc i 4 0 == b.fn && b.v.toNat % 64 == 0 && b.v.toNat < z && ahead (s.base i 5 0) ≤ ahead b.v.toNat

/-- The first doorbell applies, or is ignored and counted (R530, R531). -/
def State.applyBell (s : State) : State :=
  match s.port.bells with
  | [] => s
  | b :: l =>
    let s := { s with port := { s.port with bells := l, mail := s.port.mail.map fun (m : Nat × Nat) => (m.1, m.2 - 1) } }
    if s.bellOk b then s.setBase (0x5100 + b.ring) 5 b.v.toNat
    else (s.modFn b.fn fun g => { g with err := g.err ||| 4 }).count 0x9009 3 1

/-- The doorbells received before a dictionary write of a WPTR apply before it (R532). -/
def State.applyBells (s : State) (n : Nat) : State := (List.range n).foldl (fun (s : State) _ => s.applyBell) s

/-- The effect of a write that is accepted; `bells` doorbells were received before its request. -/
def State.writeRun (s : State) (i sub : Nat) (e : Entry) (b : Bytes) (bells : Nat) : State :=
  let v := leNat b
  if e.ty = .cmd then s.cmdRun i sub v
  else if i = 0x2000 then (if sub = 1 then s.modeWrite v else s.userWrite v)
  else if i = 0x6000 then s.coBuffer b
  else if i = 0x6020 then s.fillFirmware b
  else if 0x5100 ≤ i && i < 0x5140 && sub = 5 then (s.applyBells bells).plainWrite i sub v
  else if 0x8000 ≤ i && i < 0x8030 then s.commandedWrite (i - 0x8000) v
  else if 0x8400 ≤ i && i < 0x8440 then s.modResident (i - 0x8400) fun r => r.put sub v
  else if 0xA000 ≤ i && sub = 3 then s.overlayPut (i - 0xA000) b
  else if 0xA000 ≤ i && sub = 4 then s.overlayRemove (i - 0xA000) v
  else if 0x4010 ≤ i && i < 0x4020 && sub = 1 then s.linkWrite (i - 0x4010) v
  else s.plainWrite i sub v

end Sys2Proof.Machine
end

