-- ==== Sys2Proof/Machine/Dictionary.lean ====
section
/-! DEFINITION. The dictionary protocol: framing, alive counters, the checks of a request, segments, responses
(19_dictionary.md R566-R572). -/

namespace Sys2Proof.Machine

/-! ## Messages (R568) -/

/-- A request as its message gives it (R568). -/
structure DictReq where
  op : Nat
  alive : Byte
  tag : BitVec 16
  idx : Nat
  sub : Nat
  last : Bool
  len : Nat
  off : Nat
  val : Bytes
  deriving DecidableEq, Repr

/-- Reads a request (R568). -/
def readReq (m : Bytes) : DictReq :=
  { op := recField m 1 1, alive := BitVec.ofNat 8 (recField m 2 1), tag := BitVec.ofNat 16 (recField m 4 2), idx := recField m 6 2
    sub := recField m 8 1, last := bit (recField m 9 1) 0, len := recField m 0xA 2, off := recField m 0xC 4
    val := (m.drop 16).take (m.length - 18) }

/-- Value bytes per message of a path (R566). -/
def pathMax (p : Nat) : Nat := if p = 0 then 1482 else 4064

/-- The counter of a message that is discarded: 1 DICT_FRAME, 2 DICT_CRC_BAD (R570). -/
def frameFault (p : Nat) (m : Bytes) : Option Nat :=
  let op := recField m 1 1
  let len := recField m 0xA 2
  if m.length < 18 then some 1
  else if m.length ≠ 18 + (if op = 2 then len else 0) || (op = 2 && pathMax p < len) then some 1
  else if (crc16 (m.take (m.length - 2))).toNat ≠ recField m (m.length - 2) 2 then some 2
  else if recField m 0 1 ≠ 1 || !(op == 1 || op == 2) then some 1
  else none

/-- A response (R568). -/
def rspBytes (q : DictReq) (alive : Byte) (status : Nat) (data : Bytes) (last : Bool) : Bytes :=
  let b := [1, BitVec.ofNat 8 (q.op + 0x80), alive, BitVec.ofNat 8 status] ++ leBytes 2 q.tag.toNat ++ leBytes 2 q.idx
    ++ leBytes 1 q.sub ++ leBytes 1 (b2n last) ++ leBytes 2 data.length ++ leBytes 4 q.off ++ data
  b ++ leBytes 2 (crc16 b).toNat

/-! ## Paths (R566, R570) -/

/-- Where a path, or the mailbox of a virtual function, stands in the state. -/
def pathKey (p fn : Nat) : Nat := if p < 3 then p else 64 + fn

/-- A path. -/
def State.path (s : State) (k : Nat) : Path := (tGet s.dict.paths k).getD {}

/-- Changes a path. -/
def State.modPath (s : State) (k : Nat) (f : Path → Path) : State := { s with dict := { s.dict with paths := tPut s.dict.paths k (f (s.path k)) } }

/-- The paths serve requests from bring-up stage 3 on, and in RECOVERY (R540, R620). -/
def State.served (s : State) : Bool := s.pow.on && (3 ≤ s.pow.bringup || s.sec.recovery)

/-! ## The checks (R567) -/

/-- In RECOVERY the dictionary offers the identity area and the firmware entries only (R540). -/
def State.offered (s : State) (i : Nat) : Bool := !s.sec.recovery || i < 0x2000 || i == 0x6020

/-- What the mailbox of a virtual function reaches (R566). -/
def State.vfReaches (s : State) (fn op i : Nat) : Bool :=
  (op == 1 && 0x1000 ≤ i && i < 0x2000) || (0x5100 ≤ i && i < 0x5140 && s.inForce i 4 == fn) || i == 0x5200 + fn

/-- Whether a path has the right that an operation needs (R562, R567). -/
def State.hasRight (s : State) (p op i : Nat) (e : Entry) : Bool :=
  bit (s.work (0x6200 + p) (i / 4096)) (if op = 1 then 0 else if e.ty = .cmd then 2 else 1)

/-- Whether the access code forbids an operation (R565). -/
def Entry.barred (e : Entry) (op : Nat) : Bool := if op = 1 then e.acc == Acc2.wo else e.acc == Acc2.ro || e.acc == Acc2.rw2

/-- Whether an operation breaks an entry's type (R564, R567). -/
def Entry.badType (e : Entry) (q : DictReq) : Bool :=
  match e.ty with
  | .blob n => if q.op = 1 then decide (n < q.off) else q.off + q.len == 0 || decide (n < q.off + q.len)
  | t => q.off != 0 || (if q.op = 1 then decide (q.len < t.size) else q.len != t.size)

/-- Whether an entry's values come in segments. -/
def Ty.segmented : Ty → Bool
  | .blob _ => true
  | _ => false

/-- Whether a segment continues the open write of its path, or opens one (R569). -/
def Path.continues (k : Path) (q : DictReq) : Bool :=
  match k.segs with
  | some (e, b) => e == q.idx * 256 + q.sub && b.length == q.off
  | none => q.off == 0

/-- The bytes of an entry's value once a segment has been taken. -/
def Path.gathered (k : Path) (e : Entry) (q : DictReq) : Bytes :=
  if e.ty.segmented then ((k.segs.map (·.2)).getD []) ++ q.val else q.val

/-- Whether another path holds a segmented write to an entry (R567). -/
def State.heldElsewhere (s : State) (k i sub : Nat) : Bool :=
  s.dict.paths.any fun (e : Nat × Path) => e.1 != k && (e.2.segs.map (·.1)) == some (i * 256 + sub)

/-- Whether a write completes a value: a scalar, or the LAST segment. -/
def completes (e : Entry) (q : DictReq) : Bool := !e.ty.segmented || q.last

/-- The code of an item that PUT brings: the checks of a write of its value to its entry by the same path (R567, R580, R582; log 72). -/
def State.putCode (s : State) (p fn k : Nat) (b : Bytes) : Nat :=
  let i := recField b 0 2
  let sub := recField b 2 1
  match (if s.offered i then entry i sub else none) with
  | none => 1
  | some e =>
    if !s.hasRight p 2 i e then 2
    else if e.barred 2 then 3
    else if p = 3 && !s.vfReaches fn 2 i then 4
    else if b.length ≠ 4 + e.ty.width then 5
    else if s.putOk k b then 0 else 9

/-- The code that the value of a write gives once it is complete (R567, R582). -/
def State.valueCode (s : State) (p fn : Nat) (q : DictReq) (e : Entry) (b : Bytes) : Nat :=
  if 0xA000 ≤ q.idx && q.sub = 3 then s.putCode p fn (q.idx - 0xA000) b
  else if s.writeOk q.idx q.sub e b then 0 else 9

/-- The checks of R567 that need the entry. -/
def State.entryCode (s : State) (p fn : Nat) (q : DictReq) (e : Entry) : Nat :=
  let k := s.path (pathKey p fn)
  if !s.hasRight p q.op q.idx e then 2
  else if e.barred q.op then 3
  else if p = 3 && !s.vfReaches fn q.op q.idx then 4
  else if e.badType q then 5
  else if q.op = 1 then (if s.heldElsewhere (pathKey p fn) q.idx q.sub then 7 else 0)
  else if e.ty.segmented && !k.continues q then 6
  else if (e.ty = .cmd && s.cmdBusy q.idx q.sub) || s.heldElsewhere (pathKey p fn) q.idx q.sub then 7
  else if e.acc = .rwp && s.overlaid q.idx q.sub then 8
  else if completes e q then s.valueCode p fn q e (k.gathered e q)
  else 0

/-- The code of a request, and its entry (R567). -/
def State.requestCode (s : State) (p fn : Nat) (q : DictReq) : Nat × Option Entry :=
  match (if s.offered q.idx then entry q.idx q.sub else none) with
  | none => (1, none)
  | some e => (s.entryCode p fn q e, some e)

/-! ## Answering (R568-R572) -/

/-- The value bytes of a READ response, and whether they reach the end (R568). -/
def State.readValue (s : State) (p : Nat) (q : DictReq) (e : Entry) : Bytes × Bool :=
  let v := s.entryBytes q.idx q.sub e
  let d := (v.drop q.off).take (min q.len (pathMax p))
  (d, decide (v.length ≤ q.off + d.length))

/-- What a request does once it has been answered: the entry and the value of a write that completes. -/
abbrev Todo := Option (Nat × Nat × Entry × Bytes)

/-- Answers a request that is not a repeat: the response, the state of the path, and what is to be done (R567-R570). -/
def State.respond (s : State) (p fn : Nat) (q : DictReq) : Bytes × State × Todo :=
  let (code, e) := s.requestCode p fn q
  let key := pathKey p fn
  let k := s.path key
  let (d, last) := match e with
    | some e => if code = 0 && q.op = 1 then s.readValue p q e else ([], false)
    | none => ([], false)
  let r := rspBytes q (k.txAlive + 1) code d last
  let todo : Todo := match e with
    | some e => if code = 0 && q.op = 2 && completes e q then some (q.idx, q.sub, e, k.gathered e q) else none
    | none => none
  let segs := match e with
    | some e => if code = 0 && q.op = 2 && e.ty.segmented then (if q.last then none else some (q.idx * 256 + q.sub, k.gathered e q)) else k.segs
    | none => k.segs
  let lost := q.alive != k.rxAlive && q.alive != k.rxAlive + 1
  let s := if lost then s.count (0x9010 + p) 4 1 else s
  let s := if code = 0 then s else s.count (0x9010 + p) 5 1
  let s := if code = 9 && q.idx = 0x2000 && q.sub = 1 then s.modeRefused (leNat q.val) else s
  (r, s.modPath key fun k => { k with rxAlive := q.alive, rxTag := q.tag, txAlive := k.txAlive + 1, rsp := r, said := r, segs }, todo)

/-- Whether a request repeats the last one that its path has answered: both its ALIVE and its TAG. A path that has answered none has nothing to repeat
(R570; log 70). -/
def Path.repeats (k : Path) (q : DictReq) : Bool := !k.rsp.isEmpty && q.alive == k.rxAlive && q.tag == k.rxTag

/-- Answers a message: nothing where it is discarded, the previous response where it repeats (R570). -/
def State.answer (s : State) (p fn : Nat) (m : Bytes) : Option Bytes × State × Todo :=
  match frameFault p m with
  | some c => (none, s.count (0x9010 + p) c 1, none)
  | none =>
    let q := readReq m
    let k := s.path (pathKey p fn)
    if k.repeats q then
      (some k.rsp, (s.count (0x9010 + p) 3 1).modPath (pathKey p fn) fun k => { k with said := k.rsp }, none)
    else
      let (r, s, todo) := s.respond p fn q
      (some r, s, todo)

/-- Does what an accepted write asks for; `bells` doorbells were received before its request (R532). -/
def State.doTodo (s : State) (bells : Nat) : Todo → State
  | some (i, sub, e, b) => s.writeRun i sub e b bells
  | none => s

/-! ## Mailboxes (R527) -/

/-- The path of a function's mailbox (R566). -/
def mbxPath (fn : Nat) : Nat := if fn = 0 then 2 else 3

/-- The oldest mailbox request is answered: the response is written, DONE is set, and MBX_DONE is queued; then the request takes effect (R527, R571,
R572). -/
def State.mbxDone (s : State) : State :=
  match s.port.mail with
  | [] => s
  | (fn, bells) :: rest =>
    let s := { s with port := { s.port with mail := rest } }
    let g := s.fn fn
    let (r, s, todo) := s.answer (mbxPath fn) fn (readMem g.req 0 g.reqLen.toNat)
    let r := (r.getD []).take 4096
    let s := s.modFn fn fun g => { g with rsp := writeMem g.rsp 0 r, rspLen := BitVec.ofNat 13 r.length, busy := false, done := true }
    (s.hostEvent fn 1 0 r.length 0).doTodo bells todo

/-- The mailbox requests that have been received are acted on (R572). -/
def State.drainMail (s : State) : State := (List.range s.port.mail.length).foldl (fun (s : State) _ => s.mbxDone) s

/-! ## Messages (R566, R571, R572) -/

/-- Whether a path takes a message: on 10BASE-T1S a unicast frame of the protocol's EtherType to the module's own address, on MCTP a message of
its type and vendor to the module's endpoint ID; any other is ignored (R566). -/
def State.takesMessage (s : State) (p : Carrier) : Bool :=
  if p.path = 0 then p.etherType == 0x88B5 && p.dst == Config.macOf Config.serial
  else if p.path = 1 then p.msgType == 0x7E && p.vendor == Config.vendorId && p.eid == s.dict.eid
  else true

/-- A request that arrives before the response to the previous one has been sent gets BUSY, which moves no counter (R571; log 70). -/
def State.sayBusy (s : State) (p fn : Nat) (m : Bytes) : State :=
  match frameFault p m with
  | some c => s.count (0x9010 + p) c 1
  | none => s.modPath (pathKey p fn) fun k => { k with said := rspBytes (readReq m) k.txAlive 7 [] false }

/-- A message of a path: the requests that arrived before it are acted on, then it is answered and acted on itself (R566, R571, R572). -/
def State.request (s : State) (p : Carrier) (fn : Nat) (m : Bytes) : State :=
  if !s.served || !s.takesMessage p then s
  else if p.early || (2 ≤ p.path.val && (s.fn fn).busy) then s.sayBusy p.path fn m
  else
    let s := s.complCheck.drainMail
    let (_, s, todo) := s.answer p.path fn m
    s.doTodo s.port.bells.length todo

/-! ## Rows -/

/-- DICT_READ: a READ request, or a message that is discarded (R566, R568, R570). -/
def execDictRead (p : Carrier) (fn : Fin 64) (msg : Bytes) (s : State) : Host.Outcome State Fault Refusal :=
  commit s (if (frameFault p.path msg).isSome || (readReq msg).op = 1 then s.request p fn msg else s)

/-- DICT_WRITE: a WRITE request, or a message that is discarded (R566, R568-R570). -/
def execDictWrite (p : Carrier) (fn : Fin 64) (msg : Bytes) (s : State) : Host.Outcome State Fault Refusal :=
  commit s (if (frameFault p.path msg).isSome || (readReq msg).op = 2 then s.request p fn msg else s)

/-- An open segmented write that receives no segment for 2 s is discarded and counted (R569). -/
def execSegmentTimeout (p : Fin 4) (fn : Fin 64) (s : State) : Host.Outcome State Fault Refusal :=
  commit s (
    if (s.path (pathKey p fn)).segs.isSome then (s.count (0x9010 + p) 6 1).modPath (pathKey p fn) fun k => { k with segs := none }
    else s)

end Sys2Proof.Machine
end

