-- ==== Sys2Proof/Machine/Control.lean ====
section
/-! DEFINITION. Control space as a reader sees it: function pages, status records, logs (17_host_interface.md R522-R526;
03_routine.md R118; 06_vector_engine.md R216; 10_memory_model.md R341; 11_channels.md R360; 13_compiler_contract.md R420;
15_partner_links.md R481; 22_faults.md R640). -/

namespace Sys2Proof.Machine

/-! ## Synchronisation objects (R341) -/

/-- Clusters, and sequencers, with a wait pending on an object: bits 0-47, and bits 0-1 (R341). -/
def State.waiters (s : State) (p : Nat → WaitForm → Bool) : Nat × Nat :=
  let on := fun w => (s.caller w).waits.any fun (q : Wait) => p w q.form
  ((List.range 48).foldl (fun a n => a + 2 ^ n * b2n (on n)) 0, b2n (on 48) + 2 * b2n (on 49))

/-- The low 32 bytes of a status record (R341). -/
def statusRecord (l : LastSig) (w : Nat × Nat) (state : Nat) : Bytes :=
  leBytes 32 (l.bar % 2 ^ 40 * 2 ^ 216 + l.beat % 64 * 2 ^ 210 + l.cyc % 2048 * 2 ^ 199 + l.module % 1024 * 2 ^ 189 + l.loc % 65536 * 2 ^ 168
    + l.step % 2 ^ 40 * 2 ^ 128 + w.1 * 2 ^ 80 + w.2 * 2 ^ 72 + l.op % 256 * 2 ^ 64 + state % 2 ^ 64)

/-- STATE of a cue (R341). -/
def Cue.state (c : Cue) : Nat := b2n c.set + 2 * b2n c.merged + 4 * b2n c.mismatch + 8 * (c.scope % 8)

/-- STATE of a tally (R341). -/
def Tally.state (c : Tally) : Nat := c.count.toNat + 2 ^ 16 * b2n c.overF + 2 ^ 17 * b2n c.mismatch

/-- STATE of a round (R341). -/
def Round.state (c : Round) : Nat := c.gen.toNat + 2 ^ 8 * b2n c.bound + 2 ^ 9 * b2n c.fault + 2 ^ 10 * (c.scope % 8)

/-- The status record of a cue of a cluster. -/
def State.cueRecord (s : State) (n k : Nat) : Bytes :=
  let c : Cue := (tGet (s.clus n).cues k).getD {}
  statusRecord c.last (s.waiters fun w f => match f with
    | .cue num _ => w == n && num == k
    | _ => false) c.state

/-- The status record of a tally of a cluster. -/
def State.tallyRecord (s : State) (n k : Nat) : Bytes :=
  let c : Tally := (tGet (s.clus n).tallies k).getD {}
  statusRecord c.last (s.waiters fun w f => match f with
    | .tally num _ _ => w == n && num == k
    | _ => false) c.state

/-- The status record of a module cue: the replica in the die clock of D0 (R309, R341). -/
def State.mcueRecord (s : State) (k : Nat) : Bytes :=
  let c : Cue := (tGet (s.domN 8).mcues k).getD {}
  statusRecord c.last (s.waiters fun _ f => match f with
    | .mcue num _ => num == k
    | _ => false) c.state

/-- The status record of a round, 64 bytes (R341). -/
def State.roundRecord (s : State) (k : Nat) : Bytes :=
  let c : Round := (tGet (s.domN 8).rounds k).getD {}
  statusRecord c.last (s.waiters fun _ f => match f with
    | .round q _ => q == k
    | _ => false) c.state
  ++ leBytes 32 (c.expect.toNat + 2 ^ 48 * c.arrived.toNat + 2 ^ 96 * c.ahead.toNat + 2 ^ 144 * c.remote.toNat + 2 ^ 154 * c.rArrived.toNat
    + 2 ^ 164 * c.rAhead.toNat)

/-! ## Units and logs -/

/-- The status record of a channel (R360). -/
def Chan.record (c : Chan) : Bytes :=
  leBytes 16 (c.free.toNat + 2 ^ 21 * c.wptr.toNat + 2 ^ 41 * c.rptr.toNat + 2 ^ 64 * c.sendAlive.toNat + 2 ^ 72 * c.recvAlive.toNat
    + 2 ^ 80 * c.arrivals.length + 2 ^ 85 * c.slots.toNat + 2 ^ 90 * b2n c.spilled + 2 ^ 91 * b2n c.spillFull + 2 ^ 92 * b2n c.crcBad
    + 2 ^ 93 * b2n c.repeatF + 2 ^ 94 * b2n c.skipF + 2 ^ 96 * (c.spillWptr.toNat % 2 ^ 20))

/-- Bar, beat and cycle as word 0 of a log record holds them (R118, R420). -/
def stampWord (bar beat cyc : Nat) : Nat := bar % 2 ^ 40 * 2 ^ 24 + beat % 64 * 2 ^ 18 + cyc % 2048 * 2 ^ 7

/-- A skip-log record (R118). -/
def SkipRec.bytes (r : SkipRec) : Bytes :=
  let x := r.ctx
  leBytes 8 (stampWord x.bar x.beat x.cyc) ++ leBytes 8 (x.step % 2 ^ 40 * 2 ^ 24 + x.seg % 65536 * 256 + r.reason)
    ++ leBytes 8 (r.loc * 2 ^ 48 + x.pbit % 256 * 2 ^ 40 + x.op % 256 * 2 ^ 32 + x.run % 2 ^ 32)
    ++ (List.range 4).flatMap fun i => leBytes 2 ((x.idx[i]?).getD 0)

/-- A hazard-log record (R420). -/
def HazRec.bytes (r : HazRec) : Bytes :=
  let x := r.ctx
  leBytes 8 (stampWord x.bar x.beat x.cyc) ++ leBytes 8 (x.step % 2 ^ 40 * 2 ^ 24 + x.seg % 65536 * 256 + r.kind * 16 + r.sub)
    ++ leBytes 8 (r.loc * 2 ^ 48 + r.other * 2 ^ 32 + x.run % 2 ^ 32) ++ leBytes 8 r.resource

/-- An error-log record (R640). -/
def ErrRec.bytes (r : ErrRec) : Bytes :=
  leBytes 8 (r.seq % 2 ^ 32 * 2 ^ 32 + r.cls * 2 ^ 24 + r.cause * 2 ^ 16 + r.loc) ++ leBytes 8 (stampWord r.bar r.beat r.cyc)
    ++ leBytes 8 (r.step % 2 ^ 40 * 2 ^ 24 + r.seg % 65536 * 256) ++ leBytes 8 (r.other * 2 ^ 48) ++ padTo 32 r.detail

/-- STATE of a card as a code (R525). -/
def SesSt.code : SesSt → Nat
  | .prefill => 1
  | .decode => 2
  | .idle => 3
  | .moving => 4
  | .out => 5
  | .closing => 6

/-- A card status record (R525). -/
def State.cardRecord (s : State) (n : Nat) : Bytes :=
  match tGet s.isu.cards n with
  | none => List.replicate 32 0
  | some c =>
    leBytes 32 (c.session % 2 ^ 64 + 2 ^ 64 * c.st.code + 2 ^ 72 * (c.kd % 64) + 2 ^ 78 * b2n c.pinned + 2 ^ 79 * b2n c.kept.isSome
      + 2 ^ 80 * min 65535 (c.waited s.beat.bar.toNat) + 2 ^ 96 * (c.pages.length % 65536) + 2 ^ 112 * (c.alive % 65536)
      + 2 ^ 128 * (c.pos % 2 ^ 32) + 2 ^ 160 * (c.egress % 65536))

/-! ## The function page (R526) -/

/-- An IDE stream covers a function (R534). -/
def State.ideCovers (s : State) (f : Nat) : Bool := s.port.streams.any fun (i : IdeStream) => i.fns.getLsbD f

/-- MBX (R526). -/
def HostFn.mbx (g : HostFn) : Nat := g.reqLen.toNat + 2 ^ 16 * g.rspLen.toNat + 2 ^ 30 * b2n g.busy + 2 ^ 31 * b2n g.done

/-- EQ_CTRL (R526). -/
def HostFn.eqCtrl (g : HostFn) : Nat := g.order.toNat + 32 * b2n g.enable + 64 * b2n g.ien + 128 * b2n g.phase

/-- An 8-byte word of a function page (R526). -/
def State.pageWord (s : State) (f off : Nat) : Nat :=
  let g := s.fn f
  if off = 0x0000 then s.grade.toNat + 256 * f + 65536 * f + 2 ^ 28 * Config.dieRevision.toNat
  else if off = 0x0008 then
    s.port.speed.toNat + 8 * s.port.width.toNat + 256 * b2n s.port.flit + 512 * b2n (s.ideCovers f) + 1024 * s.work 0x6010 3
      + 2048 * b2n s.running
  else if off = 0x0010 then g.err.toNat
  else if off = 0x0018 then g.window.toNat
  else if off = 0x0100 then g.mbx
  else if off = 0x0200 then g.eqBase.toNat
  else if off = 0x0208 then g.eqCtrl
  else if off = 0x0210 then g.head.toNat
  else if off = 0x0218 then g.tail.toNat
  else if 0x1000 ≤ off && off < 0x2000 then leNat (readMem g.req (off - 0x1000) 8)
  else if 0x2000 ≤ off && off < 0x3000 then leNat (readMem g.rsp (off - 0x2000) 8)
  else 0

/-! ## Control space (R522, R523) -/

/-- An 8-byte word of a record. -/
def wordOf (r : Bytes) (off : Nat) : Nat := recField r (off / 8 * 8) 8

/-- An 8-byte word of a cluster block (R523). -/
def State.clusterWord (s : State) (n off : Nat) : Nat :=
  if s.lcMax ≤ n then 0
  else if off = 0 then (s.clus n).vx.status
  else if 0x1000 ≤ off && off < 0x3000 then wordOf (s.cueRecord n ((off - 0x1000) / 32)) (off % 32)
  else if 0x3000 ≤ off && off < 0x3800 then wordOf (s.tallyRecord n ((off - 0x3000) / 32)) (off % 32)
  else 0

/-- A record of a log kept newest first, in order of writing. -/
def logAt {α : Type} (l : List α) (i : Nat) : Option α := if i < l.length then l[l.length - 1 - i]? else none

/-- An 8-byte word of a log of records. -/
def logWord {α : Type} (l : List α) (bytes : α → Bytes) (size off : Nat) : Nat :=
  match logAt l (off / size) with
  | some r => wordOf (bytes r) (off % size)
  | none => 0

/-- An 8-byte word of control space; unlisted offsets read 0 (R522). -/
def State.controlWord (s : State) (a : Nat) : Nat :=
  if a < 0x4000 then s.pageWord 0 a
  else if 0x01000000 ≤ a && a < 0x01300000 then s.clusterWord ((a - 0x01000000) / 65536) (a % 65536)
  else if 0x01400000 ≤ a && a < 0x01408000 then wordOf (s.mcueRecord ((a - 0x01400000) / 32)) (a % 32)
  else if 0x01408000 ≤ a && a < 0x01408800 then wordOf (s.roundRecord ((a - 0x01408000) / 64)) (a % 64)
  else if 0x01500000 ≤ a && a < 0x01501000 then wordOf (s.chan ((a - 0x01500000) / 16)).record (a % 16)
  else if 0x01510000 ≤ a && a < 0x01510100 then wordOf (s.link ((a - 0x01510000) / 16)).status (a % 16)
  else if 0x01600000 ≤ a && a < 0x01620000 then logWord s.skips SkipRec.bytes 32 (a - 0x01600000)
  else if 0x01800000 ≤ a && a < 0x01840000 then logWord s.hazards HazRec.bytes 32 (a - 0x01800000)
  else if 0x01C00000 ≤ a && a < 0x01C40000 then wordOf (s.cardRecord ((a - 0x01C00000) / 32)) (a % 32)
  else if 0x02000000 ≤ a && a < 0x02100000 then
    match s.errs.find? fun (r : ErrRec) => r.seq % 16384 == (a - 0x02000000) / 64 with
    | some r => wordOf r.bytes (a % 64)
    | none => 0
  else 0

end Sys2Proof.Machine
end

