-- ==== Sys2Proof/Machine/HostPort.lean ====
section
/-! DEFINITION. The host port: the bank window, doorbells, function pages, mailboxes, event queues, function-level reset, PERST_N
(17_host_interface.md R514-R534; 21_reset.md R615; 23_module_signals.md R670). -/

namespace Sys2Proof.Machine

/-! ## Requests (R518, R534) -/

/-- Requests reach the port while it has power and PERST_N is high. -/
def State.portUp (s : State) : Bool := s.pow.on && s.pow.perst

/-- A request arrives outside an established stream although IDE is required (R534). -/
def State.noIde (s : State) (fn : Nat) (ide : Bool) : Bool := s.work 0x6010 3 == 1 && !(ide && s.ideCovers fn)

/-- The location word of the PCIe port (R22). -/
def locPcie : Nat := locDie 0 8 0

/-- A refused request: the bit of HIF_ERR, HOST_DOMAIN, an event (R518, R534, R641). -/
def State.hostRefused (s : State) (fn : Nat) (noIde : Bool) (addr : Nat) : State :=
  let s := s.modFn fn fun g => { g with err := g.err ||| (if noIde then 32 else 1) }
  (s.count 0x9009 1 1).event 0x83 locPcie ([0, 0, 0, 0xFF, BitVec.ofNat 8 fn, 0, 0, 0] ++ leBytes 8 addr)

/-- How the port completes a request. -/
def State.complete (s : State) (c : Cpl) : State := { s with port := { s.port with cpl := c } }

/-- Whether a function reaches a range of bank memory: pages of its own ACTIVE domain (R514, R518, R550). -/
def State.fnReaches (s : State) (fn addr len : Nat) : Bool := s.domainState fn == 1 && !s.foreignBank fn addr len

/-! ## BAR2 (R516-R521) -/

/-- Bits of the BAR2 size of a function: every virtual function has the same (R516). -/
def State.barBits (s : State) (fn : Nat) : Nat := if fn = 0 then s.port.bar2 else s.port.bar2v

/-- Whether a range lies in a function's BAR2. -/
def State.inBar2 (s : State) (fn off len : Nat) : Bool := 0 < len && off + len ≤ 2 ^ s.barBits fn

/-- A BAR2 read (R517, R518, R521). -/
def State.bar2Read (s : State) (fn off len : Nat) (ide : Bool) : State :=
  let a := (s.fn fn).window.toNat + off
  if s.noIde fn ide then (s.hostRefused fn true a).complete .unsupported
  else if !s.fnReaches fn a len then (s.hostRefused fn false a).complete .unsupported
  else match s.bankBytes a len locPcie s.nowCtx with
    | (some d, s) => s.complete (.data d)
    | (none, s) => (s.modFn fn fun g => { g with err := g.err ||| 2 }).complete .abort

/-- A VF BAR0 request that IDE_REQUIRED refuses; the PF's page stays reachable (R534). -/
def State.pageRefused (s : State) (fn : Nat) (ide : Bool) : Bool := fn != 0 && s.noIde fn ide

/-- Bytes of a BAR0: the function page, and control space for the PF (R516, R522, R526). -/
def State.pageBytes (s : State) (fn off len : Nat) : Bytes :=
  let word := fun a => if fn = 0 then s.controlWord a else s.pageWord fn a
  (((List.range ((off % 8 + len + 7) / 8)).flatMap fun i => leBytes 8 (word (off / 8 * 8 + 8 * i))).drop (off % 8)).take len

/-- A read of BAR0, which changes nothing (R524, R534). -/
def State.bar0Read (s : State) (fn off len : Nat) (ide : Bool) : State :=
  if s.pageRefused fn ide then (s.hostRefused fn true off).complete .unsupported else s.complete (.data (s.pageBytes fn off len))

/-- A read of BAR4, whose doorbells hold nothing to read (R530, R534; log 73). -/
def State.bar4Read (s : State) (fn off len : Nat) (ide : Bool) : State :=
  if s.noIde fn ide then (s.hostRefused fn true off).complete .unsupported else s.complete (.data (List.replicate len 0))

/-- Whether a range lies in a function's BAR (R516). -/
def State.inBar (s : State) (fn : Nat) (b : Bar) (off len : Nat) : Bool :=
  match b with
  | .window => s.inBar2 fn off len
  | .page => 0 < len && off + len ≤ (if fn = 0 then 2 ^ 26 else 16384)
  | .bells => 0 < len && off + len ≤ 4096

/-- BAR2_READ: a read through a BAR, up to 4,096 bytes; the row's own BAR is BAR2 (R512, R516, R517). -/
def execBar2Read (fn : Fin 64) (at_ : Bar × Nat) (len : Nat) (ide : Bool) (s : State) : Host.Outcome State Fault Refusal :=
  commit s (
    if s.portUp && s.inBar fn at_.1 at_.2 len && len ≤ 4096 then
      match at_.1 with
      | .window => s.bar2Read fn at_.2 len ide
      | .page => s.bar0Read fn at_.2 len ide
      | .bells => s.bar4Read fn at_.2 len ide
    else s)

/-- A BAR2 write lands before the next command (R518, R520; log 41). -/
def State.bar2Write (s : State) (fn off : Nat) (data : Bytes) (ide : Bool) : State :=
  let a := (s.fn fn).window.toNat + off
  if s.noIde fn ide then (s.hostRefused fn true a).complete .dropped
  else if !s.fnReaches fn a data.length then (s.hostRefused fn false a).complete .dropped
  else (s.bankPut a locPcie s.nowCtx data).complete .written

/-- BAR2_WRITE: up to 512 bytes (R512, R520). -/
def execBar2Write (fn : Fin 64) (off : Nat) (data : Bytes) (ide : Bool) (_requester : BitVec 16) (s : State) :
    Host.Outcome State Fault Refusal :=
  commit s (if s.portUp && s.inBar2 fn off data.length && data.length ≤ 512 then s.bar2Write fn off data ide else s)

/-! ## The function page (R526-R528) -/

/-- A write to a function page goes through unless IDE is required and absent. -/
def State.onPage (s : State) (fn : Nat) (ide : Bool) (act : State → State) : State :=
  if !s.portUp then s else if s.pageRefused fn ide then (s.hostRefused fn true 0).complete .dropped else (act s).complete .written

/-- WINDOW_BASE: bits below the BAR2 size read 0, and the base lies below 2^41 (R517, R526). -/
def State.windowWrite (s : State) (fn v : Nat) : State :=
  s.modFn fn fun g => { g with window := BitVec.ofNat 64 (v % 2 ^ 41 / 2 ^ s.barBits fn * 2 ^ s.barBits fn) }

/-- WINDOW_BASE (R517). -/
def execWindowBase (fn : Fin 64) (v : BitVec 64) (ide : Bool) (s : State) : Host.Outcome State Fault Refusal :=
  commit s (s.onPage fn ide fun s => s.windowWrite fn v.toNat)

/-- A write to MBX: REQ_LEN, and with GO the submission of a request (R526, R527). -/
def State.mbxWrite (s : State) (fn v : Nat) : State :=
  let len := v % 2 ^ 13
  if bit v 29 then
    (if (s.fn fn).busy || len = 0 || 4096 < len then s.modFn fn fun g => { g with err := g.err ||| 16 }
     else
      let s := s.modFn fn fun g => { g with reqLen := BitVec.ofNat 13 len, busy := true, done := false }
      { s with port := { s.port with mail := s.port.mail ++ [(fn, s.port.bells.length)] } })
  else s.modFn fn fun g => { g with reqLen := BitVec.ofNat 13 len }

/-- MBX_GO (R527). -/
def execMbxGo (fn : Fin 64) (v : BitVec 64) (ide : Bool) (s : State) : Host.Outcome State Fault Refusal :=
  commit s (s.onPage fn ide fun s => s.mbxWrite fn (v.toNat ||| 2 ^ 29))

/-- MBX_DONE of the function whose request is the oldest (R527, R572). -/
def execMbxDone (fn : Fin 64) (s : State) : Host.Outcome State Fault Refusal :=
  commit s (if s.portUp && s.served && (s.port.mail.head?).any (·.1 == fn.val) then s.complCheck.mbxDone else s)

/-- A write to EQ_CTRL: ORDER only while ENABLE is 0; PHASE starts at 1 when ENABLE is set (R526, R528). -/
def State.eqWrite (s : State) (fn v : Nat) : State :=
  s.modFn fn fun g =>
    let order := v % 32
    let takes := !g.enable && 6 ≤ order && order ≤ 16
    let on := bit v 5
    { g with order := if takes then BitVec.ofNat 5 order else g.order, orderSet := g.orderSet || takes, enable := on, ien := bit v 6
             phase := if on && !g.enable then true else g.phase }

/-- EQ_CTRL (R528). -/
def execEqCtrl (fn : Fin 64) (v : BitVec 64) (ide : Bool) (s : State) : Host.Outcome State Fault Refusal :=
  commit s (s.onPage fn ide fun s => s.eqWrite fn v.toNat)

/-- A write to a register of control space by the function `fn`: it stores the value, or clears w1c bits (R216, R524, R526). -/
def State.regWrite (s : State) (fn off v : Nat) : State :=
  if off = 0x0010 then s.modFn fn fun g => { g with err := g.err &&& ~~~(BitVec.ofNat 6 v) }
  else if off = 0x0018 then s.windowWrite fn v
  else if off = 0x0100 then s.mbxWrite fn v
  else if off = 0x0200 then
    s.modFn fn fun g => if g.enable then g else { g with eqBase := BitVec.ofNat 64 (v / 4096 * 4096), eqSet := true }
  else if off = 0x0208 then s.eqWrite fn v
  else if off = 0x0210 then s.modFn fn fun g => { g with head := BitVec.ofNat 16 v }
  else if 0x1000 ≤ off && off < 0x2000 then s.modFn fn fun g => { g with req := writeMem g.req (off - 0x1000) (leBytes 8 v) }
  else if fn = 0 && 0x01000000 ≤ off && off < 0x01300000 && off % 65536 = 0 then
    s.modCl ((off - 0x01000000) / 65536) fun c => { c with vx := { c.vx with sticky := c.vx.sticky &&& ~~~(BitVec.ofNat 5 (v / 128)) } }
  else s

/-- REGISTER_WRITE: an aligned 8-byte write through BAR0 (R522, R524, R526). -/
def execRegisterWrite (fn : Fin 64) (off : Nat) (v : BitVec 64) (ide : Bool) (s : State) : Host.Outcome State Fault Refusal :=
  commit s (s.onPage fn ide fun s => if off % 8 = 0 then s.regWrite fn off v.toNat else s)

/-! ## Doorbells (R530-R533) -/

/-- A doorbell waits for the requester's posted writes; other offsets of BAR4 are ignored (R530, R531). -/
def State.ringBell (s : State) (fn off : Nat) (v : BitVec 32) (ide : Bool) (requester : BitVec 16) : State :=
  if s.noIde fn ide then (s.hostRefused fn true 0).complete .dropped
  else if off % 8 = 0 && off < 512 then { s with port := { s.port with bells := s.port.bells ++ [{ fn, ring := off / 8, v, requester }] } }
  else s

/-- DOORBELL_WRITE (R530). -/
def execDoorbellWrite (fn : Fin 64) (off : Nat) (v : BitVec 32) (ide : Bool) (requester : BitVec 16) (s : State) :
    Host.Outcome State Fault Refusal :=
  commit s (if s.portUp then s.ringBell fn off v ide requester else s)

/-- DOORBELL_APPLY (R530-R532). -/
def execDoorbellApply (s : State) : Host.Outcome State Fault Refusal := commit s s.applyBell

/-! ## Resets of the port (R515, R615, R670) -/

/-- FUNCTION_LEVEL_RESET: the function's page returns to reset, and its mailbox request is discarded (R515). -/
def execFunctionLevelReset (fn : Fin 64) (s : State) : Host.Outcome State Fault Refusal :=
  commit s (
    if s.portUp then
      let s := s.modFn fn fun _ => {}
      { s with port := { s.port with mail := s.port.mail.filter (·.1 != fn.val) } }
    else s)

/-- PERST_N falls: the port and every function page return to reset; it rises: the port trains (R615, R670). -/
def execPerstN (level : Bool) (s : State) : Host.Outcome State Fault Refusal :=
  commit s (
    if level then
      (if s.pow.perst then s
       else
        let s := { s with pow := { s.pow with perst := true } }
        if s.pow.on then s.trainPort else s)
    else { s with pow := { s.pow with perst := false, trained := false }, port := {} })

/-- A WINDOW_BASE under a BAR2 of 2^n bytes: bits below the size read 0 (R526). -/
def HostFn.fits (g : HostFn) (n : Nat) : HostFn := { g with window := BitVec.ofNat 64 (g.window.toNat / 2 ^ n * 2 ^ n) }

/-- The BAR2 of the physical function, or of every virtual one, takes a size of 2^(30 + k) bytes (R512, R516; log 73). -/
def State.resizeBar (s : State) (vf : Bool) (k : Nat) : State :=
  { s with port := { s.port with
      bar2 := if vf then s.port.bar2 else 30 + k
      bar2v := if vf then 30 + k else s.port.bar2v
      fns := Vector.ofFn fun (f : Fin 64) => if (f != 0) = vf then s.port.fns[f].fits (30 + k) else s.port.fns[f] } }

/-- A configuration request completes with retry status until stage 2 ends, and normally after that; one that writes a size to the
Resizable BAR or VF Resizable BAR capability has its effect with the normal completion (R512, R516, R540, R670). -/
def execConfigurationRequest (s : State) (resize : Option (Bool × Fin 7) := none) : Host.Outcome State Fault Refusal :=
  commit s (
    if !s.portUp then s
    else if !s.served then s.complete .retryLater
    else (match resize with
      | some (vf, k) => s.resizeBar vf k
      | none => s).complete .written)

end Sys2Proof.Machine
end

