-- ==== Sys2Proof/Machine/Spdm.lean ====
section
/-! DEFINITION. DOE discovery, SPDM and IDE key management (17_host_interface.md R534-R536; 18_security.md R538, R546, R547).
Message layouts and error codes are those of the SPDM and DOE standards, which the manual names (PRESUMED, log 42); a signature is a
free value (log 11). -/

namespace Sys2Proof.Machine

/-! ## Answers -/

/-- SPDM is answered once the firmware runs (R540, R620). -/
def State.spdmUp (s : State) : Bool := s.portUp && 3 ≤ s.pow.bringup && !s.sec.recovery

/-- The port's last answer. -/
def State.say (s : State) (a : SpdmRsp) : State := { s with port := { s.port with answer := a } }

/-- An error answer: 0x01 invalid, 0x04 unexpected, 0x06 decrypt error, 0x0D response too large, 0x41 version mismatch. -/
def State.spdmError (s : State) (code : Nat) : State := s.say (.error code)

/-- The chain of slot 0: its device certificate carries the ordering number and the serial number (R538). -/
def State.chain (s : State) : Bytes := Config.certChain s.ordering Config.serial

/-- The bytes of a DOE data object at most (R535). -/
def doeMost : Nat := 65536

/-- Adds bytes to the transcript of the connection. -/
def State.note (s : State) (b : Bytes) : State :=
  { s with port := { s.port with transcript := sm3 (leBytes 32 s.port.transcript.toNat ++ b) } }

/-- A request that is served only where a condition holds; otherwise it is unexpected. -/
def State.spdmIf (s : State) (ok : Bool) (act : State → State) : State :=
  if !s.spdmUp then s else if ok then act s else s.spdmError 4

/-- A version has been negotiated, and the algorithms. -/
def State.agreed (s : State) : Bool := 0x12 ≤ s.port.spdmVer && s.port.spdmAlg

/-- A session is secured. -/
def State.secured (s : State) : Bool := s.port.session.any fun (x : Session) => x.secured

/-! ## Rows: connection (R535, R536) -/

/-- DOE discovery: discovery itself, SPDM, secured SPDM. -/
def execDoeDiscovery (index : BitVec 8) (s : State) : Host.Outcome State Fault Refusal :=
  commit s (s.spdmIf true fun s =>
    let i := index.toNat
    s.say (if i < 3 then .discovery 1 i ((i + 1) % 3) else .discovery 0xFFFF 0 0))

/-- GET_VERSION: 1.2 and 1.3; the connection starts anew. -/
def execGetVersion (s : State) : Host.Outcome State Fault Refusal :=
  commit s (s.spdmIf true fun s =>
    ({ s with port := { s.port with spdmVer := 0x10, spdmAlg := false, spdmKex := false, session := none, transcript := 0 } }.note
      [0x12, 0x13]).say (.version [0x12, 0x13]))

/-- GET_CAPABILITIES: in version 1.3, or 1.2 where the requester asks for it. -/
def execGetCapabilities (version : BitVec 8) (s : State) : Host.Outcome State Fault Refusal :=
  commit s (s.spdmIf (s.port.spdmVer != 0) fun s =>
    if version = 0x12 || version = 0x13 then
      ({ s with port := { s.port with spdmVer := version.toNat } }.note [version]).say (.capabilities version.toNat)
    else s.spdmError 0x41)

/-- NEGOTIATE_ALGORITHMS: only SM2, SM3 and SM4-GCM are offered (R536). -/
def execNegotiateAlgorithms (sm2 sm3 sm2kex sm4gcm : Bool) (s : State) : Host.Outcome State Fault Refusal :=
  commit s (s.spdmIf (decide (0x12 ≤ s.port.spdmVer)) fun s =>
    ({ s with port := { s.port with spdmAlg := sm2 && sm3, spdmKex := sm2kex && sm4gcm } }.note
      [BitVec.ofNat 8 (b2n sm2 + 2 * b2n sm3 + 4 * b2n sm2kex + 8 * b2n sm4gcm)]).say (.algorithms sm2 sm3 sm2kex sm4gcm))

/-- GET_DIGESTS: the chain of slot 0 (R538). -/
def execGetDigests (s : State) : Host.Outcome State Fault Refusal :=
  commit s (s.spdmIf s.agreed fun s => s.say (.digests 1 (sm3 s.chain)))

/-- The bytes of a certificate portion that fit one data object, beside 16 bytes of the DOE and the message header (R535). -/
def portionMost : Nat := doeMost - 16

/-- GET_CERTIFICATE: a portion of the chain of slot 0, within one data object (R535, R538). -/
def execGetCertificate (slot : BitVec 4) (off len : BitVec 16) (s : State) : Host.Outcome State Fault Refusal :=
  commit s (s.spdmIf s.agreed fun s =>
    if slot = 0 && off.toNat < s.chain.length then
      let d := (s.chain.drop off.toNat).take (min len.toNat portionMost)
      s.say (.certificate 0 d (s.chain.length - off.toNat - d.length))
    else s.spdmError 1)

/-- MR0 to MR7 as bytes. -/
def State.mrBytes (s : State) : Bytes := s.sec.mr.toList.flatMap fun (m : BitVec 256) => leBytes 32 m.toNat

/-- CHALLENGE: a signed answer with a nonce of the module (R535, R546). -/
def execChallenge (slot : BitVec 4) (nonce : Bytes) (s : State) : Host.Outcome State Fault Refusal :=
  commit s (s.spdmIf s.agreed fun s =>
    if slot = 0 && nonce.length = 32 then
      let (n, s) := s.draw 256
      let (g, s) := s.draw 512
      (s.note nonce).say (.challengeAuth 0 (sm3 s.mrBytes) n g)
    else s.spdmError 1)

/-! ## Measurements (R546, R547) -/

/-- Bits of the key domains that meet a condition. -/
def domainBits (p : Nat → Bool) : Nat := (List.range 64).foldl (fun a d => a + 2 ^ d * b2n (p d)) 0

/-- The protection report (R547). -/
def State.report (s : State) : Bytes :=
  leBytes 2 1 ++ [s.grade]
    ++ leBytes 1 (s.work 0x6010 1 % 2 + 2 * (s.work 0x6010 3 % 2) + 4 * b2n s.running + 8 * b2n s.sec.locked + 16 * b2n s.sec.recovery)
    ++ leBytes 2 s.moduleId ++ [s.sec.svn] ++ leBytes 1 (s.work 0x6020 1) ++ leBytes 4 (s.work 0x6000 7) ++ leBytes 4 s.sec.log.length
    ++ leBytes 8 (domainBits fun d => s.work (0x6100 + d) 1 == 1) ++ leBytes 8 (domainBits fun d => s.work (0x6100 + d) 2 == 1)
    ++ leBytes 8 (s.work 0x6010 2) ++ leBytes 8 0 ++ leBytes 32 s.protectionDigest.toNat
    ++ sm3Bytes (leBytes 64 (s.work 0x6000 1)) ++ sm3Bytes (leBytes 64 (s.work 0x6000 2)) ++ leBytes 32 s.rt.hdr.digest.toNat
    ++ leBytes 32 s.fuseDigest.toNat ++ leBytes 32 Config.transportDigest ++ List.replicate 16 0

/-- The content of a measurement index (R546). -/
def State.measured (s : State) (i : Nat) : Option Bytes :=
  if 1 ≤ i && i ≤ 8 then (s.sec.mr.toList[i - 1]?).map fun (m : BitVec 256) => leBytes 32 m.toNat
  else if i = 9 then some s.report
  else if i = 10 then some Config.transportCert
  else if i = 0xFD then some (s.sec.log.flatMap (·.bytes))
  else none

/-- The bytes that a signed measurement answer adds to the content of its block: the headers, the nonce, the lengths, in 1.3 the context of the
requester, and the signature (log 42). -/
def State.measureHead (s : State) : Nat := 121 + (if s.port.spdmVer = 0x13 then 8 else 0)

/-- GET_MEASUREMENTS: every response is signed; a response beyond the size of a data object is answered as too large (R535, R546; log 42). -/
def execGetMeasurements (index : BitVec 8) (nonce : Bytes) (s : State) : Host.Outcome State Fault Refusal :=
  commit s (s.spdmIf s.agreed fun s =>
    match s.measured index.toNat with
    | none => s.spdmError 1
    | some c =>
      if doeMost < c.length + s.measureHead then s.spdmError 0x0D
      else if nonce.length = 32 then
        let (n, s) := s.draw 256
        let (g, s) := s.draw 512
        (s.note (nonce ++ c)).say (.measurements index.toNat c n g)
      else s.spdmError 1)

/-! ## Sessions (R535, R536) -/

/-- A requester's chain ends in a root of the security area (R536, R562). -/
def State.rootKnown (s : State) (d : Nat) : Bool := d != 0 && (List.range 8).any fun k => s.work 0x6300 (k + 1) == d

/-- KEY_EXCHANGE begins a session. -/
def execKeyExchange (nonce : Bytes) (peer : SpdmPeer) (s : State) : Host.Outcome State Fault Refusal :=
  commit s (s.spdmIf (s.agreed && s.port.spdmKex && !s.secured) fun s =>
    if nonce.length = 32 then
      let (n, s) := s.draw 256
      let (k, s) := s.draw 256
      let (g, s) := s.draw 512
      let x : Session := { mutual_ := peer.mutual_, rootOk := s.rootKnown peer.rootDigest, secured := false, secret := k, updates := 0 }
      ({ s with port := { s.port with session := some x } }.note nonce).say (.keyExchange n g)
    else s.spdmError 1)

/-- FINISH completes the handshake; one that does not verify ends the session. -/
def execFinish (peer : SpdmPeer) (verified : Bool) (s : State) : Host.Outcome State Fault Refusal :=
  commit s (s.spdmIf (s.port.session.isSome && !s.secured) fun s =>
    if verified then
      { s with port := { s.port with session := s.port.session.map fun (x : Session) =>
          { x with secured := true, mutual_ := x.mutual_ && peer.mutual_, rootOk := x.rootOk && s.rootKnown peer.rootDigest } } }.say .finished
    else { s with port := { s.port with session := none } }.spdmError 6)

/-- KEY_UPDATE replaces the session keys. -/
def execKeyUpdate (s : State) : Host.Outcome State Fault Refusal :=
  commit s (s.spdmIf s.secured fun s =>
    let (k, s) := s.draw 256
    { s with port := { s.port with session := s.port.session.map fun (x : Session) =>
        { x with secret := k, updates := x.updates + 1 } } }.say .keyUpdated)

/-- HEARTBEAT. -/
def execHeartbeat (s : State) : Host.Outcome State Fault Refusal := commit s (s.spdmIf s.secured fun s => s.say .heartbeat)

/-- END_SESSION. -/
def execEndSession (s : State) : Host.Outcome State Fault Refusal :=
  commit s (s.spdmIf s.secured fun s => { s with port := { s.port with session := none } }.say .ended)

/-! ## IDE key management (R534, R536) -/

/-- IDE_KM is accepted only in a secured session with mutual authentication whose requester chains to a held root (R536). -/
def State.ideKm (s : State) : Bool := s.port.session.any fun (x : Session) => x.secured && x.mutual_ && x.rootOk

/-- IDE_KM programs the key of the link IDE stream 0 or of a selective one 1-4 (R534). -/
def execVendorDefinedRequest (stream : BitVec 3) (coversFns : BitVec 64) (key : Bytes) (s : State) : Host.Outcome State Fault Refusal :=
  commit s (s.spdmIf s.ideKm fun s =>
    if stream.toNat ≤ 4 && key.length = 32 then
      let rest := s.port.streams.filter fun (i : IdeStream) => i.id != stream.toNat
      let i : IdeStream := { id := stream.toNat, fns := coversFns, key }
      { s with port := { s.port with streams := rest ++ [i] } }.say .vendor
    else s.spdmError 1)

end Sys2Proof.Machine
end

