-- ==== Sys2Proof/Machine/Debug.lean ====
section
/-! DEFINITION. Debug access: the test access ports of the dies and the debug registers (13_compiler_contract.md R424-R431). -/

namespace Sys2Proof.Machine

/-! ## Instructions (R424, R425) -/

/-- BSCAN: module reset is held, and the working keys have been cleared (R427). -/
def State.bscan (s : State) : Bool := !s.pow.modrst && s.sec.cleared

/-- What Capture-IR loads into the instruction register of a die (R424). -/
def captureIr : BitVec 8 := 0b00000001

/-- Selects an instruction of a die and captures its data register; the scan passes both dies, and both capture (R424). -/
def State.select (s : State) (die : Fin 2) (ir : BitVec 8) (dr : Nat) (scanned : Option (BitVec 8)) : State :=
  let taps := s.taps.set die { s.taps[die] with ir, dr := BitVec.ofNat 65 dr }
  { s with taps := taps.map fun (t : Tap) => { t with irScan := captureIr }, scanned := s.scanned.set die scanned }

/-- Selects the boundary-scan register, whose cells the manual does not give. -/
def State.boundaryScan (s : State) (die : Fin 2) (ir : BitVec 8) (scanned : Option (BitVec 8)) : State :=
  let (v, s) := s.draw 65
  s.select die ir v.toNat scanned

/-- EXTEST: boundary scan while BSCAN is 1, otherwise bypass (R425). -/
def execExtest (die : Fin 2) (s : State) : Host.Outcome State Fault Refusal :=
  commit s (if !s.pow.on then s else if s.bscan then s.boundaryScan die 0x00 (some 0x00) else s.select die 0x00 0 none)

/-- The identification register of a die (R425). -/
def idcodeOf (die : Nat) : Nat := Config.dieRevision.toNat * 2 ^ 28 + (0xE480 + die) * 2 ^ 12 + 0x2C6 * 2 + 1

/-- IDCODE (R425). -/
def execIdcode (die : Fin 2) (s : State) : Host.Outcome State Fault Refusal :=
  commit s (if !s.pow.on then s else s.select die 0x01 (idcodeOf die) none)

/-- SAMPLE/PRELOAD (R425). -/
def execSamplePreload (die : Fin 2) (s : State) : Host.Outcome State Fault Refusal :=
  commit s (if !s.pow.on then s else s.boundaryScan die 0x02 none)

/-- CLAMP: bypass, with the pins held by the boundary-scan register while BSCAN is 1 (R425). -/
def execClamp (die : Fin 2) (s : State) : Host.Outcome State Fault Refusal :=
  commit s (if !s.pow.on then s else s.select die 0x03 0 (if s.bscan then some 0x03 else none))

/-- HIGHZ: bypass, with the pins floating while BSCAN is 1 (R425). -/
def execHighz (die : Fin 2) (s : State) : Host.Outcome State Fault Refusal :=
  commit s (if !s.pow.on then s else s.select die 0x04 0 (if s.bscan then some 0x04 else none))

/-- Codes that R425 lists beside BYPASS. -/
def listedIr (code : Nat) : Bool := [0x00, 0x01, 0x02, 0x03, 0x04, 0x10, 0x11, 0x12].contains code

/-- BYPASS, or any code that R425 does not list (R425). -/
def execBypass (die : Fin 2) (code : BitVec 8) (s : State) : Host.Outcome State Fault Refusal :=
  commit s (if !s.pow.on || listedIr code.toNat then s else s.select die code 0 none)

/-- DBG_STATUS (R427). -/
def State.dbgStatus (s : State) : Nat :=
  b2n s.unlocked + 2 * b2n s.running + 4 * b2n (s.mode == 4) + 8 * b2n s.bscan + 256 * s.dbgErr.toNat

/-- DBG_STATUS on D0; bypass on D1 (R425, R427). -/
def execDbgStatus (die : Fin 2) (s : State) : Host.Outcome State Fault Refusal :=
  commit s (if !s.pow.on then s else s.select die 0x10 (if die = 0 then s.dbgStatus else 0) none)

/-! ## DBG_ADDR and DBG_DATA (R426, R429-R431)

Each of the three rows uses protected entries, so the unit compares the copies first (R559; log 105). -/

/-- An update of a register that is locked changes nothing but the count (R426); one of DBG_DATA is an access, and ERR gives LOCKED
(R427; log 43). -/
def State.jtagLocked (s : State) (ir : BitVec 8) : State :=
  let s := (s.select 0 ir 0 none).count 0x9009 4 1
  { s with dbgErr := if ir = 0x12 then 1 else s.dbgErr }

/-- DBG_ADDR: 64 bits after the unlock, on D0 (R425, R426, R429). -/
def execDbgAddr (die : Fin 2) (v : BitVec 64) (s : State) : Host.Outcome State Fault Refusal :=
  commit s (
    let s := s.complCheck
    if !s.pow.on then s
    else if die ≠ 0 then s.select die 0x11 0 none
    else if s.unlocked then { s.select 0 0x11 v.toNat none with dbgAddr := v }
    else s.jtagLocked 0x11)

/-- The result of an access at DBG_ADDR: 0 OK, 2 BUSY, 3 RANGE, 4 DOMAIN (R427, R430). -/
def State.dbgCode (s : State) : Nat :=
  let a := s.dbgAddr.toNat
  let space := bits a 63 62
  let sel := bits a 61 56
  let addr := bits a 47 0
  if bits a 55 48 ≠ 0 || addr % 8 ≠ 0 || space = 3 then 3
  else if space = 0 then (if addr < 2 ^ 26 then 0 else 3)
  else if space = 1 then (if s.lcMax ≤ sel || 2 ^ 24 ≤ addr then 3 else if s.running then 2 else 0)
  else if 2 ^ 41 ≤ addr then 3
  else if s.pageDomain addr != some sel || !bit (s.work 0x6010 2) sel || s.domainState sel != 1 then 4
  else if s.running then 2
  else 0

/-- Reads 8 bytes at DBG_ADDR. -/
def State.dbgRead (s : State) : Nat × State :=
  let a := s.dbgAddr.toNat
  let space := bits a 63 62
  let addr := bits a 47 0
  if space = 0 then (s.controlWord addr, s)
  else if space = 1 then
    let (b, s) := s.floorPeek (bits a 61 56) addr 8 s.nowCtx
    (leNat b, s)
  else match s.bankBytes addr 8 (locDie 0 9 0) s.nowCtx with
    | (some b, s) => (leNat b, s)
    | (none, s) => (0, s)

/-- A write that lands in a writable resident set makes it DIRTY (R262). -/
def State.dirtied (s : State) (n addr : Nat) : State :=
  { s with residents := s.residents.map fun (r : Resident) =>
      if r.state == .settled && r.flags.getLsbD 0 && r.meets n addr 8 then { r with state := .dirty } else r }

/-- Writes 8 bytes at DBG_ADDR: in control space, while a routine runs, only w1c bits (R429, R431). -/
def State.dbgWrite (s : State) (v : Nat) : State :=
  let a := s.dbgAddr.toNat
  let space := bits a 63 62
  let sel := bits a 61 56
  let addr := bits a 47 0
  if space = 0 then (if s.running && addr < 0x01000000 && addr ≠ 0x0010 then s else s.regWrite 0 addr v)
  else if space = 1 then (s.floorPoke sel addr (leBytes 8 v)).dirtied sel addr
  else s.bankPut addr (locDie 0 9 0) s.nowCtx (leBytes 8 v)

/-- After an access: ERR, the data that the next capture returns, and the address advanced by 8 (R429). -/
def State.dbgAfter (s : State) (code data : Nat) : State :=
  let a := s.dbgAddr.toNat
  { s with dbgErr := BitVec.ofNat 8 code, dbgData := BitVec.ofNat 64 data
           dbgAddr := BitVec.ofNat 64 (a / 2 ^ 48 * 2 ^ 48 + (a + 8) % 2 ^ 48)
           taps := s.taps.set 0 { s.taps[0] with ir := 0x12, dr := BitVec.ofNat 65 data } }

/-- DBG_DATA with bit 64 = 1 writes (R426, R429, R430). -/
def execDbgDataWrite (v : BitVec 64) (s : State) : Host.Outcome State Fault Refusal :=
  commit s (
    let s := s.complCheck
    if !s.pow.on then s
    else if !s.unlocked then s.jtagLocked 0x12
    else
      let code := s.dbgCode
      (if code = 0 then s.dbgWrite v.toNat else s).dbgAfter code 0)

/-- DBG_DATA with bit 64 = 0 reads (R426, R429, R430). -/
def execDbgDataRead (_v : BitVec 64) (s : State) : Host.Outcome State Fault Refusal :=
  commit s (
    let s := s.complCheck
    if !s.pow.on then s
    else if !s.unlocked then s.jtagLocked 0x12
    else
      let code := s.dbgCode
      if code = 0 then
        let (d, s) := s.dbgRead
        s.dbgAfter 0 d
      else s.dbgAfter code 0)

/-- TRST, or five TCK cycles with TMS high, resets the port (R424). -/
def execJtagReset (s : State) : Host.Outcome State Fault Refusal :=
  commit s { s with taps := Vector.replicate 2 {}, scanned := Vector.replicate 2 none }

end Sys2Proof.Machine
end

