-- ==== Sys2Proof/Machine/Dispatch.lean ====
section
/-! DEFINITION. The dispatch: one arm per command, each a direct call of its meaning. -/

namespace Sys2Proof.Machine

open Sys2Proof

/-- The meaning of a command on everything but the queue. -/
def exec (i : Instr) (s : State) : Host.Outcome State Fault Refusal :=
  match i with
  -- the beat reference (02_beats_and_bars.md)
  | .beatsyncRun f e => Sys2Proof.Machine.execBeatsyncRun f e s
  | .beatsyncHold f e => Sys2Proof.Machine.execBeatsyncHold f e s
  | .beatsyncResume f e => Sys2Proof.Machine.execBeatsyncResume f e s
  | .beatsyncInvalidFrame f onTime e => Sys2Proof.Machine.execBeatsyncInvalidFrame f onTime e s
  | .invalidFrameLimit f onTime e => Sys2Proof.Machine.execInvalidFrameLimit f onTime e s
  | .beatLock f e => Sys2Proof.Machine.execBeatLock f e s
  | .safeSettingDeadline r => Sys2Proof.Machine.execSafeSettingDeadline r s
  | .regionStop d => Sys2Proof.Machine.execRegionStop d s
  -- the step stream (03_routine.md)
  | .stepRecord d => Sys2Proof.Machine.execStepRecord d s
  | .restRecord run => Sys2Proof.Machine.execRestRecord run s
  | .beatRecord d => Sys2Proof.Machine.execBeatRecord d s
  | .openRecord d => Sys2Proof.Machine.execOpenRecord d s
  | .closeRecord d => Sys2Proof.Machine.execCloseRecord d s
  | .routineBegin => Sys2Proof.Machine.execRoutineBegin s
  | .routineEnd => Sys2Proof.Machine.execRoutineEnd s
  | .stop arg => Sys2Proof.Machine.execStop arg s
  -- the matrix array (04_matrix_array.md)
  | .tload n c => Sys2Proof.Machine.execTload n c s
  | .tloadDelayedStart n => Sys2Proof.Machine.execTloadDelayedStart n s
  | .mstream n c => Sys2Proof.Machine.execMstream n c s
  | .matrixOperandsReady n => Sys2Proof.Machine.execMatrixOperandsReady n s
  | .arrayWindDown n => Sys2Proof.Machine.execArrayWindDown n s
  | .mdset n c => Sys2Proof.Machine.execMdset n c s
  | .mdrain n c => Sys2Proof.Machine.execMdrain n c s
  | .drainDelivery n => Sys2Proof.Machine.execDrainDelivery n s
  -- the vector engine and training (06, 07)
  | .figure n c => Sys2Proof.Machine.execFigure n c s
  | .figureStart n => Sys2Proof.Machine.execFigureStart n s
  | .figureLanding n => Sys2Proof.Machine.execFigureLanding n s
  | .ftload n c => Sys2Proof.Machine.execFtload n c s
  | .stepCmd n c => Sys2Proof.Machine.execStepCmd n c s
  | .amaxBind n c => Sys2Proof.Machine.execAmaxBind n c s
  | .amaxUnbind n c => Sys2Proof.Machine.execAmaxUnbind n c s
  | .amaxSave n c => Sys2Proof.Machine.execAmaxSave n c s
  | .amaxLoad n c => Sys2Proof.Machine.execAmaxLoad n c s
  | .amaxMerge n c => Sys2Proof.Machine.execAmaxMerge n c s
  | .amaxRecordArrival n => Sys2Proof.Machine.execAmaxRecordArrival n s
  | .vkey w c => Sys2Proof.Machine.execVkey w c s
  -- the floor (08_floor.md)
  | .count n c => Sys2Proof.Machine.execCount n c s
  | .countResult n => Sys2Proof.Machine.execCountResult n s
  | .scrubWriteBack n => Sys2Proof.Machine.execScrubWriteBack n s
  | .residentSetWrite k sub v => Sys2Proof.Machine.execResidentSetWrite k sub v s
  | .residentLoad k arg => Sys2Proof.Machine.execResidentLoad k arg s
  | .residentLoadDone k => Sys2Proof.Machine.execResidentLoadDone k s
  | .residentRecord k arg => Sys2Proof.Machine.execResidentRecord k arg s
  | .residentVerify k arg => Sys2Proof.Machine.execResidentVerify k arg s
  | .residentClear k arg => Sys2Proof.Machine.execResidentClear k arg s
  -- movers, streams and bank reads (09, 14)
  | .inCmd n m c => Sys2Proof.Machine.execInCmd n m c s
  | .outCmd n m c => Sys2Proof.Machine.execOutCmd n m c s
  | .xfer n m c => Sys2Proof.Machine.execXfer n m c s
  | .rotate n m c => Sys2Proof.Machine.execRotate n m c s
  | .granuleRequest n m => Sys2Proof.Machine.execGranuleRequest n m s
  | .granuleArrival n inbound k => Sys2Proof.Machine.execGranuleArrival n inbound k s
  | .bankReread n k => Sys2Proof.Machine.execBankReread n k s
  | .bankPatrolScrub sc => Sys2Proof.Machine.execBankPatrolScrub sc s
  | .bankRefresh sc bank => Sys2Proof.Machine.execBankRefresh sc bank s
  | .waitStream n c => Sys2Proof.Machine.execWaitStream n c s
  | .waitRelease n => Sys2Proof.Machine.execWaitRelease n s
  | .waitDeadline d => Sys2Proof.Machine.execWaitDeadline d s
  | .waitHoldTimeout d => Sys2Proof.Machine.execWaitHoldTimeout d s
  | .rotatePlace n => Sys2Proof.Machine.execRotatePlace n s
  | .hput n c => Sys2Proof.Machine.execHput n c s
  | .htake n c => Sys2Proof.Machine.execHtake n c s
  | .bulkCompletion k => Sys2Proof.Machine.execBulkCompletion k s
  | .bmove d k c => Sys2Proof.Machine.execBmove d k c s
  -- synchronisation (10_memory_model.md)
  | .cueSet w c => Sys2Proof.Machine.execCueSet w c s
  | .cueClear w c => Sys2Proof.Machine.execCueClear w c s
  | .tallyAdd n c => Sys2Proof.Machine.execTallyAdd n c s
  | .tallyReset n c => Sys2Proof.Machine.execTallyReset n c s
  | .roundBind w c => Sys2Proof.Machine.execRoundBind w c s
  | .roundUnbind w c => Sys2Proof.Machine.execRoundUnbind w c s
  | .roundArrive w c => Sys2Proof.Machine.execRoundArrive w c s
  | .signalApply w => Sys2Proof.Machine.execSignalApply w s
  | .waitCue n c => Sys2Proof.Machine.execWaitCue n c s
  | .waitModuleCue w c => Sys2Proof.Machine.execWaitModuleCue w c s
  | .waitTally n c => Sys2Proof.Machine.execWaitTally n c s
  | .waitRound w c => Sys2Proof.Machine.execWaitRound w c s
  | .waitComplete w => Sys2Proof.Machine.execWaitComplete w s
  | .fence n c => Sys2Proof.Machine.execFence n c s
  | .fenceComplete n => Sys2Proof.Machine.execFenceComplete n s
  | .writeAck k => Sys2Proof.Machine.execWriteAck k s
  | .remoteWriteLand n => Sys2Proof.Machine.execRemoteWriteLand n s
  | .finalHoldTimeout n tid => Sys2Proof.Machine.execFinalHoldTimeout n tid s
  | .landingRelease d => Sys2Proof.Machine.execLandingRelease d s
  -- channels and check units (11_channels.md)
  | .chsend n c => Sys2Proof.Machine.execChsend n c s
  | .recordLanded n => Sys2Proof.Machine.execRecordLanded n s
  | .chtake n c => Sys2Proof.Machine.execChtake n c s
  | .chfree n c => Sys2Proof.Machine.execChfree n c s
  | .creditApply n => Sys2Proof.Machine.execCreditApply n s
  | .ckinit n c => Sys2Proof.Machine.execCkinit n c s
  | .ckfeed n c => Sys2Proof.Machine.execCkfeed n c s
  | .ckread n c => Sys2Proof.Machine.execCkread n c s
  -- the caller's own commands (12_commands.md)
  | .rset w c => Sys2Proof.Machine.execRset w c s
  | .rcalc w c => Sys2Proof.Machine.execRcalc w c s
  | .pbind w c => Sys2Proof.Machine.execPbind w c s
  | .ticket n c => Sys2Proof.Machine.execTicket n c s
  | .put n c => Sys2Proof.Machine.execPut n c s
  -- module-level slots (12_commands.md, 16_service_layer.md)
  | .mckInit d c => Sys2Proof.Machine.execMckInit d c s
  | .mckFeed d c => Sys2Proof.Machine.execMckFeed d c s
  | .mckRead d c => Sys2Proof.Machine.execMckRead d c s
  | .take c => Sys2Proof.Machine.execTake c s
  | .slot c => Sys2Proof.Machine.execSlot c s
  | .egress c => Sys2Proof.Machine.execEgress c s
  | .page c => Sys2Proof.Machine.execPage c s
  | .isuComplete => Sys2Proof.Machine.execIsuComplete s
  | .lsend l c => Sys2Proof.Machine.execLsend l c s
  -- partner links (15_partner_links.md)
  | .flitData l head body fec => Sys2Proof.Machine.execFlitData l head body fec s
  | .flitReplay l head body fec => Sys2Proof.Machine.execFlitReplay l head body fec s
  | .flitIdle l head body fec => Sys2Proof.Machine.execFlitIdle l head body fec s
  | .beatBlock l block fecs => Sys2Proof.Machine.execBeatBlock l block fecs s
  | .tagCheck l => Sys2Proof.Machine.execTagCheck l s
  | .laneLockLoss l => Sys2Proof.Machine.execLaneLockLoss l s
  | .codewordErrorLimit l => Sys2Proof.Machine.execCodewordErrorLimit l s
  | .linkRetrainTimeout l => Sys2Proof.Machine.execLinkRetrainTimeout l s
  | .linkLaneLock l latencyNs => Sys2Proof.Machine.execLinkLaneLock l latencyNs s
  | .linkKeyed l neighbour => Sys2Proof.Machine.execLinkKeyed l neighbour s
  -- debug access (13_compiler_contract.md)
  | .extest die => Sys2Proof.Machine.execExtest die s
  | .idcode die => Sys2Proof.Machine.execIdcode die s
  | .samplePreload die => Sys2Proof.Machine.execSamplePreload die s
  | .clamp die => Sys2Proof.Machine.execClamp die s
  | .highz die => Sys2Proof.Machine.execHighz die s
  | .bypass die code => Sys2Proof.Machine.execBypass die code s
  | .dbgStatus die => Sys2Proof.Machine.execDbgStatus die s
  | .dbgAddr die v => Sys2Proof.Machine.execDbgAddr die v s
  | .dbgDataWrite v => Sys2Proof.Machine.execDbgDataWrite v s
  | .dbgDataRead v => Sys2Proof.Machine.execDbgDataRead v s
  | .jtagReset => Sys2Proof.Machine.execJtagReset s
  -- the host port (17_host_interface.md)
  | .bar2Read fn at_ len ide => Sys2Proof.Machine.execBar2Read fn at_ len ide s
  | .bar2Write fn off data ide requester => Sys2Proof.Machine.execBar2Write fn off data ide requester s
  | .windowBase fn v ide => Sys2Proof.Machine.execWindowBase fn v ide s
  | .doorbellWrite fn off v ide requester => Sys2Proof.Machine.execDoorbellWrite fn off v ide requester s
  | .doorbellApply => Sys2Proof.Machine.execDoorbellApply s
  | .mbxGo fn v ide => Sys2Proof.Machine.execMbxGo fn v ide s
  | .mbxDone fn => Sys2Proof.Machine.execMbxDone fn s
  | .eqCtrl fn v ide => Sys2Proof.Machine.execEqCtrl fn v ide s
  | .registerWrite fn off v ide => Sys2Proof.Machine.execRegisterWrite fn off v ide s
  | .functionLevelReset fn => Sys2Proof.Machine.execFunctionLevelReset fn s
  | .perstN level => Sys2Proof.Machine.execPerstN level s
  | .doeDiscovery index => Sys2Proof.Machine.execDoeDiscovery index s
  | .getVersion => Sys2Proof.Machine.execGetVersion s
  | .getCapabilities version => Sys2Proof.Machine.execGetCapabilities version s
  | .negotiateAlgorithms sm2 sm3 sm2kex sm4gcm => Sys2Proof.Machine.execNegotiateAlgorithms sm2 sm3 sm2kex sm4gcm s
  | .getDigests => Sys2Proof.Machine.execGetDigests s
  | .getCertificate slot off len => Sys2Proof.Machine.execGetCertificate slot off len s
  | .challenge slot nonce => Sys2Proof.Machine.execChallenge slot nonce s
  | .getMeasurements index nonce => Sys2Proof.Machine.execGetMeasurements index nonce s
  | .keyExchange nonce peer => Sys2Proof.Machine.execKeyExchange nonce peer s
  | .finish peer verified => Sys2Proof.Machine.execFinish peer verified s
  | .keyUpdate => Sys2Proof.Machine.execKeyUpdate s
  | .heartbeat => Sys2Proof.Machine.execHeartbeat s
  | .endSession => Sys2Proof.Machine.execEndSession s
  | .vendorDefinedRequest stream coversFns key => Sys2Proof.Machine.execVendorDefinedRequest stream coversFns key s
  -- security (18_security.md)
  | .fwImage data => Sys2Proof.Machine.execFwImage data s
  | .fwCommit arg => Sys2Proof.Machine.execFwCommit arg s
  | .coBuffer data => Sys2Proof.Machine.execCoBuffer data s
  | .coStore arg => Sys2Proof.Machine.execCoStore arg s
  | .complementCheck => Sys2Proof.Machine.execComplementCheck s
  -- the dictionary, modes and persistent settings (19_dictionary.md)
  | .dictRead p fn msg => Sys2Proof.Machine.execDictRead p fn msg s
  | .dictWrite p fn msg => Sys2Proof.Machine.execDictWrite p fn msg s
  | .segmentTimeout p fn => Sys2Proof.Machine.execSegmentTimeout p fn s
  | .load arg => Sys2Proof.Machine.execLoad arg s
  | .loadComplete => Sys2Proof.Machine.execLoadComplete s
  | .start arg => Sys2Proof.Machine.execStart arg s
  | .mode v => Sys2Proof.Machine.execMode v s
  | .modeTakesEffect => Sys2Proof.Machine.execModeTakesEffect s
  | .userOverlay v => Sys2Proof.Machine.execUserOverlay v s
  | .userOverlayTakesEffect => Sys2Proof.Machine.execUserOverlayTakesEffect s
  | .overlayPut k data => Sys2Proof.Machine.execOverlayPut k data s
  | .overlayRemove k v => Sys2Proof.Machine.execOverlayRemove k v s
  | .store arg => Sys2Proof.Machine.execStore arg s
  | .storeDone ok => Sys2Proof.Machine.execStoreDone ok s
  | .defaults arg => Sys2Proof.Machine.execDefaults arg s
  | .clearAll arg => Sys2Proof.Machine.execClearAll arg s
  | .commanded n v => Sys2Proof.Machine.execCommanded n v s
  | .clusterDrained n => Sys2Proof.Machine.execClusterDrained n s
  | .clusterFenceDisable n => Sys2Proof.Machine.execClusterFenceDisable n s
  -- faults, snapshots and restore (22_faults.md)
  | .abortAtBar => Sys2Proof.Machine.execAbortAtBar s
  | .faultAck arg => Sys2Proof.Machine.execFaultAck arg s
  | .snapshot arg => Sys2Proof.Machine.execSnapshot arg s
  | .snapshotDone part => Sys2Proof.Machine.execSnapshotDone s part
  | .restore arg => Sys2Proof.Machine.execRestore arg s
  | .restoreDone => Sys2Proof.Machine.execRestoreDone s
  | .snapResume arg => Sys2Proof.Machine.execSnapResume arg s
  | .snapDiscard arg => Sys2Proof.Machine.execSnapDiscard arg s
  -- resets and bring-up (21_reset.md)
  | .coldReset vin => Sys2Proof.Machine.execColdReset vin s
  | .moduleReset arg => Sys2Proof.Machine.execModuleReset arg s
  | .warmReset arg => Sys2Proof.Machine.execWarmReset arg s
  | .clusterReset arg => Sys2Proof.Machine.execClusterReset arg s
  | .linkReset arg => Sys2Proof.Machine.execLinkReset arg s
  | .modrstN lowUs => Sys2Proof.Machine.execModrstN lowUs s
  | .warmrstN lowUs => Sys2Proof.Machine.execWarmrstN lowUs s
  | .powerStageDone inRegulation => Sys2Proof.Machine.execPowerStageDone inRegulation s
  | .bootDone => Sys2Proof.Machine.execBootDone s
  | .selftestDone failed => Sys2Proof.Machine.execSelftestDone failed s
  | .clusterSelftestDone n failed => Sys2Proof.Machine.execClusterSelftestDone n failed s
  | .memtrainDone failed => Sys2Proof.Machine.execMemtrainDone failed s
  | .linktrainDone => Sys2Proof.Machine.execLinktrainDone s
  -- power, clocks and thermal (20_power_clocks.md, 23_module_signals.md)
  | .powerLoss vin => Sys2Proof.Machine.execPowerLoss vin s
  | .thermalStepRelease r => Sys2Proof.Machine.execThermalStepRelease r s
  | .thermtripRelease lowMs => Sys2Proof.Machine.execThermtripRelease lowMs s
  | .sensorFailed r j => Sys2Proof.Machine.execSensorFailed r j s
  | .droopStretch d railMv => Sys2Proof.Machine.execDroopStretch d railMv s
  | .droopStepRelease r => Sys2Proof.Machine.execDroopStepRelease r s
  | .generatorLockLoss r => Sys2Proof.Machine.execGeneratorLockLoss r s
  | .ref100Loss => Sys2Proof.Machine.execRef100Loss s
  | .ref100Valid => Sys2Proof.Machine.execRef100Valid s
  | .filteredRisingEdge warm => Sys2Proof.Machine.execFilteredRisingEdge warm s
  | .cblPrsntN l present => Sys2Proof.Machine.execCblPrsntN l present s
  | .powerStepRelease => Sys2Proof.Machine.execPowerStepRelease s
  | .residentVerifyDone k => Sys2Proof.Machine.execResidentVerifyDone k s
  | .residentRecordDone k => Sys2Proof.Machine.execResidentRecordDone k s
  | .coStoreDone ok => Sys2Proof.Machine.execCoStoreDone ok s
  | .configurationRequest resize => Sys2Proof.Machine.execConfigurationRequest s resize
  | .endpointIdAssignment eid dynAddr => Sys2Proof.Machine.execEndpointIdAssignment eid dynAddr s

end Sys2Proof.Machine
end

