-- ==== Sys2Proof/Safety.lean ====
section
/-! DEFINITION. What counts as a safe step and a sound state, and the vocabulary in which statements speak of a push, of a due event
and of what a command leaves unchanged. -/

namespace Sys2Proof.Machine

/-! ## The part -/

/-- A grade code of R3. -/
def gradeLegal (g : BitVec 8) : Bool := g == 1 || g == 2 || g == 3

/-- A fuse map that a grade may have: distinct physical indices, half of them on each die, no region with more than two (R27). -/
def fuseMapLegal (g : BitVec 8) (fused : List Nat) : Bool :=
  fused.all (· < 48) && decide fused.Nodup
    && ((List.range 8).all fun r => decide ((fused.filter fun p => p / 6 == r).length ≤ 2))
    && (List.range 2).all fun d => (fused.filter fun p => p / 24 == d).length == fusedPerDie g.toNat

/-- The part itself is sound: a legal grade and a fuse map that the grade may have. -/
def State.sound (s : State) : Bool := gradeLegal s.grade && fuseMapLegal s.grade s.fused

/-- A safe step answers a next state. -/
def safeStep (s : State) : Prop := ∃ t, step s = .next t

/-- The state after a number of steps, where each of them answers a next state. -/
def State.steps (s : State) : Nat → Option State
  | 0 => some s
  | k + 1 => match step s with
    | .next t => State.steps t k
    | _ => none

/-! ## What a command leaves -/

/-- The state that a command leaves in `t`: the queue of waiting commands, the grade and the fuse map are as they were in `s`. -/
def State.after (s t : State) : State := { t with pending := s.pending, grade := s.grade, fused := s.fused }

/-- The caller of a cluster or of a sequencer apart, everything else is as before. -/
def State.sameButCaller (q t : State) (w : Nat) : Prop :=
  t = { q with cl := t.cl, seqs := t.seqs } ∧ (∀ v, v ≠ w → t.caller v = q.caller v)
    ∧ ∀ n, t.clus n = { q.clus n with caller := (t.clus n).caller }

/-- One cluster apart, everything else is as before. -/
def State.sameButCluster (q t : State) (n : Nat) : Prop := t = { q with cl := t.cl } ∧ ∀ m, m ≠ n → t.clus m = q.clus m

/-- What may differ beside the queues when a command enters a queue: the effects scheduled in one issue domain, the numbers given
to commands, and what the hazard detector of AUDIT keeps and reports. -/
def State.sameButQueues (q t : State) (d : Nat) : Prop :=
  t = { q with cl := t.cl, seqs := t.seqs, units := t.units, dom := t.dom, uid := t.uid, det := t.det, hazards := t.hazards, counters := t.counters }
    ∧ ∀ e, t.domN e = { q.domN e with evs := if e = d then (t.domN e).evs else (q.domN e).evs }

/-! ## Pushes -/

/-- A command of a slot: its presence-map bit, its opcode and its words, the location word of its unit, and the reasons of its push check. -/
structure Push where
  pbit : Nat
  op : Nat
  c : Cw
  loc : State → Nat
  reasons : State → Ctx → List (Nat × Bool)

/-- The rows of the table that are commands of a slot (R82, R369, R400). -/
def pushOf : Instr → Option Push
  | .tload n c => some ⟨4 * n.val, 1, c, fun s => s.locLc n 1 0, fun s x => tloadReasons s n x c⟩
  | .mstream n c => some ⟨4 * n.val, 2, c, fun s => s.locLc n 1 0, fun s x => mstreamReasons s n x c⟩
  | .mdset n c => some ⟨4 * n.val, 3, c, fun s => s.locLc n 1 0, fun s x => mdsetReasons s n x c⟩
  | .mdrain n c => some ⟨4 * n.val, 4, c, fun s => s.locLc n 1 0, fun s x => mdrainReasons s n x c⟩
  | .figure n c => some ⟨4 * n.val + 1, 1, c, fun s => s.locLc n 2 0, fun s x => figReasons s n x c⟩
  | .ftload n c => some ⟨4 * n.val + 1, 2, c, fun s => s.locLc n 2 0, fun s x => ftloadReasons s n x c⟩
  | .inCmd n m c => some ⟨4 * n.val + 2, 1 + 16 * m.val, c, fun s => s.locLc n 4 m, fun s x => inReasons s n m x c⟩
  | .outCmd n m c => some ⟨4 * n.val + 2, 2 + 16 * m.val, c, fun s => s.locLc n 4 m, fun s x => outReasons s n m x c⟩
  | .xfer n m c => some ⟨4 * n.val + 2, 3 + 16 * m.val, c, fun s => s.locLc n 4 m, fun s x => xferReasons s n m x c⟩
  | .rotate n m c => some ⟨4 * n.val + 2, 4 + 16 * m.val, c, fun s => s.locLc n 4 m, fun s x => rotateReasons s n m x c⟩
  | .count n c => some ⟨4 * n.val + 2, 0x20, c, fun s => s.locLc n 7 0, fun s x => countReasons s n x c⟩
  | .rset w c => some ⟨siteBit w, 1, c, fun s => s.locCaller (siteNum w) 0, fun s x => rsetReasons s (siteNum w) x c⟩
  | .rcalc w c => some ⟨siteBit w, 2, c, fun s => s.locCaller (siteNum w) 0, fun s x => rcalcReasons s (siteNum w) x c⟩
  | .htake n c => some ⟨4 * n.val + 3, 3, c, fun s => s.locLc n 0 0, fun s x => htakeReasons s n x c⟩
  | .chtake n c => some ⟨4 * n.val + 3, 4, c, fun s => s.locLc n 0 0, fun s x => chtakeReasons s n x c⟩
  | .pbind w c => some ⟨siteBit w, 5, c, fun s => s.locCaller (siteNum w) 0, fun s x => pbindReasons s (siteNum w) x c⟩
  | .waitStream n c => some ⟨4 * n.val + 3, 6, c, fun s => s.locCaller n 0, fun s x => waitReasons s n x (cwForm c 0 45)⟩
  | .waitCue n c => some ⟨4 * n.val + 3, 6, c, fun s => s.locCaller n 0, fun s x => waitReasons s n x (cwForm c 1 45)⟩
  | .waitModuleCue w c => some ⟨siteBit w, 6, c, fun s => s.locCaller (siteNum w) 0, fun s x => waitReasons s (siteNum w) x (cwForm c 2 45)⟩
  | .waitTally n c => some ⟨4 * n.val + 3, 6, c, fun s => s.locCaller n 0, fun s x => waitReasons s n x (cwForm c 3 45)⟩
  | .waitRound w c => some ⟨siteBit w, 6, c, fun s => s.locCaller (siteNum w) 0, fun s x => waitReasons s (siteNum w) x (cwForm c 4 45)⟩
  | .ticket n c => some ⟨4 * n.val + 3, 7, c, fun s => s.locLc n 0 0, fun s x => ticketReasons s n x c⟩
  | .stepCmd n c => some ⟨4 * n.val + 3, 8, c, fun s => s.locLc n 0 0, fun s x => stepReasons s n x c⟩
  | .amaxBind n c => some ⟨4 * n.val + 3, 9, c, fun s => s.locLc n 0 0, fun s x => amaxReasons s n x (cwForm c 0 45)⟩
  | .amaxUnbind n c => some ⟨4 * n.val + 3, 9, c, fun s => s.locLc n 0 0, fun s x => amaxReasons s n x (cwForm c 1 45)⟩
  | .amaxSave n c => some ⟨4 * n.val + 3, 9, c, fun s => s.locLc n 0 0, fun s x => amaxReasons s n x (cwForm c 2 45)⟩
  | .amaxLoad n c => some ⟨4 * n.val + 3, 9, c, fun s => s.locLc n 0 0, fun s x => amaxReasons s n x (cwForm c 3 45)⟩
  | .amaxMerge n c => some ⟨4 * n.val + 3, 9, c, fun s => s.locLc n 0 0, fun s x => amaxReasons s n x (cwForm c 4 45)⟩
  | .vkey w c => some ⟨siteBit w, 0x0A, c, fun s => s.locCaller (siteNum w) 0, fun s x => vkeyReasons s (siteNum w) x c⟩
  | .cueSet w c => some ⟨siteBit w, 0x10, c, fun s => s.locCaller (siteNum w) 6, fun s x => cueReasons s (siteNum w) x (cwForm c 0 47)⟩
  | .cueClear w c => some ⟨siteBit w, 0x10, c, fun s => s.locCaller (siteNum w) 6, fun s x => cueReasons s (siteNum w) x (cwForm c 1 47)⟩
  | .tallyAdd n c => some ⟨4 * n.val + 3, 0x11, c, fun s => s.locLc n 6 0, fun s x => tallyReasons s n x (cwForm c 0 47)⟩
  | .tallyReset n c => some ⟨4 * n.val + 3, 0x11, c, fun s => s.locLc n 6 0, fun s x => tallyReasons s n x (cwForm c 1 47)⟩
  | .roundBind w c => some ⟨siteBit w, 0x12, c, fun s => s.locCaller (siteNum w) 6, fun s x => roundReasons s (siteNum w) x (cwForm c 0 46)⟩
  | .roundUnbind w c => some ⟨siteBit w, 0x12, c, fun s => s.locCaller (siteNum w) 6, fun s x => roundReasons s (siteNum w) x (cwForm c 1 46)⟩
  | .roundArrive w c => some ⟨siteBit w, 0x12, c, fun s => s.locCaller (siteNum w) 6, fun s x => roundReasons s (siteNum w) x (cwForm c 2 46)⟩
  | .fence n c => some ⟨4 * n.val + 3, 0x13, c, fun s => s.locLc n 6 0, fun s x => fenceReasons s n x c⟩
  | .chsend n c => some ⟨4 * n.val + 3, 0x14, c, fun s => s.locLc n 6 0, fun s x => chsendReasons s n x c⟩
  | .chfree n c => some ⟨4 * n.val + 3, 0x15, c, fun s => s.locLc n 6 0, fun s x => chfreeReasons s n x c⟩
  | .hput n c => some ⟨4 * n.val + 3, 0x16, c, fun s => s.locLc n 6 0, fun s x => hputReasons s n x c⟩
  | .put n c => some ⟨4 * n.val + 3, 0x17, c, fun s => s.locLc n 6 0, fun s x => putReasons s n x c⟩
  | .ckinit n c => some ⟨4 * n.val + 3, 0x20, c, fun s => s.locLc n 5 0, fun s x => ckinitReasons s n x c⟩
  | .ckfeed n c => some ⟨4 * n.val + 3, 0x21, c, fun s => s.locLc n 5 0, fun s x => ckfeedReasons s n x c⟩
  | .ckread n c => some ⟨4 * n.val + 3, 0x22, c, fun s => s.locLc n 5 0, fun s x => ckreadReasons s n x c⟩
  | .mckInit d c => some ⟨195 + d.val, 1, c, fun _ => locDie d 6 (f0 (mckForm c 0) 47 45 % 4), fun s x => mckReasons s d x (mckForm c 0)⟩
  | .mckFeed d c => some ⟨195 + d.val, 1, c, fun _ => locDie d 6 (f0 (mckForm c 1) 47 45 % 4), fun s x => mckReasons s d x (mckForm c 1)⟩
  | .mckRead d c => some ⟨195 + d.val, 1, c, fun _ => locDie d 6 (f0 (mckForm c 2) 47 45 % 4), fun s x => mckReasons s d x (mckForm c 2)⟩
  | .take c => some ⟨194, 1, c, fun _ => locIsu, fun s x => isuReasons s x c⟩
  | .slot c => some ⟨194, 2, c, fun _ => locIsu, fun s x => isuReasons s x c⟩
  | .egress c => some ⟨194, 3, c, fun _ => locIsu, fun s x => isuReasons s x c⟩
  | .page c => some ⟨194, 4, c, fun _ => locIsu, fun s x => isuReasons s x c⟩
  | .bmove d i c => some ⟨200 + 16 * d.val + i.val, 1, c, fun _ => locDie d 1 i, fun s x => bmoveReasons s d i x c⟩
  | .lsend l c => some ⟨232 + l.val, 1, c, fun _ => locDie (l.val / 8) 2 (l.val % 8), fun s x => lsendReasons s l x c⟩
  | _ => none

/-- The part has input power, and the grade offers the cluster of a command's slot (R29, R114, R612). -/
def State.offers (s : State) (p : Push) : Prop := s.pow.on = true ∧ (slotCaller p.pbit < 48 → slotCaller p.pbit < s.lcMax)

/-- The issue domain of a command's slot. -/
def State.slotDom (s : State) (p : Push) : Nat := s.domOf (slotCaller p.pbit)

/-- The state in which a command is pushed: the domain's effects before its next step cycle, and the starts of that cycle, have taken
place, and the hazard detector has seen the sample of the predicate. -/
def State.atPush (s : State) (p : Push) : State :=
  let q := (s.flush (s.slotDom p)).flushStarts (s.slotDom p)
  q.samples (slotCaller p.pbit) p.c.psel.toNat { q.ctxNow (s.slotDom p) p.pbit p.op with tail := p.c.tail }

/-- The issue of a command that is pushed next. -/
def State.issueOf (s : State) (p : Push) : Ctx :=
  { ((s.flush (s.slotDom p)).flushStarts (s.slotDom p)).ctxNow (s.slotDom p) p.pbit p.op with tail := p.c.tail }

/-- A command of a slot is pushed and its push check finds no reason: `q` and `x` are the state and the issue in which it acts. -/
def State.accepts (s : State) (i : Instr) (q : State) (x : Ctx) : Prop :=
  ∃ p, pushOf i = some p ∧ s.offers p ∧ q = s.atPush p ∧ x = s.issueOf p
    ∧ q.sample (slotCaller p.pbit) p.c.psel.toNat = true ∧ firstReason (p.reasons q x) = none

/-! ## Due events -/

/-- The next effect that is due in a domain: it comes before the domain's next step cycle, and an effect in mover time is not put off. -/
def State.nextDue (s : State) (d : Nat) (e : Ev) : Prop :=
  (s.domN d).due (s.domN d).nt 0 = some e ∧ (e.mover = true → (s.domN d).moverAt e.t = true)

/-- Nothing is due in a domain before its next step cycle. -/
def State.quiet (s : State) (d : Nat) : Prop := (s.domN d).due (s.domN d).nt 0 = none

/-- The state in which the next effect of a domain has been taken out of it. -/
def State.takeNext (s : State) (d : Nat) : State := s.modDom d fun x => { x with evs := x.evs.tail }

/-- A row of the table that is an effect of step time: the issue domain, the logical cluster that the grade must offer, the effects that are
the row's, those of them that complete it, and whether the row follows step time in a state (R63). -/
structure EventRow where
  dom : State → Nat
  lc : Option Nat
  own : State → EvK → Bool
  done : State → EvK → Bool
  runs : State → Bool := fun _ => true

/-- A row of a cluster whose effects each complete it. -/
def clusterRow (n : Nat) (own : State → EvK → Bool) : EventRow := { dom := fun s => s.regionOf n, lc := some n, own, done := own }

/-- The arrival of a granule that another cluster sent. -/
def arrivalAt (n : Nat) : EvK → Bool
  | .arrive m .. => m == n
  | _ => false

/-- The rows of the table that are effects of step time as they stand (log 2). -/
def eventRowOf : Instr → Option EventRow
  | .drainDelivery n => some (clusterRow n fun _ k => match k with
      | .deliver m _ => m == n.val
      | _ => false)
  | .figureStart n => some (clusterRow n fun _ k => k == .figStart n)
  | .figureLanding n => some (clusterRow n fun _ k => match k with
      | .figLand m .. => m == n.val
      | .bandOut m _ => m == n.val
      | _ => false)
  | .amaxRecordArrival n => some (clusterRow n fun _ k => match k with
      | .amaxGot m _ _ _ d _ => m == n.val && d.isSome
      | _ => false)
  | .countResult n => some
    { dom := fun s => s.regionOf n, lc := some n
      own := fun _ k => match k with
        | .cntLand m .. => m == n.val
        | _ => false
      done := fun _ k => match k with
        | .cntLand m _ _ left => m == n.val && left == 0
        | _ => false }
  | .granuleArrival n true _ => some
    { clusterRow n (fun _ => arrivalAt n) with runs := fun s => !(s.domN (s.regionOf n)).stopped }
  | .rotatePlace n => some
    { dom := fun s => s.regionOf n, lc := some n
      own := fun _ k => match k with
        | .rotPlace m .. => m == n.val
        | _ => false
      done := fun _ k => match k with
        | .rotPlace m _ left => m == n.val && left == 0
        | _ => false }
  | .signalApply (.timed d) =>
    let signal := fun (_ : State) k => match k with
      | EvK.sig _ => true
      | _ => false
    some { dom := fun _ => d, lc := none, own := signal, done := signal }
  | .remoteWriteLand n => some (clusterRow n fun _ k => match k with
      | .land m _ => m == n.val
      | _ => false)
  | .recordLanded n => some (clusterRow n fun _ k => match k with
      | .chLand m w => m == n.val && w.last
      | _ => false)
  | .creditApply n => some (clusterRow n fun s k => match k with
      | .credit ch _ => (s.route ch).any (·.src == n.val)
      | _ => false)
  | _ => none

/-- The grade offers the cluster of an event row. -/
def State.offersRow (s : State) (r : EventRow) : Prop := ∀ n, r.lc = some n → n < s.lcMax

/-- What an effect of step time may touch beside the clusters: the effects that follow it, the counters, the logs and what the hazard
detector keeps. -/
def State.sameButEffects (q t : State) : Prop :=
  t = { q with cl := t.cl, dom := t.dom, uid := t.uid, free := t.free, det := t.det, hazards := t.hazards, counters := t.counters }
    ∧ ∀ d, t.domN d = { q.domN d with evs := (t.domN d).evs }

/-- The comparison of the protected values finds nothing: the unit is locked already, or the copies agree (R559, R561). -/
def State.copiesAgree (s : State) : Prop := s.sec.locked = true ∨ s.complBad = none

/-- ACTUAL of a cluster is not FENCED (R587). -/
def State.unfenced (s : State) (n : Nat) : Prop := ∀ a, tGet s.actual n = some a → a ≠ 4 ∧ a ≠ 5 ∧ a ≠ 6

/-- A fault's record keeps its place in the error log: no record of its cycle is there to change places with it, and none follows from the record of
a bar that an abort closes (R445, R639, R644). -/
def State.aloneIn (s : State) (x : Ctx) : Prop :=
  s.running = false ∨ (s.bankErr = [] ∧ ∀ q ∈ s.errs, ¬ (q.bar = x.bar ∧ q.beat = x.beat ∧ q.cyc = x.cyc))

/-- The next record that enters the error log of `s` is one of a fault of a class and a cause, and stands in the log of `t`. -/
def State.recorded (s t : State) (cls cause : Nat) : Prop := ∃ r ∈ t.errs, r.cls = cls ∧ r.cause = cause ∧ r.seq = s.errSeq.toNat

/-! ## Dictionary writes -/

/-- The row whose command an accepted WRITE of a value to an entry is (R573-R576, R582, R587, R592, R593, R632, R654); none for a plain entry. -/
def rowOf (i sub : Nat) (b : Bytes) : Option Instr :=
  let v := leNat b
  let arg := BitVec.ofNat 32 v
  let set := Fin.ofNat 64 (i - 0x8400)
  let overlay := Fin.ofNat 8 (i - 0xA000)
  if i = 0x1010 then some (if sub = 1 then .store arg else .defaults arg)
  else if i = 0x1100 then (if sub = 4 then some (.load arg) else if sub = 8 then some (.start arg) else if sub = 9 then some (.stop arg) else none)
  else if i = 0x1200 then
    some (if sub = 1 then .moduleReset arg else if sub = 2 then .warmReset arg else if sub = 3 then .clusterReset arg else .linkReset arg)
  else if i = 0x1310 then
    (if sub = 9 then some (.snapshot arg) else if sub = 10 then some (.restore arg) else if sub = 11 then some (.snapResume arg)
     else if sub = 12 then some (.snapDiscard arg) else none)
  else if i = 0x1330 then some (.faultAck arg)
  else if i = 0x2000 then some (if sub = 1 then .mode (BitVec.ofNat 8 v) else .userOverlay (BitVec.ofNat 8 v))
  else if i = 0x6000 then some (if sub = 4 then .coBuffer b else .coStore arg)
  else if i = 0x6020 then some (if sub = 4 then .fwImage b else .fwCommit arg)
  else if 0x8000 ≤ i && i < 0x8030 then some (.commanded (Fin.ofNat 48 (i - 0x8000)) (BitVec.ofNat 8 v))
  else if 0x8400 ≤ i && i < 0x8440 then
    some (if sub = 10 then .residentLoad set arg else if sub = 11 then .residentRecord set arg else if sub = 12 then .residentVerify set arg
          else if sub = 13 then .residentClear set arg else .residentSetWrite set (BitVec.ofNat 8 sub) (BitVec.ofNat 64 v))
  else if i = 0x9000 then some (.clearAll arg)
  else if 0xA000 ≤ i && sub = 3 then some (.overlayPut overlay b)
  else if 0xA000 ≤ i && sub = 4 then some (.overlayRemove overlay arg)
  else none

/-! ## Frames of the beat reference and step cycles -/

/-- No region reaches the temperature of a thermal trip with the samples of a beat (R603). -/
def State.cool (s : State) (e : Sense) : Prop := ∀ r, r < 8 → ((s.sampleRegion r e.temps).monN r).temp < 1150

/-- No region reaches 108 °C anew with the samples of a beat, which would raise a hold after its report (R604). -/
def State.calm (s : State) (e : Sense) : Prop := ∀ r, r < 8 → ((s.sampleRegion r e.temps).monN r).step 3 = false ∨ (s.monN r).hot = true

/-- No routine runs, and nothing of an invocation is left: no open step words, no effect to come, no command on its way to its push, no queued
matrix command. -/
def State.resting (s : State) : Prop :=
  s.running = false ∧ (∀ d, d < 10 → (s.domN d).words = false ∧ (s.domN d).evs = [] ∧ (s.domN d).handed = []) ∧ ∀ n, n < 48 → (s.clus n).mx.q = []

/-- The effects of step time that a domain lets take place also in a cycle that it does not issue: signals, the clears of module cues,
generations of rounds, and the reads and contributions of its arrays (R50, R148, R308, R335). -/
def EvK.goesOn : EvK → Bool
  | .sig _ => true
  | .mcueClear _ => true
  | .roundGen _ => true
  | .tileRead .. => true
  | .msRead .. => true
  | .msLand .. => true
  | _ => false

/-- The module `t` has counted one boundary more than `s` and stands at a frame. -/
def atFrame (s t : State) (q : Frame) : Prop :=
  t.beat.order.toNat = q.order ∧ t.beat.bar.toNat = q.bar ∧ t.beat.beat.toNat = q.beat ∧ t.beat.horizon.toNat = q.horizon
    ∧ t.beat.nextSetting.toNat = q.next ∧ t.beat.nextBar.toNat = q.nextBar ∧ t.beat.boundaries = s.beat.boundaries + 1

/-- A domain may issue its next `k` step cycles, and nothing stands before them: no effect to come, no command handed over before, no wait, FENCE or
landing register, no region so far behind that a word of it could be due, no stop, no section but the open one, no transfer in its links. -/
def State.unhindered (s : State) (d k : Nat) : Prop :=
  s.mayIssue d = true ∧ (s.domN d).evs = [] ∧ (s.domN d).handed = [] ∧ (s.domN d).gates = [] ∧ (s.domN d).stopPend = false
    ∧ (s.domN d).last = false ∧ (s.domN d).tailc = none
    ∧ (∀ w ∈ s.callersOf d, (s.caller w).waits = [] ∧ (s.caller w).fence = none)
    ∧ (∀ r, r < 8 → r ≠ d → (s.domN d).nt + k < (s.domN r).nt + crossMin ∨ ((s.domN r).words = false ∧ (s.domN r).evs = []))
    ∧ (8 ≤ d → ∀ l, (s.link l).sending = [])

end Sys2Proof.Machine
end

