-- ==== Sys2Proof/Certificates/Slice0/Obligations.lean ====
section
/-! DEFINITION. The statements for the provers. `q` and `x` of a statement about a command of a slot are the state and the issue in
which the command acts (`State.accepts`); `s.after t` is `t` with the queue, grade and fuse map of `s`. -/

open Sys2Proof Sys2Proof.Machine

/-! ## Commands of slots -/

/-- R110, R114, log 3: a command whose predicate reads false is not pushed, and one for a cluster that the grade does not offer changes
nothing. -/
def Obligations.FalsePredicateIsNotPushed : Prop :=
  ∀ (s : State) (i : Instr) (p : Push), pushOf i = some p →
    (¬ s.offers p → exec i s = .next s)
    ∧ (s.offers p → (s.atPush p).sample (slotCaller p.pbit) p.c.psel.toNat = false → exec i s = .next (s.after (s.atPush p)))

/-- R116-R119: a command whose push check finds a reason is skipped: it has no effect, one record with the first reason enters the skip
log while that has room, and the counter of the reason goes up. -/
def Obligations.SkippedCommandOnlyLogs : Prop :=
  ∀ (s : State) (i : Instr) (p : Push) (r : Nat), pushOf i = some p → s.offers p →
    let q := s.atPush p
    let x := s.issueOf p
    q.sample (slotCaller p.pbit) p.c.psel.toNat = true → firstReason (p.reasons q x) = some r →
    ∃ t, exec i s = .next (s.after t) ∧ t = { q with skips := t.skips, counters := t.counters }
      ∧ t.skips = (if q.skips.length < 4096 then { ctx := x, reason := r, loc := p.loc q } :: q.skips else q.skips)
      ∧ (tGet t.counters (0x9001 * 256 + r)).getD 0
          = BitVec.ofNat 64 (min (((tGet q.counters (0x9001 * 256 + r)).getD 0).toNat + 1) (2 ^ 64 - 1))
      ∧ ∀ k, k ≠ 0x9001 * 256 + r → tGet t.counters k = tGet q.counters k

/-- The first reason is the one of the lowest code among those that apply, and there is none exactly where none applies (R117). -/
def Obligations.FirstReasonIsLowest : Prop :=
  ∀ l : List (Nat × Bool),
    (firstReason l = none ↔ ∀ e ∈ l, e.2 = false)
    ∧ ∀ r, firstReason l = some r → (r, true) ∈ l ∧ ∀ e ∈ l, e.2 = true → r ≤ e.1

/-- R102, R109, R113: where no effect of its domain precedes it and no audited routine runs, a command is pushed in the state as it stands. Its push
cycle is its domain's next step cycle, four cycles after the cycle of its issue, and it carries the bar, beat and cycle at which its domain stands. -/
def Obligations.QuietPush : Prop :=
  ∀ (s : State) (p : Push), (s.domN (s.slotDom p)).due (s.domN (s.slotDom p)).nt 1 = none →
    (s.domN (s.slotDom p)).due (s.domN (s.slotDom p)).nt 0 = none → (s.mode ≠ 4 ∨ s.running = false) →
    s.atPush p = s ∧ (s.issueOf p).t = (s.domN (s.slotDom p)).nt - 4 ∧ (s.issueOf p).bar = (s.domN (s.slotDom p)).bar
      ∧ (s.issueOf p).beat = (s.domN (s.slotDom p)).beat ∧ (s.issueOf p).cyc = (s.domN (s.slotDom p)).cyc
      ∧ (s.issueOf p).tail = p.c.tail ∧ (s.issueOf p).pbit = p.pbit ∧ (s.issueOf p).op = p.op

/-- R103, R105, R386: RSET puts its 48-bit value into its register, RCALC the value of its expression; every other register, every other
field of the caller, every other caller and all else stay. -/
def Obligations.RegisterCommands : Prop :=
  ∀ (s q : State) (x : Ctx) (w : Site) (c : Cw),
    (s.accepts (.rset w c) q x → ∃ t, exec (.rset w c) s = .next (s.after t)
      ∧ (t.caller (siteNum w)).reg (f0 c 47 43) = BitVec.ofNat 48 (f1 c 47 0)
      ∧ (∀ r, r ≠ f0 c 47 43 → (t.caller (siteNum w)).reg r = (q.caller (siteNum w)).reg r)
      ∧ t.caller (siteNum w) = { q.caller (siteNum w) with regs := (t.caller (siteNum w)).regs }
      ∧ q.sameButCaller t (siteNum w))
    ∧ (s.accepts (.rcalc w c) q x → ∃ t, exec (.rcalc w c) s = .next (s.after t)
      ∧ (((t.caller (siteNum w)).reg (f0 c 47 43)).toNat : Int)
          = exprVal (q.caller (siteNum w)) x.idx (if f0 c 42 42 = 1 then 64 else 1) (f0 c 31 0)
      ∧ (∀ r, r ≠ f0 c 47 43 → (t.caller (siteNum w)).reg r = (q.caller (siteNum w)).reg r)
      ∧ t.caller (siteNum w) = { q.caller (siteNum w) with regs := (t.caller (siteNum w)).regs }
      ∧ q.sameButCaller t (siteNum w))

/-- R108, R239, R388, R393, R401: PBIND binds a predicate source from the end of its push cycle on, which reads false until something is deposited; VKEY sets the seed of a
key slot. The other sources, the other keys and all else stay. -/
def Obligations.PredicateAndKeyCommands : Prop :=
  ∀ (s q : State) (x : Ctx) (w : Site) (c : Cw),
    (s.accepts (.pbind w c) q x → ∃ t, exec (.pbind w c) s = .next (s.after t)
      ∧ (t.caller (siteNum w)).pred (f0 c 47 44) = { kind := pbindKind (siteNum w) c, val := false, since := x.t + 4 }
      ∧ (∀ p, p ≠ f0 c 47 44 → (t.caller (siteNum w)).pred p = (q.caller (siteNum w)).pred p)
      ∧ t.caller (siteNum w) = { q.caller (siteNum w) with preds := (t.caller (siteNum w)).preds }
      ∧ q.sameButCaller t (siteNum w))
    ∧ (s.accepts (.vkey w c) q x → ∃ t, exec (.vkey w c) s = .next (s.after t)
      ∧ (t.caller (siteNum w)).keys = vmod (q.caller (siteNum w)).keys (f0 c 47 46) (fun _ => c.w1)
      ∧ t.caller (siteNum w) = { q.caller (siteNum w) with keys := (t.caller (siteNum w)).keys }
      ∧ q.sameButCaller t (siteNum w))

/-- R143, R144, R227, R231, R390, R391: TICKET clears the tickets of its mask, which never holds T0; STEP sets or increments the STEP register, and
where that changes every bound amax slot moves its current entry into the history entry of the old step. All else stays. -/
def Obligations.TicketAndStepCommands : Prop :=
  ∀ (s q : State) (x : Ctx) (n : Fin 48) (c : Cw),
    (s.accepts (.ticket n c) q x → ∃ t, exec (.ticket n c) s = .next (s.after t)
      ∧ (∀ i, (t.clus n).ticket i = ((q.clus n).ticket i && !(f0 c 31 0).testBit i))
      ∧ (t.clus n).ticket 0 = (q.clus n).ticket 0
      ∧ t.clus n = { q.clus n with tickets := (t.clus n).tickets } ∧ q.sameButCluster t n)
    ∧ (s.accepts (.stepCmd n c) q x → ∃ t, exec (.stepCmd n c) s = .next (s.after t)
      ∧ (t.clus n).stepReg = (if f0 c 47 47 = 1 then (q.clus n).stepReg + 1 else BitVec.ofNat 32 (f1 c 31 0))
      ∧ ((t.clus n).stepReg = (q.clus n).stepReg → (t.clus n).amax = (q.clus n).amax)
      ∧ ((t.clus n).stepReg ≠ (q.clus n).stepReg → ∀ k a, (q.clus n).amaxSlot k = some a →
          ∃ b, (t.clus n).amaxSlot k = some b ∧ b.cur = 0 ∧ b.entry ((q.clus n).stepReg.toNat % 16) = a.cur
            ∧ (∀ h, h < 16 → h ≠ (q.clus n).stepReg.toNat % 16 → b.entry h = a.entry h)
            ∧ b.tensor = a.tensor ∧ b.window = a.window ∧ b.margin = a.margin)
      ∧ t.clus n = { q.clus n with stepReg := (t.clus n).stepReg, amax := (t.clus n).amax } ∧ q.sameButCluster t n)

/-- R229, R392: AMAX BIND binds a slot with the tensor, window and margin of its register and a history of zeros, UNBIND frees it; the
other slots and all else stay. -/
def Obligations.AmaxBinding : Prop :=
  ∀ (s q : State) (x : Ctx) (n : Fin 48) (c : Cw),
    (s.accepts (.amaxBind n c) q x → ∃ t, exec (.amaxBind n c) s = .next (s.after t)
      ∧ (∃ a, (t.clus n).amaxSlot (f0 (cwForm c 0 45) 44 40) = some a
          ∧ a.tensor.toNat = ((q.caller n).reg (f0 (cwForm c 0 45) 39 35)).toNat % 2 ^ 32
          ∧ a.window = bits ((q.caller n).reg (f0 (cwForm c 0 45) 39 35)).toNat 35 32 + 1
          ∧ a.margin = bits ((q.caller n).reg (f0 (cwForm c 0 45) 39 35)).toNat 39 36
          ∧ a.cur = 0 ∧ ∀ h, a.entry h = 0)
      ∧ (∀ k, k ≠ f0 (cwForm c 0 45) 44 40 → (t.clus n).amaxSlot k = (q.clus n).amaxSlot k)
      ∧ t.clus n = { q.clus n with amax := (t.clus n).amax } ∧ q.sameButCluster t n)
    ∧ (s.accepts (.amaxUnbind n c) q x → ∃ t, exec (.amaxUnbind n c) s = .next (s.after t)
      ∧ (t.clus n).amaxSlot (f0 (cwForm c 1 45) 44 40) = none
      ∧ (∀ k, k ≠ f0 (cwForm c 1 45) 44 40 → (t.clus n).amaxSlot k = (q.clus n).amaxSlot k)
      ∧ t.clus n = { q.clus n with amax := (t.clus n).amax } ∧ q.sameButCluster t n)

/-- R230, R392: AMAX SAVE sends the record of its slot into the floor through GW, after the landing delay of the tier of the address; LOAD and MERGE read a
record through GR. Nothing else happens at the push: no byte of the floor and no slot changes. -/
def Obligations.AmaxRecords : Prop :=
  ∀ (s q : State) (x : Ctx) (n : Fin 48) (c : Cw),
    (s.accepts (.amaxSave n c) q x → ∃ t a id, exec (.amaxSave n c) s = .next (s.after t)
      ∧ (q.clus n).amaxSlot (f0 (cwForm c 2 45) 44 40) = some a
      ∧ (let addr := (exprVal (q.caller n) x.idx 64 (f0 (cwForm c 2 45) 31 0)).toNat
         (t.domN (q.regionOf n)).evs = insertEv { t := x.t + 4 + tierOf addr, ph := phGw, rank := 6, mover := false
                                                  k := .store n addr (a.record (q.clus n).stepReg) id x } (q.domN (q.regionOf n)).evs)
      ∧ t.clus n = { q.clus n with unacked := (t.clus n).unacked } ∧ (∀ m, m ≠ n.val → t.clus m = q.clus m)
      ∧ q.sameButQueues t (q.regionOf n))
    ∧ (∀ (k : Nat) (i : Instr), (k = 3 ∧ i = .amaxLoad n c) ∨ (k = 4 ∧ i = .amaxMerge n c) → s.accepts i q x →
      ∃ t, exec i s = .next (s.after t)
      ∧ (t.domN (q.regionOf n)).evs = insertEv
          { t := x.t + 4, ph := phRead, rank := 6, mover := false
            k := .amaxGot n (f0 (cwForm c k 45) 44 40) (k == 4) (exprVal (q.caller n) x.idx 64 (f0 (cwForm c k 45) 31 0)).toNat none x }
          (q.domN (q.regionOf n)).evs
      ∧ (∀ m, t.clus m = q.clus m) ∧ q.sameButQueues t (q.regionOf n))

/-- R291, R292, R387; R356, R387: HTAKE takes the oldest handle of its queue that entered by the cycle before into two registers, CHTAKE the
oldest record of its channel's descriptor that did; with none, both registers read zero, which is counted. All else stays. -/
def Obligations.TakesFromQueues : Prop :=
  ∀ (s q : State) (x : Ctx) (n : Fin 48) (c : Cw),
    (s.accepts (.htake n c) q x → ∃ t, exec (.htake n c) s = .next (s.after t)
      ∧ (let key := q.regionOf n * 64 + f0 c 47 42
         let r := f0 c 41 37
         (∀ e h rest, tGet q.hqs key = some ((e, h) :: rest) → e ≤ x.t + 3 →
           tGet t.hqs key = some rest ∧ (t.caller n).reg r = BitVec.ofNat 48 (bits h.toNat 29 0) ∧ (t.caller n).reg (r + 1) = BitVec.ofNat 48 (bits h.toNat 47 30)
             ∧ t = { q with cl := t.cl, hqs := t.hqs } ∧ ∀ k, k ≠ key → tGet t.hqs k = tGet q.hqs k)
         ∧ ((tGet q.hqs key).getD [] = [] ∨ (∃ e h rest, tGet q.hqs key = some ((e, h) :: rest) ∧ x.t + 3 < e) →
           (t.caller n).reg r = 0 ∧ (t.caller n).reg (r + 1) = 0 ∧ t = { q.count 0x9003 6 1 with cl := t.cl })
         ∧ (∀ k, k ≠ r → k ≠ r + 1 → (t.caller n).reg k = (q.caller n).reg k))
      ∧ (∀ m, t.clus m = { q.clus m with caller := { (q.clus m).caller with regs := (t.clus m).caller.regs } })
      ∧ ∀ m, m ≠ n.val → t.clus m = q.clus m)
    ∧ (s.accepts (.chtake n c) q x → ∃ t, exec (.chtake n c) s = .next (s.after t)
      ∧ (let ch := f0 c 47 40
         let r := f0 c 39 35
         (∀ d rest p, (q.chan ch).arrivals = d :: rest → q.route ch = some p → d.entered ≤ x.t + 3 →
           (t.chan ch).arrivals = rest ∧ (t.chan ch).taken = (q.chan ch).taken ++ [(d.off + recSize d.len) % p.ring]
             ∧ (t.caller n).reg r = BitVec.ofNat 48 (n * 2 ^ 24 + p.ringBase + d.off + 16)
             ∧ (t.caller n).reg (r + 1) = BitVec.ofNat 48 (d.len % 4096 + d.status.toNat * 4096 + d.tag.toNat * 65536)
             ∧ t = { q with cl := t.cl, chans := t.chans, det := t.det })
         ∧ ((q.chan ch).arrivals = [] ∨ (∃ d rest, (q.chan ch).arrivals = d :: rest ∧ x.t + 3 < d.entered) →
           (t.caller n).reg r = 0 ∧ (t.caller n).reg (r + 1) = 0 ∧ t = { q.count 0x9005 3 1 with cl := t.cl })
         ∧ (∀ k, k ≠ r → k ≠ r + 1 → (t.caller n).reg k = (q.caller n).reg k))
      ∧ (∀ m, t.clus m = { q.clus m with caller := { (q.clus m).caller with regs := (t.clus m).caller.regs } })
      ∧ ∀ m, m ≠ n.val → t.clus m = q.clus m)

/-- A command enters the matrix queue of a cluster as its last, with no other effect than the next start and the VX deliveries that the
array names ahead, with the early reads of the figures that wait for them. -/
def mxQueued (q t : State) (n : Fin 48) (x : Ctx) (cmd : MxCmd) : Prop :=
  let v := (t.clus n).vx
  let unread := fun (f : Fig) => { f with xin := [] }
  (t.clus n).mx = { (q.clus n).mx with q := (q.clus n).mx.q ++ [(x, cmd)], drainNext := (t.clus n).mx.drainNext }
    ∧ t.clus n = { q.clus n with mx := (t.clus n).mx, vx := { (q.clus n).vx with plan := v.plan, ahead := v.ahead, figs := v.figs } }
    ∧ v.figs.map unread = (q.clus n).vx.figs.map unread
    ∧ (∀ m, m ≠ n.val → t.clus m = q.clus m) ∧ (∀ w, 48 ≤ w → t.caller w = q.caller w) ∧ t.units = q.units
    ∧ q.sameButQueues t (q.regionOf n)

/-- R111, R372-R377: TLOAD, MSTREAM, MDSET and MDRAIN enter the matrix queue with the operands of their words, evaluated at the push; an
MSTREAM whose anchor stands in headers reads them (R374); an MDSET leaves the drain registers that later commands are judged by. Nothing of the floor and no register changes. -/
def Obligations.MatrixCommandsQueue : Prop :=
  ∀ (s q : State) (x : Ctx) (n : Fin 48) (c : Cw),
    (s.accepts (.tload n c) q x → ∃ t, exec (.tload n c) s = .next (s.after t)
      ∧ mxQueued q t n x (.tload (f0 c 47 47) (f0 c 46 42) (f0 c 41 41 == 1) (f0 c 40 38)
          (exprVal (q.caller n) x.idx 64 (f0 c 31 0)).toNat (exprVal (q.caller n) x.idx 64 (f1 c 31 0)).toNat)
      ∧ (t.clus n).mx.drainNext = (q.clus n).mx.drainNext)
    ∧ (s.accepts (.mstream n c) q x → ∃ t j, exec (.mstream n c) s = .next (s.after t) ∧ mxQueued q t n x (.mstream j)
      ∧ (t.clus n).mx.drainNext = (q.clus n).mx.drainNext
      ∧ j.buf = f0 c 47 47 ∧ j.axis = (f0 c 46 46 == 1) ∧ j.tfmt = f0 c 45 43 ∧ j.sfmt = f0 c 42 40 ∧ j.v = f0 c 39 32 + 1
      ∧ j.sb = f0 c 31 31 ∧ j.p0 = f0 c 30 23 ∧ j.add = (f0 c 22 22 == 1) ∧ j.fin = (f0 c 21 21 == 1) ∧ j.fform = f0 c 20 19
      ∧ j.tkt = f0 c 18 14 ∧ j.consume = (f0 c 13 13 == 1) ∧ (f0 c 12 12 = 0 → j.anchor = f0 c 7 0 ∧ j.whdr = none)
      ∧ (f0 c 12 12 = 1 → j.whdr = some (exprVal (q.caller n) x.idx 64 (f3 c 31 0)).toNat
          ∧ { t := x.t + 4, ph := phRead, rank := 6, mover := false
              k := .mxHdr n x.t (exprVal (q.caller n) x.idx 64 (f3 c 63 32)).toNat (exprVal (q.caller n) x.idx 64 (f3 c 31 0)).toNat none x }
            ∈ (t.domN (q.regionOf n)).evs)
      ∧ j.loScl = (exprVal (q.caller n) x.idx 64 (f2 c 63 32)).toNat ∧ j.loStr = (exprVal (q.caller n) x.idx 64 (f2 c 31 0)).toNat
      ∧ (j.scl : Int) = exprVal (q.caller n) x.idx 64 (f1 c 63 32) ∧ (j.str : Int) = exprVal (q.caller n) x.idx 64 (f1 c 31 0))
    ∧ (s.accepts (.mdset n c) q x → ∃ t d, exec (.mdset n c) s = .next (s.after t) ∧ mxQueued q t n x (.mdset d)
      ∧ (t.clus n).mx.drainNext = d ∧ d.tkt = f0 c 47 43
      ∧ (d.dest : Int) = exprVal (q.caller n) x.idx 64 (f0 c 31 0) ∧ (d.sdest : Int) = exprVal (q.caller n) x.idx 64 (f1 c 31 0)
      ∧ d.osc = if f0 c 42 42 = 1 then (q.clus n).amaxCode (f0 c 41 34) (2 + f0 c 33 33) else f0 c 41 34)
    ∧ (s.accepts (.mdrain n c) q x → ∃ t, exec (.mdrain n c) s = .next (s.after t)
      ∧ mxQueued q t n x (.mdrain (f0 c 47 47) (f0 c 46 39) (f0 c 38 31 + 1) (f0 c 30 28))
      ∧ (t.clus n).mx.drainNext = (q.clus n).mx.drainNext)

/-- R111, R322, R378-R382: FIGURE and FTLOAD enter the vector queue; the writes of a FIGURE are owed from its push on. -/
def Obligations.VectorCommandsQueue : Prop :=
  ∀ (s q : State) (x : Ctx) (n : Fin 48) (c : Cw),
    (s.accepts (.figure n c) q x → ∃ t, exec (.figure n c) s = .next (s.after t)
      ∧ (t.clus n).vx = { (q.clus n).vx with q := (q.clus n).vx.q ++ [(x, .figure (figJob q n x c q.uid))] }
      ∧ t.clus n = { q.clus n with vx := (t.clus n).vx, unacked := (t.clus n).unacked }
      ∧ (∃ o : OutWrite, o ∈ (t.clus n).unacked ∧ o.id = q.uid ∧ o.engine = 1 ∧ o.left = f0 c 41 34 + 1
          ∧ o.dst = qLc n (figVals (q.caller n) x.idx c).d)
      ∧ (∀ o ∈ (q.clus n).unacked, o ∈ (t.clus n).unacked)
      ∧ (∀ m, m ≠ n.val → t.clus m = q.clus m) ∧ (∀ w, 48 ≤ w → t.caller w = q.caller w) ∧ t.units = q.units
      ∧ q.sameButQueues t (q.regionOf n))
    ∧ (s.accepts (.ftload n c) q x → ∃ t, exec (.ftload n c) s = .next (s.after t)
      ∧ (t.clus n).vx = { (q.clus n).vx with
          q := (q.clus n).vx.q ++ [(x, .ftload (f0 c 47 42) (f0 c 41 36 + 1) (exprVal (q.caller n) x.idx 64 (f0 c 31 0)).toNat)] }
      ∧ t.clus n = { q.clus n with vx := (t.clus n).vx }
      ∧ (∀ m, m ≠ n.val → t.clus m = q.clus m) ∧ (∀ w, 48 ≤ w → t.caller w = q.caller w) ∧ t.units = q.units
      ∧ q.sameButQueues t (q.regionOf n))

/-- R111, R252, R364, R385, R399: COUNT enters the count queue and CKINIT, CKFEED and CKREAD the check-unit queue, with the operands of
their words, evaluated at the push; nothing of the floor changes. -/
def Obligations.CountAndCheckCommandsQueue : Prop :=
  ∀ (s q : State) (x : Ctx) (n : Fin 48) (c : Cw),
    (s.accepts (.count n c) q x → ∃ t j, exec (.count n c) s = .next (s.after t)
      ∧ t.clus n = { q.clus n with cntq := (q.clus n).cntq ++ [(x, j)] }
      ∧ j.width = f0 c 47 47 ∧ j.interp = f0 c 46 45 ∧ j.cond = f0 c 44 42 ∧ j.pmode = f0 c 41 40 ∧ j.pred = f0 c 39 36
      ∧ j.tkt = f0 c 35 31 ∧ j.nelem = f0 c 30 7 + 1 ∧ j.keyLo = f2 c 63 48 ∧ j.keyHi = f2 c 47 32 ∧ j.thresh = f2 c 31 0
      ∧ (j.src : Int) = exprVal (q.caller n) x.idx 64 (f1 c 63 32) ∧ (j.dst : Int) = exprVal (q.caller n) x.idx 64 (f1 c 31 0)
      ∧ (∀ m, m ≠ n.val → t.clus m = q.clus m) ∧ (∀ w, 48 ≤ w → t.caller w = q.caller w) ∧ t.units = q.units
      ∧ q.sameButQueues t (q.regionOf n))
    ∧ ∀ (i : Instr) (cmd : CkCmd),
      (i = .ckinit n c ∧ cmd = .init (f0 c 47 46))
        ∨ (i = .ckfeed n c ∧ f0 c 45 45 = 1
            ∧ cmd = .feedReg (leBytes ((f0 c 23 0 + 1) * 2 ^ f0 c 47 46) ((q.caller n).reg (f0 c 44 40)).toNat))
        ∨ (i = .ckfeed n c ∧ f0 c 45 45 = 0
            ∧ cmd = .feedFloor ((f0 c 23 0 + 1) * 2 ^ f0 c 47 46) (exprVal (q.caller n) x.idx 64 (f1 c 31 0)).toNat)
        ∨ (i = .ckread n c ∧ cmd = .read (f0 c 47 43) (exprVal (q.caller n) x.idx 64 (f0 c 31 0)).toNat) →
      s.accepts i q x → ∃ t, exec i s = .next (s.after t)
        ∧ t.clus n = { q.clus n with ckq := (q.clus n).ckq ++ [(x, cmd)] }
        ∧ (∀ m, m ≠ n.val → t.clus m = q.clus m) ∧ (∀ w, 48 ≤ w → t.caller w = q.caller w) ∧ t.units = q.units
        ∧ q.sameButQueues t (q.regionOf n)

/-- R111, R383, R384: IN, OUT, XFER and ROTATE enter the queue of their mover, with the operands of their words, evaluated at the push. -/
def Obligations.MoverCommandsQueue : Prop :=
  ∀ (s q : State) (x : Ctx) (n : Fin 48) (m : Fin 2) (c : Cw) (i : Instr) (cmd : MvCmd),
    let e := fun w => (exprVal (q.caller n) x.idx 64 w).toNat
    (i = .inCmd n m c ∧ cmd = .inC (e (f1 c 63 32)) (f0 c 47 36 + 1) (f0 c 35 30) (f2 c 63 56) (f2 c 55 52) (mvDone c))
      ∨ (i = .outCmd n m c ∧ cmd = .outC (e (f1 c 63 32)) (f0 c 47 36 + 1) (f0 c 35 30) (e (f1 c 31 0)) (f2 c 17 0) (mvDone c))
      ∨ (i = .xfer n m c ∧ cmd = .xfer (e (f1 c 63 32)) (exprVal (q.caller n) x.idx 1 (f1 c 31 0)).toNat (f2 c 51 47) (f2 c 17 0)
          (if f2 c 63 63 = 1 then (List.range 48).filter fun k => ((q.caller n).reg (f2 c 62 58)).getLsbD k else [f2 c 57 52]) (mvDone c))
      ∨ (i = .rotate n m c ∧ cmd = .rotate (f2 c 63 58) (f2 c 15 0) (f3 c 15 0) (mvDone c)) →
    s.accepts i q x → ∃ t, exec i s = .next (s.after t)
      ∧ (t.clus n).mover m = { (q.clus n).mover m with q := ((q.clus n).mover m).q ++ [(x, cmd)] }
      ∧ (∀ k, k ≠ m.val → (t.clus n).mover k = (q.clus n).mover k)
      ∧ t.clus n = { q.clus n with movers := (t.clus n).movers }
      ∧ (∀ k, k ≠ n.val → t.clus k = q.clus k) ∧ (∀ w, 48 ≤ w → t.caller w = q.caller w) ∧ t.units = q.units
      ∧ q.sameButQueues t (q.regionOf n)

/-- A command enters the synchronisation and message queue of a caller as its last. -/
def syQueued (q t : State) (w : Nat) (x : Ctx) (cmd : SyCmd) : Prop :=
  t.caller w = { q.caller w with syq := (q.caller w).syq ++ [(x, cmd)] }
    ∧ (∀ v, v ≠ w → t.caller v = q.caller v)
    ∧ (∀ n, t.clus n = { q.clus n with caller := (t.clus n).caller, unacked := (t.clus n).unacked }) ∧ t.units = q.units
    ∧ q.sameButQueues t (q.domOf w)

/-- R306, R307, R394, R395: the operations on cues, tallies and rounds enter the synchronisation queue of their caller as the signal word
of their fields; no object changes before the signal applies. -/
def Obligations.SignalCommandsQueue : Prop :=
  ∀ (s q : State) (x : Ctx) (w : Site) (n : Fin 48) (c : Cw),
    (∀ (k : Nat) (i : Instr), (k = 0 ∧ i = .cueSet w c) ∨ (k = 1 ∧ i = .cueClear w c) → s.accepts i q x →
      let d := cwForm c k 47
      ∃ t, exec i s = .next (s.after t) ∧ (∀ m, (t.clus m).unacked = (q.clus m).unacked) ∧ syQueued q t (siteNum w) x (.sig
        { obj := if f0 d 43 43 = 1 then .mcue (f0 d 42 33) else .cue (f0 d 32 27) (f0 d 42 33), op := if k = 0 then .set else .clear
          scope := f0 d 46 44, src := siteNum w, last := {} } (f0 d 26 17) (f0 d 16 13)))
    ∧ (∀ (k : Nat) (i : Instr), (k = 0 ∧ i = .tallyAdd n c) ∨ (k = 1 ∧ i = .tallyReset n c) → s.accepts i q x →
      let d := cwForm c k 47
      ∃ t, exec i s = .next (s.after t) ∧ (∀ m, (t.clus m).unacked = (q.clus m).unacked) ∧ syQueued q t n x (.sig
        { obj := .tally (f0 d 37 32) (f0 d 43 38), op := if k = 0 then .add (f0 d 31 16) else .reset
          scope := f0 d 46 44, src := n, last := {} } (f0 d 15 6) (f0 d 5 2)))
    ∧ (∀ (k : Nat) (i : Instr), (k = 0 ∧ i = .roundBind w c) ∨ (k = 1 ∧ i = .roundUnbind w c) ∨ (k = 2 ∧ i = .roundArrive w c) →
      s.accepts i q x →
      let d := cwForm c k 46
      let g := q.caller (siteNum w)
      ∃ t, exec i s = .next (s.after t) ∧ (∀ m, (t.clus m).unacked = (q.clus m).unacked) ∧ syQueued q t (siteNum w) x (.sig
        { obj := .round (f0 d 45 41)
          op := if k = 0 then .bind (g.reg (f0 d 37 33)) (BitVec.ofNat 10 (g.reg (f0 d 32 28)).toNat) (f0 d 40 38)
            else if k = 1 then .unbind else if siteNum w < 48 then .arriveLc (siteNum w) else .arriveSeq
          scope := if k = 2 then f0 d 40 38 else 4, src := siteNum w, last := {} }
        (if k = 2 ∧ f0 d 40 38 = 5 ∧ 48 ≤ siteNum w then f0 d 27 18 else q.moduleId) (f0 d 17 14)))

/-- R306, R322, R396-R398: FENCE, CHSEND, CHFREE, HPUT and PUT enter the synchronisation queue of their cluster; the write of a PUT, and the
granules of a CHSEND's record, are owed from the push on. -/
def Obligations.MessageCommandsQueue : Prop :=
  ∀ (s q : State) (x : Ctx) (n : Fin 48) (c : Cw),
    let e := fun w => exprVal (q.caller n) x.idx 64 w
    let a := fun r => ((q.caller n).reg r).toNat
    (s.accepts (.fence n c) q x → ∃ t, exec (.fence n c) s = .next (s.after t) ∧ (∀ m, (t.clus m).unacked = (q.clus m).unacked)
      ∧ syQueued q t n x (.fence q.uid (f0 c 47 40) (f0 c 39 37) (f0 c 35 20) (f0 c 19 4)))
    ∧ (s.accepts (.chfree n c) q x → ∃ t, exec (.chfree n c) s = .next (s.after t) ∧ (∀ m, (t.clus m).unacked = (q.clus m).unacked)
      ∧ syQueued q t n x (.chfree (f0 c 47 40)))
    ∧ (s.accepts (.hput n c) q x → ∃ t, exec (.hput n c) s = .next (s.after t) ∧ (∀ m, (t.clus m).unacked = (q.clus m).unacked)
      ∧ syQueued q t n x (.hput (f0 c 47 42) (BitVec.ofNat 64 ((e (f0 c 31 0)).toNat + bits (a (f0 c 41 37)) 17 0 * 2 ^ 30))))
    ∧ (s.accepts (.chsend n c) q x → ∃ t, exec (.chsend n c) s = .next (s.after t)
      ∧ (∀ m, m ≠ n.val → (t.clus m).unacked = (q.clus m).unacked)
      ∧ (∀ r, q.route (f0 c 47 40) = some r → (t.clus n).unacked = (q.clus n).unacked
          ++ [{ id := q.uid, engine := 2, dst := r.dst, addr := r.ringBase, left := recSize (bits (a (f0 c 39 35)) 11 0) / 64 }])
      ∧ syQueued q t n x (.chsend (f0 c 47 40) (bits (a (f0 c 39 35)) 11 0) (BitVec.ofNat 32 (bits (a (f0 c 39 35)) 47 16))
          (e (f0 c 31 0)).toNat q.uid))
    ∧ (s.accepts (.put n c) q x → ∃ t, exec (.put n c) s = .next (s.after t)
      ∧ (∀ m, m ≠ n.val → (t.clus m).unacked = (q.clus m).unacked)
      ∧ (t.clus n).unacked = (q.clus n).unacked
          ++ [{ id := q.uid, engine := 0, dst := qLc n (e (f1 c 31 0)), addr := qAddr (e (f1 c 31 0)), left := 1 }]
      ∧ syQueued q t n x (.put (if f0 c 47 47 = 1 then some (f0 c 46 41, f0 c 40 29 + 1) else none) (e (f1 c 63 32)).toNat
          (e (f1 c 31 0)).toNat q.uid))

/-- A command of the CL slot of a cluster takes effect as the state stands: the part has input power, the grade offers the cluster, no effect of
its region precedes the push, no audited routine runs, and its predicate reads true. -/
def pushable (s : State) (n : Fin 48) (c : Cw) : Prop :=
  let r := s.domN (s.regionOf n)
  s.pow.on = true ∧ n.val < s.lcMax ∧ r.due r.nt 1 = none ∧ r.due r.nt 0 = none ∧ (s.mode ≠ 4 ∨ s.running = false) ∧ s.sample n c.psel.toNat = true

/-- A command stands last in the synchronisation queue of its cluster; the head of the queue starts no earlier than eight cycles after its issue. -/
def messageQueued (s t : State) (n : Fin 48) (x : Ctx) (cmd : SyCmd) : Prop :=
  syQueued s t n x cmd
    ∧ ((s.caller n).syq = [] → (s.caller n).fence = none →
        { t := max (x.t + 8) (s.caller n).syFree, ph := phStart, rank := 0, mover := false, k := .syStart n } ∈ (t.domN (s.regionOf n)).evs)

/-- R101, R290, R306, R323, R352, R357, R396-R398: where the push check finds no reason, HPUT, FENCE, CHSEND, CHFREE and PUT complete their push
on every state in which their slot is pushable; and at the start of the head of the queue a FENCE waits from its PLAN on, an HPUT puts its handle eight
cycles later, a CHFREE frees the oldest record that was taken and sends its credit, a CHSEND with room takes its bytes and a slot, and
one without is spilled, a PUT reads its granule. -/
def Obligations.MessageCommandsComplete : Prop :=
  (∀ (s : State) (n : Fin 48) (c : Cw), pushable s n c →
    let x := fun op => { s.ctxNow (s.regionOf n) (4 * n.val + 3) op with tail := c.tail }
    let e := fun op w => exprVal (s.caller n) (x op).idx 64 w
    let a := fun r => ((s.caller n).reg r).toNat
    (firstReason (fenceReasons s n (x 0x13) c) = none → ∃ t, exec (.fence n c) s = .next (s.after t)
      ∧ messageQueued s t n (x 0x13) (.fence s.uid (f0 c 47 40) (f0 c 39 37) (f0 c 35 20) (f0 c 19 4)))
    ∧ (firstReason (chsendReasons s n (x 0x14) c) = none → ∃ t, exec (.chsend n c) s = .next (s.after t)
      ∧ messageQueued s t n (x 0x14) (.chsend (f0 c 47 40) (bits (a (f0 c 39 35)) 11 0) (BitVec.ofNat 32 (bits (a (f0 c 39 35)) 47 16))
          (e 0x14 (f0 c 31 0)).toNat s.uid))
    ∧ (firstReason (chfreeReasons s n (x 0x15) c) = none → ∃ t, exec (.chfree n c) s = .next (s.after t)
      ∧ messageQueued s t n (x 0x15) (.chfree (f0 c 47 40)))
    ∧ (firstReason (hputReasons s n (x 0x16) c) = none → ∃ t, exec (.hput n c) s = .next (s.after t)
      ∧ messageQueued s t n (x 0x16) (.hput (f0 c 47 42)
          (BitVec.ofNat 64 ((e 0x16 (f0 c 31 0)).toNat + bits (a (f0 c 41 37)) 17 0 * 2 ^ 30))))
    ∧ (firstReason (putReasons s n (x 0x17) c) = none → ∃ t, exec (.put n c) s = .next (s.after t)
      ∧ messageQueued s t n (x 0x17) (.put (if f0 c 47 47 = 1 then some (f0 c 46 41, f0 c 40 29 + 1) else none) (e 0x17 (f1 c 63 32)).toNat
          (e 0x17 (f1 c 31 0)).toNat s.uid)))
  ∧ ∀ (s : State) (n : Fin 48) (t : Nat) (x : Ctx) (cmd : SyCmd) (rest : List (Ctx × SyCmd)), n.val < s.lcMax → (s.caller n).syq = (x, cmd) :: rest →
    let r := s.syStart n t
    let comes := fun (d at_ ph rank : Nat) (k : EvK) => { t := at_, ph, rank, mover := false, k } ∈ (r.domN d).evs
    (r.caller n).syq = rest
    ∧ (∀ id engines scope plan deadline, cmd = .fence id engines scope plan deadline →
        (r.caller n).fence = some { ctx := x, id, engines, scope, r := t + plan, deadline })
    ∧ (∀ hq h, cmd = .hput hq h → comes (s.regionOf n) (t + 8) phSig (n + 1) (.hput n hq h x))
    ∧ (∀ ch q, cmd = .chfree ch → s.route ch = some q →
        ((s.chan ch).taken = [] → (tGet r.counters (0x9005 * 256 + 4)).getD 0
            = BitVec.ofNat 64 (min (((tGet s.counters (0x9005 * 256 + 4)).getD 0).toNat + 1) (2 ^ 64 - 1)))
        ∧ (∀ k l, (s.chan ch).taken = k :: l → r.chan ch = { s.chan ch with taken := l, rptr := BitVec.ofNat 20 k }
            ∧ (q.src < s.lcMax → ∃ bytes, comes (s.regionOf q.src) (t + q.lat) phSig (n + 1) (.credit ch bytes))))
    ∧ (∀ ch len tag src id q, cmd = .chsend ch len tag src id → s.route ch = some q →
        (r.chan ch).sendAlive = (s.chan ch).sendAlive + 1
        ∧ (recSize len ≤ (s.chan ch).free.toNat → 1 ≤ (s.chan ch).slots.toNat → (s.chan ch).wptr.toNat + recSize len ≤ q.ring →
            (r.chan ch).free = (s.chan ch).free - BitVec.ofNat 21 (recSize len) ∧ (r.chan ch).slots = (s.chan ch).slots - 1
              ∧ (r.chan ch).spilled = (s.chan ch).spilled ∧ comes (s.regionOf n) (t + 10) phGw 6 (.chSend n ch 0))
        ∧ ((s.chan ch).free.toNat < recSize len ∨ (s.chan ch).slots = 0 → (r.chan ch).spilled = true ∧ (r.chan ch).free = (s.chan ch).free))
    ∧ (∀ final src dst id, cmd = .put final src dst id → comes (s.regionOf n) t phRead 6 (.putRead n src dst final id x))

/-- R283, R313, R389: a WAIT enters the wait queue with its form, its guard, its release, its DEADLINE and no stalled cycle; a stream WAIT takes the next granules of
its stream, so the stream's collect counter moves on by their number. -/
def Obligations.WaitsQueue : Prop :=
  ∀ (s q : State) (x : Ctx) (w : Site) (n : Fin 48) (c : Cw) (i : Instr) (k v : Nat) (f : WaitForm),
    let d := cwForm c k 45
    (i = .waitStream n c ∧ k = 0 ∧ v = n ∧ f = .stream (f1 c 63 59) ((q.clus n).collected (f1 c 63 59)) (f1 c 58 48 + 1)
        (exprVal (q.caller n) x.idx 64 (f1 c 31 0)).toNat (f1 c 47 43))
      ∨ (i = .waitCue n c ∧ k = 1 ∧ v = n ∧ f = .cue (f1 c 63 56) (f0 d 44 44 == 1))
      ∨ (i = .waitModuleCue w c ∧ k = 2 ∧ v = siteNum w ∧ f = .mcue (f1 c 63 54) (f0 d 44 44 == 1))
      ∨ (i = .waitTally n c ∧ k = 3 ∧ v = n ∧ f = .tally (f1 c 63 58) (f1 c 47 32) (f0 d 44 44 == 1))
      ∨ (i = .waitRound w c ∧ k = 4 ∧ v = siteNum w ∧ f = .round (f1 c 63 59) (f1 c 55 48)) →
    s.accepts i q x → ∃ t, exec i s = .next (s.after t)
      ∧ t.caller v = { q.caller v with waits := (q.caller v).waits ++
          [{ ctx := x, form := f, guard := f0 d 43 36, r := x.t + 4 + f0 d 35 20, deadline := f0 d 19 4, stalls := 0, held := none }] }
      ∧ (∀ u, u ≠ v → t.caller u = q.caller u)
      ∧ (k = 0 → (t.clus n).collect = vmod (q.clus n).collect (f1 c 63 59) (· + (f1 c 58 48 + 1)))
      ∧ (∀ m, k ≠ 0 ∨ m ≠ n.val → (t.clus m).collect = (q.clus m).collect)
      ∧ (∀ m, t.clus m = { q.clus m with caller := (t.clus m).caller, collect := (t.clus m).collect })
      ∧ t = { q with cl := t.cl, seqs := t.seqs }

/-- A command enters the queue of a module-level unit of a die as its last. -/
def unitQueued (q t : State) (d u : Nat) (x : Ctx) (cmd : UnitCmd) : Prop :=
  t.unit d u = { q.unit d u with q := (q.unit d u).q ++ [(x, cmd)] } ∧ (∀ v, v ≠ d * 29 + u → t.unitN v = q.unitN v)
    ∧ t.cl = q.cl ∧ t.seqs = q.seqs ∧ q.sameButQueues t (8 + d)

/-- R400-R406: MCK, the commands of the intake slot, BMOVE and LSEND enter the queue of their unit, with the operands of their words,
evaluated at the push. -/
def Obligations.ModuleCommandsQueue : Prop :=
  ∀ (s q : State) (x : Ctx) (d : Fin 2) (j l : Fin 16) (c : Cw) (i : Instr) (die u : Nat) (cmd : UnitCmd),
    let e := fun die g w => (exprVal (q.caller (48 + die)) x.idx g w).toNat
    (∃ k, ((k = 0 ∧ i = .mckInit d c) ∨ (k = 1 ∧ i = .mckFeed d c) ∨ (k = 2 ∧ i = .mckRead d c)) ∧ die = d ∧ u = 24 + f0 (mckForm c k) 47 45
        ∧ (let m := mckForm c k
           cmd = .mck { inst := f0 m 47 45, op := k, alg := f0 m 42 41, nent := f0 m 40 29 + 1, kd := f0 m 28 23
                        addr := e d 64 (f1 c 63 32), done := mdone (f0 m 9 9 == 1) (f0 m 22 13) (f0 m 12 10) }))
      ∨ (∃ k, ((k = 1 ∧ i = .take c) ∨ (k = 2 ∧ i = .slot c) ∨ (k = 3 ∧ i = .egress c) ∨ (k = 4 ∧ i = .page c)) ∧ die = 0 ∧ u = 28
        ∧ cmd = .isu { op := k, addr := e 0 64 (f0 c 31 0), count := f1 c 15 0, done := mdone (f0 c 34 34 == 1) (f0 c 47 38) (f0 c 37 35) })
      ∨ (i = .bmove d j c ∧ die = d ∧ u = j
        ∧ cmd = .bmove { snent := f0 c 47 36 + 1, dnent := f0 c 35 24 + 1, kd := f0 c 23 18, ssp := f0 c 17 16, dsp := f0 c 15 14
                         slist := e d 64 (f1 c 63 32), dlist := e d 64 (f1 c 31 0)
                         done := mdone (f0 c 0 0 == 1) (f0 c 13 4) (f0 c 3 1) })
      ∨ (i = .lsend l c ∧ die = l.val / 8 ∧ u = 16 + l.val % 8
        ∧ cmd = .lsend { nent := f0 c 47 36 + 1, kd := f0 c 35 30, lstream := f0 c 29 22, group := f0 c 21 14
                         list := e (l.val / 8) 64 (f1 c 63 32), lidx := e (l.val / 8) 1 (f1 c 31 0)
                         done := mdone (f0 c 0 0 == 1) (f0 c 13 4) (f0 c 3 1) }) →
    s.accepts i q x → ∃ t, exec i s = .next (s.after t) ∧ unitQueued q t die u x cmd

/-! ## Effects of step time -/

/-- Logs 2 and 4 (DESIGN CHOICE): a row that is an effect of step time lets its effect take place where that is the next one due; where the
domain has none of its kind due, or the grade does not offer its cluster, it changes nothing. In a stop the next granule on its way from
another cluster still arrives (R63). -/
def Obligations.EventRowsHappen : Prop :=
  (∀ (s : State) (i : Instr) (r : EventRow), eventRowOf i = some r →
    (¬ s.offersRow r → exec i s = .next s)
    ∧ (s.offersRow r → r.runs s = true →
      ((∀ e ∈ (s.domN (r.dom s)).evs, e.t < (s.domN (r.dom s)).nt → r.own s e.k = false) → exec i s = .next s)
      ∧ ∀ e, s.nextDue (r.dom s) e → r.own s e.k = true → r.done s e.k = true →
          exec i s = .next (s.after ((s.takeNext (r.dom s)).runEv (r.dom s) e.t e.k))))
  ∧ ∀ (s : State) (n : Fin 48) (k : Nat), n.val < s.lcMax → (s.domN (s.regionOf n)).stopped = true →
    let x := s.domN (s.regionOf n)
    (x.evs.find? (fun e => arrivalAt n e.k) = none → exec (.granuleArrival n true k) s = .next s)
    ∧ ∀ e, x.evs.find? (fun e => arrivalAt n e.k) = some e → exec (.granuleArrival n true k) s =
        .next (s.after ((s.modDom (s.regionOf n) fun d => { d with evs := d.evs.erase e }).runEv (s.regionOf n) e.t e.k))

/-- R312, R329, R330, R332: a signal in scope sets or clears its cue, a set of a set cue merging and being counted, or adds to its tally, which stops
at 65,535, which is counted, or resets it; a signal out of scope changes neither the cue's state nor the tally's count and sets MISMATCH. Nothing else of the clusters changes. -/
def Obligations.SignalsApply : Prop :=
  ∀ (s : State) (d : Fin 10) (e : Ev) (g : Sig) (lc num : Nat), s.nextDue d e → e.k = .sig g → lc < 48 →
    let q := s.takeNext d
    let ok := s.locInScope g.scope g.last.loc lc
    (g.obj = .cue lc num → ∃ t, exec (.signalApply (.timed d)) s = .next (s.after t)
      ∧ (let u := (tGet (s.clus lc).cues num).getD {}
         let v := (tGet (t.clus lc).cues num).getD {}
         (ok = true → v.mismatch = u.mismatch ∧ v.last = g.last
            ∧ (g.op = .clear → v.set = false ∧ v.merged = u.merged)
            ∧ (g.op = .set ∨ g.op = .bulk → v.set = true ∧ v.merged = (u.merged || u.set) ∧ v.scope = g.scope
                ∧ t.counters = if u.set then (s.count 0x9004 3 1).counters else s.counters))
         ∧ (ok = false → v.set = u.set ∧ v.merged = u.merged ∧ v.scope = u.scope ∧ v.mismatch = true ∧ v.mscope = g.scope
              ∧ v.mloc = g.last.loc))
      ∧ (∀ k, k ≠ num → tGet (t.clus lc).cues k = tGet (s.clus lc).cues k)
      ∧ t.clus lc = { s.clus lc with cues := (t.clus lc).cues } ∧ (∀ m, m ≠ lc → t.clus m = s.clus m) ∧ q.sameButEffects t)
    ∧ (g.obj = .tally lc num → ∃ t, exec (.signalApply (.timed d)) s = .next (s.after t)
      ∧ (let u := (tGet (s.clus lc).tallies num).getD {}
         let v := (tGet (t.clus lc).tallies num).getD {}
         (ok = true → v.mismatch = u.mismatch ∧ v.last = g.last
            ∧ (∀ k, g.op = .add k → v.count.toNat = min (u.count.toNat + k) 65535
                ∧ v.overF = (u.overF || decide (65535 < u.count.toNat + k))
                ∧ t.counters = if 65535 < u.count.toNat + k then (s.count 0x9004 4 1).counters else s.counters)
            ∧ (g.op = .reset → v.count = 0 ∧ v.overF = false))
         ∧ (ok = false → v.count = u.count ∧ v.overF = u.overF ∧ v.mismatch = true ∧ v.mscope = g.scope ∧ v.mloc = g.last.loc))
      ∧ (∀ k, k ≠ num → tGet (t.clus lc).tallies k = tGet (s.clus lc).tallies k)
      ∧ t.clus lc = { s.clus lc with tallies := (t.clus lc).tallies } ∧ (∀ m, m ≠ lc → t.clus m = s.clus m) ∧ q.sameButEffects t)

/-- R334, R335: an arrival of an expected cluster at a bound round counts for the current generation, a second one of the same cluster for the
next; an arrival of a sequencer counts for the current generation while its count is below REMOTE, and for the next after that. When every
expected cluster and module has arrived, the generation goes up by one modulo 256 and the arrivals ahead become the current ones; in a
stop the generation that those complete is not put off (log 2). -/
def Obligations.RoundsAdvance : Prop :=
  ∀ (s : State) (d : Fin 10) (e : Ev) (g : Sig) (q : Nat), s.nextDue d e → e.k = .sig g → g.obj = .round q →
    let r := (tGet (s.domN d).rounds q).getD {}
    let applies := fun (c : Round → Prop) => ∃ t, exec (.signalApply (.timed d)) s = .next (s.after t) ∧ c ((tGet (t.domN d).rounds q).getD {})
      ∧ (∀ k, k ≠ q → tGet (t.domN d).rounds k = tGet (s.domN d).rounds k) ∧ (∀ m, t.clus m = s.clus m)
    let kept := fun (v : Round) => v.bound = true ∧ v.scope = r.scope ∧ v.expect = r.expect ∧ v.remote = r.remote ∧ v.fault = r.fault ∧ v.last = g.last
    let completes := fun (v : Round) => ¬ ((s.domN d).stopped = true ∧ r.ahead = r.expect ∧ r.rAhead = r.remote) → v.gen = r.gen + 1 ∧ v.arrived = r.ahead ∧ v.rArrived = r.rAhead ∧ v.ahead = 0 ∧ v.rAhead = 0
    r.bound = true →
    (∀ n, g.op = .arriveLc n → r.expect.getLsbD n = true →
      (r.arrived.getLsbD n = false → applies fun v => kept v
        ∧ (r.arrived ||| (1 <<< n) = r.expect ∧ r.rArrived = r.remote → completes v)
        ∧ (¬ (r.arrived ||| (1 <<< n) = r.expect ∧ r.rArrived = r.remote) → v.gen = r.gen ∧ v.arrived = r.arrived ||| (1 <<< n) ∧ v.ahead = r.ahead
            ∧ v.rArrived = r.rArrived ∧ v.rAhead = r.rAhead))
      ∧ (r.arrived.getLsbD n = true → r.ahead.getLsbD n = false → applies fun v => kept v ∧ v.gen = r.gen ∧ v.arrived = r.arrived
          ∧ v.ahead = r.ahead ||| (1 <<< n) ∧ v.rArrived = r.rArrived ∧ v.rAhead = r.rAhead))
    ∧ (g.op = .arriveSeq →
      (r.rArrived.toNat < r.remote.toNat → applies fun v => kept v
        ∧ (r.arrived = r.expect ∧ r.rArrived + 1 = r.remote → completes v)
        ∧ (¬ (r.arrived = r.expect ∧ r.rArrived + 1 = r.remote) → v.gen = r.gen ∧ v.rArrived = r.rArrived + 1 ∧ v.rAhead = r.rAhead
            ∧ v.arrived = r.arrived ∧ v.ahead = r.ahead))
      ∧ (r.remote.toNat ≤ r.rArrived.toNat → r.rAhead ≠ r.remote → applies fun v => kept v ∧ v.gen = r.gen ∧ v.rArrived = r.rArrived
          ∧ v.rAhead = r.rAhead + 1 ∧ v.arrived = r.arrived ∧ v.ahead = r.ahead))

/-- R284, R313-R315: the one due wait of a caller stays pending while its condition does not hold; where it holds, the wait leaves the queue:
a cue or module cue is cleared unless the wait keeps it (a module cue, in the caller's own replica, whose other replicas have not passed the
release), a tally gives up what the wait takes, and the granules of a stream WAIT leave
staging with its placement, which begins two mover cycles after the release at the earliest. Before that the predicates of the commands whose
push cycle the domain has reached are sampled (R109). -/
def Obligations.WaitsComplete : Prop :=
  ∀ (s : State) (w : Site) (q : Wait),
    let v := siteNum w
    let d := s.domOf v
    let sampled := s.sampleDue d (s.domN d).nt
    s.quiet d → s.dueWaits [v] (s.domN d).nt = [(v, q)] →
    (sampled = { s with dom := sampled.dom, hazards := sampled.hazards, counters := sampled.counters }
      ∧ ∀ e, sampled.domN e = { s.domN e with handed := if e = d then (sampled.domN e).handed else (s.domN e).handed })
    ∧ (s.waitReady v q.form = false → exec (.waitComplete w) s = .next (s.after sampled))
    ∧ (s.waitReady v q.form = true → ((∀ num, q.form = .mcue num false → ∀ e, e < 10 → e ≠ d → (s.domN e).nt ≤ q.r) →
      ∃ t, exec (.waitComplete w) s = .next (s.after t)
      ∧ (t.caller v).waits = (s.caller v).waits.erase q
      ∧ (∀ num keep, q.form = .cue num keep → ((tGet (t.clus v).cues num).getD {}).set = keep)
      ∧ (∀ num keep, q.form = .mcue num keep → (t.mcueOf v num).set = keep)
      ∧ (∀ num k take, q.form = .tally num k take → v < 48 →
          ((tGet (t.clus v).tallies num).getD {}).count.toNat
            = ((tGet (s.clus v).tallies num).getD {}).count.toNat - (if take then k else 0))
      ∧ (∀ num k, q.form = .round num k → t.roundOf v num = s.roundOf v num)
      ∧ t.rt = s.rt ∧ t.bank = s.bank ∧ t.links = s.links)
      ∧ ∀ n st first count faddr tkt, w = .lc n → q.form = .stream st first count faddr tkt → n.val < s.lcMax →
        ∃ t, exec (.waitRelease n) s = .next (s.after t) ∧ (t.caller v).waits = (s.caller v).waits.erase q
          ∧ (q.guard = 0 → (t.clus n).staging = (s.clus n).staging)
          ∧ (∃ p ∈ (t.clus n).placing, p.st = st ∧ p.first = first ∧ p.count = count ∧ p.faddr = faddr ∧ p.tkt = tkt ∧ p.r = q.r
              ∧ p.deadline = q.deadline ∧ p.held = none
              ∧ ∃ e ∈ (t.domN (s.regionOf n)).evs, e.t = q.r ∧ e.mover = true ∧ ∃ left, e.k = .place n left p.id ∧ 2 ≤ left)
          ∧ (t.clus n).floor = (s.clus n).floor)

/-- R310, R320, R321, R323, R400: an acknowledgement on its way counts down the writes of its command at the sender; a FENCE completes at its release
once no write that it covers is owed; a BULK command whose writes are all acknowledged completes, frees its bank mover, and sets its completion
cue, as an untimed signal that applies after the timed ones that have come due (R307). -/
def Obligations.AcknowledgementsAndCompletions : Prop :=
  (∀ (s : State) (k : Nat), (s.acks[k]? = none → exec (.writeAck k) s = .next s)
    ∧ (∀ n id, s.acks[k]? = some (.direct n id) → n < 48 → ∃ t, exec (.writeAck k) s = .next (s.after t)
      ∧ (t.clus n).unacked = ((s.clus n).unacked.map fun o => if o.id = id then { o with left := o.left - 1 } else o).filter (·.left != 0)
      ∧ t.clus n = { s.clus n with unacked := (t.clus n).unacked } ∧ (∀ m, m ≠ n → t.clus m = s.clus m)
      ∧ t = { s with acks := s.acks.eraseIdx k, cl := t.cl })
    ∧ (∀ id dst a, s.acks[k]? = some (.bulk id dst a) → ∃ t, exec (.writeAck k) s = .next (s.after t)
      ∧ t = { s with acks := s.acks.eraseIdx k, det := t.det
                     bulks := s.bulks.map fun b =>
                       if b.id = id then { b with left := b.left - 1, owed := tMod b.owed dst 0 (· - 1) } else b }))
  ∧ (∀ (s : State) (n : Fin 48) (f : Fence), n.val < s.lcMax → s.quiet (s.regionOf n) → (s.caller n).fence = some f →
      (f.r ≤ (s.domN (s.regionOf n)).nt → s.fenceBusy n f = false → ∃ t, exec (.fenceComplete n) s = .next (s.after t)
        ∧ t.caller n = { s.caller n with fence := none, syFree := f.r + 1 } ∧ (∀ v, v ≠ n.val → t.caller v = s.caller v)
        ∧ (∀ m, t.clus m = { s.clus m with caller := (t.clus m).caller }))
      ∧ ((s.domN (s.regionOf n)).nt < f.r ∨ s.fenceBusy n f = true → exec (.fenceComplete n) s = .next s))
  ∧ (∀ (s : State) (k : Nat), (s.bulks[k]? = none → exec (.bulkCompletion k) s = .next s)
    ∧ ∀ b, s.bulks[k]? = some b → (b.sent = false ∨ b.left ≠ 0 → exec (.bulkCompletion k) s = .next s)
      ∧ (b.sent = true → b.left = 0 → ∃ t, exec (.bulkCompletion k) s = .next (s.after t)
        ∧ (b.done = none ∨ (∀ d, d < 10 → ∀ e ∈ (s.domN d).evs, (s.domN d).nt < e.t) → t.bulks = s.bulks.filter (·.id != b.id))
        ∧ (∀ p lc num, b.done = some p → p.obj = .cue lc num → lc < 48 → s.locInScope p.scope b.loc lc = true →
            ((tGet (t.clus lc).cues num).getD {}).set = true)
        ∧ (∀ d u, b.who = 64 + 32 * d + u → d < 2 → u < 16 → (t.unit d u).run = none)
        ∧ (b.done = none → t.cl = s.cl ∧ (b.who < 64 → t.dom = s.dom))))
  ∧ ∀ (s : State) (k : Nat), (s.untimed[k]? = none → exec (.signalApply (.untimed k)) s = .next s)
    ∧ ∀ g lc num, s.untimed[k]? = some g → g.obj = .cue lc num → (g.op = .set ∨ g.op = .bulk) → lc < 48 →
        s.locInScope g.scope g.last.loc lc = true → ∃ t, exec (.signalApply (.untimed k)) s = .next (s.after t)
          ∧ ((∀ e ∈ (s.domN (s.regionOf lc)).evs, (s.domN (s.regionOf lc)).nt < e.t) → t.untimed = s.untimed.eraseIdx k) ∧ ((tGet (t.clus lc).cues num).getD {}).set = true

/-- R285, R286, R288, R314: where a wait of a domain has stalled for its DEADLINE, what it waits for is absent and it holds nothing yet, HOLD_REQ is
raised and the domain stops; where no wait, FENCE, placement or ROTATE of the domain has, or what it waits for is there, nothing changes. A wait of a
cluster that has held the module for 4,096 beat boundaries is a unit fault: the cluster, not FENCED before, is fenced; one of a sequencer is a module fault, which ends the invocation. -/
def Obligations.DeadlinesRaiseHold : Prop :=
  ∀ (s : State) (d : Fin 10),
    ((∃ w ∈ s.callersOf d, ∃ q ∈ (s.caller w).waits, q.held = none ∧ q.deadline ≤ q.stalls ∧ s.waitReady w q.form = false) →
      ∃ t, exec (.waitDeadline d) s = .next (s.after t) ∧ t.beat.holdReq = true
        ∧ ((t.domN d).stopPend = true ∨ (t.domN d).stopped = true))
    ∧ ((∀ w ∈ s.callersOf d, (∀ q ∈ (s.caller w).waits, q.held ≠ none ∨ q.stalls < q.deadline ∨ s.waitReady w q.form = true)
          ∧ (∀ f, (s.caller w).fence = some f → f.held ≠ none ∨ f.stalls < f.deadline)
          ∧ (w < 48 → (∀ q ∈ (s.clus w).rotating, q.held ≠ none ∨ q.stalls < q.deadline ∨ (s.clus w).rotReady q = true)
              ∧ ∀ q ∈ (s.clus w).placing, q.held ≠ none ∨ q.stalls < q.deadline ∨ q.stalls = 0 ∨ (s.clus w).placeReady q = true)) →
        exec (.waitDeadline d) s = .next s)
    ∧ (let old := fun (h : Option Nat) => h.any fun b => b + 4096 ≤ s.beat.boundaries
       ((∀ w ∈ s.callersOf d, (∀ q ∈ (s.caller w).waits, old q.held = false)
          ∧ (∀ f, (s.caller w).fence = some f → old f.held = false)
          ∧ (w < 48 → (∀ q ∈ (s.clus w).rotating, old q.held = false) ∧ ∀ q ∈ (s.clus w).placing, old q.held = false)) →
        exec (.waitHoldTimeout d) s = .next s)
       ∧ (∀ before w later q, s.callersOf d = before ++ w :: later →
          (∀ u ∈ before, (∀ q ∈ (s.caller u).waits, old q.held = false) ∧ (∀ f, (s.caller u).fence = some f → old f.held = false)
            ∧ (u < 48 → (∀ q ∈ (s.clus u).rotating, old q.held = false) ∧ ∀ q ∈ (s.clus u).placing, old q.held = false)) →
          (s.caller w).waits.find? (fun q => old q.held) = some q →
        ∃ t, exec (.waitHoldTimeout d) s = .next (s.after t)
          ∧ (w < 48 → (s.unfenced w → tGet t.actual w = some 5) ∧ (t.clus w).fenced = true ∧ (t.caller w).waits = [])
          ∧ (48 ≤ w → s.running = true → t.running = false)))

/-- R278, R280, R288, R441, R444, R445: a mover's next request becomes outstanding where staging has room and fewer than 64 blocks are outstanding, one for
a discarded granule being counted; the granule of an outstanding request reaches staging as the plaintext of the 64 bytes that bank memory holds, also
where one symbol of a burst is wrong; bursts that the first read does not decode are read a second time. -/
def Obligations.GranulesReachStaging : Prop :=
  (∀ (s : State) (n : Fin 48) (m : Fin 2) (r : Req) (rest : List Req), ((s.clus n).mover m).reqs = r :: rest →
    (r.kept = false → 2048 ≤ (s.clus n).used false → exec (.granuleRequest n m) s = .next s)
    ∧ (r.addr ≠ none → ((s.clus n).mover m).roomFor = false → exec (.granuleRequest n m) s = .next s)
    ∧ (∀ a, r.addr = some a → ((s.clus n).mover m).roomFor = true → (r.kept = true ∨ (s.clus n).used false < 2048) →
      ∃ t, exec (.granuleRequest n m) s = .next (s.after t)
        ∧ (t.clus n).mover m = { (s.clus n).mover m with reqs := rest, out := ((s.clus n).mover m).out ++ [{ r with kept := false }] }
        ∧ (t.clus n).staging = (s.clus n).staging ∧ t = { s with cl := t.cl, counters := t.counters }
        ∧ t.counters = (if r.kept then (s.count 0x9003 5 1).counters else s.counters) ∧ ∀ k, k ≠ n.val → t.clus k = s.clus k)
    ∧ (r.addr = none → (r.kept = true ∨ (s.clus n).used false < 2048) →
      ∃ t g, exec (.granuleRequest n m) s = .next (s.after t) ∧ (t.clus n).staging = (s.clus n).staging ++ [g]
        ∧ g.stream = r.stream ∧ g.index = r.index ∧ g.guard = r.guard ∧ g.data = List.replicate 64 0
        ∧ ((t.clus n).mover m).reqs = rest))
  ∧ ∀ (s : State) (n : Fin 48) (k : Nat) (m : Nat) (r : Req) (a : Nat), (s.clus n).outstanding k = some (m, r) → r.addr = some a →
    ((∀ b ∈ burstsOf a, ∀ e, tGet s.bankErr b = some e → e.defect = 0 ∧ wrongCount e.stored ≤ 1) →
      ∀ i, (r.again = [] ∧ i = .granuleArrival n false k) ∨ (r.again ≠ [] ∧ i = .bankReread n k) →
        ∃ t g, exec i s = .next (s.after t) ∧ (t.clus n).staging = (s.clus n).staging ++ [g]
          ∧ g.stream = r.stream ∧ g.index = r.index ∧ g.guard = r.guard ∧ g.data = s.pageCrypt false (a / 64 * 64) (readMem s.bank (a / 64 * 64) 64)
          ∧ ((t.clus n).mover m).out = ((s.clus n).mover m).out.erase r ∧ t.bank = s.bank ∧ (t.clus n).floor = (s.clus n).floor)
    ∧ ((∀ b ∈ burstsOf a, ∃ e, tGet s.bankErr b = some e ∧ e.defect = 0 ∧ 2 ≤ wrongCount e.stored ∧ wrongCount e.stored ≤ 3) → r.again = [] →
        ∃ t, exec (.granuleArrival n false k) s = .next (s.after t) ∧ (t.clus n).staging = (s.clus n).staging
          ∧ { r with again := burstsOf a } ∈ ((t.clus n).mover m).out ∧ t.bank = s.bank ∧ (t.clus n).floor = (s.clus n).floor)

/-- R433, R446, R447, R612, R622: with input power, a scrub slot, of which a subchannel has 8 in a beat, moves the scrub position on by one burst, around 2^28 bursts; it writes back the
corrected bursts of its subchannel that wait, and changes no other byte of bank memory. From the training of a package on, a refresh leaves at most two banks of its subchannel
refreshing, its own among them, and touches no other subchannel; one out of its slot changes nothing. -/
def Obligations.BankScrubAndRefresh : Prop :=
  (∀ (s : State) (sc : Fin 256),
    (s.pow.on = false ∨ 8 ≤ s.burstsServed sc 2 → exec (.bankPatrolScrub sc) s = .next s)
    ∧ (s.pow.on = true → s.burstsServed sc 2 < 8 → ∃ t, exec (.bankPatrolScrub sc) s = .next (s.after t)
      ∧ t.bankScrubNext[sc] = (s.bankScrubNext[sc] + 1) % 2 ^ 28 ∧ (∀ k : Fin 256, k ≠ sc → t.bankScrubNext[k] = s.bankScrubNext[k])
      ∧ t.bank = (s.bankScrub.filter fun e => burstSc e.1 == sc.val).foldl (fun m e => writeMem m (32 * e.1) e.2) s.bank
      ∧ t.cl = s.cl ∧ t.rt = s.rt
      ∧ (∀ e, burstSc e.1 ≠ sc.val → (e ∈ t.bankScrub ↔ e ∈ s.bankScrub))
      ∧ ∀ e ∈ t.bankScrub, burstSc e.1 = sc.val → e.1 = pageAt sc (s.bankScrubNext[sc] / 128) * 128 + s.bankScrubNext[sc] % 128))
  ∧ ∀ (s : State) (sc : Fin 256) (bank : Fin 16),
    let next := (tGet s.refreshNext sc).getD 0
    let anew := next = 16 ∧ bank.val = 0 ∧ s.beat.locked = false
    (s.refreshes = false ∨ (next ≠ bank.val ∧ ¬ anew) → exec (.bankRefresh sc bank) s = .next s)
    ∧ (s.refreshes = true → next = bank.val ∨ anew → s.refreshing.Nodup → ∃ t, exec (.bankRefresh sc bank) s = .next (s.after t)
      ∧ sc.val * 16 + bank.val ∈ t.refreshing ∧ (t.refreshing.filter fun k => k / 16 == sc.val).length ≤ 2
      ∧ (∀ k, k / 16 ≠ sc.val → (k ∈ t.refreshing ↔ k ∈ s.refreshing)) ∧ tGet t.refreshNext sc = some (bank.val + 1)
      ∧ (s.beat.locked = true → t.bankUse = s.bankUse)
      ∧ t = { s with refreshing := t.refreshing, refreshNext := t.refreshNext, bankUse := t.bankUse })

/-- R126-R128, R144-R146, R149, R151, R152: a TLOAD that waited for its buffer or the tile port, and a matrix command that waited for its operands, leave the
queue at their start; a hold for absent operands clears. An array that neither streams nor ramps up switches its row groups off one by one,
group 7 first: from an idle count of 64 on, in a stall from its 257th cycle on, and in a stop one at a time, unless the hold is over and step time expects it to run; one that streams keeps them. -/
def Obligations.MatrixStartsAndWindDown : Prop :=
  (∀ (s : State) (n : Fin 48) (e : Ev) (x : Ctx) (rest : List (Ctx × MxCmd)) (buf tkt : Nat) (consume : Bool) (fmt scl tile : Nat),
    let m := (s.clus n).mx
    let cmd := MxCmd.tload buf tkt consume fmt scl tile
    n.val < s.lcMax → m.q = (x, cmd) :: rest → s.nextDue (s.regionOf n) e → e.k = .mxStart n → buf < 2 →
    m.startAt x cmd ≤ e.t → m.freeAt cmd ≤ e.t → (s.clus n).ticket tkt = true →
    (m.startAt x cmd < m.freeAt cmd ∨ m.startAt x cmd < (s.domN (s.regionOf n)).nt) →
    ∃ t, exec (.tloadDelayedStart n) s = .next (s.after t)
      ∧ (t.clus n).mx.q = rest ∧ ((t.clus n).mx.tile buf).fmt = fmt ∧ ((t.clus n).mx.tile buf).ready = e.t + 32
      ∧ (t.clus n).mx.tpFree = e.t + 32 ∧ (t.clus n).mx.tile (1 - buf) = m.tile (1 - buf)
      ∧ (∀ k, (t.clus n).ticket k = ((s.clus n).ticket k && !(consume && k == tkt && k != 0)))
      ∧ (t.clus n).floor = (s.clus n).floor ∧ ∀ k, k ≠ n.val → t.clus k = s.clus k)
  ∧ (∀ (s : State) (n : Fin 48) (x : Ctx) (cmd : MxCmd) (rest : List (Ctx × MxCmd)),
    let m := (s.clus n).mx
    n.val < s.lcMax → m.q = (x, cmd) :: rest → m.starved = true →
    ((s.domN (s.regionOf n)).stopped = false → ∀ e, s.nextDue (s.regionOf n) e → e.k = .mxStart n →
      m.startAt x cmd ≤ e.t → m.freeAt cmd ≤ e.t → (s.clus n).atHand e.t false cmd = true →
      ∃ t, exec (.matrixOperandsReady n) s = .next (s.after t) ∧ (t.clus n).mx.q = rest ∧ (t.clus n).mx.starved = false
        ∧ (∀ l ∈ t.beat.live, ¬ (l.cause = 3 ∧ l.who = n.val)) ∧ (t.clus n).floor = (s.clus n).floor))
  ∧ (∀ (s : State) (n : Fin 48), (s.clus n).mx.starved = false → exec (.matrixOperandsReady n) s = .next s)
  ∧ ∀ (s : State) (n : Fin 48), n.val < s.lcMax → s.quiet (s.regionOf n) →
    let m := (s.clus n).mx
    let d := s.domN (s.regionOf n)
    let idle := m.idle d.nt
    let count := if 64 ≤ idle then idle + d.waited else if 256 < d.waited then 64 + (d.waited - 257) else idle
    (s.arrayBusy n = true → exec (.arrayWindDown n) s = .next s)
    ∧ (s.arrayBusy n = false → ∃ t, exec (.arrayWindDown n) s = .next (s.after t)
      ∧ (d.stopped = true → (t.clus n).mx.groups = if s.beat.inHold = false ∧ idle < 64 then m.groups else m.groups >>> 1)
      ∧ (d.stopped = false → ∀ g, (t.clus n).mx.groups.getLsbD g = (m.groups.getLsbD g && decide (g < 8 ∧ count < 64 + 4 * (7 - g))))
      ∧ t.clus n = { s.clus n with mx := { m with groups := (t.clus n).mx.groups } } ∧ s.sameButCluster t n)

/-- R266, R286, R326, R30, R50: the scrubber's write-back writes the corrected words that wait, which are right then, and changes no other byte; a FINAL write
that a slot has held for 4,096 beat boundaries is a unit fault against its receiver; a landing register whose data is absent at its planned
release stalls its domain for a cycle. -/
def Obligations.ScrubFinalAndLandingRegisters : Prop :=
  (let written := fun (s t : State) (n : Nat) (now : Nat × Bytes × Option Nat → Bool) =>
     (t.clus n).scrub = (s.clus n).scrub.filter (fun w => !now w)
     ∧ (∀ a, (∀ w ∈ (s.clus n).scrub, now w = true → a < w.1 ∨ w.1 + w.2.1.length ≤ a) →
         readByte (t.clus n).floor a = readByte (s.clus n).floor a)
     ∧ (∀ w, (s.clus n).scrub = [w] → now w = true → readMem (t.clus n).floor w.1 w.2.1.length = w.2.1)
     ∧ (∀ u, u ∈ (t.clus n).upsets ↔ u ∈ (s.clus n).upsets ∧ ∀ w ∈ (s.clus n).scrub, now w = true → w.1 ≠ u.1 / 8 * 64)
     ∧ ∀ m, m ≠ n → t.clus m = s.clus m
   (∀ (s : State) (n : Fin 48), n.val < s.lcMax → s.beat.order ≠ 0 → ∃ t, exec (.scrubWriteBack n) s = .next (s.after t)
      ∧ written s t n (fun w => w.2.2.isNone) ∧ s.sameButCluster t n)
   ∧ ∀ (s : State) (n : Fin 48) (e : Ev), n.val < s.lcMax → s.beat.order = 0 → s.nextDue (s.regionOf n) e → e.k = .scrubWrite n →
      ∃ t, exec (.scrubWriteBack n) s = .next (s.after t) ∧ written s t n (fun w => w.2.2.any fun q => decide (q ≤ e.t)))
  ∧ (∀ (s : State) (n : Fin 48) (tid : Fin 64), (tGet (s.clus n).slots tid = none → exec (.finalHoldTimeout n tid) s = .next s)
    ∧ ∀ h, tGet (s.clus n).slots tid = some h →
      (s.beat.boundaries < h.since + 4096 → exec (.finalHoldTimeout n tid) s = .next s)
      ∧ (h.since + 4096 ≤ s.beat.boundaries → ∃ t, exec (.finalHoldTimeout n tid) s = .next (s.after t)
        ∧ (s.unfenced n → tGet t.actual n = some 5) ∧ (t.clus n).fenced = true ∧ (s.aloneIn h.l.ctx → s.recorded t 3 5)))
  ∧ ∀ (s : State) (d : Fin 10), (∀ e ∈ (s.domN d).evs, e.t < (s.domN d).nt → e.k.crosses s d = false) →
    (s.gateShut d = true → (s.domN d).words = true → (s.domN d).stopped = false → (s.domN d).left ≠ 0 →
      (∀ e ∈ (s.domN d).evs, e.k.goesOn = false) → ∃ t, exec (.landingRelease d) s = .next (s.after t)
        ∧ t.domN d = { s.domN d with left := (s.domN d).left - 1, stalls := (s.domN d).stalls + 1, waited := (s.domN d).waited + 1 }
        ∧ (∀ e, e ≠ d.val → t.domN e = s.domN e) ∧ t = { s with dom := t.dom })
    ∧ ((s.gateShut d = false ∨ (s.domN d).words = false ∨ (s.domN d).stopped = true ∨ (s.domN d).left = 0) →
      exec (.landingRelease d) s = .next s)

/-- R242, R248: a write through ports that no other unit has used in its cycle, into a floor without wrong bits, leaves every byte of the floor as
the masked bytes of the write in order leave it, and no other floor changes. -/
def Obligations.FloorWritesLand : Prop :=
  ∀ (s : State) (n t port unit : Nat) (ws : Writes) (x : Ctx), n < 48 → (s.clus n).upsets = [] →
    ((s.clus n).ports.1 ≠ t ∨ (s.clus n).ports.2 = []) →
    let r := s.floorWrite n t port unit ws x
    (∀ a, readByte (r.clus n).floor a = readByte (writeMasked (s.clus n).floor ws) a)
      ∧ (∀ a, (∀ w ∈ ws, w.1 ≠ a) → readByte (r.clus n).floor a = readByte (s.clus n).floor a)
      ∧ (r.clus n).upsets = [] ∧ ∀ m, m ≠ n → r.clus m = s.clus m

/-- R321, R325, R326: a write from another cluster lands in the floor, is counted for its origin and acknowledged; a FINAL write whose count has not been
reached is held in the slot of its TID without landing; one that finds its slot taken is dropped, counted and acknowledged. -/
def Obligations.RemoteWrites : Prop :=
  ∀ (s : State) (n : Fin 48) (e : Ev) (l : Landing), n.val < s.lcMax → s.nextDue (s.regionOf n) e → e.k = .land n l →
    s.isVoid l.word = false →
    (l.final = none → (s.clus n).slots = [] → (s.clus n).upsets = [] → ((s.clus n).ports.1 ≠ e.t ∨ (s.clus n).ports.2 = []) →
      ∃ t, exec (.remoteWriteLand n) s = .next (s.after t)
        ∧ (∀ a, readByte (t.clus n).floor a = readByte (writeMasked (s.clus n).floor l.writes) a)
        ∧ (l.counts = true → tGet (t.clus n).landed l.origin = some ((tGet (s.clus n).landed l.origin).getD 0 + 1))
        ∧ t.acks = s.acks ++ [.direct l.origin l.id] ∧ ∀ m, m ≠ n.val → t.clus m = s.clus m)
    ∧ (∀ tid need, l.final = some (tid, need) → tid < 64 →
      ((tGet (s.clus n).slots tid).isSome = true → ∃ t, exec (.remoteWriteLand n) s = .next (s.after t)
        ∧ (∀ m, t.clus m = s.clus m) ∧ t.acks = s.acks ++ [.direct l.origin l.id]
        ∧ (tGet t.counters (0x9004 * 256 + 2)).getD 0
            = BitVec.ofNat 64 (min (((tGet s.counters (0x9004 * 256 + 2)).getD 0).toNat + 1) (2 ^ 64 - 1)))
      ∧ ((s.clus n).slots = [] → (tGet (s.clus n).landed l.origin).getD 0 + 1 < need →
        ∃ t, exec (.remoteWriteLand n) s = .next (s.after t)
          ∧ tGet (t.clus n).slots tid = some { l := l, n := need, since := s.beat.boundaries }
          ∧ t.clus n = { s.clus n with slots := (t.clus n).slots } ∧ t.acks = s.acks ∧ ∀ m, m ≠ n.val → t.clus m = s.clus m))

/-- R354, R355, R357: the last granule of a MESSAGE record enters a descriptor with the record's length and TAG and the stamp of its landing, marked
where its CRC is wrong, and is acknowledged; a credit word gives the sender back the freed bytes and a slot. -/
def Obligations.ChannelLandings : Prop :=
  (∀ (s : State) (n : Fin 48) (e : Ev) (w : ChWord) (r : Route), n.val < s.lcMax → s.nextDue (s.regionOf n) e → e.k = .chLand n w →
    w.last = true → w.pad = false → s.route w.ch = some r → s.isVoid w.word = false → (s.clus n).upsets = [] →
    let b := if w.first then w.data else (s.chan w.ch).landing ++ w.data
    recField b 3 1 = 1 →
    ∃ t d, exec (.recordLanded n) s = .next (s.after t) ∧ (t.chan w.ch).arrivals = (s.chan w.ch).arrivals ++ [d]
      ∧ d.len = recField b 0 2 ∧ d.tag.toNat = recField b 8 4 ∧ d.entered = e.t
      ∧ (d.status.getLsbD 0 = true ↔ crc32c (b.take 12 ++ (b.drop 16).take d.len) ≠ (if (b.take 12).all (· == 0) then 0 else w.crc))
      ∧ (t.chan w.ch).recvAlive.toNat = recField b 2 1 ∧ t.acks = s.acks ++ [.direct r.src w.id]
      ∧ (∀ k, k ≠ w.ch → tGet t.chans k = tGet s.chans k) ∧ ∀ m, m ≠ n.val → t.clus m = s.clus m)
  ∧ ∀ (s : State) (n : Fin 48) (e : Ev) (ch bytes : Nat) (r : Route), n.val < s.lcMax → s.nextDue (s.regionOf n) e →
    e.k = .credit ch bytes → s.route ch = some r → r.src = n.val →
    ∃ t, exec (.creditApply n) s = .next (s.after t)
      ∧ t.chan ch = { s.chan ch with free := (s.chan ch).free + BitVec.ofNat 21 bytes, slots := (s.chan ch).slots + 1 }
      ∧ (∀ k, k ≠ ch → tGet t.chans k = tGet s.chans k) ∧ (∀ m, t.clus m = s.clus m)

/-- R140, R144, R180, R191, R194, R230, R256, R282, R293: a drain delivery or a band that is the last of its command sets the command's ticket; an FTLOAD at its start leaves
the queue and reads 16 entries per cycle; the last vector of a figure ends it; the record of an AMAX MERGE keeps the larger entries, is counted where it
names another tensor, and changes nothing where its slot has been unbound (log 45), and that of a LOAD replaces its slot, or is refused; the result of a COUNT sets its ticket; a granule enters staging, or is dropped and counted where it is known
or staging is full, and is acknowledged either way; a placement of a ROTATE waits for its granules. -/
def Obligations.EngineEffects : Prop :=
  ∀ (s : State) (n : Fin 48) (e : Ev), n.val < s.lcMax → s.nextDue (s.regionOf n) e →
    (∀ d, e.k = .deliver n d → ∃ t, exec (.drainDelivery n) s = .next (s.after t)
      ∧ (d.final = true → d.dr.tkt < 32 → (t.clus n).ticket d.dr.tkt = true))
    ∧ (∀ o, e.k = .bandOut n o → ∃ t, exec (.figureLanding n) s = .next (s.after t) ∧ (o.tkt < 32 → o.tkt ≠ 0 → (t.clus n).ticket o.tkt = true))
    ∧ (∀ id v f, e.k = .figLand n id v → (s.clus n).vx.figs.find? (·.id == id) = some f → v + 1 = f.job.v →
        ∃ t, exec (.figureLanding n) s = .next (s.after t) ∧ ∀ g ∈ (t.clus n).vx.figs, g.id ≠ id)
    ∧ (∀ x first m src rest st, e.k = .figStart n → (s.clus n).vx.q = (x, .ftload first m src) :: rest → (s.clus n).vx.startAt x = some st →
        st ≤ e.t → ∃ t, exec (.figureStart n) s = .next (s.after t) ∧ (t.clus n).vx.q = rest ∧ (t.clus n).vx.free = e.t + (m + 15) / 16
          ∧ { t := e.t, ph := phRead, rank := 1, mover := false, k := .ftRead n first m src x } ∈ (t.domN (s.regionOf n)).evs
          ∧ (t.clus n).vx.entries = (s.clus n).vx.entries)
    ∧ (∀ k merge addr r x a, e.k = .amaxGot n k merge addr (some r) x → (s.clus n).amaxSlot k = some a →
        (merge = true → a.tensor.toNat = recField r 0 4 → ∃ t b, exec (.amaxRecordArrival n) s = .next (s.after t)
          ∧ (t.clus n).amaxSlot k = some b ∧ b.cur = max16 a.cur (amaxOf r).cur ∧ (∀ h, b.entry h = max16 (a.entry h) ((amaxOf r).entry h))
          ∧ b.tensor = a.tensor)
        ∧ (merge = true → a.tensor.toNat ≠ recField r 0 4 → ∃ t, exec (.amaxRecordArrival n) s = .next (s.after t)
          ∧ (t.clus n).amaxSlot k = some a
          ∧ (tGet t.counters (0x9002 * 256 + 1)).getD 0
              = BitVec.ofNat 64 (min (((tGet s.counters (0x9002 * 256 + 1)).getD 0).toNat + 1) (2 ^ 64 - 1)))
        ∧ (merge = false → amaxOk r = true → ∃ t, exec (.amaxRecordArrival n) s = .next (s.after t) ∧ (t.clus n).amaxSlot k = some (amaxOf r))
        ∧ (merge = false → amaxOk r = false → ∃ t, exec (.amaxRecordArrival n) s = .next (s.after t) ∧ (t.clus n).amaxSlot k = some a
            ∧ t.skips.length ≤ s.skips.length + 1))
    ∧ (∀ k addr r x, e.k = .amaxGot n k true addr (some r) x → (s.clus n).amaxSlot k = none →
        ∃ t, exec (.amaxRecordArrival n) s = .next (s.after t) ∧ (∀ m, t.clus m = s.clus m) ∧ t.counters = s.counters)
    ∧ (∀ j c, e.k = .cntLand n j c 0 → ∃ t, exec (.countResult n) s = .next (s.after t)
        ∧ (j.tkt < 32 → j.tkt ≠ 0 → (t.clus n).ticket j.tkt = true))
    ∧ (∀ g word id k, e.k = .arrive n g word id → s.isVoid word = false → ∃ t, exec (.granuleArrival n true k) s = .next (s.after t)
        ∧ t.acks = s.acks ++ [.bulk id n none]
        ∧ (((s.clus n).seen g.stream g.index || 2048 ≤ (s.clus n).used true) = false → (t.clus n).staging = (s.clus n).staging ++ [g])
        ∧ (((s.clus n).seen g.stream g.index || 2048 ≤ (s.clus n).used true) = true → (t.clus n).staging = (s.clus n).staging
            ∧ (tGet t.counters (0x9003 * 256 + 4)).getD 0
                = BitVec.ofNat 64 (min (((tGet s.counters (0x9003 * 256 + 4)).getD 0).toNat + 1) (2 ^ 64 - 1))))
    ∧ (∀ id q, e.k = .rotPlace n id 0 → (s.clus n).rotating.find? (·.id == id) = some q → (s.clus n).rotReady q = false →
        ∃ t, exec (.rotatePlace n) s = .next (s.after t) ∧ (∀ m, t.clus m = s.clus m)
          ∧ { t := e.t + 1, ph := phGw, rank := 1 + q.mover, mover := true, k := .rotPlace n id 0 } ∈ (t.domN (s.regionOf n)).evs)

/-! ## The machine -/

/-- Log 1: the command at the front of the queue acts on the state with the rest of the queue. -/
def Obligations.StepTakesFront : Prop := ∀ (s : State) (c : Instr), step { s with pending := c :: s.pending } = exec c s

/-- Log 1 (DESIGN CHOICE): with no command waiting the block idles. -/
def Obligations.EmptyQueueIdles : Prop := ∀ s : State, s.pending = [] → step s = .next s

/-- What a cold reset leaves (R618, R632; log 9): no command waits; every floor and bank memory hold nothing; no routine is loaded or runs; stamps are 0,
the module has no beat lock and asks for hold with CAUSE FAULT (R45, R612); tickets are clear but T0 (R143); logs and counters are empty;
resident sets are EMPTY; links are DOWN; LAST_RESET reads cold; bring-up stands in stage 1; mode BALANCED is in force, and the setting 0b01 (R621, R624). -/
def Obligations.ResetState : Prop :=
  let s := State.reset
  s.pending = [] ∧ s.sound = true
    ∧ (∀ n, (s.clus n).floor = [] ∧ (s.clus n).upsets = [] ∧ (s.clus n).mx.q = [] ∧ (s.clus n).vx.q = [] ∧ (s.clus n).stepReg = 0
        ∧ (∀ k, (s.clus n).ticket k = (k == 0)) ∧ ∀ r, ((s.clus n).caller.reg r) = 0)
    ∧ s.bank = [] ∧ s.errs = [] ∧ s.skips = [] ∧ s.hazards = [] ∧ s.counters = [] ∧ s.rt.loadStatus = 0 ∧ s.running = false
    ∧ s.beat.locked = false ∧ s.beat.bar = 0 ∧ s.beat.beat = 0 ∧ s.beat.holdReq = true ∧ s.beat.cause = 6 ∧ s.beat.setting = 1
    ∧ (∀ k, (s.resident k).state = .empty) ∧ (∀ l, (s.link l).st = .down)
    ∧ s.pow.on = true ∧ s.pow.bringup = 1 ∧ s.pow.lastReset = 1 ∧ s.mode = 2

/-- R3, R27, R28: every step from a sound part answers a next state and takes one command; it keeps the part sound, with the grade that it has. The
fuse map fuses 0 clusters on an EL48-F, 4 on an EL48-T and 8 on an EL48-S, half of them on each die and no more than two in a region, and it gives the
logical numbers in rising physical index, skipping fused clusters. -/
def Obligations.PartKept : Prop :=
  ∀ s : State, s.sound = true → ∃ t, step s = .next t ∧ t.sound = true ∧ t.pending = s.pending.tail ∧ t.grade = s.grade ∧ t.fused = s.fused
    ∧ (let fusedIn := fun (c : Nat → Bool) => ((List.range 48).filter fun p => t.fused.contains p && c p).length
       (∀ d, d < 2 → fusedIn (fun p => p / 24 == d) = if t.grade = 1 then 0 else if t.grade = 2 then 2 else 4)
       ∧ (∀ r, r < 8 → fusedIn (fun p => p / 6 == r) ≤ 2)
       ∧ t.lcMax = if t.grade = 1 then 48 else if t.grade = 2 then 44 else 40)
    ∧ (∀ n, n < t.lcMax → t.phys n < 48 ∧ t.fused.contains (t.phys n) = false ∧ ∀ m, m < n → t.phys m < t.phys n)
    ∧ ∀ p, p < 48 → t.fused.contains p = false → ∃ n, n < t.lcMax ∧ t.phys n = p

/-- However many steps are taken from any state, each answers a next state and takes the commands in the order in which they wait, each
exactly once; the grade and the fuse map stay as they are. -/
def Obligations.CommandsRunInOrder : Prop :=
  ∀ (s : State) (k : Nat), ∃ t, s.steps k = some t ∧ t.pending = s.pending.drop k ∧ t.grade = s.grade ∧ t.fused = s.fused
    ∧ (∀ c rest, s.pending.drop k = c :: rest → s.steps (k + 1) = (match exec c { t with pending := rest } with
        | .next u => some u
        | _ => none))
    ∧ (s.pending.length ≤ k → s.steps (k + 1) = some t)

/-! ## The beat reference -/

/-- R40, R43, R45, R58: a valid frame counts towards beat lock, and the eighth in a row locks the beat and is the first boundary; under lock
each valid frame is a boundary at which the module takes its ORDER, BAR, BEAT, HORIZON and announced setting, and a setting that an earlier
frame has announced for the bar that it opens comes into force. In stages 3 to 5 of bring-up the module only reports (R665; log 96). A
frame of another ORDER than its row's, or one that is not valid, is not that row's. -/
def Obligations.FramesCount : Prop :=
  (∀ (s : State) (f : BitVec 128) (e : Sense) (k : Nat) (i : Instr),
    (k = 0 ∧ i = .beatsyncRun f e) ∨ (k = 1 ∧ i = .beatsyncHold f e) ∨ (k = 2 ∧ i = .beatsyncResume f e) →
    let q := frameOf f
    ((s.takesFrames = false ∧ s.reportsAlone = false) ∨ frameValid f = false ∨ q.order ≠ k → exec i s = .next s)
    ∧ (s.takesFrames = false → s.reportsAlone = true → frameValid f = true → q.order = k → s.cool e → ∃ t, exec i s = .next (s.after t)
      ∧ t.beat.locked = s.beat.locked ∧ t.beat.valid = s.beat.valid ∧ t.beat.boundaries = s.beat.boundaries + 1 ∧ (s.calm e → t.beat.report = t.reportFrame)
      ∧ t.pow.bringup = s.pow.bringup ∧ t.rt = s.rt ∧ t.cl = s.cl)
    ∧ (s.takesFrames = true → frameValid f = true → q.order = k → s.cool e →
      (s.beat.locked = false → s.beat.valid + 1 < 8 → ∃ t, exec i s = .next (s.after t)
        ∧ t.beat.locked = false ∧ t.beat.valid = s.beat.valid + 1 ∧ t.beat.invalid = 0 ∧ t.beat.frame = f ∧ t.beat.order = s.beat.order
        ∧ t.beat.bar = s.beat.bar ∧ t.beat.beat = s.beat.beat ∧ t.beat.setting = s.beat.setting
        ∧ t.beat.boundaries = s.beat.boundaries + 1 ∧ t.pow.bringup = s.pow.bringup ∧ t.rt = s.rt ∧ t.cl = s.cl ∧ t.bank = s.bank)
      ∧ (s.beat.locked = false → s.beat.valid = 7 → s.resting → ∀ j, j = i ∨ j = .beatLock f e → ∃ t, exec j s = .next (s.after t)
        ∧ t.beat.locked = true ∧ t.beat.valid = 8 ∧ t.beat.invalid = 0 ∧ t.beat.frame = f ∧ atFrame s t q
        ∧ (s.pow.bringup = 6 → t.pow.bringup = 7) ∧ t.beat.setting.toNat = q.setting)
      ∧ (s.beat.locked = true → s.resting → ∃ t, exec i s = .next (s.after t)
        ∧ t.beat.locked = true ∧ t.beat.valid = min 8 (s.beat.valid + 1) ∧ t.beat.invalid = 0 ∧ t.beat.frame = f ∧ atFrame s t q
        ∧ (∀ a, s.beat.announced = some a → k = 0 → q.beat = 0 → q.bar % 65536 = a.2 → t.beat.setting = BitVec.ofNat 2 a.1)
        ∧ (k ≠ 0 ∨ q.beat ≠ 0 ∨ (∀ a, s.beat.announced = some a → q.bar % 65536 ≠ a.2) → t.beat.setting = s.beat.setting)
        ∧ (q.next ≠ 0 → q.nextBar ≠ q.bar % 65536 → t.beat.announced = some (q.next, q.nextBar))
        ∧ t.running = false)))
  ∧ ∀ (s : State) (f : BitVec 128) (e : Sense), s.takesFrames = false ∨ frameValid f = false ∨ s.beat.locked = true ∨ s.beat.valid ≠ 7 →
      exec (.beatLock f e) s = .next s

/-- R43, R45: an invalid or untimely frame is replaced by the predicted one, which is a boundary as if it had come; the fourth in a row under
lock is an ensemble fault whose detail is the last valid frame: beat lock is lost, the module asks for hold with CAUSE FAULT, and an
invocation ends with abort class 5. -/
def Obligations.InvalidFrames : Prop :=
  (∀ (s : State) (f : BitVec 128) (onTime : Bool) (e : Sense) (i : Instr),
    i = .beatsyncInvalidFrame f onTime e ∨ (i = .invalidFrameLimit f onTime e ∧ s.beat.invalid = 3) →
    ((s.takesFrames = false ∧ s.reportsAlone = false) ∨ (frameValid f = true ∧ onTime = true) → exec i s = .next s)
    ∧ (s.takesFrames = false → exec (.invalidFrameLimit f onTime e) s = .next s)
    ∧ (s.takesFrames = true → frameValid f = false ∨ onTime = false → s.cool e →
      (s.beat.locked = false → ∃ t, exec i s = .next (s.after t) ∧ t.beat.locked = false ∧ t.beat.invalid = s.beat.invalid + 1
        ∧ t.beat.valid = 0 ∧ t.beat.frame = s.beat.frame ∧ t.beat.order = s.beat.order ∧ t.beat.bar = s.beat.bar ∧ t.beat.beat = s.beat.beat
        ∧ t.beat.boundaries = s.beat.boundaries + 1 ∧ t.rt = s.rt ∧ t.cl = s.cl)
      ∧ (s.beat.locked = true → s.beat.invalid ≠ 3 → s.resting → ∃ t, exec i s = .next (s.after t) ∧ atFrame s t s.predicted
        ∧ t.beat.locked = true ∧ t.beat.invalid = s.beat.invalid + 1 ∧ t.beat.valid = 0 ∧ t.beat.frame = s.beat.frame)
      ∧ (s.beat.locked = true → s.beat.invalid = 3 → ∃ t, exec i s = .next (s.after t) ∧ t.beat.locked = false ∧ t.beat.valid = 0
        ∧ t.beat.holdReq = true ∧ t.beat.cause = 6 ∧ t.running = false
        ∧ (s.running = true → t.rt.abortClass = 5 ∧ t.rt.faultReport = true)
        ∧ (s.aloneIn s.nowCtx → ∃ r ∈ t.errs, r.cls = 5 ∧ r.cause = 0x0B ∧ r.seq = s.errSeq.toNat
            ∧ r.detail = padTo 32 (leBytes 16 s.beat.frame.toNat)))))
  ∧ ∀ (s : State) (f : BitVec 128) (onTime : Bool) (e : Sense), s.beat.invalid ≠ 3 → exec (.invalidFrameLimit f onTime e) s = .next s

/-- R46, R59, R61-R63, R69, R95, R588, R589, R635, R637, R638: an exceeded safe setting raises hold with CAUSE PROTECT at the third bar; a hold that
reaches a domain stops it, and the earliest beat at which one stands is reported; an abort at the bar, and a STOP in a hold, end the invocation and report a fault;
a STOP at any other time is asked for; a draining cluster drains at a bar boundary and is fenced at the next, or is ACTIVE again there where no
routine runs and COMMANDED is 1. -/
def Obligations.HoldsStopsAndDrains : Prop :=
  (∀ (s : State) (r : Fin 8),
    ((s.monN r).below = none ∨ s.beat.order ≠ 0 ∨ (∃ b, (s.monN r).below = some b ∧ barGap b s.beat.bar.toNat < 3)
        ∨ s.beat.setting.toNat ≤ (s.monN r).safe.toNat ∨ s.beat.live.contains { cause := 5, who := 50 } = true →
      exec (.safeSettingDeadline r) s = .next s)
    ∧ ∀ b, (s.monN r).below = some b → s.beat.order = 0 → 3 ≤ barGap b s.beat.bar.toNat → (s.monN r).safe.toNat < s.beat.setting.toNat →
        s.beat.live.contains { cause := 5, who := 50 } = false → ∃ t, exec (.safeSettingDeadline r) s = .next (s.after t)
        ∧ t.beat.holdReq = true ∧ t.beat.lastCause = 5 ∧ (s.beat.holdReq = false → t.beat.cause = 5)
        ∧ t.beat.live.contains { cause := 5, who := 50 } = true
        ∧ (∀ d, d < 10 → t.domN d = { s.domN d with stopPend := true })
        ∧ (∀ l, l < 16 → (t.link l).holdTx = true) ∧ t.cl = s.cl ∧ t.rt = s.rt)
  ∧ (∀ (s : State) (d : Fin 10),
    ((s.beat.holdReq = false ∧ s.beat.order = 0 ∧ (s.domN d).stopPend = false) ∨ (s.domN d).stopped = true →
      exec (.regionStop d) s = .next s)
    ∧ (s.beat.holdReq = true ∨ s.beat.order ≠ 0 ∨ (s.domN d).stopPend = true → (s.domN d).stopped = false → (s.domN d).evs = [] → (s.domN d).handed = [] →
      (d.val < 8 → ∀ n ∈ s.ofRegion d, (s.clus n).mx.q = []) → ∃ t, exec (.regionStop d) s = .next (s.after t)
        ∧ t.domN d = { s.domN d with stopped := true, stopPend := false, waited := 0 } ∧ (∀ e, e ≠ d.val → t.domN e = s.domN e) ∧ t.cl = s.cl))
  ∧ (∀ s : State, (∃ d, d < 10 ∧ s.frozenAt = ((s.domN d).bar, (s.domN d).beat))
    ∧ ∀ e, e < 10 → beatGap s.rt.firstBar s.frozenAt.1 s.frozenAt.2 ≤ beatGap s.rt.firstBar (s.domN e).bar (s.domN e).beat)
  ∧ (∀ s : State,
    (s.rt.abortAt = none ∨ s.running = false ∨ (s.frozen = false ∧ s.beat.order ≠ 0)
        ∨ (s.frozen = false ∧ ∃ a, s.rt.abortAt = some a ∧ barGap s.rt.firstBar s.beat.bar.toNat ≤ barGap s.rt.firstBar a.1) → exec .abortAtBar s = .next s)
    ∧ ∀ n loc, s.rt.abortAt = some (n, loc) → s.running = true → s.frozen = true ∨ (s.beat.order = 0 ∧ barGap s.rt.firstBar n < barGap s.rt.firstBar s.beat.bar.toNat) →
      ∃ t, exec .abortAtBar s = .next (s.after t) ∧ t.rt.runState = 0 ∧ t.rt.abortClass = 3 ∧ t.rt.abortBar = BitVec.ofNat 40 n
        ∧ t.rt.faultReport = true ∧ t.rt.faultAcked = false ∧ t.rt.abortAt = none ∧ t.beat.holdReq = true ∧ t.beat.cause = 6
        ∧ (∀ d, d < 10 → (t.domN d).stopped = true ∧ (t.domN d).words = false ∧ (t.domN d).evs = [])
        ∧ (∀ m, m < 48 → (t.clus m).caller.waits = [] ∧ (t.clus m).mx.q = [] ∧ (t.clus m).staging = [] ∧ (t.clus m).floor = (s.clus m).floor)
        ∧ t.acks = [] ∧ t.bulks = [])
  ∧ (∀ (s : State) (n : Fin 48),
    (tGet s.actual n ≠ some 7 → exec (.clusterDrained n) s = .next s)
    ∧ (tGet s.actual n = some 7 → ∃ t, exec (.clusterDrained n) s = .next (s.after t) ∧ tGet t.actual n = some 2
        ∧ (∀ m, m ≠ n.val → tGet t.actual m = tGet s.actual m)
        ∧ t.clus n = { s.clus n with caller := { (s.clus n).caller with waits := [] } } ∧ (∀ m, m ≠ n.val → t.clus m = s.clus m)
        ∧ t = { s with actual := t.actual, cl := t.cl })
    ∧ (tGet s.actual n ≠ some 3 ∨ s.beat.order ≠ 0 ∨ s.beat.beat ≠ 0 → exec (.clusterFenceDisable n) s = .next s)
    ∧ (tGet s.actual n = some 3 → s.beat.order = 0 → s.beat.beat = 0 → ∃ t, exec (.clusterFenceDisable n) s = .next (s.after t)
        ∧ t.actual = (if s.running = false ∧ s.base (0x8000 + n) 1 1 = 1 then tDel s.actual n else tPut s.actual n 4) ∧ t.cl = s.cl ∧ t.rt = s.rt ∧ t.beat = s.beat ∧ t.dom = s.dom))
  ∧ ∀ (s : State) (arg : BitVec 32),
    (arg ≠ 0 ∨ s.running = false → exec (.stop arg) s = .next s)
    ∧ (arg = 0 → s.running = true →
      (s.frozen = false ∨ s.beat.inHold = false →
        exec (.stop arg) s = .next (s.after { s with rt := { s.rt with stopAsked := true } }))
      ∧ (s.frozen = true → s.beat.inHold = true → ∃ t, exec (.stop arg) s = .next (s.after t)
        ∧ t.rt.runState = 0 ∧ t.rt.abortClass = 0 ∧ t.rt.faultReport = true ∧ t.beat.holdReq = true ∧ t.beat.cause = 6
        ∧ ∀ m, m < 48 → (t.clus m).caller.waits = [] ∧ (t.clus m).mx.q = [] ∧ (t.clus m).floor = (s.clus m).floor))

/-! ## The step stream -/

/-- R61, R79-R81, R84, R85, R101: a STEP record issues one step cycle and hands its commands to their callers; a REST record issues its count of
cycles, as far as the beat still delivers them, with no command, each a step boundary of its own; nothing else changes, but that the reads of Y
ahead of the deliveries of an MDRAIN that is handed over are named (R194, log 99). In a cycle in which a wait has reached its release
without its condition, the domain issues nothing, and the stalled cycle counts for every such wait (R50, R285). -/
def Obligations.StepAndRestRecords : Prop :=
  (∀ (s : State) (d : Fin 10) (c : Cursor), (s.domN d).head = some c →
    let x := s.domN d
    (s.unhindered d 1 → s.kindAt c = 1 → ∃ t h, exec (.stepRecord d) s = .next (s.after t)
      ∧ t.domN d = { x with nt := x.nt + 1, cyc := x.cyc + 1, left := x.left - 1, head := some h, handed := (t.domN d).handed, waited := 0
                            evs := (t.domN d).evs }
      ∧ h.pc = c.pc + 1 + bits (s.rtWord c.pc) 47 32 ∧ h.reps = c.reps ∧ h.rest = c.rest ∧ h.beats = c.beats
      ∧ (t.domN d).handed.map (fun g => (g.ctx.pbit, g.len, g.ctx.op, g.cw)) = (s.tick c).1.filter (fun g => s.ownSlot d g.1)
      ∧ (∀ g ∈ (t.domN d).handed, g.ctx.t = x.nt ∧ g.ctx.bar = x.bar ∧ g.ctx.beat = x.beat ∧ g.ctx.cyc = x.cyc ∧ g.ctx.step = c.pc
          ∧ g.ctx.seg = x.seg ∧ g.ctx.run = x.run ∧ g.ctx.idx = c.idx)
      ∧ (∀ e, e ≠ d.val → t.domN e = s.domN e) ∧ t = { s with dom := t.dom, cl := t.cl }
      ∧ ((∀ g ∈ (t.domN d).handed, ¬ (g.ctx.pbit < 192 ∧ g.ctx.pbit % 4 = 0 ∧ g.ctx.op = 4)) → (t.domN d).evs = [] ∧ t.cl = s.cl)
      ∧ (∀ e ∈ (t.domN d).evs, ∃ n, e.k = .vxRead n ∨ e.k = .figStart n)
      ∧ ∀ n, t.clus n = { s.clus n with vx := { (s.clus n).vx with ahead := (t.clus n).vx.ahead, figs := (t.clus n).vx.figs } })
    ∧ (s.kindAt c = 2 →
      let n := max 1 (if c.rest = 0 then bits (s.rtWord c.pc) 15 0 else c.rest)
      ∀ cycles, 0 < cycles →
      let k := min cycles (min n x.left)
      s.unhindered d k → ∃ t, exec (.restRecord (d, cycles)) s = .next (s.after t)
      ∧ t.domN d = { x with nt := x.nt + k, cyc := x.cyc + k, left := x.left - k, waited := 0
                            head := some (if k = n then { c with pc := c.pc + 1, rest := 0 } else { c with rest := n - k }) }
      ∧ (∀ e, e ≠ d.val → t.domN e = s.domN e) ∧ t = { s with dom := t.dom }))
  ∧ (∀ (s : State) (d : Fin 10), s.mayIssue d = false → exec (.stepRecord d) s = .next s ∧ ∀ cycles, exec (.restRecord (d, cycles)) s = .next s)
  ∧ ∀ (s : State) (d : Fin 10) (c : Cursor), s.mayIssue d = true → (s.domN d).evs = [] → (s.domN d).handed = [] → (s.domN d).stopPend = false →
    (8 ≤ d.val → ∀ l, (s.link l).sending = []) → (s.domN d).tailc = none → (s.domN d).head = some c → s.kindAt c = 1 →
    (∀ w ∈ s.callersOf d, (s.caller w).fence = none ∧ ∀ q ∈ (s.caller w).waits, q.r ≤ (s.domN d).nt → s.waitReady w q.form = false) →
    (∃ w ∈ s.callersOf d, ∃ q ∈ (s.caller w).waits, q.r ≤ (s.domN d).nt) →
    ∃ t, exec (.stepRecord d) s = .next (s.after t)
      ∧ t.domN d = { s.domN d with left := (s.domN d).left - 1, stalls := (s.domN d).stalls + 1, waited := (s.domN d).waited + 1 }
      ∧ (∀ w ∈ s.callersOf d, (t.caller w).waits =
          (s.caller w).waits.map fun q => if q.r ≤ (s.domN d).nt then { q with stalls := q.stalls + 1 } else q)
      ∧ ∀ e, e ≠ d.val → t.domN e = s.domN e

/-- R84, R86, R87, R91, R92, R94: a BEAT record ends the step words of its beat, and at the last beat of a segment's run the next run begins that R91
names, with the tail of the run that ends to merge, or that tail is the routine's last, also where a STOP ends the routine with this run (R95);
without one the bar of the routine's last step is noted. The
sequencer of a die reads the records of its next beat, which moves nothing but its buffer and the count of bursts where no burst is wrong. OPEN begins a repeat body with its index at 0, and CLOSE returns to its start until every iteration has run. -/
def Obligations.BeatsAndRepeats : Prop :=
  ∀ (s : State) (d : Fin 10),
    let x := s.domN d
    let only := fun (t : State) (y : Dom) => t.domN d = { y with buffer := (t.domN d).buffer } ∧ (d.val < 8 → (t.domN d).buffer = x.buffer)
      ∧ (∀ e, e ≠ d.val → t.domN e = s.domN e)
      ∧ t = { s with dom := t.dom, rt := t.rt, bankUse := t.bankUse, counters := t.counters }
      ∧ (d.val < 8 → t.bankUse = s.bankUse ∧ t.counters = s.counters)
    (s.running = false ∨ s.atBeat d = false → exec (.beatRecord d) s = .next s)
    ∧ (∀ c, s.running = true → x.words = true → x.last = false → x.tailc = none → x.head = some c → s.kindAt c = 3 →
      (8 ≤ d.val → s.bankErr = [] ∧ ∀ l, (s.link l).sending = []) →
      let h : Cursor := { c with pc := c.pc + 1, beats := c.beats + 1 }
      let tail := if s.rt.hdr.overlap = 0 then none else some (startAt (s.segN x.seg).tail)
      (h.beats ≠ 64 * (s.segN x.seg).bars → ∃ t, exec (.beatRecord d) s = .next (s.after t)
        ∧ only t { x with words := false, head := some h } ∧ t.rt = s.rt)
      ∧ (h.beats = 64 * (s.segN x.seg).bars → s.rt.stopping = false ∨ x.runNo < s.rt.stopAt →
        (∀ g r l, s.nextRun x.seg x.segRun x.loops = some (g, r, l) → ∃ t, exec (.beatRecord d) s = .next (s.after t)
          ∧ only t { x with words := false, head := some (startAt (s.segN g).body), tailc := tail, tseg := x.seg, trun := x.run
                            runNo := x.runNo + 1, seg := g, segRun := r, loops := l, run := s.runOf g r l }
          ∧ t.rt = s.rt)
        ∧ (s.nextRun x.seg x.segRun x.loops = none → ∃ t, exec (.beatRecord d) s = .next (s.after t)
          ∧ only t { x with words := false, head := none, tailc := tail, tseg := x.seg, trun := x.run, runNo := x.runNo + 1
                            last := s.rt.hdr.overlap == 0 }
          ∧ t.rt = { s.rt with resumeAt := (0, 0)
                               lastBar := if s.rt.hdr.overlap = 0 then some (s.rt.lastBar.getD x.bar) else s.rt.lastBar }))
      ∧ (h.beats = 64 * (s.segN x.seg).bars → s.rt.stopping = true → s.rt.stopAt ≤ x.runNo → ∃ t, exec (.beatRecord d) s = .next (s.after t)
          ∧ only t { x with words := false, head := none, tailc := tail, tseg := x.seg, trun := x.run, runNo := x.runNo + 1
                            last := s.rt.hdr.overlap == 0 }
          ∧ t.rt = { s.rt with resumeAt := match s.nextRun x.seg x.segRun x.loops with
                                | some (g, r, l) => (g, s.runOf g r l)
                                | none => (0, 0)
                               lastBar := if s.rt.hdr.overlap = 0 then some (s.rt.lastBar.getD x.bar) else s.rt.lastBar }))
    ∧ (∀ i k, (i = .openRecord d ∧ k = 4) ∨ (i = .closeRecord d ∧ k = 5) →
      (s.running = false ∨ x.words = false ∨ (x.head.any (fun c => s.kindAt c == k) = false ∧ x.tailc.any (fun c => s.kindAt c == k) = false) →
        exec i s = .next s)
      ∧ ∀ c, s.running = true → x.words = true → x.head = some c → s.kindAt c = k →
        ∃ t h, exec i s = .next (s.after t) ∧ t.domN d = { x with head := some h }
          ∧ (∀ e, e ≠ d.val → t.domN e = s.domN e) ∧ t = { s with dom := t.dom }
          ∧ (k = 4 → h = { c with pc := c.pc + 1, reps :=
              { idx := bits (s.rtWord c.pc) 59 58, start := c.pc + 1, left := bits (s.rtWord c.pc) 15 0, j := 0 } :: c.reps })
          ∧ (k = 5 → ∀ r rest, c.reps = r :: rest →
              (r.left = 0 → h = { c with pc := c.pc + 1, reps := rest })
              ∧ (r.left ≠ 0 → h = { c with pc := r.start, reps := { r with left := r.left - 1, j := r.j + 1 } :: rest })))

/-- R94, R103, R143, R227, R251, R457, R574, R655: an armed routine begins at the RUN frame that opens beat 0 of its bar: registers, tickets,
queues, STEP and cues start fresh, the floor holds zeros outside resident sets (where no word waits for a scrubber's write-back), and every domain opens its first beat at the start of the
armed run with the nominal cycles of the setting. It ends once every effect has taken place: nothing of it is left, and, where no read of a bar's
record is lost, the run to go on from stands in the dictionary. -/
def Obligations.RoutineBeginsAndEnds : Prop :=
  (∀ s : State,
    (s.rt.runState ≠ 1 ∨ s.beat.locked = false ∨ s.beat.order ≠ 0 ∨ s.beat.beat ≠ 0 ∨ s.beat.bar.toNat ≠ s.rt.armedBar →
      exec .routineBegin s = .next s)
    ∧ (s.rt.runState = 1 → s.beat.locked = true → s.beat.order = 0 → s.beat.beat = 0 → s.beat.bar.toNat = s.rt.armedBar → s.bankErr = [] →
      ∃ t, exec .routineBegin s = .next (s.after t) ∧ t.rt.runState = 2 ∧ t.rt.invocations = s.rt.invocations + 1
        ∧ t.rt.firstBar = s.rt.armedBar ∧ t.skips = [] ∧ t.hazards = [] ∧ t.acks = [] ∧ t.bulks = [] ∧ t.bank = s.bank
        ∧ (∀ w, t.caller w = {})
        ∧ (∀ n, n < 48 → (t.clus n).tickets = 1 ∧ (t.clus n).stepReg = 0 ∧ (t.clus n).mx = {} ∧ (t.clus n).cues = [] ∧ (t.clus n).tallies = []
            ∧ (t.clus n).staging = [] ∧ (t.clus n).fenced = (s.clus n).fenced
            ∧ ((s.clus n).scrub = [] → ∀ a, readByte (t.clus n).floor a = if s.keepsByte n a then readByte (s.clus n).floor a else 0))
        ∧ (∀ d, d < 10 → (t.domN d).words = true ∧ (t.domN d).left = nominal s.beat.setting.toNat ∧ (t.domN d).cyc = 0
            ∧ (t.domN d).bar = s.rt.armedBar ∧ (t.domN d).beat = 0 ∧ (t.domN d).seg = s.rt.armedSeg ∧ (t.domN d).run = s.rt.armedRun
            ∧ (t.domN d).head = some (startAt (s.segN s.rt.armedSeg).body) ∧ (t.domN d).stopped = false)
        ∧ ∀ l, l < 16 → (t.link l).txSeq = 0 ∧ (t.link l).rxSeen = 0 ∧ (t.link l).replay = [] ∧ (t.link l).st = (s.link l).st))
  ∧ ∀ s : State,
    (s.running = false → exec .routineEnd s = .next s)
    ∧ (s.running = true → (∀ d, d < 10 → s.quiet d) →
      (s.effectsPending = true → exec .routineEnd s = .next s)
      ∧ (s.effectsPending = false → ∃ t, exec .routineEnd s = .next (s.after t) ∧ t.running = false
        ∧ (s.bankErr = [] → t.rt.runState = 4 ∧ t.base 0x1320 1 0 = s.rt.resumeAt.1 ∧ t.base 0x1320 2 0 = s.rt.resumeAt.2) ∧ t.acks = [] ∧ t.bulks = [] ∧ t.isu.busy = none
        ∧ ∀ n, n < 48 → (t.clus n).caller.waits = [] ∧ (t.clus n).unacked = [] ∧ (t.clus n).staging = []
            ∧ (t.clus n).floor = (s.clus n).floor))

/-! ## Resident sets -/

/-- R258, R259, R261, R262, R265, R592, R612, R631: with input power, a write to a field of an EMPTY set that keeps the ranges sets that field; LOAD of a set that is EMPTY, FAILED or
UNSETTLED makes it LOADING, and at its end SETTLED with the SM3 of its shards, or FAILED; RECORD makes a DIRTY set SETTLED with its new
digest; VERIFY keeps a set whose digest holds and fails another; CLEAR zeroes the range in every member and empties the set. Reading the
shards changes nothing of the set but that an uncorrectable word makes it FAILED. A command that is refused changes nothing. -/
def Obligations.ResidentSets : Prop :=
  ∀ (s : State) (k : Fin 64) (sub : BitVec 8) (v : BitVec 64) (arg : BitVec 32),
    let r := s.resident k
    let read := (s.readShards r).2.resident k
    let only := fun (t : State) (q : Resident) => t.resident k = q ∧ (∀ j, j ≠ k.val → t.resident j = s.resident j) ∧ t = { s with residents := t.residents }
    ((s.pow.on && [2, 3, 4, 5, 6, 9].contains sub.toNat && s.residentOk k sub.toNat v.toNat) = false → exec (.residentSetWrite k sub v) s = .next s)
    ∧ (s.pow.on = true → [2, 3, 4, 5, 6, 9].contains sub.toNat = true → s.residentOk k sub.toNat v.toNat = true →
        ∃ t, exec (.residentSetWrite k sub v) s = .next (s.after t) ∧ only t (r.put sub.toNat v.toNat))
    ∧ (s.pow.on = false ∨ arg ≠ 0 ∨ s.loadSetOk k = false → exec (.residentLoad k arg) s = .next s)
    ∧ (s.pow.on = true → arg = 0 → s.loadSetOk k = true → ∃ t, exec (.residentLoad k arg) s = .next (s.after t)
        ∧ only t { r with action := if r.state = .unsettled then 4 else 1, state := .loading })
    ∧ (∀ i m ok, (i = .residentRecord k arg ∧ m = 2 ∧ ok = s.recordSetOk k) ∨ (i = .residentVerify k arg ∧ m = 3 ∧ ok = s.verifySetOk k) →
        (s.pow.on = false ∨ arg ≠ 0 ∨ ok = false → exec i s = .next s)
        ∧ (s.pow.on = true → arg = 0 → ok = true → ∃ t, exec i s = .next (s.after t) ∧ only t { r with action := m }))
    ∧ (s.running = true ∨ (r.action ≠ 1 ∧ r.action ≠ 4) → exec (.residentLoadDone k) s = .next s)
    ∧ (s.running = false → r.action = 1 ∨ r.action = 4 →
        ((s.copyShards r).1 = none → ∃ t, exec (.residentLoadDone k) s = .next (s.after t) ∧ t.resident k = { r with state := .failed, action := 0 })
        ∧ ∀ b, (s.copyShards r).1 = some b → ∃ t, exec (.residentLoadDone k) s = .next (s.after t)
          ∧ t.resident k = { r with state := if r.action = 1 ∨ sm3 b = r.digest then .settled else .failed, digest := sm3 b, action := 0 })
    ∧ (s.running = true ∨ r.action ≠ 2 → exec (.residentRecordDone k) s = .next s)
    ∧ (s.running = false → r.action = 2 → ∃ t, exec (.residentRecordDone k) s = .next (s.after t) ∧ t.resident k =
        { read with state := if read.state = .dirty then .settled else read.state, digest := sm3 (s.readShards r).1, action := 0 })
    ∧ (s.running = true ∨ r.action ≠ 3 → exec (.residentVerifyDone k) s = .next s)
    ∧ (s.running = false → r.action = 3 → ∃ t, exec (.residentVerifyDone k) s = .next (s.after t) ∧ t.resident k =
        { read with state := if sm3 (s.readShards r).1 = r.digest then read.state else .failed, action := 0 })
    ∧ read.digest = r.digest ∧ read.action = r.action ∧ (read.state = r.state ∨ read.state = .failed)
    ∧ ((∀ n, n < 48 → (s.clus n).upsets = []) → read = r)
    ∧ (s.pow.on = false ∨ arg ≠ 0 ∨ s.running = true → exec (.residentClear k arg) s = .next s)
    ∧ (s.pow.on = true → arg = 0 → s.running = false → ∃ t, exec (.residentClear k arg) s = .next (s.after t)
        ∧ t.resident k = { r with state := .empty, rotation := 0, digest := 0, action := 0, turned := 0 }
        ∧ (∀ n, n < 48 → ∀ a, readByte (t.clus n).floor a =
            if r.members.getLsbD n = true ∧ r.base.toNat ≤ a ∧ a < r.base.toNat + r.length.toNat then 0 else readByte (s.clus n).floor a)
        ∧ t = { s with cl := t.cl, residents := t.residents })

/-! ## Partner links -/

/-- R362, R453, R454, R456, R457, R459, R464-R466, R471: a wire slot that touches an uncorrectable codeword counts as one that fails its CRC. A DATA
flit takes the sequence that its ALIVE names; if its OPEN is known and its positions are free, it lands its granules as plaintext, and sequences
that it skips are listed as missing; a repeat is only counted; one that fails its CRC in a data slot lists the sequence after the highest one
received. A REPLAY flit lands as the lowest missing sequence, or is rejected and counted. An IDLE flit carries nothing but HOLD. With the last wire
slot what the frame carried and did not arrive is missing. A beat block gives the neighbour and SEQ_END, and lists likewise; one that fails its CRC is
discarded. A link that is not UP receives nothing. -/
def Obligations.FlitsAndBlocks : Prop :=
  ∀ (s : State) (l : Fin 16) (head : BitVec 48) (body block : Bytes) (fec fec0 fec1 : Fec),
    let kind := bits head.toNat 1 0
    let alive := bits head.toNat 15 8
    let p := (s.takeSlotCw l fec).2
    let k := p.link l
    let ok := flitOk head body (s.takeSlotCw l fec).1
    let others := fun (t : State) => ∀ m, m ≠ l.val → t.link m = s.link m
    let lands := fun (t : State) (q : Nat) (x : Xfr) =>
      (∀ g, g ∈ t.landed (l.val / 8) ↔ g ∈ s.landed (l.val / 8) ∨ ∃ a ∈ x.places l q,
          g = { pos := a.1, data := ((linkCrypt k.rxKey q body).drop (64 * a.2)).take 64, kd := x.kd }) ∧ others t ∧ t.cl = s.cl ∧ t.dom = s.dom
    let counted := fun (t : State) (sub : Nat) => (tGet t.counters ((0x9080 + l.val) * 256 + sub)).getD 0
        = BitVec.ofNat 64 (min (((tGet s.counters ((0x9080 + l.val) * 256 + sub)).getD 0).toNat + 1) (2 ^ 64 - 1))
    (∀ i n, (i = .flitData l head body fec ∧ n = 1) ∨ (i = .flitReplay l head body fec ∧ n = 2) ∨ (i = .flitIdle l head body fec ∧ n = 0) →
      (s.link l).st ≠ .up ∨ kind ≠ n → exec i s = .next s)
    ∧ (let o := s.link l
       let first := codewordOf (644 + 262 * o.rxSlot)
       let last := codewordOf (644 + 262 * o.rxSlot + 261)
       ((s.takeSlotCw l fec).1 = true ↔ (first < o.cwSeen ∧ o.cwBad = true) ∨ (o.cwSeen ≤ last ∧ fec = .uncorrectable))
       ∧ (o.cwSeen ≤ last → fec = .uncorrectable → 64 ≤ o.badCw + 1 → o.st = .up → k.st = .retrain)
       ∧ (o.st = .up → fec ≠ .uncorrectable ∨ o.badCw + 1 < 64 → 
           k = { o with rxSlot := o.rxSlot + 1, cwSeen := max o.cwSeen (last + 1), cwBad := k.cwBad, badCw := k.badCw }))
    ∧ ((s.link l).st = .up → k.st = .up → k.rxSlot ≠ 488 →
      (kind = 1 →
        (∀ x, ok = true → head.getLsbD 2 = false → (aliveCheck k.rxLast (BitVec.ofNat 8 alive)).1 = false →
          let q := k.seqOf alive
          k.rxFull ≤ q ∨ q ∈ k.missing → k.openOf q = some x → p.landable l x q = true → x.landed + (x.places l q).length ≠ x.count →
          ∃ t, exec (.flitData l head body fec) s = .next (s.after t) ∧ lands t q x
            ∧ (∀ y, y ∈ (t.link l).missing ↔ (y ∈ k.missing ∨ (k.rxFull ≤ y ∧ y < q)) ∧ y ≠ q)
            ∧ (t.link l).rxSeen = BitVec.ofNat 32 (max k.rxFull (q + 1)) ∧ (t.link l).rxBase = q + 1 ∧ (t.link l).rxLast = BitVec.ofNat 8 alive
            ∧ (t.link l).holdRx = false)
        ∧ (ok = true → head.getLsbD 2 = false →
            (aliveCheck k.rxLast (BitVec.ofNat 8 alive)).1 = true ∨ (k.seqOf alive < k.rxFull ∧ k.seqOf alive ∉ k.missing) →
          ∃ t, exec (.flitData l head body fec) s = .next (s.after t) ∧ t.link l = { k with holdRx := false } ∧ others t ∧ t.landing = s.landing
            ∧ counted t 4 ∧ t = { s with links := t.links, counters := t.counters })
        ∧ (ok = false → ∃ t, exec (.flitData l head body fec) s = .next (s.after t)
            ∧ (k.rxSlot % 61 = 0 → t.link l = k)
            ∧ (k.rxSlot % 61 ≠ 0 → k.rxFull ∈ (t.link l).missing ∧ (∀ y ∈ k.missing, y ∈ (t.link l).missing)
                ∧ (t.link l).rxSeen = BitVec.ofNat 32 (k.rxFull + 1) ∧ (t.link l).rxBase = k.rxBase ∧ (t.link l).rxLast = k.rxLast)
            ∧ others t ∧ counted t 3 ∧ t = { s with links := t.links, counters := t.counters }))
      ∧ (kind = 2 →
        (∀ q rest x, k.missing = q :: rest → ok = true → head.getLsbD 2 = false → alive = q % 256 → k.openOf q = some x →
          p.landable l x q = true → x.landed + (x.places l q).length ≠ x.count →
          ∃ t, exec (.flitReplay l head body fec) s = .next (s.after t) ∧ lands t q x ∧ (∀ y, y ∈ (t.link l).missing ↔ y ∈ k.missing ∧ y ≠ q)
            ∧ (t.link l).rxSeen = k.rxSeen ∧ (t.link l).rxBase = k.rxBase)
        ∧ (ok = false ∨ k.missing = [] ∨ k.missing.head?.any (fun q => alive != q % 256) = true → head.getLsbD 2 = false →
          ∃ t, exec (.flitReplay l head body fec) s = .next (s.after t) ∧ (t.link l).missing = k.missing ∧ t.landing = s.landing ∧ others t
            ∧ counted t 6))
      ∧ (kind = 0 → ∃ t, exec (.flitIdle l head body fec) s = .next (s.after t)
        ∧ (ok = true → (t.link l).holdRx = head.getLsbD 2
            ∧ (head.getLsbD 2 = true → ∀ d, d < 10 → (t.domN d).stopped = false → (t.domN d).stopPend = true)
            ∧ (head.getLsbD 2 = false → t.link l = { k with holdRx := false } ∧ others t ∧ t.dom = s.dom))
        ∧ (ok = false → t.link l = k ∧ counted t 3 ∧ t = { s with links := t.links, counters := t.counters }) ∧ t.landing = s.landing))
    ∧ ((s.link l).st = .up → k.st = .up → k.rxSlot = 488 → kind = 0 → ok = true → head.getLsbD 2 = false →
      ∃ t, exec (.flitIdle l head body fec) s = .next (s.after t)
        ∧ (∀ e, k.rxEnd = some e → ∀ y, k.rxFull ≤ y → y < e → y ∈ (t.link l).missing) ∧ (∀ y ∈ k.missing, y ∈ (t.link l).missing) ∧ others t)
    ∧ ((s.link l).st ≠ .up → exec (.beatBlock l block (fec0, fec1)) s = .next s)
    ∧ (let o := s.link l
       let e := fullNear o.listEnd.rxFull (recField block 0x0B 4)
       let whole := block.length == 644 && recField block 0 2 == 0x4C52 && (crc32c (block.take 0x280)).toNat == recField block 0x280 4
       o.st = .up → fec0 ≠ .uncorrectable → fec1 ≠ .uncorrectable →
      (whole = false → ∃ t, exec (.beatBlock l block (fec0, fec1)) s = .next (s.after t)
        ∧ t.link l = { o.listEnd with rxSlot := 0, cwSeen := 2, cwBad := false, prevEnd := o.rxEnd, rxEnd := none } ∧ others t
        ∧ counted t 3 ∧ t = { s with links := t.links, counters := t.counters })
      ∧ (whole = true → (recField block 2 1).testBit 0 = false → o.tags.length < 16 →
        (∀ j, j < 38 → recField block (16 + 16 * j) 1 = 0 ∨ 3 < recField block (16 + 16 * j) 1) →
        ∃ t, exec (.beatBlock l block (fec0, fec1)) s = .next (s.after t)
          ∧ (t.link l).neighbour = BitVec.ofNat 10 (recField block 9 2) ∧ (t.link l).holdRx = false ∧ (t.link l).rxSlot = 0
          ∧ (t.link l).rxEnd = some e ∧ (t.link l).prevEnd = (if (recField block 2 1).testBit 3 then o.rxEnd else some e)
          ∧ (∀ a b, o.prevEnd = some a → o.rxEnd = some b →
              (t.link l).tags = o.tags ++ [(a, b, BitVec.ofNat 128 (leNat ((block.drop 0x270).take 16)))])
          ∧ (o.prevEnd = none ∨ o.rxEnd = none → (t.link l).tags = o.tags)
          ∧ (∀ b, o.rxEnd = some b → ∀ y, o.rxFull ≤ y → y < b → y ∈ (t.link l).missing)
          ∧ ((recField block 2 1).testBit 3 = false → ∀ y, o.listEnd.rxFull ≤ y → y < e → y ∈ (t.link l).missing)
          ∧ (∀ y ∈ o.missing, y ∈ (t.link l).missing)
          ∧ others t ∧ t = { s with links := t.links, counters := t.counters }))
    ∧ ((s.link l).st = .up → fec0 = .uncorrectable ∨ fec1 = .uncorrectable → (s.link l).badCw + 2 < 64 →
      ∃ t, exec (.beatBlock l block (fec0, fec1)) s = .next (s.after t) ∧ (t.link l).rxEnd = none ∧ (t.link l).prevEnd = (s.link l).rxEnd
        ∧ (s.link l).badCw < (t.link l).badCw ∧ (t.link l).tags = (s.link l).tags ∧ others t
        ∧ t = { s with links := t.links, counters := t.counters })

/-- R452, R458, R472, R475, R476, R623, R629: a pending tag whose sequences have all landed is checked, and one that does not match is a module
fault; a link that loses lane lock, or reaches 64 uncorrectable codewords in a beat, goes to RETRAIN with its keys gone and asks for hold with
CAUSE LINK, which every link sends on, and one whose neighbour has begun a link reset loses its keys, sequences, replay buffer and landing memory; one
that is not back after 4,096 beat boundaries is an ensemble fault. A training link with lane lock is
KEYING under beat lock; the key exchange brings it UP with new keys, and every flit that is not acknowledged is to be replayed, unless the
neighbour is not the one that is expected. -/
def Obligations.LinkService : Prop :=
  ∀ (s : State) (l : Fin 16),
    let k := s.link l
    let others := fun (t : State) => ∀ m, m ≠ l.val → t.link m = s.link m
    let retrains := fun (t : State) => (t.link l).st = .retrain ∧ (t.link l).lane = false ∧ (t.link l).txKey = none ∧ (t.link l).rxKey = none
      ∧ (t.link l).tags = [] ∧ (t.link l).bodies = [] ∧ (t.link l).rxEnd = none ∧ (t.link l).outSince = some (k.outSince.getD s.beat.boundaries) ∧ (t.link l).txSeq = k.txSeq
      ∧ (t.link l).rxSeen = k.rxSeen ∧ (t.link l).replay = k.replay ∧ t.landing = s.landing
      ∧ (∀ m, m ≠ l.val → t.link m = { s.link m with holdTx := (t.link m).holdTx, holdAt := (t.link m).holdAt }) ∧ (∀ m, m < 16 → (t.link m).holdTx = true)
      ∧ t.beat.holdReq = true ∧ t.beat.lastCause = 4 ∧ t.beat.live.contains { cause := 4, who := 50 } = true ∧ t.cl = s.cl
    (k.tags = [] ∨ (∃ a e g rest, k.tags = (a, e, g) :: rest ∧ k.ackSeq < e) → exec (.tagCheck l) s = .next s)
    ∧ (∀ a e g rest, k.tags = (a, e, g) :: rest → e ≤ k.ackSeq →
      let sum := leNat (linkTag k.rxKey e ((List.range (e - a)).flatMap fun i => (tGet k.bodies (a + i)).getD []))
      (sum = g.toNat → ∃ t, exec (.tagCheck l) s = .next (s.after t) ∧ (t.link l).tags = rest ∧ others t ∧ t.errs = s.errs
        ∧ t = { s with links := t.links, beat := { s.beat with live := t.beat.live } })
      ∧ (sum ≠ g.toNat → ∃ t, exec (.tagCheck l) s = .next (s.after t) ∧ (t.link l).tags = rest ∧ t.running = false
        ∧ (s.running = true → t.rt.abortClass = 4) ∧ (s.aloneIn s.nowCtx → s.recorded t 4 9)))
    ∧ (k.st ≠ .up ∧ k.st ≠ .keying → exec (.laneLockLoss (l, false)) s = .next s)
    ∧ (k.st = .up ∨ k.st = .keying → ∃ t, exec (.laneLockLoss (l, false)) s = .next (s.after t) ∧ retrains t)
    ∧ (∃ t, exec (.laneLockLoss (l, true)) s = .next (s.after t) ∧ t.link l = k.destroyed (s.linkUsed l) ∧ others t
        ∧ (∀ g, g ∈ t.landed (l.val / 8) ↔ g ∈ s.landed (l.val / 8) ∧ ¬ (l.val % 8 * 32768 ≤ g.pos ∧ g.pos < l.val % 8 * 32768 + 32768))
        ∧ t = { s with links := t.links, landing := t.landing, counters := t.counters })
    ∧ (k.badCw < 63 ∨ k.st ≠ .up → exec (.codewordErrorLimit l) s = .next s)
    ∧ (63 ≤ k.badCw → k.st = .up → ∃ t, exec (.codewordErrorLimit l) s = .next (s.after t) ∧ retrains t)
    ∧ (k.outSince = none ∨ (∃ b, k.outSince = some b ∧ s.beat.boundaries < b + 4096) → exec (.linkRetrainTimeout l) s = .next s)
    ∧ (∀ b, k.outSince = some b → b + 4096 ≤ s.beat.boundaries → ∃ t, exec (.linkRetrainTimeout l) s = .next (s.after t)
        ∧ (t.link l).outSince = none ∧ t.running = false ∧ (s.running = true → t.rt.abortClass = 5) ∧ (s.aloneIn s.nowCtx → s.recorded t 5 0x0C))
    ∧ (∀ ns, (k.st ≠ .training ∧ k.st ≠ .retrain) ∨ k.cable = false ∨ k.lane = true → exec (.linkLaneLock l ns) s = .next s)
    ∧ (∀ ns, k.st = .training ∨ k.st = .retrain → k.cable = true → k.lane = false →
      (ns ≤ 120 → ∃ t, exec (.linkLaneLock l ns) s = .next (s.after t)
        ∧ t.link l = { k with lane := true, st := if s.beat.locked then .keying else k.st } ∧ others t ∧ t = { s with links := t.links })
      ∧ (120 < ns → ∃ t, exec (.linkLaneLock l ns) s = .next (s.after t) ∧ t.link l = { k with st := .down } ∧ others t))
    ∧ (∀ nb, k.st ≠ .keying → exec (.linkKeyed l nb) s = .next s)
    ∧ ∀ nb : BitVec 10, k.st = .keying →
      let want := s.val (0x4010 + l.val) 2 0x03FF
      (want ≠ 0xFFFF → want ≠ nb.toNat → ∃ t, exec (.linkKeyed l nb) s = .next (s.after t)
        ∧ t.link l = { k with st := .down, lane := false, mismatch := true, neighbour := nb } ∧ others t)
      ∧ (want = 0xFFFF ∨ want = nb.toNat → ∃ t, exec (.linkKeyed l nb) s = .next (s.after t) ∧ (t.link l).st = .up ∧ (t.link l).neighbour = nb
        ∧ (t.link l).txKey.isSome = true ∧ (t.link l).rxKey.isSome = true ∧ (t.link l).outSince = none ∧ (t.link l).txSeq = k.txSeq
        ∧ (t.link l).rxSeen = k.rxSeen ∧ (t.link l).wanted = (k.replay.filter fun f => !f.acked).map (·.seq) ∧ others t ∧ t.errs = s.errs)

/-! ## Debug access -/

/-- R424-R427: without power a port answers nothing. Otherwise an instruction selects its register: IDCODE the identification of its die,
DBG_STATUS of D0 the status with its fields, BYPASS and every unlisted code a register that captures 0; EXTEST, CLAMP and HIGHZ act on the pins only while
BSCAN is 1. The instruction registers of both dies capture 0b0000_0001 in the same scan. A reset of a port selects IDCODE in both dies. Nothing else of
the module changes. -/
def Obligations.DebugInstructions : Prop :=
  ∀ (s : State) (die : Fin 2) (code : BitVec 8),
    let scanned := fun (ir : BitVec 8) (dr : BitVec 65) => (s.taps.set die { s.taps[die] with ir, dr }).map fun (q : Tap) => { q with irScan := 0b00000001 }
    (s.pow.on = false → ∀ i, i = .extest die ∨ i = .idcode die ∨ i = .samplePreload die ∨ i = .clamp die ∨ i = .highz die ∨ i = .bypass die code
        ∨ i = .dbgStatus die → exec i s = .next s)
    ∧ (s.pow.on = true →
      (∀ i ir dr sc, (i = .idcode die ∧ ir = 0x01 ∧ dr = idcodeOf die ∧ sc = none)
          ∨ (i = .clamp die ∧ ir = 0x03 ∧ dr = 0 ∧ sc = if s.bscan then some 0x03 else none)
          ∨ (i = .highz die ∧ ir = 0x04 ∧ dr = 0 ∧ sc = if s.bscan then some 0x04 else none)
          ∨ (i = .extest die ∧ s.bscan = false ∧ ir = 0x00 ∧ dr = 0 ∧ sc = none)
          ∨ (i = .bypass die code ∧ listedIr code.toNat = false ∧ ir = code ∧ dr = 0 ∧ sc = none)
          ∨ (i = .dbgStatus die ∧ ir = 0x10 ∧ dr = (if die = 0 then s.dbgStatus else 0) ∧ sc = none) →
        exec i s = .next (s.after { s with taps := scanned ir (BitVec.ofNat 65 dr), scanned := s.scanned.set die sc }))
      ∧ (∀ i ir sc, (i = .extest die ∧ s.bscan = true ∧ ir = 0x00 ∧ sc = some 0x00) ∨ (i = .samplePreload die ∧ ir = 0x02 ∧ sc = none) →
        ∃ dr, exec i s = .next (s.after { s with taps := scanned ir dr, scanned := s.scanned.set die sc, free := s.free + 1 }))
      ∧ (listedIr code.toNat = true → exec (.bypass die code) s = .next s))
    ∧ (let r := BitVec.ofNat 32 s.dbgStatus
       r.getLsbD 0 = s.unlocked ∧ r.getLsbD 1 = s.running ∧ r.getLsbD 2 = decide (s.mode = 4)
         ∧ r.getLsbD 3 = (!s.pow.modrst && s.sec.cleared) ∧ r.extractLsb' 8 8 = s.dbgErr ∧ r.extractLsb' 4 4 = 0 ∧ r.extractLsb' 16 16 = 0)
    ∧ exec .jtagReset s = .next (s.after { s with taps := Vector.replicate 2 {}, scanned := Vector.replicate 2 none })

/-- R426, R427, R429-R431: where the copies of the protected entries agree (R559), DBG_ADDR and DBG_DATA act only while debug access is unlocked; a locked update selects a register that captures 0, and changes nothing but its count and, for DBG_DATA, ERR (log 43). An
access outside a space, of another domain or while a routine runs changes no memory and answers its code; one that is allowed reads or writes
the 8 bytes at the address, of bank memory as the plaintext of its granule (R440, R441), and in control space the register there, of which a write while
a routine runs reaches only bits that clear by ones (R524); every access moves the address on by 8. -/
def Obligations.DebugData : Prop :=
  ∀ (s : State) (v : BitVec 64) (die : Fin 2),
    let scanned := fun (die : Fin 2) (ir : BitVec 8) => (s.taps.set die { s.taps[die] with ir, dr := 0 }).map fun (q : Tap) => { q with irScan := 0b00000001 }
    (s.pow.on = false → ∀ i, i = .dbgAddr die v ∨ i = .dbgDataWrite v ∨ i = .dbgDataRead v → exec i s = .next s)
    ∧ (s.copiesAgree → s.pow.on = true → die ≠ 0 → exec (.dbgAddr die v) s =
        .next (s.after { s with taps := scanned die 0x11, scanned := s.scanned.set die none }))
    ∧ (s.copiesAgree → s.pow.on = true → s.unlocked = false → ∀ i ir e, (i = .dbgAddr 0 v ∧ ir = 0x11 ∧ e = s.dbgErr)
        ∨ ((i = .dbgDataWrite v ∨ i = .dbgDataRead v) ∧ ir = 0x12 ∧ e = 1) →
      ∃ t, exec i s = .next (s.after t)
        ∧ t = { s with taps := scanned 0 ir, scanned := s.scanned.set 0 none, dbgErr := e, counters := t.counters }
        ∧ (tGet t.counters (0x9009 * 256 + 4)).getD 0
            = BitVec.ofNat 64 (min (((tGet s.counters (0x9009 * 256 + 4)).getD 0).toNat + 1) (2 ^ 64 - 1)))
    ∧ (s.copiesAgree → s.pow.on = true → s.unlocked = true →
      (∃ t, exec (.dbgAddr 0 v) s = .next (s.after t) ∧ t = { s with taps := t.taps, scanned := t.scanned, dbgAddr := v })
      ∧ (let a := s.dbgAddr.toNat
         let sel := bits a 61 56
         let addr := bits a 47 0
         let next := BitVec.ofNat 64 (a / 2 ^ 48 * 2 ^ 48 + (a + 8) % 2 ^ 48)
         (s.dbgCode ≠ 0 → ∀ i, i = .dbgDataWrite v ∨ i = .dbgDataRead v →
          exec i s = .next (s.after
            { s with dbgErr := BitVec.ofNat 8 s.dbgCode, dbgData := 0, dbgAddr := next, taps := s.taps.set 0 { s.taps[0] with ir := 0x12, dr := 0 } }))
         ∧ (s.dbgCode = 0 → bits a 63 62 = 0 →
          exec (.dbgDataRead v) s = .next (s.after (s.dbgAfter 0 (s.controlWord addr)))
          ∧ (s.running = true → addr < 0x01000000 → addr ≠ 0x0010 → exec (.dbgDataWrite v) s = .next (s.after (s.dbgAfter 0 0)))
          ∧ (s.running = false ∨ 0x01000000 ≤ addr ∨ addr = 0x0010 →
              exec (.dbgDataWrite v) s = .next (s.after ((s.regWrite 0 addr v.toNat).dbgAfter 0 0))))
         ∧ (let t := s.dbgAfter 0 v.toNat
            t.dbgErr = 0 ∧ t.dbgData = v ∧ t.dbgAddr = next ∧ t = { s with dbgErr := 0, dbgData := v, dbgAddr := next, taps := t.taps })
         ∧ (s.dbgCode = 0 → bits a 63 62 = 1 →
          ((s.clus sel).upsets = [] → ∃ t, exec (.dbgDataRead v) s = .next (s.after t)
            ∧ t.dbgData = BitVec.ofNat 64 (leNat (readMem (s.clus sel).floor addr 8)) ∧ t.dbgErr = 0 ∧ t.dbgAddr = next ∧ t.cl = s.cl)
          ∧ ∃ t, exec (.dbgDataWrite v) s = .next (s.after t) ∧ t.dbgErr = 0 ∧ t.dbgAddr = next
            ∧ (t.clus sel).floor = writeMem (s.clus sel).floor addr (leBytes 8 v.toNat) ∧ (∀ n, n ≠ sel → t.clus n = s.clus n) ∧ t.bank = s.bank)
         ∧ (s.dbgCode = 0 → bits a 63 62 = 2 →
          s.bankErr = [] → (∃ t, exec (.dbgDataRead v) s = .next (s.after t)
            ∧ t.dbgData = BitVec.ofNat 64 (leNat (s.bankView addr 8)) ∧ t.dbgErr = 0 ∧ t.dbgAddr = next ∧ t.bank = s.bank)
          ∧ ∃ t, exec (.dbgDataWrite v) s = .next (s.after t) ∧ t.dbgErr = 0 ∧ t.dbgAddr = next
            ∧ (let g := addr / 64 * 64
               let old := s.pageCrypt false g (readMem s.bank g 64)
               t.bank = writeMem s.bank g (s.pageCrypt true g (old.take (addr % 64) ++ leBytes 8 v.toNat ++ old.drop (addr % 64 + 8))))
            ∧ t.cl = s.cl)))

/-! ## The host port -/

/-- R514, R517, R518, R520, R521, R526, R534: a request outside a function's own ACTIVE pages, or without IDE where that is required, is refused and
noted and counted; a read of the window answers the plaintext of the bytes of bank memory at WINDOW_BASE and the offset, a write stores them in the
granules that they touch, as those are stored (R440, R441), where no burst is lost, and a write to WINDOW_BASE
moves the window, aligned to the size of BAR2 and below 2^41. A read of BAR0 answers the registers of the function's page, for the physical function
control space, and one of BAR4 zeros (log 73). Without power, or with PERST_N low, nothing is taken. -/
def Obligations.HostMemory : Prop :=
  ∀ (s : State) (fn : Fin 64) (off len : Nat) (data : Bytes) (ide : Bool) (requester : BitVec 16),
    let a := (s.fn fn).window.toNat + off
    let refuses := fun (i : Instr) (bit : BitVec 6) (c : Cpl) => ∃ t r, exec i s = .next (s.after t) ∧ t.bank = s.bank ∧ t.port.cpl = c
      ∧ bit ||| (s.fn fn).err ||| (t.fn fn).err = (t.fn fn).err
      ∧ (tGet t.counters (0x9009 * 256 + 1)).getD 0
          = BitVec.ofNat 64 (min (((tGet s.counters (0x9009 * 256 + 1)).getD 0).toNat + 1) (2 ^ 64 - 1))
      ∧ t.errs = (r :: s.errs).take 16384 ∧ r.cls = 0 ∧ r.cause = 0x83 ∧ r.seq = s.errSeq.toNat
    (∀ b, s.portUp = false ∨ s.inBar fn b off len = false ∨ 4096 < len → exec (.bar2Read fn (b, off) len ide) s = .next s)
    ∧ (s.portUp = false ∨ s.inBar2 fn off data.length = false ∨ 512 < data.length → exec (.bar2Write fn off data ide requester) s = .next s)
    ∧ (s.portUp = true →
      (∀ v : BitVec 64, s.pageRefused fn ide = false → ∃ t b, exec (.windowBase fn v ide) s = .next (s.after t)
          ∧ t.fn fn = { s.fn fn with window := b } ∧ (∀ f, f ≠ fn.val → t.fn f = s.fn f) ∧ t.port.bar2 = s.port.bar2
          ∧ t = { s with port := { s.port with fns := t.port.fns, cpl := .written } }
          ∧ (s.barBits fn ≤ 41 → b.toNat % 2 ^ s.barBits fn = 0 ∧ b.toNat < 2 ^ 41 ∧ (v.toNat < 2 ^ 41 → v.toNat % 2 ^ s.barBits fn = 0 → b = v)))
      ∧ (s.inBar2 fn off len = true → len ≤ 4096 →
        (s.noIde fn ide = true → refuses (.bar2Read fn (.window, off) len ide) 32 .unsupported)
        ∧ (s.noIde fn ide = false → s.fnReaches fn a len = false → refuses (.bar2Read fn (.window, off) len ide) 1 .unsupported)
        ∧ (s.noIde fn ide = false → s.fnReaches fn a len = true → s.bankErr = [] → ∃ t, exec (.bar2Read fn (.window, off) len ide) s = .next (s.after t)
            ∧ t = { s with port := { s.port with cpl := .data (s.bankView a len) }, bankUse := t.bankUse, counters := t.counters }))
      ∧ (∀ b no d, (b = .page ∧ no = s.pageRefused fn ide ∧ d = s.pageBytes fn off len) ∨ (b = .bells ∧ no = s.noIde fn ide ∧ d = List.replicate len 0) →
        s.inBar fn b off len = true → len ≤ 4096 →
        (no = true → refuses (.bar2Read fn (b, off) len ide) 32 .unsupported)
        ∧ (no = false → exec (.bar2Read fn (b, off) len ide) s = .next (s.after { s with port := { s.port with cpl := .data d } })))
      ∧ (s.inBar2 fn off data.length = true → data.length ≤ 512 →
        (s.noIde fn ide = true → refuses (.bar2Write fn off data ide requester) 32 .dropped)
        ∧ (s.noIde fn ide = false → s.fnReaches fn a data.length = false → refuses (.bar2Write fn off data ide requester) 1 .dropped)
        ∧ (s.noIde fn ide = false → s.fnReaches fn a data.length = true → s.bankErr = [] →
          ∃ t, exec (.bar2Write fn off data ide requester) s = .next (s.after t)
            ∧ (let g := a / 64 * 64
               let old := s.pageCrypt false g (readMem s.bank g 64)
               (data.length = 64 → a % 64 = 0 → t.bank = writeMem s.bank a (s.pageCrypt true a data))
               ∧ (a % 64 + data.length ≤ 64 → data.length < 64 → t.bank = writeMem s.bank g (s.pageCrypt true g
                   (old.take (a % 64) ++ data ++ old.drop (a % 64 + data.length))))
               ∧ ∀ x, x < g ∨ (a + data.length - 1) / 64 * 64 + 64 ≤ x → readByte t.bank x = readByte s.bank x)
            ∧ t.port = { s.port with cpl := .written }
            ∧ (∀ e ∈ s.bankScrub, (∀ x, a ≤ x → x < a + data.length → x / 64 ≠ e.1 / 2) → e ∈ t.bankScrub)
            ∧ t = { s with bank := t.bank, bankScrub := t.bankScrub, bankUse := t.bankUse, counters := t.counters, port := t.port })))

/-- R515, R524, R526-R528, R530, R534, R572: writes to the registers of a function page, where no IDE is missing: GO submits a request of a length from 1
to 4,096 while none is open, which waits behind those that came before it and behind the doorbells received by then; EQ_CTRL takes ORDER only while ENABLE is 0, and PHASE starts at 1; HIF_ERR clears by ones, and of the
physical function the flags of a vector engine's status (R216); EQ_BASE is taken, at a multiple of 4 KiB, while ENABLE is 0; EQ_HEAD and the bytes of the request buffer are
stored; a write to a register that only reads, or to no register, changes nothing. A
doorbell at a ring's offset joins those that wait. A function-level reset returns one page to its reset values and discards its request. -/
def Obligations.FunctionPages : Prop :=
  ∀ (s : State) (fn : Fin 64) (off : Nat) (v : BitVec 64) (w : BitVec 32) (ide : Bool) (requester : BitVec 16),
    let g := s.fn fn
    let page := fun (i : Instr) (h : HostFn) => ∃ t, exec i s = .next (s.after t) ∧ t.fn fn = h ∧ (∀ f, f ≠ fn.val → t.fn f = s.fn f)
      ∧ t.port.cpl = .written ∧ t = { s with port := { s.port with fns := t.port.fns, cpl := .written } }
    (s.portUp = false → ∀ i, i = .windowBase fn v ide ∨ i = .mbxGo fn v ide ∨ i = .eqCtrl fn v ide ∨ i = .registerWrite fn off v ide
        ∨ i = .doorbellWrite fn off w ide requester ∨ i = .functionLevelReset fn → exec i s = .next s)
    ∧ (s.portUp = true →
      (s.pageRefused fn ide = true → ∀ i, i = .windowBase fn v ide ∨ i = .mbxGo fn v ide ∨ i = .eqCtrl fn v ide ∨ i = .registerWrite fn off v ide →
        ∃ t, exec i s = .next (s.after t) ∧ t.port.cpl = .dropped ∧ (t.fn fn).err = g.err ||| 32 ∧ (t.fn fn).window = g.window
          ∧ (t.fn fn).busy = g.busy ∧ (t.fn fn).req = g.req)
      ∧ (s.pageRefused fn ide = false →
        (let n := v.toNat % 2 ^ 13
         (g.busy = false → 1 ≤ n → n ≤ 4096 → ∃ t, exec (.mbxGo fn v ide) s = .next (s.after t)
            ∧ t.fn fn = { g with reqLen := BitVec.ofNat 13 n, busy := true, done := false } ∧ (∀ f, f ≠ fn.val → t.fn f = s.fn f)
            ∧ t = { s with port := { s.port with fns := t.port.fns, cpl := .written, mail := s.port.mail ++ [(fn.val, s.port.bells.length)] } })
         ∧ (g.busy = true ∨ n = 0 ∨ 4096 < n → page (.mbxGo fn v ide) { g with err := g.err ||| 16 }))
        ∧ (let takes := !g.enable && 6 ≤ v.toNat % 32 && v.toNat % 32 ≤ 16
           page (.eqCtrl fn v ide) { g with order := if takes then BitVec.ofNat 5 (v.toNat % 32) else g.order, orderSet := g.orderSet || takes
                                            enable := v.getLsbD 5, ien := v.getLsbD 6, phase := if v.getLsbD 5 && !g.enable then true else g.phase })
        ∧ (off = 0x0018 → exec (.registerWrite fn off v ide) s = exec (.windowBase fn v ide) s)
        ∧ (off = 0x0208 → exec (.registerWrite fn off v ide) s = exec (.eqCtrl fn v ide) s)
        ∧ (off = 0x0100 → (v.getLsbD 29 = true → exec (.registerWrite fn off v ide) s = exec (.mbxGo fn v ide) s)
            ∧ (v.getLsbD 29 = false → page (.registerWrite fn off v ide) { g with reqLen := BitVec.ofNat 13 (v.toNat % 2 ^ 13) }))
        ∧ (off = 0x0200 → page (.registerWrite fn off v ide)
            (if g.enable then g else { g with eqBase := BitVec.ofNat 64 (v.toNat / 4096 * 4096), eqSet := true }))
        ∧ (∀ n, n < 48 → off = 0x01000000 + 65536 * n → fn = 0 → ∃ t, exec (.registerWrite fn off v ide) s = .next (s.after t)
            ∧ (t.clus n).vx = { (s.clus n).vx with sticky := (s.clus n).vx.sticky &&& ~~~(BitVec.ofNat 5 (v.toNat / 128)) }
            ∧ t.clus n = { s.clus n with vx := (t.clus n).vx } ∧ (∀ m, m ≠ n → t.clus m = s.clus m)
            ∧ t = { s with cl := t.cl, port := { s.port with cpl := .written } })
        ∧ (off % 8 ≠ 0 ∨ off = 0x0000 ∨ off = 0x0008 ∨ off = 0x0218 ∨ (0x2000 ≤ off ∧ (off < 0x01000000 ∨ fn ≠ 0)) →
            exec (.registerWrite fn off v ide) s = .next (s.after { s with port := { s.port with cpl := .written } }))
        ∧ (off = 0x0010 → page (.registerWrite fn off v ide) { g with err := g.err &&& ~~~(BitVec.ofNat 6 v.toNat) })
        ∧ (off = 0x0210 → page (.registerWrite fn off v ide) { g with head := BitVec.ofNat 16 v.toNat })
        ∧ (0x1000 ≤ off → off < 0x2000 → off % 8 = 0 →
            page (.registerWrite fn off v ide) { g with req := writeMem g.req (off - 0x1000) (leBytes 8 v.toNat) }))
      ∧ (s.noIde fn ide = false → off % 8 = 0 → off < 512 → exec (.doorbellWrite fn off w ide requester) s =
          .next (s.after { s with port := { s.port with bells := s.port.bells ++ [{ fn := fn, ring := off / 8, v := w, requester }] } }))
      ∧ (s.noIde fn ide = false → off % 8 ≠ 0 ∨ 512 ≤ off → exec (.doorbellWrite fn off w ide requester) s = .next s)
      ∧ (s.noIde fn ide = true → ∃ t, exec (.doorbellWrite fn off w ide requester) s = .next (s.after t) ∧ t.port.bells = s.port.bells
          ∧ 32 ||| g.err ||| (t.fn fn).err = (t.fn fn).err)
      ∧ ∃ t, exec (.functionLevelReset fn) s = .next (s.after t) ∧ t.fn fn = {} ∧ (∀ f, f ≠ fn.val → t.fn f = s.fn f)
          ∧ t = { s with port := { s.port with fns := t.port.fns, mail := s.port.mail.filter fun e => e.1 != fn.val } })

/-- R515, R516, R526, R527, R529-R531, R540, R572, R615, R670, R406, R509: where the copies of the protected entries agree (R559), the oldest mailbox
request is answered in the response buffer, and MBX_DONE with it, and then what it asks for takes place; the first waiting
doorbell becomes the ring's WPTR, or is ignored, noted and counted; the intake unit's command ends at its completion; PERST_N low
returns the port to reset, and its rise trains it; a configuration request completes with retry status until the firmware runs, and one that
writes a size (log 73) gives BAR2 of the physical function, or of every virtual one, that size. -/
def Obligations.HostService : Prop :=
  (∀ (s : State) (fn : Fin 64),
    (s.portUp = false ∨ s.served = false ∨ (s.port.mail.head?).any (fun m => m.1 == fn.val) = false → exec (.mbxDone fn) s = .next s)
    ∧ ∀ bells rest, s.portUp = true → s.served = true → s.copiesAgree → s.port.mail = (fn.val, bells) :: rest →
      (let r := State.answer { s with port := { s.port with mail := rest } } (mbxPath fn) fn (readMem (s.fn fn).req 0 (s.fn fn).reqLen.toNat)
      r.2.2 = none → ∃ t, exec (.mbxDone fn) s = .next (s.after t) ∧ t.port.mail = rest ∧ (t.fn fn).busy = false ∧ (t.fn fn).done = true
        ∧ (t.fn fn).rsp = writeMem (s.fn fn).rsp 0 ((r.1.getD []).take 4096) ∧ (t.fn fn).rspLen.toNat = ((r.1.getD []).take 4096).length
        ∧ (∀ f, f ≠ fn.val → t.fn f = s.fn f ∨ f = 0))
      ∧ (let r := State.answer { s with port := { s.port with mail := rest } } (mbxPath fn) fn (readMem (s.fn fn).req 0 (s.fn fn).reqLen.toNat)
         ∃ u : State, exec (.mbxDone fn) s = .next (s.after (u.doTodo bells r.2.2)) ∧ u.port.mail = rest ∧ (u.fn fn).busy = false ∧ (u.fn fn).done = true
          ∧ (u.fn fn).rsp = writeMem (s.fn fn).rsp 0 ((r.1.getD []).take 4096) ∧ u.dict = r.2.1.dict ∧ u.cl = s.cl ∧ u.rt = s.rt))
  ∧ (∀ s : State, (s.port.bells = [] → exec .doorbellApply s = .next s)
    ∧ ∀ b rest, s.port.bells = b :: rest → ∃ t, exec .doorbellApply s = .next (s.after t) ∧ t.port.bells = rest
      ∧ (s.bellOk b = true → t.base (0x5100 + b.ring) 5 0 = b.v.toNat ∧ t.counters = s.counters ∧ t.port.fns = s.port.fns)
      ∧ (s.bellOk b = false → t.dict = s.dict ∧ (b.fn < 64 → (t.fn b.fn).err = (s.fn b.fn).err ||| 4)
          ∧ (tGet t.counters (0x9009 * 256 + 3)).getD 0
              = BitVec.ofNat 64 (min (((tGet s.counters (0x9009 * 256 + 3)).getD 0).toNat + 1) (2 ^ 64 - 1))))
  ∧ (∀ s : State, (s.isu.busy = none → exec .isuComplete s = .next s)
    ∧ ∀ x j, s.isu.busy = some (x, j) → ∃ t, exec .isuComplete s = .next (s.after t)
      ∧ (j.done = none ∨ (∀ d, d < 10 → ∀ e ∈ (s.domN d).evs, (s.domN d).nt < e.t) →
          t.isu = { s.isu with busy := none, tell := [] } ∧ t.bank = s.bank ∧ ∀ n, (t.clus n).floor = (s.clus n).floor)
      ∧ (∀ q num, j.done = some q → q.obj = .mcue num → ∀ d, d < 10 → ((tGet (t.domN d).mcues num).getD {}).set = true))
  ∧ ∀ s : State,
    (∃ t, exec (.perstN false) s = .next (s.after t) ∧ t = { s with pow := { s.pow with perst := false, trained := false }, port := {} })
    ∧ (s.pow.perst = true → exec (.perstN true) s = .next s)
    ∧ (s.pow.perst = false → s.pow.on = false → exec (.perstN true) s = .next (s.after { s with pow := { s.pow with perst := true } }))
    ∧ (s.pow.perst = false → s.pow.on = true → ∃ t, exec (.perstN true) s = .next (s.after t) ∧ t.pow = { s.pow with perst := true, trained := true }
        ∧ 1 ≤ t.port.speed.toNat ∧ t.port.speed.toNat ≤ 6 ∧ t.port.fns = s.port.fns)
    ∧ (s.portUp = false → ∀ r, exec (.configurationRequest r) s = .next s)
    ∧ (s.portUp = true → ∀ r, r = none ∨ s.served = false → exec (.configurationRequest r) s =
        .next (s.after { s with port := { s.port with cpl := if s.served then .written else .retryLater } }))
    ∧ (s.portUp = true → s.served = true → ∀ (vf : Bool) (k : Fin 7), ∃ t, exec (.configurationRequest (some (vf, k))) s = .next (s.after t)
        ∧ t = { s with port := t.port }
        ∧ t.port = { s.port with bar2 := (if vf then s.port.bar2 else 30 + k), bar2v := (if vf then 30 + k else s.port.bar2v), fns := t.port.fns, cpl := .written }
        ∧ ∀ f : Fin 64, (vf = decide (f = 0) → t.fn f = s.fn f)
          ∧ (vf = decide (f ≠ 0) → t.fn f = { s.fn f with window := (t.fn f).window } ∧ (t.fn f).window.toNat % 2 ^ (30 + k.val) = 0
            ∧ (t.fn f).window.toNat ≤ (s.fn f).window.toNat ∧ (s.fn f).window.toNat - (t.fn f).window.toNat < 2 ^ (30 + k.val)))

/-! ## SPDM and IDE key management -/

/-- R534-R536, R538, R546 (message forms and error codes PRESUMED, log 42; signatures and nonces free values, logs 5 and 11): before the firmware
runs nothing is answered. DOE discovery names its protocols; GET_VERSION starts the connection anew; capabilities, algorithms, digests,
certificate, challenge and measurements are answered once what they need has been agreed, each within one data object of 64 KiB; KEY_EXCHANGE and FINISH make a session, which
KEY_UPDATE, HEARTBEAT and END_SESSION need; IDE keys are taken only in a secured session with mutual authentication from a held root. A request out of
its order is answered as unexpected and changes nothing. -/
def Obligations.SpdmRequests : Prop :=
  ∀ (s : State) (b : BitVec 8) (n key : Bytes) (slot : BitVec 4) (off len : BitVec 16) (a1 a2 a3 a4 ok : Bool) (p : SpdmPeer) (st : BitVec 3)
    (fns : BitVec 64),
    let tells := fun (i : Instr) (a : SpdmRsp) => exec i s = .next (s.after { s with port := { s.port with answer := a } })
    let port := fun (i : Instr) (q : Port → Prop) => ∃ t, exec i s = .next (s.after t) ∧ q t.port
      ∧ t = { s with port := t.port, free := t.free } ∧ t.port.fns = s.port.fns
    (s.spdmUp = false → ∀ i, i = .doeDiscovery b ∨ i = .getVersion ∨ i = .getCapabilities b ∨ i = .negotiateAlgorithms a1 a2 a3 a4 ∨ i = .getDigests
        ∨ i = .getCertificate slot off len ∨ i = .challenge slot n ∨ i = .getMeasurements b n ∨ i = .keyExchange n p ∨ i = .finish p ok
        ∨ i = .keyUpdate ∨ i = .heartbeat ∨ i = .endSession ∨ i = .vendorDefinedRequest st fns key → exec i s = .next s)
    ∧ (s.spdmUp = true →
      tells (.doeDiscovery b) (if b.toNat < 3 then .discovery 1 b.toNat ((b.toNat + 1) % 3) else .discovery 0xFFFF 0 0)
      ∧ port .getVersion (fun q => q.spdmVer = 0x10 ∧ q.spdmAlg = false ∧ q.spdmKex = false ∧ q.session = none
          ∧ q.answer = .version [0x12, 0x13] ∧ q.streams = s.port.streams)
      ∧ (s.port.spdmVer = 0 → tells (.getCapabilities b) (.error 4))
      ∧ (s.port.spdmVer ≠ 0 → (b = 0x12 ∨ b = 0x13 → port (.getCapabilities b) (fun q => q.spdmVer = b.toNat ∧ q.answer = .capabilities b.toNat
            ∧ q.session = s.port.session)) ∧ (b ≠ 0x12 → b ≠ 0x13 → tells (.getCapabilities b) (.error 0x41)))
      ∧ (s.port.spdmVer < 0x12 → tells (.negotiateAlgorithms a1 a2 a3 a4) (.error 4))
      ∧ (0x12 ≤ s.port.spdmVer → port (.negotiateAlgorithms a1 a2 a3 a4) (fun q => q.spdmAlg = (a1 && a2) ∧ q.spdmKex = (a3 && a4)
            ∧ q.answer = .algorithms a1 a2 a3 a4 ∧ q.session = s.port.session))
      ∧ (s.agreed = false → ∀ i, i = .getDigests ∨ i = .getCertificate slot off len ∨ i = .challenge slot n ∨ i = .getMeasurements b n
          ∨ i = .keyExchange n p → tells i (.error 4))
      ∧ (s.agreed = true →
        tells .getDigests (.digests 1 (sm3 s.chain))
        ∧ (slot = 0 → off.toNat < s.chain.length → ∃ d, tells (.getCertificate slot off len)
            (.certificate 0 d (s.chain.length - off.toNat - d.length)) ∧ d = (s.chain.drop off.toNat).take (min len.toNat (65536 - 16)))
        ∧ (slot ≠ 0 ∨ s.chain.length ≤ off.toNat → tells (.getCertificate slot off len) (.error 1))
        ∧ (slot = 0 → n.length = 32 → port (.challenge slot n) (fun q => ∃ c g, q.answer = .challengeAuth 0 (sm3 s.mrBytes) c g))
        ∧ (slot ≠ 0 ∨ n.length ≠ 32 → tells (.challenge slot n) (.error 1))
        ∧ (s.measured b.toNat = none → tells (.getMeasurements b n) (.error 1))
        ∧ (∀ d, s.measured b.toNat = some d →
          (d.length + s.measureHead ≤ 65536 → n.length = 32 →
            port (.getMeasurements b n) (fun q => ∃ c g, q.answer = .measurements b.toNat d c g))
          ∧ (d.length + s.measureHead ≤ 65536 → n.length ≠ 32 → tells (.getMeasurements b n) (.error 1))
          ∧ (65536 < d.length + s.measureHead → tells (.getMeasurements b n) (.error 0x0D)))
        ∧ (s.port.spdmKex = false ∨ s.secured = true → tells (.keyExchange n p) (.error 4))
        ∧ (s.port.spdmKex = true → s.secured = false → n.length = 32 → port (.keyExchange n p) (fun q => ∃ x, q.session = some x
            ∧ x.secured = false ∧ x.mutual_ = p.mutual_ ∧ x.rootOk = s.rootKnown p.rootDigest ∧ ∃ c g, q.answer = .keyExchange c g)))
      ∧ (s.port.session = none ∨ s.secured = true → tells (.finish p ok) (.error 4))
      ∧ (∀ x, s.port.session = some x → x.secured = false →
        (ok = true → port (.finish p ok) (fun q => q.session = some { x with
            secured := true, mutual_ := x.mutual_ && p.mutual_, rootOk := x.rootOk && s.rootKnown p.rootDigest } ∧ q.answer = .finished))
        ∧ (ok = false → port (.finish p ok) (fun q => q.session = none ∧ q.answer = .error 6)))
      ∧ (s.secured = false → ∀ i, i = .keyUpdate ∨ i = .heartbeat ∨ i = .endSession → tells i (.error 4))
      ∧ (∀ x, s.port.session = some x → x.secured = true →
        port .keyUpdate (fun q => (∃ k, q.session = some { x with secret := k, updates := x.updates + 1 }) ∧ q.answer = .keyUpdated)
        ∧ tells .heartbeat .heartbeat
        ∧ port .endSession (fun q => q.session = none ∧ q.answer = .ended))
      ∧ (s.ideKm = true ↔ ∃ x, s.port.session = some x ∧ x.secured = true ∧ x.mutual_ = true ∧ x.rootOk = true)
      ∧ (s.ideKm = false → tells (.vendorDefinedRequest st fns key) (.error 4))
      ∧ (s.ideKm = true → (st.toNat ≤ 4 → key.length = 32 → port (.vendorDefinedRequest st fns key) (fun q =>
            { id := st.toNat, fns := fns, key := key } ∈ q.streams ∧ (∀ x ∈ q.streams, x.id = st.toNat → x.key = key)
              ∧ (∀ x, x.id ≠ st.toNat → (x ∈ q.streams ↔ x ∈ s.port.streams)) ∧ q.answer = .vendor))
          ∧ (4 < st.toNat ∨ key.length ≠ 32 → tells (.vendorDefinedRequest st fns key) (.error 1))))

/-! ## Security -/

/-- R539-R541, R555, R557, R559, R561, R585, R612: an image that fits fills its half of the inactive slot; a commit marks it only where each new image
passes the checks and is approved; a change order is staged or rejected with its code; a store of it is refused, rejected or begins, and at its end applies
the order with its SEQUENCE, or fails with nothing applied, also where a routine runs by then and the order touches what that relies on (R439), or where
the unit is locked by then; a pair of copies that disagrees locks the unit, is an event and a module fault. Without input power nothing happens. -/
def Obligations.SecurityUnit : Prop :=
  ∀ (s : State) (data : Bytes) (arg : BitVec 32) (ok : Bool),
    (s.pow.on = false → ∀ i, i = .fwImage data ∨ i = .fwCommit arg ∨ i = .coBuffer data ∨ i = .coStore arg ∨ i = .complementCheck → exec i s = .next s)
    ∧ (fwFits data = false → exec (.fwImage data) s = .next s)
    ∧ (s.pow.on = true → fwFits data = true → ∃ t, exec (.fwImage data) s = .next (s.after t) ∧ t = { s with sec := t.sec }
        ∧ (let kind := recField data 8 1
           t.sec.filled = maskPut s.sec.filled (kind - 1) (data != s.fwImage s.sec.slot kind) ∧ t.sec.marked = false
             ∧ t.fwImage (1 - s.sec.slot) kind = data
             ∧ (∀ k j, (k ≠ 1 - s.sec.slot ∨ j ≠ kind) → 1 ≤ j → j ≤ 2 → t.fwImage k j = s.fwImage k j) ∧ t.sec.slot = s.sec.slot))
    ∧ (s.pow.on = true → s.copiesAgree →
       let fine := fun (kind : Nat) => let b := s.fwImage (1 - s.sec.slot) kind
         bit s.sec.filled (kind - 1) = true → s.imageOk kind b = true ∧ recField b 0x20 32 = s.work 0x6020 3
       (s.sec.filled ≠ 0 → fine 1 → fine 2 → exec (.fwCommit arg) s = .next (s.after { s with sec := { s.sec with marked := true, filled := 0 } }))
       ∧ (s.sec.filled = 0 ∨ ¬ fine 1 ∨ ¬ fine 2 →
            ∃ t r, exec (.fwCommit arg) s = .next (s.after t) ∧ t.sec = s.sec ∧ t.errs.head? = some r ∧ r.cls = 0 ∧ r.cause = 0x83))
    ∧ (s.pow.on = true → s.copiesAgree →
        exec (.coBuffer data) s = .next (s.after { s with sec := { s.sec with
          status := BitVec.ofNat 32 ((s.coCode data).1 + 256 * (s.coCode data).2)
          staged := if (s.coCode data).1 = 1 then some data else s.sec.staged } })
        ∧ (coParse data = none → (s.coCode data).1 = 0x10)
        ∧ (∀ q, coParse data = some q → recField data 8 32 ≠ Config.identityDigest → (s.coCode data).1 = 0x11))
    ∧ (s.storeBusy = true ∨ 4096 < s.sec.log.length + s.logReserved + 1 ∨ (s.copiesAgree ∧ s.sec.staged = none) → exec (.coStore arg) s = .next s)
    ∧ (s.pow.on = true → s.copiesAgree → s.storeBusy = false → s.sec.log.length + s.logReserved + 1 ≤ 4096 →
        ∀ b l e, s.sec.staged = some b → coParse b = some (l, e) →
        (s.sec.locked = true → exec (.coStore arg) s = .next (s.after { s with sec := { s.sec with status := 0x1B } }))
        ∧ (s.sec.locked = false → s.running = true → l.any s.coTouches = true →
            exec (.coStore arg) s = .next (s.after { s with sec := { s.sec with status := 0x18 } }))
        ∧ (s.sec.locked = false → s.running = false ∨ l.any s.coTouches = false →
            exec (.coStore arg) s = .next (s.after { s with sec := { s.sec with storing := some b } })))
    ∧ (s.copiesAgree → s.sec.storing = none → exec (.coStoreDone ok) s = .next s)
    ∧ (s.copiesAgree → ∀ b l e, s.sec.storing = some b → coParse b = some (l, e) →
        let barred := s.running && l.any s.coTouches
        let ends := fun (code : BitVec 32) => exec (.coStoreDone ok) s = .next (s.after { s with sec := { s.sec with storing := none, status := code } })
        (s.sec.locked = true → ends 0x1B)
        ∧ (s.sec.locked = false → barred = true → ends 0x18)
        ∧ (s.sec.locked = false → barred = false → ok = false → ends 0x1A)
        ∧ (s.sec.locked = false → barred = false → ok = true → ∃ t, exec (.coStoreDone ok) s = .next (s.after t) ∧ t.sec.storing = none
            ∧ t.sec.staged = none ∧ t.sec.status = 2
            ∧ t.base 0x6000 7 0 = recField b 0x48 4 ∧ t.dict.storeCount = s.dict.storeCount + 1 ∧ t.cl = s.cl ∧ t.rt = s.rt))
    ∧ (s.copiesAgree → exec .complementCheck s = .next s)
    ∧ (∀ q, s.pow.on = true → s.sec.locked = false → s.complBad = some q → ∃ t, exec .complementCheck s = .next (s.after t) ∧ t.sec.locked = true
        ∧ t.unlocked = false ∧ t.running = false ∧ s.recorded t 0 0x0A
        ∧ (s.aloneIn s.nowCtx → ∃ r ∈ t.errs, r.cls = 4 ∧ r.cause = 0x0A ∧ r.seq = (s.errSeq + 1).toNat))

/-! ## The dictionary -/

/-- R527, R530, R532, R566-R572: a message that is not for the module is ignored, one that is broken is only counted; one that comes before the response
to the previous one gets BUSY alone; a repeat is only counted, and answered with the previous response; any other request is answered with its code under
the next ALIVE of its path. A request that is refused, and a READ, change nothing but their path and the counters. An accepted WRITE gathers its segments,
and once its value is complete it does what the row of its entry does; ENABLE of a link takes it into use or out of it, WPTR comes after the doorbells that
arrived before it, and any other entry takes the value and keeps the one in force where R511 or R613 say so. A segmented write that ends unfinished is dropped
and counted. -/
def Obligations.DictionaryRequests : Prop :=
  (∀ (s : State) (p : Carrier) (fn : Fin 64) (m : Bytes) (i : Instr) (n : Nat), (i = .dictRead p fn m ∧ n = 1) ∨ (i = .dictWrite p fn m ∧ n = 2) →
    let q := readReq m
    let key := pathKey p.path fn
    let k := s.path key
    let busy := p.early || (decide (2 ≤ p.path.val) && (s.fn fn).busy)
    let others := fun (t : State) => ∀ j, j ≠ key → tGet t.dict.paths j = tGet s.dict.paths j
    let counter := 0x9010 + p.path.val
    (s.served = false ∨ s.takesMessage p = false → exec i s = .next s)
    ∧ (frameFault p.path m = none → q.op ≠ n → exec i s = .next s)
    ∧ (s.served = true → s.takesMessage p = true → busy = true →
        (∀ c, frameFault p.path m = some c → exec i s = .next (s.after (s.count counter c 1)))
        ∧ (frameFault p.path m = none → q.op = n → ∃ t, exec i s = .next (s.after t) ∧ t = { s with dict := { s.dict with paths := t.dict.paths } }
            ∧ others t ∧ t.path key = { k with said := rspBytes q k.txAlive 7 [] false }))
    ∧ (s.served = true → s.takesMessage p = true → busy = false → s.port.mail = [] → s.copiesAgree →
      (∀ c, frameFault p.path m = some c → exec i s = .next (s.after (s.count counter c 1)))
      ∧ (frameFault p.path m = none → q.op = n →
        let only := fun (t : State) => t = { s with dict := { s.dict with paths := t.dict.paths }, counters := t.counters }
        (k.rsp ≠ [] → q.alive = k.rxAlive → q.tag = k.rxTag → ∃ t, exec i s = .next (s.after t) ∧ only t ∧ others t ∧ t.path key = { k with said := k.rsp }
            ∧ t.counters = (s.count counter 3 1).counters)
        ∧ (k.rsp = [] ∨ q.alive ≠ k.rxAlive ∨ q.tag ≠ k.rxTag →
          let answers := fun (t : State) (code : Nat) (d : Bytes) (last : Bool) =>
            (t.path key).rsp = rspBytes q (k.txAlive + 1) code d last ∧ (t.path key).said = (t.path key).rsp ∧ (t.path key).rxAlive = q.alive
              ∧ (t.path key).rxTag = q.tag ∧ (t.path key).txAlive = k.txAlive + 1 ∧ others t
          ((s.requestCode p.path fn q).1 ≠ 0 → ∃ t, exec i s = .next (s.after t) ∧ answers t (s.requestCode p.path fn q).1 [] false
            ∧ ((s.requestCode p.path fn q).1 ≠ 9 ∨ q.idx ≠ 0x2000 → only t))
          ∧ (∀ e, n = 1 → s.requestCode p.path fn q = (0, some e) →
            ∃ t, exec i s = .next (s.after t) ∧ answers t 0 (s.readValue p.path q e).1 (s.readValue p.path q e).2 ∧ only t)
          ∧ (∀ e, n = 2 → s.requestCode p.path fn q = (0, some e) →
            let b := k.gathered e q
            (completes e q = false → ∃ t, exec i s = .next (s.after t) ∧ answers t 0 [] false ∧ only t
                ∧ (t.path key).segs = some (q.idx * 256 + q.sub, b))
            ∧ (completes e q = true → ∃ u t, exec i s = .next (s.after t) ∧ answers u 0 [] false ∧ only u
                ∧ (u.path key).segs = (if e.ty.segmented then none else k.segs)
                ∧ (∀ row, rowOf q.idx q.sub b = some row → exec row u = .next (u.after t))
                ∧ (rowOf q.idx q.sub b = none →
                  let v := leNat b
                  let kept := fun (j : Nat) => j ≠ q.idx * 256 + q.sub → tGet t.dict.vals j = tGet s.dict.vals j
                  t.base q.idx q.sub 0 = v ∧ (s.port.bells = [] → ∀ j, kept j)
                  ∧ (0x4010 ≤ q.idx → q.idx < 0x4020 → q.sub = 1 →
                      let l := q.idx - 0x4010
                      (v = 0 → (t.link l).st = .disabled ∧ (t.link l).txKey = none ∧ (t.link l).sending = [])
                      ∧ (v ≠ 0 → (s.link l).st = .disabled ∨ (s.link l).st = .down → (t.link l).lane = false
                          ∧ (t.link l).st = if 5 ≤ s.pow.bringup ∧ s.pow.bringup ≤ 7 then .training else .down)
                      ∧ (v ≠ 0 → (s.link l).st ≠ .disabled → (s.link l).st ≠ .down → t.link l = s.link l)
                      ∧ (∀ j, j ≠ l → t.link j = s.link j) ∧ (∀ j, kept j) ∧ t = { u with dict := { u.dict with vals := t.dict.vals }, links := t.links })
                  ∧ (0x5100 ≤ q.idx → q.idx < 0x5140 → q.sub = 5 → t.port.bells = [] ∧ t.cl = s.cl ∧ t.rt = s.rt ∧ t.links = s.links
                      ∧ (s.port.bells = [] → t.port = s.port ∧ t.counters = u.counters))
                  ∧ ((q.idx < 0x4010 ∨ 0x4020 ≤ q.idx ∨ q.sub ≠ 1) → (q.idx < 0x5100 ∨ 0x5140 ≤ q.idx ∨ q.sub ≠ 5) →
                      t = { u with dict := { u.dict with vals := t.dict.vals, compl := t.dict.compl }, isu := { u.isu with held := t.isu.held }
                                   pow := { u.pow with held := t.pow.held }, sec := t.sec }
                      ∧ (∀ j, kept j)
                      ∧ (q.idx ≠ 0x5300 → t.sec = s.sec)
                      ∧ (q.idx = 0x5300 → t.sec.log = s.sec.log ++ [
                          { seq := s.sec.log.length, mr := 5, kind := 8, bar := s.beat.bar.toNat, beat := s.beat.beat.toNat, detail := q.sub
                            digest := BitVec.ofNat 256 v }])
                      ∧ (s.running = true → 0x5000 ≤ q.idx → q.idx < 0x5300 → t.svc q.idx q.sub e.dflt = s.svc q.idx q.sub e.dflt)
                      ∧ (q.idx = 0x7000 → t.bound7 q.sub = s.bound7 q.sub)))))))))
  ∧ ∀ (s : State) (p : Fin 4) (fn : Fin 64),
    ((s.path (pathKey p fn)).segs = none → exec (.segmentTimeout p fn) s = .next s)
    ∧ ∀ g, (s.path (pathKey p fn)).segs = some g → ∃ t, exec (.segmentTimeout p fn) s = .next (s.after t)
      ∧ t.path (pathKey p fn) = { s.path (pathKey p fn) with segs := none } ∧ (∀ j, j ≠ pathKey p fn → tGet t.dict.paths j = tGet s.dict.paths j)
      ∧ (tGet t.counters ((0x9010 + p.val) * 256 + 6)).getD 0
          = BitVec.ofNat 64 (min (((tGet s.counters ((0x9010 + p.val) * 256 + 6)).getD 0).toNat + 1) (2 ^ 64 - 1))
      ∧ t = { s with dict := { s.dict with paths := t.dict.paths }, counters := t.counters }

/-- R573, R575, R576, R579, R580, R582, R585, R587, R588, R593, R607, R612: without input power no row of these changes anything. MODE and USER_OVERLAY come into
force at once while no routine runs, and at the next bar boundary otherwise, where the regions report under the new mode; PUT and REMOVE change one item of one overlay; a store keeps the old record until the new one is complete; DEFAULTS returns
every persistent entry and overlay to its default, but for an entry that takes no write while a routine runs (log 72); CLEAR_ALL clears the counters; COMMANDED drains or disables a cluster, or enables it. -/
def Obligations.Settings : Prop :=
  ∀ (s : State) (v : BitVec 8) (k : Fin 8) (data : Bytes) (w arg : BitVec 32) (ok : Bool) (n : Fin 48) (dyn : BitVec 7),
    (s.pow.on = false → ∀ i, i = .mode v ∨ i = .userOverlay v ∨ i = .overlayPut k data ∨ i = .overlayRemove k w ∨ i = .store arg ∨ i = .defaults arg
        ∨ i = .clearAll arg ∨ i = .commanded n v ∨ i = .endpointIdAssignment v dyn → exec i s = .next s)
    ∧ ((s.pow.on = true → s.modeOk v.toNat = true →
        (s.running = false → ∃ t, exec (.mode v) s = .next (s.after t) ∧ t.mode = v ∧ t.base 0x2000 1 2 = v.toNat ∧ t.dict.modeNext = none
          ∧ t.cl = s.cl ∧ t.rt = s.rt)
        ∧ (s.running = true → ∃ t, exec (.mode v) s = .next (s.after t) ∧ t.mode = s.mode ∧ t.base 0x2000 1 2 = v.toNat
          ∧ t.dict.modeNext = some (v.toNat, s.beat.bar.toNat) ∧ t.cl = s.cl))
      ∧ (s.modeOk v.toNat = false → ∃ t, exec (.mode v) s = .next (s.after t) ∧ t.mode = s.mode ∧ t.dict = s.dict ∧ t.rt = s.rt)
      ∧ (s.dict.modeNext = none → exec .modeTakesEffect s = .next s)
      ∧ ∀ a b, s.dict.modeNext = some (a, b) → (s.running = true → s.beat.bar.toNat = b → exec .modeTakesEffect s = .next s)
          ∧ (s.running = false ∨ s.beat.bar.toNat ≠ b → ∃ t, exec .modeTakesEffect s = .next (s.after t) ∧ t.mode = BitVec.ofNat 8 a
              ∧ t.dict = { s.dict with modeNext := none } ∧ t.cl = s.cl ∧ t.rt = s.rt ∧ t.beat = { s.beat with report := t.reportFrame }
              ∧ ∀ r, r < 8 → (t.monN r).safe = BitVec.ofNat 2 (t.reported (t.monN r))))
    ∧ ((s.pow.on = true → userOk v.toNat = true →
        (s.running = false → ∃ t, exec (.userOverlay v) s = .next (s.after t) ∧ t.dict.userOverlay = v.toNat ∧ t.dict.userNext = none ∧ t.mode = s.mode)
        ∧ (s.running = true → ∃ t, exec (.userOverlay v) s = .next (s.after t) ∧ t.dict.userOverlay = s.dict.userOverlay
          ∧ t.dict.userNext = some (v.toNat, s.beat.bar.toNat)))
      ∧ (userOk v.toNat = false → exec (.userOverlay v) s = .next s)
      ∧ (s.dict.userNext = none → exec .userOverlayTakesEffect s = .next s)
      ∧ ∀ a b, s.dict.userNext = some (a, b) → (s.running = true → s.beat.bar.toNat = b → exec .userOverlayTakesEffect s = .next s)
          ∧ (s.running = false ∨ s.beat.bar.toNat ≠ b → ∃ t, exec .userOverlayTakesEffect s = .next (s.after t)
              ∧ t.dict = { s.dict with userOverlay := a, userNext := none }))
    ∧ (let item := recField data 0 2 * 256 + recField data 2 1
       let change := fun (t : State) (g : Nat) => (∀ j, j ≠ k.val → t.overlay j = s.overlay j)
         ∧ (∀ x, x ≠ g → tGet (t.overlay k) x = tGet (s.overlay k) x) ∧ t.dict.vals = s.dict.vals ∧ t.mode = s.mode ∧ t.cl = s.cl
       (s.putOk k data = false → exec (.overlayPut k data) s = .next s)
       ∧ (s.pow.on = true → s.putOk k data = true → ∃ t, exec (.overlayPut k data) s = .next (s.after t) ∧ change t item
          ∧ tGet (t.overlay k) item = some (recField data 4 (data.length - 4)))
       ∧ (s.removeOk k w.toNat = false → exec (.overlayRemove k w) s = .next s)
       ∧ (s.pow.on = true → s.removeOk k w.toNat = true → ∃ t, exec (.overlayRemove k w) s = .next (s.after t) ∧ change t w.toNat ∧ tGet (t.overlay k) w.toNat = none))
    ∧ (arg ≠ 0x524F5453 ∨ s.storeCode ≠ 0 → exec (.store arg) s = .next s)
    ∧ (s.pow.on = true → arg = 0x524F5453 → s.storeCode = 0 → exec (.store arg) s = .next (s.after { s with dict := { s.dict with
          storeStatus := 1, storing := some (imageOf s.dict.vals s.dict.overlays.toList) } }))
    ∧ (s.dict.storing = none → exec (.storeDone ok) s = .next s)
    ∧ (∀ img, s.dict.storing = some img → ∃ t, exec (.storeDone ok) s = .next (s.after t) ∧ t.dict.storing = none ∧ t.dict.vals = s.dict.vals
        ∧ (ok = true → t.dict.storeStatus = 2 ∧ t.dict.storeCount = s.dict.storeCount + 1
            ∧ (∀ c, s.dict.inForce = some c → t.dict.inForce = some (1 - c) ∧ t.dict.commits[c] = s.dict.commits[c]))
        ∧ (ok = false → t.dict.storeStatus = 3 ∧ t.dict.banks = s.dict.banks ∧ t.dict.commits = s.dict.commits ∧ t.dict.inForce = s.dict.inForce))
    ∧ (arg ≠ 0x544C4644 → exec (.defaults arg) s = .next s)
    ∧ (s.pow.on = true → arg = 0x544C4644 → ∃ t, exec (.defaults arg) s = .next (s.after t) ∧ (∀ j, t.overlay j = [])
        ∧ ∀ g ∈ selectEntries (fun _ _ e => e.acc == Acc2.rwp), s.running = false ∨ keptWhileRunning g.1 g.2.1 = false →
            t.base g.1 g.2.1 g.2.2.dflt = g.2.2.dflt)
    ∧ (arg ≠ 0x52534C43 → exec (.clearAll arg) s = .next s)
    ∧ (s.pow.on = true → arg = 0x52534C43 → exec (.clearAll arg) s = .next (s.after { s with counters := [] }))
    ∧ (s.lcMax ≤ n.val ∨ 1 < v.toNat → exec (.commanded n v) s = .next s)
    ∧ (s.pow.on = true → n.val < s.lcMax → v.toNat ≤ 1 → ∃ t, exec (.commanded n v) s = .next (s.after t) ∧ t.base (0x8000 + n.val) 1 1 = v.toNat
        ∧ (v = 0 → tGet t.actual n = some ((tGet s.actual n).getD (if s.running then 1 else 4)))
        ∧ (v = 1 → s.running = false → tGet s.actual n = some 4 → tGet t.actual n = none)
        ∧ (v = 1 → s.running = true ∨ tGet s.actual n ≠ some 4 → t.actual = s.actual)
        ∧ (∀ m, m ≠ n.val → tGet t.actual m = tGet s.actual m) ∧ t.cl = s.cl)
    ∧ (s.pow.on = true → exec (.endpointIdAssignment v dyn) s = .next (s.after { s with dict := { s.dict with eid := v, dynAddr := dyn } }))

/-! ## Loading, faults and snapshots -/

/-- R114, R529, R574, R637, R646, R650-R655: LOAD checks an image, FORMAT and SPACE among its codes, and ends LOADED or REFUSED with the code; START
arms a routine that may run; FAULT_ACK lets the module report READY; a snapshot writes every chunk that is still to write and is COMPLETE then; one that was
interrupted is resumed or discarded; a part of a neighbour's snapshot lands in the receive area, where that has room; a restore whose chunk fails its TAG
ends as FAILED. What is not accepted changes nothing. -/
def Obligations.LoadsFaultsAndSnapshots : Prop :=
  ∀ (s : State) (arg : BitVec 32) (part : BuddyPart),
    let voided := fun (t : State) => t.snap = { s.snap with resumable := false, stopped := false }
    (s.pow.on = false ∨ arg ≠ 0 ∨ s.loadOk = false → exec (.load arg) s = .next s)
    ∧ (s.pow.on = true → arg = 0 → s.loadOk = true →
        (s.loadBusy = true → ∃ t, exec (.load arg) s = .next (s.after t) ∧ t.rt = { s.rt with refusal := 0xD } ∧ t.dict = s.dict ∧ voided t)
        ∧ (s.loadBusy = false → ∃ t j, exec (.load arg) s = .next (s.after t) ∧ t.dict = { s.dict with load := some j } ∧ t.rt.loadStatus = 1
            ∧ t.rt.refusal = 0 ∧ t.rt.runState = (if s.rt.runState = 1 then 0 else s.rt.runState) ∧ t.bank = s.bank ∧ voided t
            ∧ (j.code ≠ 0 → t.rt.words = [] ∧ t.rt.routes = [])
            ∧ (let a := s.base 0x1100 1 0
               let format := (readHeader (s.bankView a 256)).formatOk
               (format = false → j.code = 1) ∧ (format = true → a % 64 ≠ 0 ∨ s.pageDomain a ≠ some 0 → j.code = 2))))
    ∧ (s.dict.load = none → exec .loadComplete s = .next s)
    ∧ (∀ j, s.dict.load = some j → ∃ t, exec .loadComplete s = .next (s.after t) ∧ t.dict = { s.dict with load := none }
        ∧ (j.code = 0 → t.rt = { s.rt with loadStatus := 2, refusal := 0 } ∧ t.sec.routineKey.isSome = true)
        ∧ (j.code ≠ 0 → t.rt = { s.rt with loadStatus := 3, refusal := BitVec.ofNat 8 j.code } ∧ t.sec = s.sec))
    ∧ (arg ≠ 0 ∨ s.startOk = false → exec (.start arg) s = .next s)
    ∧ (arg = 0 → s.startOk = true → ∃ t, exec (.start arg) s = .next (s.after t) ∧ t.rt.runState = 1 ∧ t.rt.armedBar = s.base 0x1100 7 0
        ∧ 2 ≤ barGap s.beat.bar.toNat t.rt.armedBar ∧ t.rt.armedSeg = s.base 0x1320 1 0 ∧ t.rt.armedRun = s.base 0x1320 2 0 ∧ s.rt.loadStatus = 2
        ∧ voided t ∧ t = { s with rt := t.rt, snap := t.snap })
    ∧ (arg ≠ 0x4B434146 ∨ s.ackRefused = true → exec (.faultAck arg) s = .next s)
    ∧ (arg = 0x4B434146 → s.ackRefused = false →
        exec (.faultAck arg) s = .next (s.after { s with rt := { s.rt with faultAcked := s.rt.faultReport } }))
    ∧ (arg ≠ 0x50414E53 ∨ s.snapBusy = true ∨ s.snapRefused = true → exec (.snapshot arg) s = .next s)
    ∧ (arg = 0x50414E53 → s.snapBusy = false → s.snapRefused = false → ∃ t, exec (.snapshot arg) s = .next (s.after t)
        ∧ (s.toBuddy = false ∨ slotNeed s.directory ≤ s.slotRoom → t.snap.status = 1 ∧ t.snap.action = 1 ∧ t.snap.progress = 0
            ∧ t.snap.chunks = s.directory ∧ t.snap.slotGen = (s.newestSlot.map (·.2)).getD 0 + 1
            ∧ (∀ g, s.newestSlot = some g → t.snap.slot = 1 - g.1) ∧ t.snap.place = s.slotAt t.snap.slot)
        ∧ (s.toBuddy = true → s.slotRoom < slotNeed s.directory → t.snap.status = 4 ∧ t.snap.action = 0)
        ∧ t = { s with snap := t.snap, host := t.host, buddy := t.buddy })
    ∧ (s.snap.action ≠ 1 → exec (.snapshotDone none) s = .next s)
    ∧ (s.snap.action = 1 → s.bankErr = [] → (∀ n, n < 48 → (s.clus n).upsets = []) → ∃ t, exec (.snapshotDone none) s = .next (s.after t)
        ∧ t.snap.status = 2 ∧ t.snap.action = 0 ∧ t.snap.gen = BitVec.ofNat 32 s.snap.slotGen ∧ t.snap.chunks.length = s.snap.chunks.length
        ∧ (∀ c ∈ t.snap.chunks, c.written = true)
        ∧ t = { s with snap := t.snap, host := t.host, buddy := t.buddy, bankUse := t.bankUse, counters := t.counters })
    ∧ (let room := s.inForce 0x1310 8 / 2 * 2 ^ 26
       let a := s.inForce 0x1310 7 * 2 ^ 26 + part.slot.val * room + part.off
       (s.pow.on = false ∨ s.running = true ∨ s.pow.bringup ≠ 7 ∨ room < part.off + part.data.length ∨ part.data = []
            ∨ s.foreignBank 0 a part.data.length = true → exec (.snapshotDone (some part)) s = .next s)
       ∧ (s.pow.on = true → s.running = false → s.pow.bringup = 7 → part.off + part.data.length ≤ room → part.data ≠ [] →
            s.foreignBank 0 a part.data.length = false → s.bankErr = [] → ∃ t, exec (.snapshotDone (some part)) s = .next (s.after t)
              ∧ (∀ g, a ≤ 64 * g → 64 * g + 64 ≤ a + part.data.length →
                  readMem t.bank (64 * g) 64 = s.pageCrypt true (64 * g) ((part.data.drop (64 * g - a)).take 64))
              ∧ (∀ b, b / 64 < a / 64 ∨ (a + part.data.length - 1) / 64 < b / 64 → readByte t.bank b = readByte s.bank b)
              ∧ t.snap = s.snap ∧ t.cl = s.cl ∧ t.dict = s.dict))
    ∧ (arg ≠ 0x52545352 ∨ s.snapBusy = true ∨ s.restoreRefused = true → exec (.restore arg) s = .next s)
    ∧ (arg = 0x52545352 → s.snapBusy = false → s.restoreRefused = false → ∃ t g, exec (.restore arg) s = .next (s.after t) ∧ s.newestSlot = some g
        ∧ t.snap.status = 5 ∧ t.snap.action = 2 ∧ t.snap.slot = g.1 ∧ t.snap.slotGen = g.2 ∧ t.snap.chunks = s.slotDirectory g.1
        ∧ t = { s with snap := t.snap })
    ∧ (s.snap.action ≠ 2 → exec .restoreDone s = .next s)
    ∧ (s.snap.action = 2 →
        (s.snap.chunks = [] → ∃ t, exec .restoreDone s = .next (s.after t) ∧ t.snap = { s.snap with status := 6, action := 0 }
          ∧ t.base 0x1320 1 0 = recField (readMem (s.target s.snap.buddy) s.snap.place 4096) 0x30 4
          ∧ t.base 0x1320 2 0 = recField (readMem (s.target s.snap.buddy) s.snap.place 4096) 0x34 4 ∧ t.bank = s.bank ∧ t.cl = s.cl)
        ∧ ∀ c rest, s.snap.chunks = c :: rest →
          leNat (gcmTag ((s.snapKey c.kd).getD []) (chunkIv s.snap.slotGen 0 s.snap.slot) c.head
            (readMem (s.target s.snap.buddy) (s.snap.place + c.at_ * 65536) c.len)) ≠ c.tag.toNat →
          ∃ t r, exec .restoreDone s = .next (s.after t) ∧ t.snap.status = 4 ∧ t.snap.action = 0 ∧ t.errs.head? = some r ∧ r.cls = 0
            ∧ r.cause = 0x86 ∧ t.cl = s.cl)
    ∧ (arg ≠ 0x4D555352 ∨ s.snapBusy = true ∨ s.resumeRefused = true → exec (.snapResume arg) s = .next s)
    ∧ (arg = 0x4D555352 → s.snapBusy = false → s.resumeRefused = false →
        exec (.snapResume arg) s = .next (s.after { s with snap := { s.snap with status := 1, action := 1, resumable := false, stopped := false } }))
    ∧ (arg ≠ 0x43534944 ∨ s.snapBusy = true ∨ s.snap.status ≠ 3 → exec (.snapDiscard arg) s = .next s)
    ∧ (s.pow.on = false → exec (.snapDiscard arg) s = .next s)
    ∧ (s.pow.on = true → arg = 0x43534944 → s.snapBusy = false → s.snap.status = 3 → ∃ t, exec (.snapDiscard arg) s = .next (s.after t)
        ∧ t.snap = { s.snap with status := 0, resumable := false, stopped := false, chunks := [] }
        ∧ readByte (t.target s.snap.buddy) (s.snap.place + 8) = 0 ∧ t = { s with snap := t.snap, host := t.host, buddy := t.buddy })

/-! ## Resets and bring-up -/

/-- R594, R595, R609, R612, R614-R619, R626, R632, R668, R669: power in range starts a cold reset, power out of range leaves only what is non-volatile; a
module reset keeps the conversion and the error log; a warm reset keeps bank memory, settings and the floor of resident sets that are settled, dirty or
unsettled, ends an invocation, loses beat lock, trains the links in use, and waits for REF100. A pin low for 16 µs acts as its command and holds the reset
until it rises; boot begins once the pins are high, and reads the slots. A reset that is barred, or a wrong argument, changes nothing. -/
def Obligations.Resets : Prop :=
  ∀ (s : State) (vin us : Nat) (arg : BitVec 32) (b : Bool),
    let kept := fun (t : State) => t.sec.images = s.sec.images ∧ t.sec.minSvn = s.sec.minSvn ∧ t.dict.banks = s.dict.banks
      ∧ t.dict.commits = s.dict.commits ∧ t.host = s.host ∧ (∀ l, l < 16 → (t.link l).cable = (s.link l).cable)
    let cleared := fun (t : State) => t.bank = [] ∧ (∀ n, (t.clus n).floor = []) ∧ t.running = false ∧ t.beat.locked = false ∧ t.skips = []
      ∧ ∀ l, l < 16 → (t.link l).st = .down
    let warm := fun (t : State) (cause : BitVec 8) => t.pow.bringup = (if s.pow.ref100 then 3 else 2) ∧ t.pow.lastReset = 3 ∧ t.pow.resetCause = cause ∧ t.pow.warm = true
      ∧ t.beat.locked = false ∧ t.beat.holdReq = true ∧ t.beat.cause = 6 ∧ t.running = false ∧ t.bank = s.bank ∧ t.dict = s.dict ∧ t.mode = s.mode
      ∧ t.sec.staged = none ∧ t.sec.storing = none ∧ (∀ d, d < 10 → t.domN d = { stopped := s.rt.faultReport })
      ∧ (∀ n, n < 48 → (∀ a, readByte (t.clus n).floor a = if t.marchSkips n a then readByte (s.clus n).floor a else 0)
          ∧ (t.clus n).fenced = (s.clus n).fenced)
      ∧ ∀ l, l < 16 → (t.link l).txKey = none ∧ (t.link l).txSeq = 0
          ∧ (t.link l).st = if (s.link l).st = .disabled then .disabled else if s.linkUsed l then .training else .down
    let mod := fun (t : State) (cause : BitVec 8) => kept t ∧ cleared t ∧ t.pow.bringup = 2 ∧ t.pow.lastReset = 2 ∧ t.pow.resetCause = cause
      ∧ t.pow.pwrgd = s.pow.pwrgd ∧ (t.errs = s.errs ∨ ∃ r, t.errs = (r :: s.errs).take 16384)
    (let starts := !s.pow.on && !s.pow.trip && 44000 ≤ vin && vin ≤ 60000 && (!decide (60000 < s.pow.vin.toNat) || vin < 58000)
     (starts = false → exec (.coldReset vin) s = .next s)
     ∧ (starts = true → ∃ t, exec (.coldReset vin) s = .next (s.after t) ∧ kept t ∧ cleared t ∧ t.pow.on = true ∧ t.pow.bringup = 1
          ∧ t.pow.lastReset = 1 ∧ t.pow.resetCause = s.pow.resetCause))
    ∧ (s.pow.on = false ∨ (40000 ≤ vin ∧ vin ≤ 60000) → exec (.powerLoss vin) s = .next s)
    ∧ (s.pow.on = true → vin < 40000 ∨ 60000 < vin → ∃ t, exec (.powerLoss vin) s = .next (s.after t) ∧ kept t ∧ cleared t ∧ t.pow.on = false
        ∧ t.pow.bringup = 0 ∧ t.pow.resetCause = 1 ∧ t.pow.trip = false ∧ t.errs = s.errs)
    ∧ (s.pow.trip = false ∨ us < 1000 → exec (.thermtripRelease us) s = .next s)
    ∧ (s.pow.trip = true → 1000 ≤ us → exec (.thermtripRelease us) s = .next (s.after { s with pow := { s.pow with trip := false } }))
    ∧ (arg ≠ 0x5453524D ∨ s.moduleBarred = true → exec (.moduleReset arg) s = .next s)
    ∧ (arg = 0x5453524D → s.moduleBarred = false → ∃ t, exec (.moduleReset arg) s = .next (s.after t) ∧ mod t 4)
    ∧ (arg ≠ 0x54535257 ∨ s.warmBarred = true → exec (.warmReset arg) s = .next s)
    ∧ (arg = 0x54535257 → s.warmBarred = false → ∃ t, exec (.warmReset arg) s = .next (s.after t) ∧ warm t 4)
    ∧ (us < 16 ∨ s.pow.modrst = false → exec (.modrstN us) s = .next s)
    ∧ (16 ≤ us → s.pow.modrst = true →
        (s.moduleBarred = true → exec (.modrstN us) s = .next (s.after { s with pow := { s.pow with modrst := false } }))
        ∧ (s.moduleBarred = false → ∃ t, exec (.modrstN us) s = .next (s.after t) ∧ mod t 3 ∧ t.pow.modrst = false))
    ∧ (us < 16 ∨ s.pow.warmrst = false → exec (.warmrstN us) s = .next s)
    ∧ (16 ≤ us → s.pow.warmrst = true →
        (s.warmBarred = true → exec (.warmrstN us) s = .next (s.after { s with pow := { s.pow with warmrst := false } }))
        ∧ (s.warmBarred = false → ∃ t, exec (.warmrstN us) s = .next (s.after t) ∧ warm t 3 ∧ t.pow.warmrst = false))
    ∧ ((if b then s.pow.warmrst else s.pow.modrst) = true → exec (.filteredRisingEdge b) s = .next s)
    ∧ ((if b then s.pow.warmrst else s.pow.modrst) = false → ∃ t, exec (.filteredRisingEdge b) s = .next (s.after t)
        ∧ t.pow.warmrst = (s.pow.warmrst || b) ∧ t.pow.modrst = (s.pow.modrst || !b) ∧ t.bank = s.bank ∧ t.cl = s.cl
        ∧ (s.pow.on = false ∨ (s.pow.bringup ≠ 1 ∧ s.pow.bringup ≠ 2) → t = { s with pow := t.pow, scanned := t.scanned } ∧ t.pow.bringup = s.pow.bringup
            ∧ t.scanned = (if b then s.scanned else Vector.replicate 2 none))
        ∧ (s.pow.on = true → s.pow.bringup = 1 → s.pow.pwrgd = true → (if b then s.pow.modrst else s.pow.warmrst) = true →
            t.pow.bringup = 2 ∧ t.dict.inForce = s.commitSlot ∧ t.scanned = Vector.replicate 2 none))

/-- R602, R616, R620-R623, R626-R629, R641, R668: bring-up goes from stage to stage: regulation, firmware, REF100, self-tests, memory training with zeros in
every burst, link training; a failure is reported with its test and stops it, or fences its cluster or the clusters of its region, and a word that names no block is none. A cluster reset and a link reset clear
their block alone, the link reset counting the signal words that it drops, and the self-test of a cluster decides whether it is enabled or fenced. -/
def Obligations.BringUp : Prop :=
  ∀ (s : State) (arg : BitVec 32) (b : Bool) (n : Fin 48) (l : BitVec 16) (p : Fin 32) (rest : List (Fin 32)) (u : Fin 8),
    let alone := s.aloneIn s.nowCtx
    let pow := fun (i : Instr) (q : Power) => exec i s = .next (s.after { s with pow := q })
    (s.pow.on = false ∨ s.pow.bringup ≠ 1 ∨ s.pow.pwrgd = true → exec (.powerStageDone b) s = .next s)
    ∧ (s.pow.on = true → s.pow.bringup = 1 → s.pow.pwrgd = false → ∃ t, exec (.powerStageDone b) s = .next (s.after t)
        ∧ (b = true → t.pow.pwrgd = true ∧ t.pow.bringup = if s.pow.modrst && s.pow.warmrst then 2 else 1)
        ∧ (b = false → t.pow.on = false ∧ t.pow.bringup = 0))
    ∧ (s.pow.bringup ≠ 2 ∨ s.sec.recovery = true ∨ s.sec.cleared = true → exec .bootDone s = .next s)
    ∧ (s.pow.bringup = 2 → s.sec.recovery = false → s.sec.cleared = false →
        pow .bootDone { s.pow with booted := true, bringup := if s.pow.ref100 then 3 else 2 })
    ∧ (s.pow.on = false → exec .ref100Valid s = .next s)
    ∧ (s.pow.on = true → pow .ref100Valid { s.pow with
          ref100 := true, bringup := if s.pow.bringup == 2 && s.pow.booted then 3 else s.pow.bringup })
    ∧ (∀ f, s.pow.bringup ≠ 3 ∨ (s.pow.lastReset = 3 ∧ s.pow.warmrst = false) → exec (.selftestDone f) s = .next s)
    ∧ (s.pow.bringup = 3 → s.pow.lastReset ≠ 3 ∨ s.pow.warmrst = true →
        (∃ t, exec (.selftestDone []) s = .next (s.after t) ∧ t.pow.bringup = (if s.pow.warm then 5 else 4) ∧ t.cl = s.cl ∧ t.errs = s.errs
          ∧ t.bank = s.bank)
        ∧ (locNames l.toNat = false → exec (.selftestDone [l]) s = exec (.selftestDone []) s)
        ∧ (locNames l.toNat = true → bits l.toNat 12 10 = 7 → ∃ t, exec (.selftestDone [l]) s = .next (s.after t) ∧ t.pow.bringup = 0xF
            ∧ t.pow.bringupFault = l ∧ (alone → ∃ r ∈ t.errs, r.cls = 4 ∧ r.cause = 8 ∧ r.seq = s.errSeq.toNat ∧ r.loc = l.toNat
              ∧ r.detail = padTo 32 [BitVec.ofNat 8 (testOf l.toNat)]))
        ∧ (locNames l.toNat = true → bits l.toNat 12 10 = 6 → ∃ t, exec (.selftestDone [l]) s = .next (s.after t)
            ∧ t.pow.bringup = (if s.pow.warm then 5 else 4)
            ∧ (∀ c ∈ s.ofRegion (bits l.toNat 15 15 * 4 + bits l.toNat 14 13), c < 48 → (t.clus c).fenced = true ∧ (s.unfenced c → tGet t.actual c = some 6))
            ∧ (alone → ∃ r ∈ t.errs, r.cls = 3 ∧ r.cause = 8 ∧ r.seq = s.errSeq.toNat ∧ r.loc = l.toNat
              ∧ r.detail = padTo 32 [BitVec.ofNat 8 (testOf l.toNat)]))
        ∧ (let c := s.logicalOf ((bits l.toNat 15 15 * 4 + bits l.toNat 14 13) * 6 + bits l.toNat 12 10)
           locNames l.toNat = true → bits l.toNat 12 10 < 6 → c < 48 → ∃ t, exec (.selftestDone [l]) s = .next (s.after t)
            ∧ t.pow.bringup = (if s.pow.warm then 5 else 4) ∧ (t.clus c).fenced = true ∧ (s.unfenced c → tGet t.actual c = some 5)
            ∧ (alone → ∃ r ∈ t.errs, r.cls = 3 ∧ r.cause = 8 ∧ r.seq = s.errSeq.toNat ∧ r.loc = l.toNat
              ∧ r.detail = padTo 32 [BitVec.ofNat 8 (testOf l.toNat)])))
    ∧ (∀ f, s.pow.bringup ≠ 4 → exec (.memtrainDone f) s = .next s)
    ∧ (s.pow.bringup = 4 →
        (∃ t, exec (.memtrainDone []) s = .next (s.after t) ∧ t.bank = [] ∧ t.bankScrub = []
          ∧ (∀ e ∈ t.bankErr, e.2.defect ≠ 0 ∧ e.2.stored = 0) ∧ t.pow.bringup = 5 ∧ (∀ q, q < 32 → tGet t.pkgs q = some 1)
          ∧ ∀ k, k < 16 → (s.linkUsed k = true → (s.link k).st = .down → (t.link k).st = .training)
              ∧ (s.linkUsed k = false → t.link k = s.link k))
        ∧ ∃ t, exec (.memtrainDone (p :: rest)) s = .next (s.after t) ∧ t.pow.bringup = 0xF ∧ tGet t.pkgs p = some 2 ∧ t.bank = s.bank
          ∧ t.links = s.links)
    ∧ (s.pow.bringup ≠ 5 → s.pow.bringup ≠ 6 → s.pow.bringup ≠ 7 → exec .linktrainDone s = .next s)
    ∧ (s.pow.bringup = 5 ∨ s.pow.bringup = 6 ∨ s.pow.bringup = 7 → ∃ t, exec .linktrainDone s = .next (s.after t)
        ∧ t.pow.bringup = (if s.pow.bringup = 5 then 6 else s.pow.bringup) ∧ t.cl = s.cl ∧ t.bank = s.bank
        ∧ ∀ k, k < 16 → t.link k = if (s.link k).st = .training ∧ (s.link k).lane = false then { s.link k with st := .down } else s.link k)
    ∧ (s.pow.on = false ∨ s.clusterResetOk arg.toNat = false → exec (.clusterReset arg) s = .next s)
    ∧ (s.pow.on = true → s.clusterResetOk arg.toNat = true → ∃ t, exec (.clusterReset arg) s = .next (s.after t) ∧ t.pow.testing.contains arg.toNat = true
        ∧ (arg.toNat < 48 → (t.clus arg.toNat).mx = {} ∧ (t.clus arg.toNat).caller = {} ∧ (t.clus arg.toNat).tickets = 1
            ∧ (t.clus arg.toNat).fenced = (s.clus arg.toNat).fenced
            ∧ ∀ a, readByte (t.clus arg.toNat).floor a = if s.keepsByte arg.toNat a then readByte (s.clus arg.toNat).floor a else 0)
        ∧ (∀ m, m ≠ arg.toNat → t.clus m = s.clus m) ∧ t = { s with cl := t.cl, pow := { s.pow with testing := t.pow.testing } })
    ∧ (s.pow.testing.contains n.val = false → ∀ f, exec (.clusterSelftestDone n f) s = .next s)
    ∧ (s.pow.testing.contains n.val = true →
        (∃ t, exec (.clusterSelftestDone n none) s = .next (s.after t) ∧ t.pow.testing.contains n.val = false ∧ (t.clus n).fenced = false
          ∧ tGet t.actual n = (if s.base (0x8000 + n.val) 1 1 = 1 then none else some 4))
        ∧ ∃ t, exec (.clusterSelftestDone n (some u)) s = .next (s.after t) ∧ t.pow.testing.contains n.val = false ∧ (t.clus n).fenced = true
          ∧ (s.unfenced n → tGet t.actual n = some 5)
          ∧ (alone → ∃ r ∈ t.errs, r.cls = 3 ∧ r.cause = 8 ∧ r.seq = s.errSeq.toNat ∧ r.loc = s.locLc n u 0
              ∧ r.detail = padTo 32 [BitVec.ofNat 8 (testOf (s.locLc n u 0))]))
    ∧ (s.pow.on = false ∨ s.linkResetOk arg.toNat = false → exec (.linkReset arg) s = .next s)
    ∧ (s.pow.on = true → s.linkResetOk arg.toNat = true → ∃ t, exec (.linkReset arg) s = .next (s.after t)
        ∧ (t.link arg.toNat).st = (if (s.link arg.toNat).st = .disabled then .disabled else .training) ∧ (t.link arg.toNat).txKey = none
        ∧ (t.link arg.toNat).txSeq = 0 ∧ (t.link arg.toNat).rxSeen = 0 ∧ (t.link arg.toNat).replay = []
        ∧ (t.link arg.toNat).cable = (s.link arg.toNat).cable ∧ (∀ m, m ≠ arg.toNat → t.link m = s.link m)
        ∧ (∀ g ∈ t.landed (arg.toNat / 8), ¬ (arg.toNat % 8 * 32768 ≤ g.pos ∧ g.pos < arg.toNat % 8 * 32768 + 32768))
        ∧ t.counters = (s.count 0x9004 5 (s.link arg.toNat).signalsHeld).counters
        ∧ t = { s with links := t.links, landing := t.landing, counters := t.counters })

/-! ## Power, clocks and thermal -/

/-- R18, R20, R51, R100, R597-R600, R602, R603, R605, R606, R612, R664, R671: a sensor without a valid sample for 8 beats fails; a droop step, a power step
and thermal steps take effect beyond their limits, and are released by their counts; a rail's set point follows the setting; a stretched period costs its region, or its die clock, a cycle; a generator that loses lock fences its region; the loss of REF100 ends beat lock; a cable's
presence is noted. -/
def Obligations.PowerAndClocks : Prop :=
  ∀ (s : State) (r : Fin 8) (i : Fin 4) (d : Fin 10) (mv : Nat) (l : Fin 16) (b : Bool),
    let m := s.monN r
    let others := fun (t : State) => (∀ q, q ≠ r.val → t.monN q = s.monN q) ∧ t = { s with pow := { s.pow with mon := t.pow.mon } }
    (∃ t, exec (.thermalStepRelease r) s = .next (s.after t) ∧ others t
      ∧ ∀ j : Fin 4, (t.monN r).steps[j] = if m.steps[j].on = true ∧ 64 ≤ m.steps[j].cool then { on := false, cool := 0 } else m.steps[j])
    ∧ (∃ t, exec (.droopStepRelease r) s = .next (s.after t) ∧ others t
      ∧ t.monN r = if m.droop.on = true ∧ 64 ≤ m.droop.cool then { m with droop := { on := false, cool := 0 }, droopSet := 3 } else m)
    ∧ (m.sensors[i].failed = true ∨ m.sensors[i].missed < 8 → exec (.sensorFailed r i) s = .next s)
    ∧ (m.sensors[i].failed = false → 8 ≤ m.sensors[i].missed → ∃ t e, exec (.sensorFailed r i) s = .next (s.after t)
        ∧ (t.monN r).sensors[i].failed = true ∧ (t.monN r).anyFailed = true ∧ (∀ j : Fin 4, j ≠ i → (t.monN r).sensors[j] = m.sensors[j])
        ∧ (∀ q, q ≠ r.val → t.monN q = s.monN q) ∧ t.errs.head? = some e ∧ e.cls = 0 ∧ e.cause = 7 ∧ t.cl = s.cl)
    ∧ (s.pow.on = false ∨ droopThreshold s.beat.setting.toNat ≤ mv → exec (.droopStretch d mv) s = .next s)
    ∧ (s.pow.on = true → mv < droopThreshold s.beat.setting.toNat → ∃ t, exec (.droopStretch d mv) s = .next (s.after t)
        ∧ t.domN d = { s.domN d with stretched := (s.domN d).stretched + 1, left := (s.domN d).left - 1 } ∧ (∀ e, e ≠ d.val → t.domN e = s.domN e)
        ∧ (d.val < 8 → t.monN d = { s.monN d with stretchNow := (s.monN d).stretchNow + 1 }) ∧ (∀ e, e ≠ d.val → t.monN e = s.monN e)
        ∧ t = { s with dom := t.dom, pow := { s.pow with mon := t.pow.mon } })
    ∧ (s.pow.on = false ∨ m.lock = false → exec (.generatorLockLoss r) s = .next s)
    ∧ (s.pow.on = true → m.lock = true → ∃ t, exec (.generatorLockLoss r) s = .next (s.after t) ∧ (t.monN r).lock = false
        ∧ (∀ n ∈ s.ofRegion r, n < 48 → (t.clus n).fenced = true ∧ (s.unfenced n → tGet t.actual n = some 6))
        ∧ (s.aloneIn s.nowCtx → s.recorded t 3 7))
    ∧ (s.pow.on = false → exec .ref100Loss s = .next s)
    ∧ (s.pow.on = true → ∃ t, exec .ref100Loss s = .next (s.after t) ∧ t.pow.ref100 = false ∧ t.beat.locked = false ∧ t.beat.holdReq = true
        ∧ t.beat.cause = 6 ∧ t.running = false
        ∧ (s.aloneIn s.nowCtx → ∃ e ∈ t.errs, e.seq = s.errSeq.toNat ∧ e.cls = 5 ∧ e.cause = 0x0B ∧ e.detail = padTo 32 (leBytes 16 s.beat.frame.toNat)))
    ∧ (∃ t, exec (.cblPrsntN l b) s = .next (s.after t) ∧ t.link l = { s.link l with cable := b } ∧ (∀ k, k ≠ l.val → t.link k = s.link k)
        ∧ t = { s with links := t.links })
    ∧ (s.pow.step = true → 10 * s.pow.watts.toNat < 9 * s.powerLimit →
        exec .powerStepRelease s = .next (s.after { s with pow := { s.pow with step := false, stepSet := 3 } }))
    ∧ (s.pow.step = false ∨ 9 * s.powerLimit ≤ 10 * s.pow.watts.toNat → exec .powerStepRelease s = .next s)
    ∧ (let t := s.judgeDroop r
       (s.bound7 9 < (s.domN r).stretched → (t.monN r).droop = { on := true, cool := 0 } ∧ (t.monN r).droopSet ≤ max 1 (s.beat.setting.toNat - 1))
       ∧ ((s.domN r).stretched ≤ s.bound7 9 → (t.monN r).droop.on = m.droop.on ∧ (t.monN r).droopSet = m.droopSet) ∧ (t.domN r).stretched = 0)
    ∧ (∀ temps, let t := s.sampleRegion r temps
       ∀ j : Fin 4, (s.stepAt j ≤ (t.monN r).temp → (t.monN r).steps[j] = { on := true, cool := 0 })
        ∧ ((t.monN r).temp < s.stepAt j → (t.monN r).steps[j].on = m.steps[j].on))
    ∧ (∀ w, (s.powerLimit < w → (s.judgePower w).pow.step = true ∧ (s.judgePower w).pow.stepSet = max 1 (s.beat.setting.toNat - 1))
        ∧ (w ≤ s.powerLimit → (s.judgePower w).pow.step = s.pow.step))
    ∧ (s.powerBeat.monN r).lock = true
    ∧ (s.powerBeat.monN r).corePoint = corePointOf (max s.beat.setting.toNat ((s.beat.announced.map (·.1)).getD 0))
end

