-- ==== Sys2Proof/Laws/Events.lean ====
section
/-! SUPPORT. What the operations of step time do, said once: the next due effect of a domain takes place, or nothing does. -/

namespace Sys2Proof.Laws

open Sys2Proof Sys2Proof.Machine

/-- The next effect that is due is the first one of its domain, and comes before the next step cycle. -/
theorem due_head {x : Dom} {t : Nat} {e : Ev} (h : x.due t 0 = some e) : x.evs = e :: x.evs.tail ∧ e.t < t := by
  unfold Dom.due at h
  cases hx : x.evs with
  | nil => simp [hx] at h
  | cons a l =>
    simp [hx, Option.filter] at h
    obtain ⟨h1, rfl⟩ := h
    exact ⟨rfl, h1⟩

theorem moverAt_evs (x : Dom) (l : List Ev) (t : Nat) : ({x with evs := l} : Dom).moverAt t = x.moverAt t := rfl

/-- A row of the table lets its effect take place where that is the next one due. -/
theorem fire_next (s : State) (d : Nat) (like stop : EvK → Bool) (e : Ev) (h : s.nextDue d e) (hl : like e.k = true) (hs : stop e.k = true) :
    s.fire d like stop = (s.takeNext d).runEv d e.t e.k := by
  obtain ⟨h1, h2⟩ := h
  obtain ⟨h3, h4⟩ := due_head h1
  unfold State.fire
  have hd : d < 10 := by
    by_contra hd
    simp [State.domN, hd, Dom.due] at h1
  rw [if_pos (by rw [h3]; simp [hl, h4])]
  unfold evFuel State.runUntil
  rw [h1]; simp only [hs, ↓reduceIte]
  unfold State.happen State.takeNext
  rw [if_neg]
  simp only [Bool.and_eq_true, Bool.not_eq_true', not_and, Bool.not_eq_false]
  intro hm
  simpa [State.domN, State.modDom, hd, vmod, moverAt_evs] using h2 hm

/-- A row whose effects are not due changes nothing. -/
theorem fire_none (s : State) (d : Nat) (like stop : EvK → Bool) (h : ∀ e ∈ (s.domN d).evs, e.t < (s.domN d).nt → like e.k = false) :
   s.fire d like stop = s := by
  unfold State.fire
  rw [if_neg]
  simpa using h

/-- Where nothing is due before a stamp and phase, nothing takes place. -/
theorem runTo_quiet (s : State) (d t ph k : Nat) (h : (s.domN d).due t ph = none) : s.runTo d t ph k = s := by
  cases k with
  | zero => rfl
  | succ k => rw [State.runTo, h]

/-- Where nothing is due in a domain, its effects up to its next step cycle are none. -/
theorem flush_quiet (s : State) (d : Nat) (h : s.quiet d) : s.flush d = s := runTo_quiet s d _ _ _ h

end Sys2Proof.Laws
end

