-- ==== Sys2Proof/Laws/Memory.lean ====
section
/-! SUPPORT. Laws of memory and of tables: what a read gives after a write, that a write leaves every other place alone, and that every
operation keeps the canonical form `memWf`. -/

namespace Sys2Proof.Laws

open Sys2Proof.Machine

/-! ## Tables -/

theorem tGet_tPut {α : Type} (t : Table α) (a k : Nat) (v : α) : tGet (tPut t a v) k = if k = a then some v else tGet t k := by
  induction t with
  | nil => simp [tPut, tGet, eq_comm]
  | cons e t ih =>
    obtain ⟨b, w⟩ := e
    simp only [tPut]
    split <;> [skip; split] <;> simp only [tGet, ih] <;> split <;> split <;> (try split) <;> first | rfl | omega

theorem tGet_tDel {α : Type} (t : Table α) (a k : Nat) : tGet (tDel t a) k = if k = a then none else tGet t k := by
  induction t with
  | nil => simp [tDel, tGet]
  | cons e t ih =>
    obtain ⟨b, w⟩ := e
    unfold tDel at ih ⊢
    by_cases hb : b = a
    · subst hb
      simp only [List.filter_cons, bne_self_eq_false, tGet]
      simp only [Bool.false_eq_true, if_false, ih]
      split
      · rfl
      · next h => rw [if_neg (Ne.symm h)]
    · have : (b != a) = true := by simp [hb]
      simp only [List.filter_cons, this, if_true, tGet, ih]
      split <;> split <;> first | rfl | omega

/-! ## Reads -/

theorem readByte_absent (m : Mem) (k : Nat) (h : ∀ c ∈ m, c.1 ≠ k) : readByte m k = 0 := by
  induction m with
  | nil => rfl
  | cons c m ih =>
    rw [readByte, if_neg (h c (by simp)), ih fun d hd => h d (by simp [hd])]

theorem readByte_append_left (l m : Mem) (k : Nat) (h : ∀ c ∈ m, c.1 ≠ k) : readByte (l ++ m) k = readByte l k := by
  induction l with
  | nil => exact readByte_absent m k h
  | cons c l ih => simp only [List.cons_append, readByte, ih]

theorem readByte_append_right (l m : Mem) (k : Nat) (h : ∀ c ∈ l, c.1 ≠ k) : readByte (l ++ m) k = readByte m k := by
  induction l with
  | nil => rfl
  | cons c l ih => rw [List.cons_append, readByte, if_neg (h c (by simp)), ih fun d hd => h d (by simp [hd])]

theorem readByte_filter (p : Nat → Bool) (m : Mem) (k : Nat) :
    readByte (m.filter fun c => p c.1) k = if p k then readByte m k else 0 := by
  induction m with
  | nil => simp [readByte]
  | cons c m ih =>
    by_cases h : c.1 = k
    · subst h
      by_cases hp : p c.1 = true
      · simp [hp, readByte]
      · simp [hp, ih]
    · by_cases hp : p c.1 = true
      · simp [hp, readByte, h, ih]
      · simp [hp, readByte, h, ih]

/-- A read of `n` bytes is the bytes at the `n` addresses. -/
theorem readMem_eq (m : Mem) (a n : Nat) : readMem m a n = (List.range n).map fun i => readByte m (a + i) := by
  unfold readMem cutMem
  apply List.map_congr_left
  intro i hi
  rw [readByte_filter (fun k => decide (a ≤ k) && decide (k < a + n))]
  have := List.mem_range.1 hi
  rw [if_pos (by simp; omega)]

@[simp] theorem readMem_length (m : Mem) (a n : Nat) : (readMem m a n).length = n := by simp [readMem]

/-! ## Reads after writes -/

theorem cellsOf_keys (bs : Bytes) (a : Nat) : ∀ c ∈ cellsOf a bs, a ≤ c.1 ∧ c.1 < a + bs.length := by
  induction bs generalizing a with
  | nil => intro c hc; cases hc
  | cons b bs ih =>
    intro c hc
    simp only [cellsOf, List.length_cons] at hc ⊢
    split at hc
    · have := ih (a + 1) c hc; omega
    · rcases List.mem_cons.1 hc with rfl | hc
      · simp
      · have := ih (a + 1) c hc; omega

theorem readByte_cellsOf (bs : Bytes) (a k : Nat) :
    readByte (cellsOf a bs) k = if a ≤ k then (bs[k - a]?).getD 0 else 0 := by
  induction bs generalizing a with
  | nil => simp [cellsOf, readByte]
  | cons b bs ih =>
    have tail : readByte (cellsOf (a + 1) bs) k = if a + 1 ≤ k then (bs[k - (a + 1)]?).getD 0 else 0 := ih (a + 1)
    simp only [cellsOf]
    by_cases hk : k = a
    · subst hk
      by_cases hb : b = 0
      · rw [if_pos hb, tail, if_neg (by omega), if_pos (Nat.le_refl k)]; simp [hb]
      · rw [if_neg hb, readByte, if_pos rfl, if_pos (Nat.le_refl k)]; simp
    · have step : readByte (if b = 0 then cellsOf (a + 1) bs else (a, b) :: cellsOf (a + 1) bs) k = readByte (cellsOf (a + 1) bs) k := by
        split
        · rfl
        · rw [readByte, if_neg (Ne.symm hk)]
      rw [step, tail]
      by_cases h : a ≤ k
      · rw [if_pos h, if_pos (by omega)]
        obtain ⟨j, rfl⟩ : ∃ j, k = a + 1 + j := ⟨k - (a + 1), by omega⟩
        have e1 : a + 1 + j - (a + 1) = j := by omega
        have e2 : a + 1 + j - a = j + 1 := by omega
        rw [e1, e2, List.getElem?_cons_succ]
      · rw [if_neg h, if_neg (by omega)]

/-- A read after a write of a byte string: the string's byte inside its range, the old byte outside it. -/
theorem readByte_writeMem (m : Mem) (a : Nat) (bs : Bytes) (k : Nat) :
    readByte (writeMem m a bs) k = if a ≤ k ∧ k < a + bs.length then (bs[k - a]?).getD 0 else readByte m k := by
  unfold writeMem
  have low := readByte_filter (fun c => decide (c < a)) m k
  have high := readByte_filter (fun c => decide (a + bs.length ≤ c)) m k
  rcases Nat.lt_or_ge k a with h1 | h1
  · rw [if_neg (by omega), readByte_append_left _ _ _ fun c hc => ?_, readByte_append_left _ _ _ fun c hc => ?_, low, if_pos (by simpa using h1)]
    · have := cellsOf_keys bs a c hc; omega
    · have := List.of_mem_filter hc; simp at this; omega
  · rcases Nat.lt_or_ge k (a + bs.length) with h2 | h2
    · rw [if_pos ⟨h1, h2⟩, readByte_append_left _ _ _ fun c hc => ?_, readByte_append_right _ _ _ fun c hc => ?_, readByte_cellsOf, if_pos h1]
      · have := List.of_mem_filter hc; simp at this; omega
      · have := List.of_mem_filter hc; simp at this; omega
    · rw [if_neg (by omega), readByte_append_right _ _ _ fun c hc => ?_, high, if_pos (by simpa using h2)]
      rcases List.mem_append.1 hc with hc | hc
      · have := List.of_mem_filter hc; simp at this; omega
      · have := cellsOf_keys bs a c hc; omega

/-- A read after a write of one byte. -/
theorem readByte_writeByte (m : Mem) (a : Nat) (v : Byte) (k : Nat) : readByte (writeByte m a v) k = if k = a then v else readByte m k := by
  unfold writeByte
  rw [readByte_writeMem]
  by_cases h : k = a
  · subst h; simp
  · rw [if_neg h, if_neg (by simp; omega)]

theorem readByte_zeroMem (m : Mem) (a n k : Nat) : readByte (zeroMem m a n) k = if a ≤ k ∧ k < a + n then 0 else readByte m k := by
  unfold zeroMem
  rw [readByte_filter fun c => decide (c < a) || decide (a + n ≤ c)]
  by_cases h : a ≤ k ∧ k < a + n
  · rw [if_pos h, if_neg (by simp; omega)]
  · rw [if_neg h, if_pos (by simp; omega)]

/-! ## The canonical form -/

/-- The canonical form in words: the addresses rise strictly, and no byte is 0. -/
theorem memWf_iff (m : Mem) : memWf m = true ↔ m.Pairwise (fun c d => c.1 < d.1) ∧ ∀ c ∈ m, c.2 ≠ 0 := by
  induction m with
  | nil => simp [memWf]
  | cons c m ih =>
    obtain ⟨a, v⟩ := c
    cases m with
    | nil => simp [memWf]
    | cons d m =>
      obtain ⟨b, w⟩ := d
      simp only [memWf, Bool.and_eq_true, decide_eq_true_eq, bne_iff_ne, ih]
      constructor
      · rintro ⟨⟨hv, hab⟩, hp, hz⟩
        refine ⟨List.pairwise_cons.2 ⟨fun e he => ?_, hp⟩, fun e he => ?_⟩
        · rcases List.mem_cons.1 he with rfl | he
          · exact hab
          · exact Nat.lt_trans hab ((List.pairwise_cons.1 hp).1 e he)
        · rcases List.mem_cons.1 he with rfl | he
          · exact hv
          · exact hz e he
      · rintro ⟨hp, hz⟩
        have hp' := List.pairwise_cons.1 hp
        exact ⟨⟨hz (a, v) (by simp), hp'.1 (b, w) (by simp)⟩, hp'.2, fun e he => hz e (by simp [he])⟩

theorem memWf_filter (p : Nat × Byte → Bool) (m : Mem) (h : memWf m = true) : memWf (m.filter p) = true := by
  rw [memWf_iff] at h ⊢
  exact ⟨h.1.filter p, fun c hc => h.2 c (List.mem_of_mem_filter hc)⟩

theorem memWf_cutMem (m : Mem) (a n : Nat) (h : memWf m = true) : memWf (cutMem m a n) = true := memWf_filter _ m h

theorem memWf_zeroMem (m : Mem) (a n : Nat) (h : memWf m = true) : memWf (zeroMem m a n) = true := memWf_filter _ m h

theorem memWf_sliceMem (m : Mem) (a n : Nat) (h : memWf m = true) : memWf (sliceMem m a n) = true := by
  have h := memWf_cutMem m a n h
  have hk : ∀ c ∈ cutMem m a n, a ≤ c.1 := fun c hc => by have := List.of_mem_filter hc; simp at this; exact this.1
  rw [memWf_iff] at h ⊢
  refine ⟨List.pairwise_map.2 (h.1.imp_of_mem fun hc hd hlt => ?_), fun c hc => ?_⟩
  · have := hk _ hc; have := hk _ hd; show _ - a < _ - a; omega
  · obtain ⟨d, hd, rfl⟩ := List.mem_map.1 hc; exact h.2 d hd

theorem memWf_cellsOf (bs : Bytes) (a : Nat) : memWf (cellsOf a bs) = true := by
  rw [memWf_iff]
  induction bs generalizing a with
  | nil => exact ⟨List.Pairwise.nil, by simp [cellsOf]⟩
  | cons b bs ih =>
    simp only [cellsOf]
    split
    · exact ih (a + 1)
    · next hb =>
      refine ⟨List.pairwise_cons.2 ⟨fun c hc => ?_, (ih (a + 1)).1⟩, fun c hc => ?_⟩
      · have := cellsOf_keys bs (a + 1) c hc; show a < c.1; omega
      · rcases List.mem_cons.1 hc with rfl | hc
        · exact hb
        · exact (ih (a + 1)).2 c hc

theorem memWf_writeMem (m : Mem) (a : Nat) (bs : Bytes) (h : memWf m = true) : memWf (writeMem m a bs) = true := by
  have hl := (memWf_iff _).1 (memWf_filter (fun c => decide (c.1 < a)) m h)
  have hh := (memWf_iff _).1 (memWf_filter (fun c => decide (a + bs.length ≤ c.1)) m h)
  have hc := (memWf_iff _).1 (memWf_cellsOf bs a)
  rw [memWf_iff]
  unfold writeMem
  refine ⟨List.pairwise_append.2 ⟨List.pairwise_append.2 ⟨hl.1, hc.1, fun x hx y hy => ?_⟩, hh.1, fun x hx y hy => ?_⟩, fun c hm => ?_⟩
  · have := List.of_mem_filter hx; have := cellsOf_keys bs a y hy; simp at *; omega
  · have h2 := List.of_mem_filter hy
    rcases List.mem_append.1 hx with hx | hx
    · have := List.of_mem_filter hx; simp at *; omega
    · have := cellsOf_keys bs a x hx; simp at *; omega
  · rcases List.mem_append.1 hm with hm | hm
    · rcases List.mem_append.1 hm with hm | hm
      · exact hl.2 c hm
      · exact hc.2 c hm
    · exact hh.2 c hm

theorem memWf_writeByte (m : Mem) (a : Nat) (v : Byte) (h : memWf m = true) : memWf (writeByte m a v) = true := memWf_writeMem m a [v] h

theorem memWf_writeMasked (ws : Writes) (m : Mem) (h : memWf m = true) : memWf (writeMasked m ws) = true := by
  induction ws generalizing m with
  | nil => exact h
  | cons w ws ih => exact ih _ (memWf_writeByte m _ _ h)

/-- A masked write leaves every byte that it does not name. -/
theorem readByte_writeMasked_of_not_mem (ws : Writes) (m : Mem) (k : Nat) (hk : ∀ w ∈ ws, w.1 ≠ k) :
    readByte (writeMasked m ws) k = readByte m k := by
  induction ws generalizing m with
  | nil => rfl
  | cons w ws ih =>
    obtain ⟨a, b, c⟩ := w
    rw [writeMasked, ih _ fun x hx => hk x (by simp [hx]), readByte_writeByte, if_neg fun e => hk (a, b, c) (by simp) e.symm]

/-- Two memories in canonical form with equal bytes are equal. -/
theorem memWf_ext (m n : Mem) (hm : memWf m = true) (hn : memWf n = true) (h : ∀ a, readByte m a = readByte n a) : m = n := by
  induction m generalizing n with
  | nil =>
    cases n with
    | nil => rfl
    | cons d n =>
      have := ((memWf_iff _).1 hn).2 d (by simp)
      exact absurd (by simpa [readByte] using (h d.1).symm) this
  | cons c m ih =>
    have h1 := (memWf_iff _).1 hm
    have p1 := List.pairwise_cons.1 h1.1
    cases n with
    | nil =>
      have := h1.2 c (by simp)
      exact absurd (by simpa [readByte] using h c.1) this
    | cons d n =>
      have h2 := (memWf_iff _).1 hn
      have p2 := List.pairwise_cons.1 h2.1
      have low : ∀ (e : Nat × Byte) (l : Mem) (k : Nat), (∀ x ∈ l, e.1 < x.1) → k < e.1 → readByte (e :: l) k = 0 := fun e l k hl hk =>
        readByte_absent _ _ fun x hx => by
          rcases List.mem_cons.1 hx with rfl | hx
          · omega
          · have := hl x hx; omega
      have e1 : c.1 = d.1 := by
        rcases Nat.lt_trichotomy c.1 d.1 with hlt | he | hlt
        · have := h c.1
          rw [low d n c.1 p2.1 hlt, readByte, if_pos rfl] at this
          exact absurd this (h1.2 c (by simp))
        · exact he
        · have := h d.1
          rw [low c m d.1 p1.1 hlt, readByte, if_pos rfl] at this
          exact absurd this.symm (h2.2 d (by simp))
      have e2 : c.2 = d.2 := by simpa [readByte, e1] using h c.1
      have e3 : m = n := by
        refine ih n ((memWf_iff _).2 ⟨p1.2, fun x hx => h1.2 x (by simp [hx])⟩) ((memWf_iff _).2 ⟨p2.2, fun x hx => h2.2 x (by simp [hx])⟩) fun a => ?_
        by_cases ha : c.1 = a
        · subst ha
          rw [readByte_absent m _ fun x hx => by have := p1.1 x hx; omega, readByte_absent n _ fun x hx => by have := p2.1 x hx; omega]
        · have := h a
          rwa [readByte, readByte, if_neg ha, if_neg (e1 ▸ ha)] at this
      rw [e3, Prod.ext e1 e2]

/-- The memories of the module after reset have the canonical form. -/
theorem reset_memWf : memWf State.reset.bank = true ∧ memWf State.reset.host = true ∧ memWf State.reset.buddy = true
    ∧ ∀ n, memWf (State.reset.clus n).floor = true := by
  refine ⟨rfl, rfl, rfl, fun n => ?_⟩
  unfold State.clus
  split <;> simp [State.reset, memWf]

end Sys2Proof.Laws
end

