-- ==== Sys2Proof/Laws/Push.lean ====
section
/-! SUPPORT. What a command of a slot does, said once: it is judged in the state of its push and, where no reason is found, acts there. -/

namespace Sys2Proof.Laws

open Sys2Proof Sys2Proof.Machine

theorem commit_eq (s t : State) : commit s t = .next (s.after t) := rfl

/-- A command for which the push check finds no reason acts. -/
@[simp] theorem judge_none (s : State) (x : Ctx) (loc : Nat) (act : State → State) : s.judge x loc none act = act s := rfl

/-- A command for which the push check finds a reason is skipped. -/
@[simp] theorem judge_some (s : State) (x : Ctx) (loc r : Nat) (act : State → State) : s.judge x loc (some r) act = s.skipLog x r loc := rfl

/-- A command of a slot acts in the state of its push, under its predicate. -/
theorem command_eq (s : State) (p : Push) (ho : s.offers p) (push : Ctx → State → State) :
    commit s (State.command s p.pbit p.op p.c push) =
      .next (s.after (if (s.atPush p).sample (slotCaller p.pbit) p.c.psel.toNat then push (s.issueOf p) (s.atPush p) else s.atPush p)) := by
  have h : (decide (slotCaller p.pbit < 48) && decide (s.lcMax ≤ slotCaller p.pbit)) = false := by
    by_cases h : slotCaller p.pbit < 48
    · have := ho.2 h; simp; omega
    · simp [h]
  unfold State.command
  simp only [ho.1, Bool.not_true, Bool.false_or, h, Bool.false_eq_true, ↓reduceIte]
  rfl

/-- A command without input power, or for a cluster that the grade does not offer, does nothing. -/
theorem command_absent (s : State) (p : Push) (ho : ¬ s.offers p) (push : Ctx → State → State) :
    State.command s p.pbit p.op p.c push = s := by
  have h : (!s.pow.on || (decide (slotCaller p.pbit < 48) && decide (s.lcMax ≤ slotCaller p.pbit))) = true := by
    simp only [State.offers, Classical.not_and_iff_not_or_not, Classical.not_imp, Nat.not_lt, Bool.not_eq_true] at ho
    rcases ho with ho | ho <;> simp [ho]
  unfold State.command
  simp only [h, ↓reduceIte]

theorem judged {s q : State} {p : Push} {x : Ctx} {e : Host.Outcome State Fault Refusal} {r : State}
    (he : e = .next (s.after (if q.sample (slotCaller p.pbit) p.c.psel.toNat then r else q)))
    (h : ∃ act, r = q.judge x (p.loc q) (firstReason (p.reasons q x)) act) :
    ∃ act : State → State, e = .next (s.after (
      if q.sample (slotCaller p.pbit) p.c.psel.toNat then q.judge x (p.loc q) (firstReason (p.reasons q x)) act else q)) :=
  let ⟨act, h⟩ := h
  ⟨act, by rw [he, h]⟩

/-- Every command of a slot: not pushed under a false predicate, else judged by its reasons. -/
theorem exec_push (s : State) (i : Instr) (p : Push) (hp : pushOf i = some p) (ho : s.offers p) :
    ∃ act : State → State, exec i s = .next (s.after (
      if (s.atPush p).sample (slotCaller p.pbit) p.c.psel.toNat then
        (s.atPush p).judge (s.issueOf p) (p.loc (s.atPush p)) (firstReason (p.reasons (s.atPush p) (s.issueOf p))) act
      else s.atPush p)) := by
  cases i <;> simp only [pushOf, Option.some.injEq, reduceCtorEq] at hp
  all_goals subst hp
  case tload n c =>
    exact judged (command_eq s ⟨_, _, c, _, _⟩ ho (fun x s => s.pushTload n x c)) ⟨_, by unfold State.pushTload; rfl⟩
  case mstream n c =>
    exact judged (command_eq s ⟨_, _, c, _, _⟩ ho (fun x s => s.pushMstream n x c)) ⟨_, by unfold State.pushMstream; rfl⟩
  case mdset n c =>
    exact judged (command_eq s ⟨_, _, c, _, _⟩ ho (fun x s => s.pushMdset n x c)) ⟨_, by unfold State.pushMdset; rfl⟩
  case mdrain n c =>
    exact judged (command_eq s ⟨_, _, c, _, _⟩ ho (fun x s => s.pushMdrain n x c)) ⟨_, by unfold State.pushMdrain; rfl⟩
  case figure n c =>
    exact judged (command_eq s ⟨_, _, c, _, _⟩ ho (fun x s => s.pushFigure n x c)) ⟨_, by unfold State.pushFigure; rfl⟩
  case ftload n c =>
    exact judged (command_eq s ⟨_, _, c, _, _⟩ ho (fun x s => s.pushFtload n x c)) ⟨_, by unfold State.pushFtload; rfl⟩
  case inCmd n m c =>
    exact judged (command_eq s ⟨_, _, c, _, _⟩ ho (fun x s => s.pushIn n m x c)) ⟨_, by unfold State.pushIn; rfl⟩
  case outCmd n m c =>
    exact judged (command_eq s ⟨_, _, c, _, _⟩ ho (fun x s => s.pushOut n m x c)) ⟨_, by unfold State.pushOut; rfl⟩
  case xfer n m c =>
    exact judged (command_eq s ⟨_, _, c, _, _⟩ ho (fun x s => s.pushXfer n m x c)) ⟨_, by unfold State.pushXfer; rfl⟩
  case rotate n m c =>
    exact judged (command_eq s ⟨_, _, c, _, _⟩ ho (fun x s => s.pushRotate n m x c)) ⟨_, by unfold State.pushRotate; rfl⟩
  case count n c =>
    exact judged (command_eq s ⟨_, _, c, _, _⟩ ho (fun x s => s.pushCount n x c)) ⟨_, by unfold State.pushCount; rfl⟩
  case rset w c =>
    exact judged (command_eq s ⟨_, _, c, _, _⟩ ho (fun x s => s.pushRset (siteNum w) x c)) ⟨_, by unfold State.pushRset; rfl⟩
  case rcalc w c =>
    exact judged (command_eq s ⟨_, _, c, _, _⟩ ho (fun x s => s.pushRcalc (siteNum w) x c)) ⟨_, by unfold State.pushRcalc; rfl⟩
  case htake n c =>
    exact judged (command_eq s ⟨_, _, c, _, _⟩ ho (fun x s => s.pushHtake n x c)) ⟨_, by unfold State.pushHtake; rfl⟩
  case chtake n c =>
    exact judged (command_eq s ⟨_, _, c, _, _⟩ ho (fun x s => s.pushChtake n x c)) ⟨_, by unfold State.pushChtake; rfl⟩
  case pbind w c =>
    exact judged (command_eq s ⟨_, _, c, _, _⟩ ho (fun x s => s.pushPbind (siteNum w) x c)) ⟨_, by unfold State.pushPbind; rfl⟩
  case waitStream n c =>
    exact judged (command_eq s ⟨_, _, c, _, _⟩ ho (fun x s => s.pushWait n x (cwForm c 0 45))) ⟨_, by unfold State.pushWait; rfl⟩
  case waitCue n c =>
    exact judged (command_eq s ⟨_, _, c, _, _⟩ ho (fun x s => s.pushWait n x (cwForm c 1 45))) ⟨_, by unfold State.pushWait; rfl⟩
  case waitModuleCue w c =>
    exact judged (command_eq s ⟨_, _, c, _, _⟩ ho (fun x s => s.pushWait (siteNum w) x (cwForm c 2 45))) ⟨_, by unfold State.pushWait; rfl⟩
  case waitTally n c =>
    exact judged (command_eq s ⟨_, _, c, _, _⟩ ho (fun x s => s.pushWait n x (cwForm c 3 45))) ⟨_, by unfold State.pushWait; rfl⟩
  case waitRound w c =>
    exact judged (command_eq s ⟨_, _, c, _, _⟩ ho (fun x s => s.pushWait (siteNum w) x (cwForm c 4 45))) ⟨_, by unfold State.pushWait; rfl⟩
  case ticket n c =>
    exact judged (command_eq s ⟨_, _, c, _, _⟩ ho (fun x s => s.pushTicket n x c)) ⟨_, by unfold State.pushTicket; rfl⟩
  case stepCmd n c =>
    exact judged (command_eq s ⟨_, _, c, _, _⟩ ho (fun x s => s.pushStep n x c)) ⟨_, by unfold State.pushStep; rfl⟩
  case amaxBind n c =>
    exact judged (command_eq s ⟨_, _, c, _, _⟩ ho (fun x s => s.pushAmax n x (cwForm c 0 45))) ⟨_, by unfold State.pushAmax; rfl⟩
  case amaxUnbind n c =>
    exact judged (command_eq s ⟨_, _, c, _, _⟩ ho (fun x s => s.pushAmax n x (cwForm c 1 45))) ⟨_, by unfold State.pushAmax; rfl⟩
  case amaxSave n c =>
    exact judged (command_eq s ⟨_, _, c, _, _⟩ ho (fun x s => s.pushAmax n x (cwForm c 2 45))) ⟨_, by unfold State.pushAmax; rfl⟩
  case amaxLoad n c =>
    exact judged (command_eq s ⟨_, _, c, _, _⟩ ho (fun x s => s.pushAmax n x (cwForm c 3 45))) ⟨_, by unfold State.pushAmax; rfl⟩
  case amaxMerge n c =>
    exact judged (command_eq s ⟨_, _, c, _, _⟩ ho (fun x s => s.pushAmax n x (cwForm c 4 45))) ⟨_, by unfold State.pushAmax; rfl⟩
  case vkey w c =>
    exact judged (command_eq s ⟨_, _, c, _, _⟩ ho (fun x s => s.pushVkey (siteNum w) x c)) ⟨_, by unfold State.pushVkey; rfl⟩
  case cueSet w c =>
    exact judged (command_eq s ⟨_, _, c, _, _⟩ ho (fun x s => s.pushCue (siteNum w) x (cwForm c 0 47))) ⟨_, by unfold State.pushCue; rfl⟩
  case cueClear w c =>
    exact judged (command_eq s ⟨_, _, c, _, _⟩ ho (fun x s => s.pushCue (siteNum w) x (cwForm c 1 47))) ⟨_, by unfold State.pushCue; rfl⟩
  case tallyAdd n c =>
    exact judged (command_eq s ⟨_, _, c, _, _⟩ ho (fun x s => s.pushTally n x (cwForm c 0 47))) ⟨_, by unfold State.pushTally; rfl⟩
  case tallyReset n c =>
    exact judged (command_eq s ⟨_, _, c, _, _⟩ ho (fun x s => s.pushTally n x (cwForm c 1 47))) ⟨_, by unfold State.pushTally; rfl⟩
  case roundBind w c =>
    exact judged (command_eq s ⟨_, _, c, _, _⟩ ho (fun x s => s.pushRound (siteNum w) x (cwForm c 0 46))) ⟨_, by unfold State.pushRound; rfl⟩
  case roundUnbind w c =>
    exact judged (command_eq s ⟨_, _, c, _, _⟩ ho (fun x s => s.pushRound (siteNum w) x (cwForm c 1 46))) ⟨_, by unfold State.pushRound; rfl⟩
  case roundArrive w c =>
    exact judged (command_eq s ⟨_, _, c, _, _⟩ ho (fun x s => s.pushRound (siteNum w) x (cwForm c 2 46))) ⟨_, by unfold State.pushRound; rfl⟩
  case fence n c =>
    exact judged (command_eq s ⟨_, _, c, _, _⟩ ho (fun x s => s.pushFence n x c)) ⟨_, by unfold State.pushFence; rfl⟩
  case chsend n c =>
    exact judged (command_eq s ⟨_, _, c, _, _⟩ ho (fun x s => s.pushChsend n x c)) ⟨_, by unfold State.pushChsend; rfl⟩
  case chfree n c =>
    exact judged (command_eq s ⟨_, _, c, _, _⟩ ho (fun x s => s.pushChfree n x c)) ⟨_, by unfold State.pushChfree; rfl⟩
  case hput n c =>
    exact judged (command_eq s ⟨_, _, c, _, _⟩ ho (fun x s => s.pushHput n x c)) ⟨_, by unfold State.pushHput; rfl⟩
  case put n c =>
    exact judged (command_eq s ⟨_, _, c, _, _⟩ ho (fun x s => s.pushPut n x c)) ⟨_, by unfold State.pushPut; rfl⟩
  case ckinit n c =>
    exact judged (command_eq s ⟨_, _, c, _, _⟩ ho (fun x s => s.pushCkinit n x c)) ⟨_, by unfold State.pushCkinit; rfl⟩
  case ckfeed n c =>
    exact judged (command_eq s ⟨_, _, c, _, _⟩ ho (fun x s => s.pushCkfeed n x c)) ⟨_, by unfold State.pushCkfeed; rfl⟩
  case ckread n c =>
    exact judged (command_eq s ⟨_, _, c, _, _⟩ ho (fun x s => s.pushCkread n x c)) ⟨_, by unfold State.pushCkread; rfl⟩
  case mckInit d c =>
    exact judged (command_eq s ⟨_, _, c, _, _⟩ ho (fun x s => s.pushMck d x (mckForm c 0))) ⟨_, by unfold State.pushMck; rfl⟩
  case mckFeed d c =>
    exact judged (command_eq s ⟨_, _, c, _, _⟩ ho (fun x s => s.pushMck d x (mckForm c 1))) ⟨_, by unfold State.pushMck; rfl⟩
  case mckRead d c =>
    exact judged (command_eq s ⟨_, _, c, _, _⟩ ho (fun x s => s.pushMck d x (mckForm c 2))) ⟨_, by unfold State.pushMck; rfl⟩
  case take c =>
    exact judged (command_eq s ⟨_, _, c, _, _⟩ ho (fun x s => s.pushIsu x 1 c)) ⟨_, by unfold State.pushIsu; rfl⟩
  case slot c =>
    exact judged (command_eq s ⟨_, _, c, _, _⟩ ho (fun x s => s.pushIsu x 2 c)) ⟨_, by unfold State.pushIsu; rfl⟩
  case egress c =>
    exact judged (command_eq s ⟨_, _, c, _, _⟩ ho (fun x s => s.pushIsu x 3 c)) ⟨_, by unfold State.pushIsu; rfl⟩
  case page c =>
    exact judged (command_eq s ⟨_, _, c, _, _⟩ ho (fun x s => s.pushIsu x 4 c)) ⟨_, by unfold State.pushIsu; rfl⟩
  case bmove d i c =>
    exact judged (command_eq s ⟨_, _, c, _, _⟩ ho (fun x s => s.pushBmove d i x c)) ⟨_, by unfold State.pushBmove; rfl⟩
  case lsend l c =>
    exact judged (command_eq s ⟨_, _, c, _, _⟩ ho (fun x s => s.pushLsend l x c)) ⟨_, by unfold State.pushLsend; rfl⟩

/-- A command of a slot for a cluster that the grade does not offer answers the state as it is. -/
theorem exec_absent (s : State) (i : Instr) (p : Push) (hp : pushOf i = some p) (ho : ¬ s.offers p) : exec i s = .next s := by
  cases i <;> simp only [pushOf, Option.some.injEq, reduceCtorEq] at hp
  all_goals subst hp
  case tload n c =>
    exact congrArg (commit s) (command_absent s ⟨_, _, c, _, _⟩ ho (fun x s => s.pushTload n x c))
  case mstream n c =>
    exact congrArg (commit s) (command_absent s ⟨_, _, c, _, _⟩ ho (fun x s => s.pushMstream n x c))
  case mdset n c =>
    exact congrArg (commit s) (command_absent s ⟨_, _, c, _, _⟩ ho (fun x s => s.pushMdset n x c))
  case mdrain n c =>
    exact congrArg (commit s) (command_absent s ⟨_, _, c, _, _⟩ ho (fun x s => s.pushMdrain n x c))
  case figure n c =>
    exact congrArg (commit s) (command_absent s ⟨_, _, c, _, _⟩ ho (fun x s => s.pushFigure n x c))
  case ftload n c =>
    exact congrArg (commit s) (command_absent s ⟨_, _, c, _, _⟩ ho (fun x s => s.pushFtload n x c))
  case inCmd n m c =>
    exact congrArg (commit s) (command_absent s ⟨_, _, c, _, _⟩ ho (fun x s => s.pushIn n m x c))
  case outCmd n m c =>
    exact congrArg (commit s) (command_absent s ⟨_, _, c, _, _⟩ ho (fun x s => s.pushOut n m x c))
  case xfer n m c =>
    exact congrArg (commit s) (command_absent s ⟨_, _, c, _, _⟩ ho (fun x s => s.pushXfer n m x c))
  case rotate n m c =>
    exact congrArg (commit s) (command_absent s ⟨_, _, c, _, _⟩ ho (fun x s => s.pushRotate n m x c))
  case count n c =>
    exact congrArg (commit s) (command_absent s ⟨_, _, c, _, _⟩ ho (fun x s => s.pushCount n x c))
  case rset w c =>
    exact congrArg (commit s) (command_absent s ⟨_, _, c, _, _⟩ ho (fun x s => s.pushRset (siteNum w) x c))
  case rcalc w c =>
    exact congrArg (commit s) (command_absent s ⟨_, _, c, _, _⟩ ho (fun x s => s.pushRcalc (siteNum w) x c))
  case htake n c =>
    exact congrArg (commit s) (command_absent s ⟨_, _, c, _, _⟩ ho (fun x s => s.pushHtake n x c))
  case chtake n c =>
    exact congrArg (commit s) (command_absent s ⟨_, _, c, _, _⟩ ho (fun x s => s.pushChtake n x c))
  case pbind w c =>
    exact congrArg (commit s) (command_absent s ⟨_, _, c, _, _⟩ ho (fun x s => s.pushPbind (siteNum w) x c))
  case waitStream n c =>
    exact congrArg (commit s) (command_absent s ⟨_, _, c, _, _⟩ ho (fun x s => s.pushWait n x (cwForm c 0 45)))
  case waitCue n c =>
    exact congrArg (commit s) (command_absent s ⟨_, _, c, _, _⟩ ho (fun x s => s.pushWait n x (cwForm c 1 45)))
  case waitModuleCue w c =>
    exact congrArg (commit s) (command_absent s ⟨_, _, c, _, _⟩ ho (fun x s => s.pushWait (siteNum w) x (cwForm c 2 45)))
  case waitTally n c =>
    exact congrArg (commit s) (command_absent s ⟨_, _, c, _, _⟩ ho (fun x s => s.pushWait n x (cwForm c 3 45)))
  case waitRound w c =>
    exact congrArg (commit s) (command_absent s ⟨_, _, c, _, _⟩ ho (fun x s => s.pushWait (siteNum w) x (cwForm c 4 45)))
  case ticket n c =>
    exact congrArg (commit s) (command_absent s ⟨_, _, c, _, _⟩ ho (fun x s => s.pushTicket n x c))
  case stepCmd n c =>
    exact congrArg (commit s) (command_absent s ⟨_, _, c, _, _⟩ ho (fun x s => s.pushStep n x c))
  case amaxBind n c =>
    exact congrArg (commit s) (command_absent s ⟨_, _, c, _, _⟩ ho (fun x s => s.pushAmax n x (cwForm c 0 45)))
  case amaxUnbind n c =>
    exact congrArg (commit s) (command_absent s ⟨_, _, c, _, _⟩ ho (fun x s => s.pushAmax n x (cwForm c 1 45)))
  case amaxSave n c =>
    exact congrArg (commit s) (command_absent s ⟨_, _, c, _, _⟩ ho (fun x s => s.pushAmax n x (cwForm c 2 45)))
  case amaxLoad n c =>
    exact congrArg (commit s) (command_absent s ⟨_, _, c, _, _⟩ ho (fun x s => s.pushAmax n x (cwForm c 3 45)))
  case amaxMerge n c =>
    exact congrArg (commit s) (command_absent s ⟨_, _, c, _, _⟩ ho (fun x s => s.pushAmax n x (cwForm c 4 45)))
  case vkey w c =>
    exact congrArg (commit s) (command_absent s ⟨_, _, c, _, _⟩ ho (fun x s => s.pushVkey (siteNum w) x c))
  case cueSet w c =>
    exact congrArg (commit s) (command_absent s ⟨_, _, c, _, _⟩ ho (fun x s => s.pushCue (siteNum w) x (cwForm c 0 47)))
  case cueClear w c =>
    exact congrArg (commit s) (command_absent s ⟨_, _, c, _, _⟩ ho (fun x s => s.pushCue (siteNum w) x (cwForm c 1 47)))
  case tallyAdd n c =>
    exact congrArg (commit s) (command_absent s ⟨_, _, c, _, _⟩ ho (fun x s => s.pushTally n x (cwForm c 0 47)))
  case tallyReset n c =>
    exact congrArg (commit s) (command_absent s ⟨_, _, c, _, _⟩ ho (fun x s => s.pushTally n x (cwForm c 1 47)))
  case roundBind w c =>
    exact congrArg (commit s) (command_absent s ⟨_, _, c, _, _⟩ ho (fun x s => s.pushRound (siteNum w) x (cwForm c 0 46)))
  case roundUnbind w c =>
    exact congrArg (commit s) (command_absent s ⟨_, _, c, _, _⟩ ho (fun x s => s.pushRound (siteNum w) x (cwForm c 1 46)))
  case roundArrive w c =>
    exact congrArg (commit s) (command_absent s ⟨_, _, c, _, _⟩ ho (fun x s => s.pushRound (siteNum w) x (cwForm c 2 46)))
  case fence n c =>
    exact congrArg (commit s) (command_absent s ⟨_, _, c, _, _⟩ ho (fun x s => s.pushFence n x c))
  case chsend n c =>
    exact congrArg (commit s) (command_absent s ⟨_, _, c, _, _⟩ ho (fun x s => s.pushChsend n x c))
  case chfree n c =>
    exact congrArg (commit s) (command_absent s ⟨_, _, c, _, _⟩ ho (fun x s => s.pushChfree n x c))
  case hput n c =>
    exact congrArg (commit s) (command_absent s ⟨_, _, c, _, _⟩ ho (fun x s => s.pushHput n x c))
  case put n c =>
    exact congrArg (commit s) (command_absent s ⟨_, _, c, _, _⟩ ho (fun x s => s.pushPut n x c))
  case ckinit n c =>
    exact congrArg (commit s) (command_absent s ⟨_, _, c, _, _⟩ ho (fun x s => s.pushCkinit n x c))
  case ckfeed n c =>
    exact congrArg (commit s) (command_absent s ⟨_, _, c, _, _⟩ ho (fun x s => s.pushCkfeed n x c))
  case ckread n c =>
    exact congrArg (commit s) (command_absent s ⟨_, _, c, _, _⟩ ho (fun x s => s.pushCkread n x c))
  case mckInit d c =>
    exact congrArg (commit s) (command_absent s ⟨_, _, c, _, _⟩ ho (fun x s => s.pushMck d x (mckForm c 0)))
  case mckFeed d c =>
    exact congrArg (commit s) (command_absent s ⟨_, _, c, _, _⟩ ho (fun x s => s.pushMck d x (mckForm c 1)))
  case mckRead d c =>
    exact congrArg (commit s) (command_absent s ⟨_, _, c, _, _⟩ ho (fun x s => s.pushMck d x (mckForm c 2)))
  case take c =>
    exact congrArg (commit s) (command_absent s ⟨_, _, c, _, _⟩ ho (fun x s => s.pushIsu x 1 c))
  case slot c =>
    exact congrArg (commit s) (command_absent s ⟨_, _, c, _, _⟩ ho (fun x s => s.pushIsu x 2 c))
  case egress c =>
    exact congrArg (commit s) (command_absent s ⟨_, _, c, _, _⟩ ho (fun x s => s.pushIsu x 3 c))
  case page c =>
    exact congrArg (commit s) (command_absent s ⟨_, _, c, _, _⟩ ho (fun x s => s.pushIsu x 4 c))
  case bmove d i c =>
    exact congrArg (commit s) (command_absent s ⟨_, _, c, _, _⟩ ho (fun x s => s.pushBmove d i x c))
  case lsend l c =>
    exact congrArg (commit s) (command_absent s ⟨_, _, c, _, _⟩ ho (fun x s => s.pushLsend l x c))

/-! The command that is accepted is its push in the state and the issue in which it acts. -/

section
variable {s q : State} {x : Ctx} {c : Cw} {n : Fin 48} {m d : Fin 2} {i : Fin 16} {l : Fin 16} {w : Site}

theorem accepted {i : Instr} {p : Push} {push : Ctx → State → State} (hp : pushOf i = some p)
    (he : exec i s = commit s (State.command s p.pbit p.op p.c push)) (h : s.accepts i q x) :
    exec i s = .next (s.after (push x q)) := by
  obtain ⟨p', hp', ho, rfl, rfl, hs, -⟩ := h
  obtain rfl : p = p' := by rw [hp] at hp'; exact Option.some.inj hp'
  rw [he, command_eq s p ho, if_pos hs]

theorem accepted_reason {i : Instr} {p : Push} (hp : pushOf i = some p) (h : s.accepts i q x) :
    firstReason (p.reasons q x) = none := by
  obtain ⟨p', hp', -, -, -, -, hr⟩ := h
  obtain rfl : p = p' := by rw [hp] at hp'; exact Option.some.inj hp'
  exact hr
theorem push_tload (h : s.accepts (.tload n c) q x) : exec (.tload n c) s = .next (s.after (q.pushTload n x c)) := accepted rfl rfl h
theorem push_mstream (h : s.accepts (.mstream n c) q x) : exec (.mstream n c) s = .next (s.after (q.pushMstream n x c)) := accepted rfl rfl h
theorem push_mdset (h : s.accepts (.mdset n c) q x) : exec (.mdset n c) s = .next (s.after (q.pushMdset n x c)) := accepted rfl rfl h
theorem push_mdrain (h : s.accepts (.mdrain n c) q x) : exec (.mdrain n c) s = .next (s.after (q.pushMdrain n x c)) := accepted rfl rfl h
theorem push_figure (h : s.accepts (.figure n c) q x) : exec (.figure n c) s = .next (s.after (q.pushFigure n x c)) := accepted rfl rfl h
theorem push_ftload (h : s.accepts (.ftload n c) q x) : exec (.ftload n c) s = .next (s.after (q.pushFtload n x c)) := accepted rfl rfl h
theorem push_inCmd (h : s.accepts (.inCmd n m c) q x) : exec (.inCmd n m c) s = .next (s.after (q.pushIn n m x c)) := accepted rfl rfl h
theorem push_outCmd (h : s.accepts (.outCmd n m c) q x) : exec (.outCmd n m c) s = .next (s.after (q.pushOut n m x c)) := accepted rfl rfl h
theorem push_xfer (h : s.accepts (.xfer n m c) q x) : exec (.xfer n m c) s = .next (s.after (q.pushXfer n m x c)) := accepted rfl rfl h
theorem push_rotate (h : s.accepts (.rotate n m c) q x) : exec (.rotate n m c) s = .next (s.after (q.pushRotate n m x c)) := accepted rfl rfl h
theorem push_count (h : s.accepts (.count n c) q x) : exec (.count n c) s = .next (s.after (q.pushCount n x c)) := accepted rfl rfl h
theorem push_rset (h : s.accepts (.rset w c) q x) : exec (.rset w c) s = .next (s.after (q.pushRset (siteNum w) x c)) := accepted rfl rfl h
theorem push_rcalc (h : s.accepts (.rcalc w c) q x) : exec (.rcalc w c) s = .next (s.after (q.pushRcalc (siteNum w) x c)) := accepted rfl rfl h
theorem push_htake (h : s.accepts (.htake n c) q x) : exec (.htake n c) s = .next (s.after (q.pushHtake n x c)) := accepted rfl rfl h
theorem push_chtake (h : s.accepts (.chtake n c) q x) : exec (.chtake n c) s = .next (s.after (q.pushChtake n x c)) := accepted rfl rfl h
theorem push_pbind (h : s.accepts (.pbind w c) q x) : exec (.pbind w c) s = .next (s.after (q.pushPbind (siteNum w) x c)) := accepted rfl rfl h
theorem push_waitStream (h : s.accepts (.waitStream n c) q x) : exec (.waitStream n c) s = .next (s.after (q.pushWait n x (cwForm c 0 45))) := accepted rfl rfl h
theorem push_waitCue (h : s.accepts (.waitCue n c) q x) : exec (.waitCue n c) s = .next (s.after (q.pushWait n x (cwForm c 1 45))) := accepted rfl rfl h
theorem push_waitModuleCue (h : s.accepts (.waitModuleCue w c) q x) : exec (.waitModuleCue w c) s = .next (s.after (q.pushWait (siteNum w) x (cwForm c 2 45))) := accepted rfl rfl h
theorem push_waitTally (h : s.accepts (.waitTally n c) q x) : exec (.waitTally n c) s = .next (s.after (q.pushWait n x (cwForm c 3 45))) := accepted rfl rfl h
theorem push_waitRound (h : s.accepts (.waitRound w c) q x) : exec (.waitRound w c) s = .next (s.after (q.pushWait (siteNum w) x (cwForm c 4 45))) := accepted rfl rfl h
theorem push_ticket (h : s.accepts (.ticket n c) q x) : exec (.ticket n c) s = .next (s.after (q.pushTicket n x c)) := accepted rfl rfl h
theorem push_stepCmd (h : s.accepts (.stepCmd n c) q x) : exec (.stepCmd n c) s = .next (s.after (q.pushStep n x c)) := accepted rfl rfl h
theorem push_amaxBind (h : s.accepts (.amaxBind n c) q x) : exec (.amaxBind n c) s = .next (s.after (q.pushAmax n x (cwForm c 0 45))) := accepted rfl rfl h
theorem push_amaxUnbind (h : s.accepts (.amaxUnbind n c) q x) : exec (.amaxUnbind n c) s = .next (s.after (q.pushAmax n x (cwForm c 1 45))) := accepted rfl rfl h
theorem push_amaxSave (h : s.accepts (.amaxSave n c) q x) : exec (.amaxSave n c) s = .next (s.after (q.pushAmax n x (cwForm c 2 45))) := accepted rfl rfl h
theorem push_amaxLoad (h : s.accepts (.amaxLoad n c) q x) : exec (.amaxLoad n c) s = .next (s.after (q.pushAmax n x (cwForm c 3 45))) := accepted rfl rfl h
theorem push_amaxMerge (h : s.accepts (.amaxMerge n c) q x) : exec (.amaxMerge n c) s = .next (s.after (q.pushAmax n x (cwForm c 4 45))) := accepted rfl rfl h
theorem push_vkey (h : s.accepts (.vkey w c) q x) : exec (.vkey w c) s = .next (s.after (q.pushVkey (siteNum w) x c)) := accepted rfl rfl h
theorem push_cueSet (h : s.accepts (.cueSet w c) q x) : exec (.cueSet w c) s = .next (s.after (q.pushCue (siteNum w) x (cwForm c 0 47))) := accepted rfl rfl h
theorem push_cueClear (h : s.accepts (.cueClear w c) q x) : exec (.cueClear w c) s = .next (s.after (q.pushCue (siteNum w) x (cwForm c 1 47))) := accepted rfl rfl h
theorem push_tallyAdd (h : s.accepts (.tallyAdd n c) q x) : exec (.tallyAdd n c) s = .next (s.after (q.pushTally n x (cwForm c 0 47))) := accepted rfl rfl h
theorem push_tallyReset (h : s.accepts (.tallyReset n c) q x) : exec (.tallyReset n c) s = .next (s.after (q.pushTally n x (cwForm c 1 47))) := accepted rfl rfl h
theorem push_roundBind (h : s.accepts (.roundBind w c) q x) : exec (.roundBind w c) s = .next (s.after (q.pushRound (siteNum w) x (cwForm c 0 46))) := accepted rfl rfl h
theorem push_roundUnbind (h : s.accepts (.roundUnbind w c) q x) : exec (.roundUnbind w c) s = .next (s.after (q.pushRound (siteNum w) x (cwForm c 1 46))) := accepted rfl rfl h
theorem push_roundArrive (h : s.accepts (.roundArrive w c) q x) : exec (.roundArrive w c) s = .next (s.after (q.pushRound (siteNum w) x (cwForm c 2 46))) := accepted rfl rfl h
theorem push_fence (h : s.accepts (.fence n c) q x) : exec (.fence n c) s = .next (s.after (q.pushFence n x c)) := accepted rfl rfl h
theorem push_chsend (h : s.accepts (.chsend n c) q x) : exec (.chsend n c) s = .next (s.after (q.pushChsend n x c)) := accepted rfl rfl h
theorem push_chfree (h : s.accepts (.chfree n c) q x) : exec (.chfree n c) s = .next (s.after (q.pushChfree n x c)) := accepted rfl rfl h
theorem push_hput (h : s.accepts (.hput n c) q x) : exec (.hput n c) s = .next (s.after (q.pushHput n x c)) := accepted rfl rfl h
theorem push_put (h : s.accepts (.put n c) q x) : exec (.put n c) s = .next (s.after (q.pushPut n x c)) := accepted rfl rfl h
theorem push_ckinit (h : s.accepts (.ckinit n c) q x) : exec (.ckinit n c) s = .next (s.after (q.pushCkinit n x c)) := accepted rfl rfl h
theorem push_ckfeed (h : s.accepts (.ckfeed n c) q x) : exec (.ckfeed n c) s = .next (s.after (q.pushCkfeed n x c)) := accepted rfl rfl h
theorem push_ckread (h : s.accepts (.ckread n c) q x) : exec (.ckread n c) s = .next (s.after (q.pushCkread n x c)) := accepted rfl rfl h
theorem push_mckInit (h : s.accepts (.mckInit d c) q x) : exec (.mckInit d c) s = .next (s.after (q.pushMck d x (mckForm c 0))) := accepted rfl rfl h
theorem push_mckFeed (h : s.accepts (.mckFeed d c) q x) : exec (.mckFeed d c) s = .next (s.after (q.pushMck d x (mckForm c 1))) := accepted rfl rfl h
theorem push_mckRead (h : s.accepts (.mckRead d c) q x) : exec (.mckRead d c) s = .next (s.after (q.pushMck d x (mckForm c 2))) := accepted rfl rfl h
theorem push_take (h : s.accepts (.take c) q x) : exec (.take c) s = .next (s.after (q.pushIsu x 1 c)) := accepted rfl rfl h
theorem push_slot (h : s.accepts (.slot c) q x) : exec (.slot c) s = .next (s.after (q.pushIsu x 2 c)) := accepted rfl rfl h
theorem push_egress (h : s.accepts (.egress c) q x) : exec (.egress c) s = .next (s.after (q.pushIsu x 3 c)) := accepted rfl rfl h
theorem push_page (h : s.accepts (.page c) q x) : exec (.page c) s = .next (s.after (q.pushIsu x 4 c)) := accepted rfl rfl h
theorem push_bmove (h : s.accepts (.bmove d i c) q x) : exec (.bmove d i c) s = .next (s.after (q.pushBmove d i x c)) := accepted rfl rfl h
theorem push_lsend (h : s.accepts (.lsend l c) q x) : exec (.lsend l c) s = .next (s.after (q.pushLsend l x c)) := accepted rfl rfl h

end

end Sys2Proof.Laws
end

