-- ==== Sys2Proof/Laws/State.lean ====
section
/-! SUPPORT. What each update of the state leaves unchanged, field by field, and what the accessors read after it. -/

namespace Sys2Proof.Laws

open Sys2Proof Sys2Proof.Machine

variable (s : State)

/-! ## Fields that an update leaves -/

@[simp] theorem modCl_fields (n : Nat) (f : Cluster → Cluster) :
    (s.modCl n f).pending = s.pending ∧ (s.modCl n f).free = s.free ∧ (s.modCl n f).uid = s.uid ∧ (s.modCl n f).grade = s.grade ∧
    (s.modCl n f).fused = s.fused ∧ (s.modCl n f).dom = s.dom ∧ (s.modCl n f).seqs = s.seqs ∧ (s.modCl n f).units = s.units ∧
    (s.modCl n f).mck = s.mck ∧ (s.modCl n f).rt = s.rt ∧ (s.modCl n f).chans = s.chans ∧ (s.modCl n f).hqs = s.hqs ∧
    (s.modCl n f).residents = s.residents ∧ (s.modCl n f).acks = s.acks ∧ (s.modCl n f).bulks = s.bulks ∧ (s.modCl n f).paths = s.paths ∧
    (s.modCl n f).voids = s.voids ∧ (s.modCl n f).crossings = s.crossings ∧ (s.modCl n f).untimed = s.untimed ∧
    (s.modCl n f).contribs = s.contribs ∧ (s.modCl n f).closed = s.closed ∧ (s.modCl n f).sigWptr = s.sigWptr ∧
    (s.modCl n f).counters = s.counters ∧ (s.modCl n f).discrepancies = s.discrepancies ∧ (s.modCl n f).discrepant = s.discrepant ∧
    (s.modCl n f).actual = s.actual ∧ (s.modCl n f).skips = s.skips ∧ (s.modCl n f).hazards = s.hazards ∧ (s.modCl n f).det = s.det ∧
    (s.modCl n f).errs = s.errs ∧ (s.modCl n f).errSeq = s.errSeq ∧ (s.modCl n f).bank = s.bank ∧ (s.modCl n f).bankErr = s.bankErr ∧
    (s.modCl n f).bankUse = s.bankUse ∧ (s.modCl n f).bankScrub = s.bankScrub ∧ (s.modCl n f).bankScrubNext = s.bankScrubNext ∧
    (s.modCl n f).refreshing = s.refreshing ∧ (s.modCl n f).refreshNext = s.refreshNext ∧ (s.modCl n f).pkgs = s.pkgs ∧
    (s.modCl n f).host = s.host ∧ (s.modCl n f).buddy = s.buddy ∧ (s.modCl n f).landing = s.landing ∧ (s.modCl n f).beat = s.beat ∧
    (s.modCl n f).mode = s.mode ∧ (s.modCl n f).pow = s.pow ∧ (s.modCl n f).links = s.links ∧ (s.modCl n f).isu = s.isu ∧
    (s.modCl n f).port = s.port ∧ (s.modCl n f).sec = s.sec ∧ (s.modCl n f).dict = s.dict ∧ (s.modCl n f).snap = s.snap ∧
    (s.modCl n f).taps = s.taps ∧ (s.modCl n f).dbgAddr = s.dbgAddr ∧ (s.modCl n f).dbgErr = s.dbgErr ∧ (s.modCl n f).dbgData = s.dbgData ∧
    (s.modCl n f).scanned = s.scanned :=
    by and_intros <;> rfl

@[simp] theorem modDom_fields (d : Nat) (f : Dom → Dom) :
    (s.modDom d f).pending = s.pending ∧ (s.modDom d f).free = s.free ∧ (s.modDom d f).uid = s.uid ∧ (s.modDom d f).grade = s.grade ∧
    (s.modDom d f).fused = s.fused ∧ (s.modDom d f).cl = s.cl ∧ (s.modDom d f).seqs = s.seqs ∧ (s.modDom d f).units = s.units ∧
    (s.modDom d f).mck = s.mck ∧ (s.modDom d f).rt = s.rt ∧ (s.modDom d f).chans = s.chans ∧ (s.modDom d f).hqs = s.hqs ∧
    (s.modDom d f).residents = s.residents ∧ (s.modDom d f).acks = s.acks ∧ (s.modDom d f).bulks = s.bulks ∧
    (s.modDom d f).paths = s.paths ∧ (s.modDom d f).voids = s.voids ∧ (s.modDom d f).crossings = s.crossings ∧
    (s.modDom d f).untimed = s.untimed ∧ (s.modDom d f).contribs = s.contribs ∧ (s.modDom d f).closed = s.closed ∧
    (s.modDom d f).sigWptr = s.sigWptr ∧ (s.modDom d f).counters = s.counters ∧ (s.modDom d f).discrepancies = s.discrepancies ∧
    (s.modDom d f).discrepant = s.discrepant ∧ (s.modDom d f).actual = s.actual ∧ (s.modDom d f).skips = s.skips ∧
    (s.modDom d f).hazards = s.hazards ∧ (s.modDom d f).det = s.det ∧ (s.modDom d f).errs = s.errs ∧ (s.modDom d f).errSeq = s.errSeq ∧
    (s.modDom d f).bank = s.bank ∧ (s.modDom d f).bankErr = s.bankErr ∧ (s.modDom d f).bankUse = s.bankUse ∧
    (s.modDom d f).bankScrub = s.bankScrub ∧ (s.modDom d f).bankScrubNext = s.bankScrubNext ∧ (s.modDom d f).refreshing = s.refreshing ∧
    (s.modDom d f).refreshNext = s.refreshNext ∧ (s.modDom d f).pkgs = s.pkgs ∧ (s.modDom d f).host = s.host ∧
    (s.modDom d f).buddy = s.buddy ∧ (s.modDom d f).landing = s.landing ∧ (s.modDom d f).beat = s.beat ∧ (s.modDom d f).mode = s.mode ∧
    (s.modDom d f).pow = s.pow ∧ (s.modDom d f).links = s.links ∧ (s.modDom d f).isu = s.isu ∧ (s.modDom d f).port = s.port ∧
    (s.modDom d f).sec = s.sec ∧ (s.modDom d f).dict = s.dict ∧ (s.modDom d f).snap = s.snap ∧ (s.modDom d f).taps = s.taps ∧
    (s.modDom d f).dbgAddr = s.dbgAddr ∧ (s.modDom d f).dbgErr = s.dbgErr ∧ (s.modDom d f).dbgData = s.dbgData ∧
    (s.modDom d f).scanned = s.scanned :=
    by and_intros <;> rfl

@[simp] theorem modDoms_fields (f : Dom → Dom) :
    (s.modDoms f).pending = s.pending ∧ (s.modDoms f).free = s.free ∧ (s.modDoms f).uid = s.uid ∧ (s.modDoms f).grade = s.grade ∧
    (s.modDoms f).fused = s.fused ∧ (s.modDoms f).cl = s.cl ∧ (s.modDoms f).seqs = s.seqs ∧ (s.modDoms f).units = s.units ∧
    (s.modDoms f).mck = s.mck ∧ (s.modDoms f).rt = s.rt ∧ (s.modDoms f).chans = s.chans ∧ (s.modDoms f).hqs = s.hqs ∧
    (s.modDoms f).residents = s.residents ∧ (s.modDoms f).acks = s.acks ∧ (s.modDoms f).bulks = s.bulks ∧ (s.modDoms f).paths = s.paths ∧
    (s.modDoms f).voids = s.voids ∧ (s.modDoms f).crossings = s.crossings ∧ (s.modDoms f).untimed = s.untimed ∧
    (s.modDoms f).contribs = s.contribs ∧ (s.modDoms f).closed = s.closed ∧ (s.modDoms f).sigWptr = s.sigWptr ∧
    (s.modDoms f).counters = s.counters ∧ (s.modDoms f).discrepancies = s.discrepancies ∧ (s.modDoms f).discrepant = s.discrepant ∧
    (s.modDoms f).actual = s.actual ∧ (s.modDoms f).skips = s.skips ∧ (s.modDoms f).hazards = s.hazards ∧ (s.modDoms f).det = s.det ∧
    (s.modDoms f).errs = s.errs ∧ (s.modDoms f).errSeq = s.errSeq ∧ (s.modDoms f).bank = s.bank ∧ (s.modDoms f).bankErr = s.bankErr ∧
    (s.modDoms f).bankUse = s.bankUse ∧ (s.modDoms f).bankScrub = s.bankScrub ∧ (s.modDoms f).bankScrubNext = s.bankScrubNext ∧
    (s.modDoms f).refreshing = s.refreshing ∧ (s.modDoms f).refreshNext = s.refreshNext ∧ (s.modDoms f).pkgs = s.pkgs ∧
    (s.modDoms f).host = s.host ∧ (s.modDoms f).buddy = s.buddy ∧ (s.modDoms f).landing = s.landing ∧ (s.modDoms f).beat = s.beat ∧
    (s.modDoms f).mode = s.mode ∧ (s.modDoms f).pow = s.pow ∧ (s.modDoms f).links = s.links ∧ (s.modDoms f).isu = s.isu ∧
    (s.modDoms f).port = s.port ∧ (s.modDoms f).sec = s.sec ∧ (s.modDoms f).dict = s.dict ∧ (s.modDoms f).snap = s.snap ∧
    (s.modDoms f).taps = s.taps ∧ (s.modDoms f).dbgAddr = s.dbgAddr ∧ (s.modDoms f).dbgErr = s.dbgErr ∧ (s.modDoms f).dbgData = s.dbgData ∧
    (s.modDoms f).scanned = s.scanned :=
    by and_intros <;> rfl

@[simp] theorem modCls_fields (f : Cluster → Cluster) :
    (s.modCls f).pending = s.pending ∧ (s.modCls f).free = s.free ∧ (s.modCls f).uid = s.uid ∧ (s.modCls f).grade = s.grade ∧
    (s.modCls f).fused = s.fused ∧ (s.modCls f).dom = s.dom ∧ (s.modCls f).seqs = s.seqs ∧ (s.modCls f).units = s.units ∧
    (s.modCls f).mck = s.mck ∧ (s.modCls f).rt = s.rt ∧ (s.modCls f).chans = s.chans ∧ (s.modCls f).hqs = s.hqs ∧
    (s.modCls f).residents = s.residents ∧ (s.modCls f).acks = s.acks ∧ (s.modCls f).bulks = s.bulks ∧ (s.modCls f).paths = s.paths ∧
    (s.modCls f).voids = s.voids ∧ (s.modCls f).crossings = s.crossings ∧ (s.modCls f).untimed = s.untimed ∧
    (s.modCls f).contribs = s.contribs ∧ (s.modCls f).closed = s.closed ∧ (s.modCls f).sigWptr = s.sigWptr ∧
    (s.modCls f).counters = s.counters ∧ (s.modCls f).discrepancies = s.discrepancies ∧ (s.modCls f).discrepant = s.discrepant ∧
    (s.modCls f).actual = s.actual ∧ (s.modCls f).skips = s.skips ∧ (s.modCls f).hazards = s.hazards ∧ (s.modCls f).det = s.det ∧
    (s.modCls f).errs = s.errs ∧ (s.modCls f).errSeq = s.errSeq ∧ (s.modCls f).bank = s.bank ∧ (s.modCls f).bankErr = s.bankErr ∧
    (s.modCls f).bankUse = s.bankUse ∧ (s.modCls f).bankScrub = s.bankScrub ∧ (s.modCls f).bankScrubNext = s.bankScrubNext ∧
    (s.modCls f).refreshing = s.refreshing ∧ (s.modCls f).refreshNext = s.refreshNext ∧ (s.modCls f).pkgs = s.pkgs ∧
    (s.modCls f).host = s.host ∧ (s.modCls f).buddy = s.buddy ∧ (s.modCls f).landing = s.landing ∧ (s.modCls f).beat = s.beat ∧
    (s.modCls f).mode = s.mode ∧ (s.modCls f).pow = s.pow ∧ (s.modCls f).links = s.links ∧ (s.modCls f).isu = s.isu ∧
    (s.modCls f).port = s.port ∧ (s.modCls f).sec = s.sec ∧ (s.modCls f).dict = s.dict ∧ (s.modCls f).snap = s.snap ∧
    (s.modCls f).taps = s.taps ∧ (s.modCls f).dbgAddr = s.dbgAddr ∧ (s.modCls f).dbgErr = s.dbgErr ∧ (s.modCls f).dbgData = s.dbgData ∧
    (s.modCls f).scanned = s.scanned :=
    by and_intros <;> rfl

@[simp] theorem modCaller_fields (w : Nat) (f : Caller → Caller) :
    (s.modCaller w f).pending = s.pending ∧ (s.modCaller w f).free = s.free ∧ (s.modCaller w f).uid = s.uid ∧
    (s.modCaller w f).grade = s.grade ∧ (s.modCaller w f).fused = s.fused ∧ (s.modCaller w f).dom = s.dom ∧
    (s.modCaller w f).units = s.units ∧ (s.modCaller w f).mck = s.mck ∧ (s.modCaller w f).rt = s.rt ∧ (s.modCaller w f).chans = s.chans ∧
    (s.modCaller w f).hqs = s.hqs ∧ (s.modCaller w f).residents = s.residents ∧ (s.modCaller w f).acks = s.acks ∧
    (s.modCaller w f).bulks = s.bulks ∧ (s.modCaller w f).paths = s.paths ∧ (s.modCaller w f).voids = s.voids ∧
    (s.modCaller w f).crossings = s.crossings ∧ (s.modCaller w f).untimed = s.untimed ∧ (s.modCaller w f).contribs = s.contribs ∧
    (s.modCaller w f).closed = s.closed ∧ (s.modCaller w f).sigWptr = s.sigWptr ∧ (s.modCaller w f).counters = s.counters ∧
    (s.modCaller w f).discrepancies = s.discrepancies ∧ (s.modCaller w f).discrepant = s.discrepant ∧ (s.modCaller w f).actual = s.actual ∧
    (s.modCaller w f).skips = s.skips ∧ (s.modCaller w f).hazards = s.hazards ∧ (s.modCaller w f).det = s.det ∧
    (s.modCaller w f).errs = s.errs ∧ (s.modCaller w f).errSeq = s.errSeq ∧ (s.modCaller w f).bank = s.bank ∧
    (s.modCaller w f).bankErr = s.bankErr ∧ (s.modCaller w f).bankUse = s.bankUse ∧ (s.modCaller w f).bankScrub = s.bankScrub ∧
    (s.modCaller w f).bankScrubNext = s.bankScrubNext ∧ (s.modCaller w f).refreshing = s.refreshing ∧
    (s.modCaller w f).refreshNext = s.refreshNext ∧ (s.modCaller w f).pkgs = s.pkgs ∧ (s.modCaller w f).host = s.host ∧
    (s.modCaller w f).buddy = s.buddy ∧ (s.modCaller w f).landing = s.landing ∧ (s.modCaller w f).beat = s.beat ∧
    (s.modCaller w f).mode = s.mode ∧ (s.modCaller w f).pow = s.pow ∧ (s.modCaller w f).links = s.links ∧ (s.modCaller w f).isu = s.isu ∧
    (s.modCaller w f).port = s.port ∧ (s.modCaller w f).sec = s.sec ∧ (s.modCaller w f).dict = s.dict ∧ (s.modCaller w f).snap = s.snap ∧
    (s.modCaller w f).taps = s.taps ∧ (s.modCaller w f).dbgAddr = s.dbgAddr ∧ (s.modCaller w f).dbgErr = s.dbgErr ∧
    (s.modCaller w f).dbgData = s.dbgData ∧ (s.modCaller w f).scanned = s.scanned :=
    by and_intros <;> rfl

@[simp] theorem modLink_fields (l : Nat) (f : Link → Link) :
    (s.modLink l f).pending = s.pending ∧ (s.modLink l f).free = s.free ∧ (s.modLink l f).uid = s.uid ∧ (s.modLink l f).grade = s.grade ∧
    (s.modLink l f).fused = s.fused ∧ (s.modLink l f).dom = s.dom ∧ (s.modLink l f).cl = s.cl ∧ (s.modLink l f).seqs = s.seqs ∧
    (s.modLink l f).units = s.units ∧ (s.modLink l f).mck = s.mck ∧ (s.modLink l f).rt = s.rt ∧ (s.modLink l f).chans = s.chans ∧
    (s.modLink l f).hqs = s.hqs ∧ (s.modLink l f).residents = s.residents ∧ (s.modLink l f).acks = s.acks ∧
    (s.modLink l f).bulks = s.bulks ∧ (s.modLink l f).paths = s.paths ∧ (s.modLink l f).voids = s.voids ∧
    (s.modLink l f).crossings = s.crossings ∧ (s.modLink l f).untimed = s.untimed ∧ (s.modLink l f).contribs = s.contribs ∧
    (s.modLink l f).closed = s.closed ∧ (s.modLink l f).sigWptr = s.sigWptr ∧ (s.modLink l f).counters = s.counters ∧
    (s.modLink l f).discrepancies = s.discrepancies ∧ (s.modLink l f).discrepant = s.discrepant ∧ (s.modLink l f).actual = s.actual ∧
    (s.modLink l f).skips = s.skips ∧ (s.modLink l f).hazards = s.hazards ∧ (s.modLink l f).det = s.det ∧ (s.modLink l f).errs = s.errs ∧
    (s.modLink l f).errSeq = s.errSeq ∧ (s.modLink l f).bank = s.bank ∧ (s.modLink l f).bankErr = s.bankErr ∧
    (s.modLink l f).bankUse = s.bankUse ∧ (s.modLink l f).bankScrub = s.bankScrub ∧ (s.modLink l f).bankScrubNext = s.bankScrubNext ∧
    (s.modLink l f).refreshing = s.refreshing ∧ (s.modLink l f).refreshNext = s.refreshNext ∧ (s.modLink l f).pkgs = s.pkgs ∧
    (s.modLink l f).host = s.host ∧ (s.modLink l f).buddy = s.buddy ∧ (s.modLink l f).landing = s.landing ∧ (s.modLink l f).beat = s.beat ∧
    (s.modLink l f).mode = s.mode ∧ (s.modLink l f).pow = s.pow ∧ (s.modLink l f).isu = s.isu ∧ (s.modLink l f).port = s.port ∧
    (s.modLink l f).sec = s.sec ∧ (s.modLink l f).dict = s.dict ∧ (s.modLink l f).snap = s.snap ∧ (s.modLink l f).taps = s.taps ∧
    (s.modLink l f).dbgAddr = s.dbgAddr ∧ (s.modLink l f).dbgErr = s.dbgErr ∧ (s.modLink l f).dbgData = s.dbgData ∧
    (s.modLink l f).scanned = s.scanned :=
    by and_intros <;> rfl

@[simp] theorem modMon_fields (r : Nat) (f : Monitor → Monitor) :
    (s.modMon r f).pending = s.pending ∧ (s.modMon r f).free = s.free ∧ (s.modMon r f).uid = s.uid ∧ (s.modMon r f).grade = s.grade ∧
    (s.modMon r f).fused = s.fused ∧ (s.modMon r f).dom = s.dom ∧ (s.modMon r f).cl = s.cl ∧ (s.modMon r f).seqs = s.seqs ∧
    (s.modMon r f).units = s.units ∧ (s.modMon r f).mck = s.mck ∧ (s.modMon r f).rt = s.rt ∧ (s.modMon r f).chans = s.chans ∧
    (s.modMon r f).hqs = s.hqs ∧ (s.modMon r f).residents = s.residents ∧ (s.modMon r f).acks = s.acks ∧ (s.modMon r f).bulks = s.bulks ∧
    (s.modMon r f).paths = s.paths ∧ (s.modMon r f).voids = s.voids ∧ (s.modMon r f).crossings = s.crossings ∧
    (s.modMon r f).untimed = s.untimed ∧ (s.modMon r f).contribs = s.contribs ∧ (s.modMon r f).closed = s.closed ∧
    (s.modMon r f).sigWptr = s.sigWptr ∧ (s.modMon r f).counters = s.counters ∧ (s.modMon r f).discrepancies = s.discrepancies ∧
    (s.modMon r f).discrepant = s.discrepant ∧ (s.modMon r f).actual = s.actual ∧ (s.modMon r f).skips = s.skips ∧
    (s.modMon r f).hazards = s.hazards ∧ (s.modMon r f).det = s.det ∧ (s.modMon r f).errs = s.errs ∧ (s.modMon r f).errSeq = s.errSeq ∧
    (s.modMon r f).bank = s.bank ∧ (s.modMon r f).bankErr = s.bankErr ∧ (s.modMon r f).bankUse = s.bankUse ∧
    (s.modMon r f).bankScrub = s.bankScrub ∧ (s.modMon r f).bankScrubNext = s.bankScrubNext ∧ (s.modMon r f).refreshing = s.refreshing ∧
    (s.modMon r f).refreshNext = s.refreshNext ∧ (s.modMon r f).pkgs = s.pkgs ∧ (s.modMon r f).host = s.host ∧
    (s.modMon r f).buddy = s.buddy ∧ (s.modMon r f).landing = s.landing ∧ (s.modMon r f).beat = s.beat ∧ (s.modMon r f).mode = s.mode ∧
    (s.modMon r f).links = s.links ∧ (s.modMon r f).isu = s.isu ∧ (s.modMon r f).port = s.port ∧ (s.modMon r f).sec = s.sec ∧
    (s.modMon r f).dict = s.dict ∧ (s.modMon r f).snap = s.snap ∧ (s.modMon r f).taps = s.taps ∧ (s.modMon r f).dbgAddr = s.dbgAddr ∧
    (s.modMon r f).dbgErr = s.dbgErr ∧ (s.modMon r f).dbgData = s.dbgData ∧ (s.modMon r f).scanned = s.scanned :=
    by and_intros <;> rfl

@[simp] theorem modChan_fields (h : Nat) (f : Chan → Chan) :
    (s.modChan h f).pending = s.pending ∧ (s.modChan h f).free = s.free ∧ (s.modChan h f).uid = s.uid ∧ (s.modChan h f).grade = s.grade ∧
    (s.modChan h f).fused = s.fused ∧ (s.modChan h f).dom = s.dom ∧ (s.modChan h f).cl = s.cl ∧ (s.modChan h f).seqs = s.seqs ∧
    (s.modChan h f).units = s.units ∧ (s.modChan h f).mck = s.mck ∧ (s.modChan h f).rt = s.rt ∧ (s.modChan h f).hqs = s.hqs ∧
    (s.modChan h f).residents = s.residents ∧ (s.modChan h f).acks = s.acks ∧ (s.modChan h f).bulks = s.bulks ∧
    (s.modChan h f).paths = s.paths ∧ (s.modChan h f).voids = s.voids ∧ (s.modChan h f).crossings = s.crossings ∧
    (s.modChan h f).untimed = s.untimed ∧ (s.modChan h f).contribs = s.contribs ∧ (s.modChan h f).closed = s.closed ∧
    (s.modChan h f).sigWptr = s.sigWptr ∧ (s.modChan h f).counters = s.counters ∧ (s.modChan h f).discrepancies = s.discrepancies ∧
    (s.modChan h f).discrepant = s.discrepant ∧ (s.modChan h f).actual = s.actual ∧ (s.modChan h f).skips = s.skips ∧
    (s.modChan h f).hazards = s.hazards ∧ (s.modChan h f).det = s.det ∧ (s.modChan h f).errs = s.errs ∧ (s.modChan h f).errSeq = s.errSeq ∧
    (s.modChan h f).bank = s.bank ∧ (s.modChan h f).bankErr = s.bankErr ∧ (s.modChan h f).bankUse = s.bankUse ∧
    (s.modChan h f).bankScrub = s.bankScrub ∧ (s.modChan h f).bankScrubNext = s.bankScrubNext ∧ (s.modChan h f).refreshing = s.refreshing ∧
    (s.modChan h f).refreshNext = s.refreshNext ∧ (s.modChan h f).pkgs = s.pkgs ∧ (s.modChan h f).host = s.host ∧
    (s.modChan h f).buddy = s.buddy ∧ (s.modChan h f).landing = s.landing ∧ (s.modChan h f).beat = s.beat ∧ (s.modChan h f).mode = s.mode ∧
    (s.modChan h f).pow = s.pow ∧ (s.modChan h f).links = s.links ∧ (s.modChan h f).isu = s.isu ∧ (s.modChan h f).port = s.port ∧
    (s.modChan h f).sec = s.sec ∧ (s.modChan h f).dict = s.dict ∧ (s.modChan h f).snap = s.snap ∧ (s.modChan h f).taps = s.taps ∧
    (s.modChan h f).dbgAddr = s.dbgAddr ∧ (s.modChan h f).dbgErr = s.dbgErr ∧ (s.modChan h f).dbgData = s.dbgData ∧
    (s.modChan h f).scanned = s.scanned :=
    by and_intros <;> rfl

@[simp] theorem modUnit_fields (u : Nat) (f : MUnit → MUnit) :
    (s.modUnit u f).pending = s.pending ∧ (s.modUnit u f).free = s.free ∧ (s.modUnit u f).uid = s.uid ∧ (s.modUnit u f).grade = s.grade ∧
    (s.modUnit u f).fused = s.fused ∧ (s.modUnit u f).dom = s.dom ∧ (s.modUnit u f).cl = s.cl ∧ (s.modUnit u f).seqs = s.seqs ∧
    (s.modUnit u f).mck = s.mck ∧ (s.modUnit u f).rt = s.rt ∧ (s.modUnit u f).chans = s.chans ∧ (s.modUnit u f).hqs = s.hqs ∧
    (s.modUnit u f).residents = s.residents ∧ (s.modUnit u f).acks = s.acks ∧ (s.modUnit u f).bulks = s.bulks ∧
    (s.modUnit u f).paths = s.paths ∧ (s.modUnit u f).voids = s.voids ∧ (s.modUnit u f).crossings = s.crossings ∧
    (s.modUnit u f).untimed = s.untimed ∧ (s.modUnit u f).contribs = s.contribs ∧ (s.modUnit u f).closed = s.closed ∧
    (s.modUnit u f).sigWptr = s.sigWptr ∧ (s.modUnit u f).counters = s.counters ∧ (s.modUnit u f).discrepancies = s.discrepancies ∧
    (s.modUnit u f).discrepant = s.discrepant ∧ (s.modUnit u f).actual = s.actual ∧ (s.modUnit u f).skips = s.skips ∧
    (s.modUnit u f).hazards = s.hazards ∧ (s.modUnit u f).det = s.det ∧ (s.modUnit u f).errs = s.errs ∧ (s.modUnit u f).errSeq = s.errSeq ∧
    (s.modUnit u f).bank = s.bank ∧ (s.modUnit u f).bankErr = s.bankErr ∧ (s.modUnit u f).bankUse = s.bankUse ∧
    (s.modUnit u f).bankScrub = s.bankScrub ∧ (s.modUnit u f).bankScrubNext = s.bankScrubNext ∧ (s.modUnit u f).refreshing = s.refreshing ∧
    (s.modUnit u f).refreshNext = s.refreshNext ∧ (s.modUnit u f).pkgs = s.pkgs ∧ (s.modUnit u f).host = s.host ∧
    (s.modUnit u f).buddy = s.buddy ∧ (s.modUnit u f).landing = s.landing ∧ (s.modUnit u f).beat = s.beat ∧ (s.modUnit u f).mode = s.mode ∧
    (s.modUnit u f).pow = s.pow ∧ (s.modUnit u f).links = s.links ∧ (s.modUnit u f).isu = s.isu ∧ (s.modUnit u f).port = s.port ∧
    (s.modUnit u f).sec = s.sec ∧ (s.modUnit u f).dict = s.dict ∧ (s.modUnit u f).snap = s.snap ∧ (s.modUnit u f).taps = s.taps ∧
    (s.modUnit u f).dbgAddr = s.dbgAddr ∧ (s.modUnit u f).dbgErr = s.dbgErr ∧ (s.modUnit u f).dbgData = s.dbgData ∧
    (s.modUnit u f).scanned = s.scanned :=
    by and_intros <;> rfl

@[simp] theorem modResident_fields (k : Nat) (f : Resident → Resident) :
    (s.modResident k f).pending = s.pending ∧ (s.modResident k f).free = s.free ∧ (s.modResident k f).uid = s.uid ∧
    (s.modResident k f).grade = s.grade ∧ (s.modResident k f).fused = s.fused ∧ (s.modResident k f).dom = s.dom ∧
    (s.modResident k f).cl = s.cl ∧ (s.modResident k f).seqs = s.seqs ∧ (s.modResident k f).units = s.units ∧
    (s.modResident k f).mck = s.mck ∧ (s.modResident k f).rt = s.rt ∧ (s.modResident k f).chans = s.chans ∧
    (s.modResident k f).hqs = s.hqs ∧ (s.modResident k f).acks = s.acks ∧ (s.modResident k f).bulks = s.bulks ∧
    (s.modResident k f).paths = s.paths ∧ (s.modResident k f).voids = s.voids ∧ (s.modResident k f).crossings = s.crossings ∧
    (s.modResident k f).untimed = s.untimed ∧ (s.modResident k f).contribs = s.contribs ∧ (s.modResident k f).closed = s.closed ∧
    (s.modResident k f).sigWptr = s.sigWptr ∧ (s.modResident k f).counters = s.counters ∧
    (s.modResident k f).discrepancies = s.discrepancies ∧ (s.modResident k f).discrepant = s.discrepant ∧
    (s.modResident k f).actual = s.actual ∧ (s.modResident k f).skips = s.skips ∧ (s.modResident k f).hazards = s.hazards ∧
    (s.modResident k f).det = s.det ∧ (s.modResident k f).errs = s.errs ∧ (s.modResident k f).errSeq = s.errSeq ∧
    (s.modResident k f).bank = s.bank ∧ (s.modResident k f).bankErr = s.bankErr ∧ (s.modResident k f).bankUse = s.bankUse ∧
    (s.modResident k f).bankScrub = s.bankScrub ∧ (s.modResident k f).bankScrubNext = s.bankScrubNext ∧
    (s.modResident k f).refreshing = s.refreshing ∧ (s.modResident k f).refreshNext = s.refreshNext ∧ (s.modResident k f).pkgs = s.pkgs ∧
    (s.modResident k f).host = s.host ∧ (s.modResident k f).buddy = s.buddy ∧ (s.modResident k f).landing = s.landing ∧
    (s.modResident k f).beat = s.beat ∧ (s.modResident k f).mode = s.mode ∧ (s.modResident k f).pow = s.pow ∧
    (s.modResident k f).links = s.links ∧ (s.modResident k f).isu = s.isu ∧ (s.modResident k f).port = s.port ∧
    (s.modResident k f).sec = s.sec ∧ (s.modResident k f).dict = s.dict ∧ (s.modResident k f).snap = s.snap ∧
    (s.modResident k f).taps = s.taps ∧ (s.modResident k f).dbgAddr = s.dbgAddr ∧ (s.modResident k f).dbgErr = s.dbgErr ∧
    (s.modResident k f).dbgData = s.dbgData ∧ (s.modResident k f).scanned = s.scanned :=
    by and_intros <;> rfl

@[simp] theorem modFn_fields (k : Nat) (g : HostFn → HostFn) :
    (s.modFn k g).pending = s.pending ∧ (s.modFn k g).free = s.free ∧ (s.modFn k g).uid = s.uid ∧ (s.modFn k g).grade = s.grade ∧
    (s.modFn k g).fused = s.fused ∧ (s.modFn k g).dom = s.dom ∧ (s.modFn k g).cl = s.cl ∧ (s.modFn k g).seqs = s.seqs ∧
    (s.modFn k g).units = s.units ∧ (s.modFn k g).mck = s.mck ∧ (s.modFn k g).rt = s.rt ∧ (s.modFn k g).chans = s.chans ∧
    (s.modFn k g).hqs = s.hqs ∧ (s.modFn k g).residents = s.residents ∧ (s.modFn k g).acks = s.acks ∧ (s.modFn k g).bulks = s.bulks ∧
    (s.modFn k g).paths = s.paths ∧ (s.modFn k g).voids = s.voids ∧ (s.modFn k g).crossings = s.crossings ∧
    (s.modFn k g).untimed = s.untimed ∧ (s.modFn k g).contribs = s.contribs ∧ (s.modFn k g).closed = s.closed ∧
    (s.modFn k g).sigWptr = s.sigWptr ∧ (s.modFn k g).counters = s.counters ∧ (s.modFn k g).discrepancies = s.discrepancies ∧
    (s.modFn k g).discrepant = s.discrepant ∧ (s.modFn k g).actual = s.actual ∧ (s.modFn k g).skips = s.skips ∧
    (s.modFn k g).hazards = s.hazards ∧ (s.modFn k g).det = s.det ∧ (s.modFn k g).errs = s.errs ∧ (s.modFn k g).errSeq = s.errSeq ∧
    (s.modFn k g).bank = s.bank ∧ (s.modFn k g).bankErr = s.bankErr ∧ (s.modFn k g).bankUse = s.bankUse ∧
    (s.modFn k g).bankScrub = s.bankScrub ∧ (s.modFn k g).bankScrubNext = s.bankScrubNext ∧ (s.modFn k g).refreshing = s.refreshing ∧
    (s.modFn k g).refreshNext = s.refreshNext ∧ (s.modFn k g).pkgs = s.pkgs ∧ (s.modFn k g).host = s.host ∧ (s.modFn k g).buddy = s.buddy ∧
    (s.modFn k g).landing = s.landing ∧ (s.modFn k g).beat = s.beat ∧ (s.modFn k g).mode = s.mode ∧ (s.modFn k g).pow = s.pow ∧
    (s.modFn k g).links = s.links ∧ (s.modFn k g).isu = s.isu ∧ (s.modFn k g).sec = s.sec ∧ (s.modFn k g).dict = s.dict ∧
    (s.modFn k g).snap = s.snap ∧ (s.modFn k g).taps = s.taps ∧ (s.modFn k g).dbgAddr = s.dbgAddr ∧ (s.modFn k g).dbgErr = s.dbgErr ∧
    (s.modFn k g).dbgData = s.dbgData ∧ (s.modFn k g).scanned = s.scanned :=
    by and_intros <;> rfl

@[simp] theorem count_fields (idx sub n : Nat) :
    (s.count idx sub n).pending = s.pending ∧ (s.count idx sub n).free = s.free ∧ (s.count idx sub n).uid = s.uid ∧
    (s.count idx sub n).grade = s.grade ∧ (s.count idx sub n).fused = s.fused ∧ (s.count idx sub n).dom = s.dom ∧
    (s.count idx sub n).cl = s.cl ∧ (s.count idx sub n).seqs = s.seqs ∧ (s.count idx sub n).units = s.units ∧
    (s.count idx sub n).mck = s.mck ∧ (s.count idx sub n).rt = s.rt ∧ (s.count idx sub n).chans = s.chans ∧
    (s.count idx sub n).hqs = s.hqs ∧ (s.count idx sub n).residents = s.residents ∧ (s.count idx sub n).acks = s.acks ∧
    (s.count idx sub n).bulks = s.bulks ∧ (s.count idx sub n).paths = s.paths ∧ (s.count idx sub n).voids = s.voids ∧
    (s.count idx sub n).crossings = s.crossings ∧ (s.count idx sub n).untimed = s.untimed ∧ (s.count idx sub n).contribs = s.contribs ∧
    (s.count idx sub n).closed = s.closed ∧ (s.count idx sub n).sigWptr = s.sigWptr ∧ (s.count idx sub n).discrepancies = s.discrepancies ∧
    (s.count idx sub n).discrepant = s.discrepant ∧ (s.count idx sub n).actual = s.actual ∧ (s.count idx sub n).skips = s.skips ∧
    (s.count idx sub n).hazards = s.hazards ∧ (s.count idx sub n).det = s.det ∧ (s.count idx sub n).errs = s.errs ∧
    (s.count idx sub n).errSeq = s.errSeq ∧ (s.count idx sub n).bank = s.bank ∧ (s.count idx sub n).bankErr = s.bankErr ∧
    (s.count idx sub n).bankUse = s.bankUse ∧ (s.count idx sub n).bankScrub = s.bankScrub ∧
    (s.count idx sub n).bankScrubNext = s.bankScrubNext ∧ (s.count idx sub n).refreshing = s.refreshing ∧
    (s.count idx sub n).refreshNext = s.refreshNext ∧ (s.count idx sub n).pkgs = s.pkgs ∧ (s.count idx sub n).host = s.host ∧
    (s.count idx sub n).buddy = s.buddy ∧ (s.count idx sub n).landing = s.landing ∧ (s.count idx sub n).beat = s.beat ∧
    (s.count idx sub n).mode = s.mode ∧ (s.count idx sub n).pow = s.pow ∧ (s.count idx sub n).links = s.links ∧
    (s.count idx sub n).isu = s.isu ∧ (s.count idx sub n).port = s.port ∧ (s.count idx sub n).sec = s.sec ∧
    (s.count idx sub n).dict = s.dict ∧ (s.count idx sub n).snap = s.snap ∧ (s.count idx sub n).taps = s.taps ∧
    (s.count idx sub n).dbgAddr = s.dbgAddr ∧ (s.count idx sub n).dbgErr = s.dbgErr ∧ (s.count idx sub n).dbgData = s.dbgData ∧
    (s.count idx sub n).scanned = s.scanned :=
    by and_intros <;> rfl

@[simp] theorem skipLog_fields (x : Ctx) (reason loc : Nat) :
    (s.skipLog x reason loc).pending = s.pending ∧ (s.skipLog x reason loc).free = s.free ∧ (s.skipLog x reason loc).uid = s.uid ∧
    (s.skipLog x reason loc).grade = s.grade ∧ (s.skipLog x reason loc).fused = s.fused ∧ (s.skipLog x reason loc).dom = s.dom ∧
    (s.skipLog x reason loc).cl = s.cl ∧ (s.skipLog x reason loc).seqs = s.seqs ∧ (s.skipLog x reason loc).units = s.units ∧
    (s.skipLog x reason loc).mck = s.mck ∧ (s.skipLog x reason loc).rt = s.rt ∧ (s.skipLog x reason loc).chans = s.chans ∧
    (s.skipLog x reason loc).hqs = s.hqs ∧ (s.skipLog x reason loc).residents = s.residents ∧ (s.skipLog x reason loc).acks = s.acks ∧
    (s.skipLog x reason loc).bulks = s.bulks ∧ (s.skipLog x reason loc).paths = s.paths ∧ (s.skipLog x reason loc).voids = s.voids ∧
    (s.skipLog x reason loc).crossings = s.crossings ∧ (s.skipLog x reason loc).untimed = s.untimed ∧
    (s.skipLog x reason loc).contribs = s.contribs ∧ (s.skipLog x reason loc).closed = s.closed ∧
    (s.skipLog x reason loc).sigWptr = s.sigWptr ∧ (s.skipLog x reason loc).discrepancies = s.discrepancies ∧
    (s.skipLog x reason loc).discrepant = s.discrepant ∧ (s.skipLog x reason loc).actual = s.actual ∧
    (s.skipLog x reason loc).hazards = s.hazards ∧ (s.skipLog x reason loc).det = s.det ∧ (s.skipLog x reason loc).errs = s.errs ∧
    (s.skipLog x reason loc).errSeq = s.errSeq ∧ (s.skipLog x reason loc).bank = s.bank ∧ (s.skipLog x reason loc).bankErr = s.bankErr ∧
    (s.skipLog x reason loc).bankUse = s.bankUse ∧ (s.skipLog x reason loc).bankScrub = s.bankScrub ∧
    (s.skipLog x reason loc).bankScrubNext = s.bankScrubNext ∧ (s.skipLog x reason loc).refreshing = s.refreshing ∧
    (s.skipLog x reason loc).refreshNext = s.refreshNext ∧ (s.skipLog x reason loc).pkgs = s.pkgs ∧
    (s.skipLog x reason loc).host = s.host ∧ (s.skipLog x reason loc).buddy = s.buddy ∧ (s.skipLog x reason loc).landing = s.landing ∧
    (s.skipLog x reason loc).beat = s.beat ∧ (s.skipLog x reason loc).mode = s.mode ∧ (s.skipLog x reason loc).pow = s.pow ∧
    (s.skipLog x reason loc).links = s.links ∧ (s.skipLog x reason loc).isu = s.isu ∧ (s.skipLog x reason loc).port = s.port ∧
    (s.skipLog x reason loc).sec = s.sec ∧ (s.skipLog x reason loc).dict = s.dict ∧ (s.skipLog x reason loc).snap = s.snap ∧
    (s.skipLog x reason loc).taps = s.taps ∧ (s.skipLog x reason loc).dbgAddr = s.dbgAddr ∧ (s.skipLog x reason loc).dbgErr = s.dbgErr ∧
    (s.skipLog x reason loc).dbgData = s.dbgData ∧ (s.skipLog x reason loc).scanned = s.scanned :=
    by and_intros <;> rfl

@[simp] theorem hazard_fields (x : Ctx) (kind sub loc other resource : Nat) :
    (s.hazard x kind sub loc other resource).pending = s.pending ∧ (s.hazard x kind sub loc other resource).free = s.free ∧
    (s.hazard x kind sub loc other resource).uid = s.uid ∧ (s.hazard x kind sub loc other resource).grade = s.grade ∧
    (s.hazard x kind sub loc other resource).fused = s.fused ∧ (s.hazard x kind sub loc other resource).dom = s.dom ∧
    (s.hazard x kind sub loc other resource).cl = s.cl ∧ (s.hazard x kind sub loc other resource).seqs = s.seqs ∧
    (s.hazard x kind sub loc other resource).units = s.units ∧ (s.hazard x kind sub loc other resource).mck = s.mck ∧
    (s.hazard x kind sub loc other resource).rt = s.rt ∧ (s.hazard x kind sub loc other resource).chans = s.chans ∧
    (s.hazard x kind sub loc other resource).hqs = s.hqs ∧ (s.hazard x kind sub loc other resource).residents = s.residents ∧
    (s.hazard x kind sub loc other resource).acks = s.acks ∧ (s.hazard x kind sub loc other resource).bulks = s.bulks ∧
    (s.hazard x kind sub loc other resource).paths = s.paths ∧ (s.hazard x kind sub loc other resource).voids = s.voids ∧
    (s.hazard x kind sub loc other resource).crossings = s.crossings ∧ (s.hazard x kind sub loc other resource).untimed = s.untimed ∧
    (s.hazard x kind sub loc other resource).contribs = s.contribs ∧ (s.hazard x kind sub loc other resource).closed = s.closed ∧
    (s.hazard x kind sub loc other resource).sigWptr = s.sigWptr ∧
    (s.hazard x kind sub loc other resource).discrepancies = s.discrepancies ∧
    (s.hazard x kind sub loc other resource).discrepant = s.discrepant ∧ (s.hazard x kind sub loc other resource).actual = s.actual ∧
    (s.hazard x kind sub loc other resource).skips = s.skips ∧ (s.hazard x kind sub loc other resource).det = s.det ∧
    (s.hazard x kind sub loc other resource).errs = s.errs ∧ (s.hazard x kind sub loc other resource).errSeq = s.errSeq ∧
    (s.hazard x kind sub loc other resource).bank = s.bank ∧ (s.hazard x kind sub loc other resource).bankErr = s.bankErr ∧
    (s.hazard x kind sub loc other resource).bankUse = s.bankUse ∧ (s.hazard x kind sub loc other resource).bankScrub = s.bankScrub ∧
    (s.hazard x kind sub loc other resource).bankScrubNext = s.bankScrubNext ∧
    (s.hazard x kind sub loc other resource).refreshing = s.refreshing ∧
    (s.hazard x kind sub loc other resource).refreshNext = s.refreshNext ∧ (s.hazard x kind sub loc other resource).pkgs = s.pkgs ∧
    (s.hazard x kind sub loc other resource).host = s.host ∧ (s.hazard x kind sub loc other resource).buddy = s.buddy ∧
    (s.hazard x kind sub loc other resource).landing = s.landing ∧ (s.hazard x kind sub loc other resource).beat = s.beat ∧
    (s.hazard x kind sub loc other resource).mode = s.mode ∧ (s.hazard x kind sub loc other resource).pow = s.pow ∧
    (s.hazard x kind sub loc other resource).links = s.links ∧ (s.hazard x kind sub loc other resource).isu = s.isu ∧
    (s.hazard x kind sub loc other resource).port = s.port ∧ (s.hazard x kind sub loc other resource).sec = s.sec ∧
    (s.hazard x kind sub loc other resource).dict = s.dict ∧ (s.hazard x kind sub loc other resource).snap = s.snap ∧
    (s.hazard x kind sub loc other resource).taps = s.taps ∧ (s.hazard x kind sub loc other resource).dbgAddr = s.dbgAddr ∧
    (s.hazard x kind sub loc other resource).dbgErr = s.dbgErr ∧ (s.hazard x kind sub loc other resource).dbgData = s.dbgData ∧
    (s.hazard x kind sub loc other resource).scanned = s.scanned :=
    by and_intros <;> rfl

@[simp] theorem post_fields (d t ph rank : Nat) (k : EvK) (mover : Bool) :
    (s.post d t ph rank k mover).pending = s.pending ∧ (s.post d t ph rank k mover).free = s.free ∧
    (s.post d t ph rank k mover).uid = s.uid ∧ (s.post d t ph rank k mover).grade = s.grade ∧
    (s.post d t ph rank k mover).fused = s.fused ∧ (s.post d t ph rank k mover).cl = s.cl ∧ (s.post d t ph rank k mover).seqs = s.seqs ∧
    (s.post d t ph rank k mover).units = s.units ∧ (s.post d t ph rank k mover).mck = s.mck ∧ (s.post d t ph rank k mover).rt = s.rt ∧
    (s.post d t ph rank k mover).chans = s.chans ∧ (s.post d t ph rank k mover).hqs = s.hqs ∧
    (s.post d t ph rank k mover).residents = s.residents ∧ (s.post d t ph rank k mover).acks = s.acks ∧
    (s.post d t ph rank k mover).bulks = s.bulks ∧ (s.post d t ph rank k mover).paths = s.paths ∧
    (s.post d t ph rank k mover).voids = s.voids ∧ (s.post d t ph rank k mover).crossings = s.crossings ∧
    (s.post d t ph rank k mover).untimed = s.untimed ∧ (s.post d t ph rank k mover).contribs = s.contribs ∧
    (s.post d t ph rank k mover).closed = s.closed ∧ (s.post d t ph rank k mover).sigWptr = s.sigWptr ∧
    (s.post d t ph rank k mover).counters = s.counters ∧ (s.post d t ph rank k mover).discrepancies = s.discrepancies ∧
    (s.post d t ph rank k mover).discrepant = s.discrepant ∧ (s.post d t ph rank k mover).actual = s.actual ∧
    (s.post d t ph rank k mover).skips = s.skips ∧ (s.post d t ph rank k mover).hazards = s.hazards ∧
    (s.post d t ph rank k mover).det = s.det ∧ (s.post d t ph rank k mover).errs = s.errs ∧
    (s.post d t ph rank k mover).errSeq = s.errSeq ∧ (s.post d t ph rank k mover).bank = s.bank ∧
    (s.post d t ph rank k mover).bankErr = s.bankErr ∧ (s.post d t ph rank k mover).bankUse = s.bankUse ∧
    (s.post d t ph rank k mover).bankScrub = s.bankScrub ∧ (s.post d t ph rank k mover).bankScrubNext = s.bankScrubNext ∧
    (s.post d t ph rank k mover).refreshing = s.refreshing ∧ (s.post d t ph rank k mover).refreshNext = s.refreshNext ∧
    (s.post d t ph rank k mover).pkgs = s.pkgs ∧ (s.post d t ph rank k mover).host = s.host ∧
    (s.post d t ph rank k mover).buddy = s.buddy ∧ (s.post d t ph rank k mover).landing = s.landing ∧
    (s.post d t ph rank k mover).beat = s.beat ∧ (s.post d t ph rank k mover).mode = s.mode ∧ (s.post d t ph rank k mover).pow = s.pow ∧
    (s.post d t ph rank k mover).links = s.links ∧ (s.post d t ph rank k mover).isu = s.isu ∧ (s.post d t ph rank k mover).port = s.port ∧
    (s.post d t ph rank k mover).sec = s.sec ∧ (s.post d t ph rank k mover).dict = s.dict ∧ (s.post d t ph rank k mover).snap = s.snap ∧
    (s.post d t ph rank k mover).taps = s.taps ∧ (s.post d t ph rank k mover).dbgAddr = s.dbgAddr ∧
    (s.post d t ph rank k mover).dbgErr = s.dbgErr ∧ (s.post d t ph rank k mover).dbgData = s.dbgData ∧
    (s.post d t ph rank k mover).scanned = s.scanned :=
    by and_intros <;> rfl

@[simp] theorem dropEvs_fields (d : Nat) (p : Ev → Bool) :
    (s.dropEvs d p).pending = s.pending ∧ (s.dropEvs d p).free = s.free ∧ (s.dropEvs d p).uid = s.uid ∧ (s.dropEvs d p).grade = s.grade ∧
    (s.dropEvs d p).fused = s.fused ∧ (s.dropEvs d p).cl = s.cl ∧ (s.dropEvs d p).seqs = s.seqs ∧ (s.dropEvs d p).units = s.units ∧
    (s.dropEvs d p).mck = s.mck ∧ (s.dropEvs d p).rt = s.rt ∧ (s.dropEvs d p).chans = s.chans ∧ (s.dropEvs d p).hqs = s.hqs ∧
    (s.dropEvs d p).residents = s.residents ∧ (s.dropEvs d p).acks = s.acks ∧ (s.dropEvs d p).bulks = s.bulks ∧
    (s.dropEvs d p).paths = s.paths ∧ (s.dropEvs d p).voids = s.voids ∧ (s.dropEvs d p).crossings = s.crossings ∧
    (s.dropEvs d p).untimed = s.untimed ∧ (s.dropEvs d p).contribs = s.contribs ∧ (s.dropEvs d p).closed = s.closed ∧
    (s.dropEvs d p).sigWptr = s.sigWptr ∧ (s.dropEvs d p).counters = s.counters ∧ (s.dropEvs d p).discrepancies = s.discrepancies ∧
    (s.dropEvs d p).discrepant = s.discrepant ∧ (s.dropEvs d p).actual = s.actual ∧ (s.dropEvs d p).skips = s.skips ∧
    (s.dropEvs d p).hazards = s.hazards ∧ (s.dropEvs d p).det = s.det ∧ (s.dropEvs d p).errs = s.errs ∧ (s.dropEvs d p).errSeq = s.errSeq ∧
    (s.dropEvs d p).bank = s.bank ∧ (s.dropEvs d p).bankErr = s.bankErr ∧ (s.dropEvs d p).bankUse = s.bankUse ∧
    (s.dropEvs d p).bankScrub = s.bankScrub ∧ (s.dropEvs d p).bankScrubNext = s.bankScrubNext ∧ (s.dropEvs d p).refreshing = s.refreshing ∧
    (s.dropEvs d p).refreshNext = s.refreshNext ∧ (s.dropEvs d p).pkgs = s.pkgs ∧ (s.dropEvs d p).host = s.host ∧
    (s.dropEvs d p).buddy = s.buddy ∧ (s.dropEvs d p).landing = s.landing ∧ (s.dropEvs d p).beat = s.beat ∧ (s.dropEvs d p).mode = s.mode ∧
    (s.dropEvs d p).pow = s.pow ∧ (s.dropEvs d p).links = s.links ∧ (s.dropEvs d p).isu = s.isu ∧ (s.dropEvs d p).port = s.port ∧
    (s.dropEvs d p).sec = s.sec ∧ (s.dropEvs d p).dict = s.dict ∧ (s.dropEvs d p).snap = s.snap ∧ (s.dropEvs d p).taps = s.taps ∧
    (s.dropEvs d p).dbgAddr = s.dbgAddr ∧ (s.dropEvs d p).dbgErr = s.dbgErr ∧ (s.dropEvs d p).dbgData = s.dbgData ∧
    (s.dropEvs d p).scanned = s.scanned :=
    by and_intros <;> rfl

@[simp] theorem clearCause_fields (cause who : Nat) :
    (s.clearCause cause who).pending = s.pending ∧ (s.clearCause cause who).free = s.free ∧ (s.clearCause cause who).uid = s.uid ∧
    (s.clearCause cause who).grade = s.grade ∧ (s.clearCause cause who).fused = s.fused ∧ (s.clearCause cause who).dom = s.dom ∧
    (s.clearCause cause who).cl = s.cl ∧ (s.clearCause cause who).seqs = s.seqs ∧ (s.clearCause cause who).units = s.units ∧
    (s.clearCause cause who).mck = s.mck ∧ (s.clearCause cause who).rt = s.rt ∧ (s.clearCause cause who).chans = s.chans ∧
    (s.clearCause cause who).hqs = s.hqs ∧ (s.clearCause cause who).residents = s.residents ∧ (s.clearCause cause who).acks = s.acks ∧
    (s.clearCause cause who).bulks = s.bulks ∧ (s.clearCause cause who).paths = s.paths ∧ (s.clearCause cause who).voids = s.voids ∧
    (s.clearCause cause who).crossings = s.crossings ∧ (s.clearCause cause who).untimed = s.untimed ∧
    (s.clearCause cause who).contribs = s.contribs ∧ (s.clearCause cause who).closed = s.closed ∧
    (s.clearCause cause who).sigWptr = s.sigWptr ∧ (s.clearCause cause who).counters = s.counters ∧
    (s.clearCause cause who).discrepancies = s.discrepancies ∧ (s.clearCause cause who).discrepant = s.discrepant ∧
    (s.clearCause cause who).actual = s.actual ∧ (s.clearCause cause who).skips = s.skips ∧ (s.clearCause cause who).hazards = s.hazards ∧
    (s.clearCause cause who).det = s.det ∧ (s.clearCause cause who).errs = s.errs ∧ (s.clearCause cause who).errSeq = s.errSeq ∧
    (s.clearCause cause who).bank = s.bank ∧ (s.clearCause cause who).bankErr = s.bankErr ∧ (s.clearCause cause who).bankUse = s.bankUse ∧
    (s.clearCause cause who).bankScrub = s.bankScrub ∧ (s.clearCause cause who).bankScrubNext = s.bankScrubNext ∧
    (s.clearCause cause who).refreshing = s.refreshing ∧ (s.clearCause cause who).refreshNext = s.refreshNext ∧
    (s.clearCause cause who).pkgs = s.pkgs ∧ (s.clearCause cause who).host = s.host ∧ (s.clearCause cause who).buddy = s.buddy ∧
    (s.clearCause cause who).landing = s.landing ∧ (s.clearCause cause who).mode = s.mode ∧ (s.clearCause cause who).pow = s.pow ∧
    (s.clearCause cause who).links = s.links ∧ (s.clearCause cause who).isu = s.isu ∧ (s.clearCause cause who).port = s.port ∧
    (s.clearCause cause who).sec = s.sec ∧ (s.clearCause cause who).dict = s.dict ∧ (s.clearCause cause who).snap = s.snap ∧
    (s.clearCause cause who).taps = s.taps ∧ (s.clearCause cause who).dbgAddr = s.dbgAddr ∧ (s.clearCause cause who).dbgErr = s.dbgErr ∧
    (s.clearCause cause who).dbgData = s.dbgData ∧ (s.clearCause cause who).scanned = s.scanned :=
    by and_intros <;> rfl

@[simp] theorem setTicket_fields (n t : Nat) :
    (s.setTicket n t).pending = s.pending ∧ (s.setTicket n t).free = s.free ∧ (s.setTicket n t).uid = s.uid ∧
    (s.setTicket n t).grade = s.grade ∧ (s.setTicket n t).fused = s.fused ∧ (s.setTicket n t).dom = s.dom ∧
    (s.setTicket n t).seqs = s.seqs ∧ (s.setTicket n t).units = s.units ∧ (s.setTicket n t).mck = s.mck ∧ (s.setTicket n t).rt = s.rt ∧
    (s.setTicket n t).chans = s.chans ∧ (s.setTicket n t).hqs = s.hqs ∧ (s.setTicket n t).residents = s.residents ∧
    (s.setTicket n t).acks = s.acks ∧ (s.setTicket n t).bulks = s.bulks ∧ (s.setTicket n t).paths = s.paths ∧
    (s.setTicket n t).voids = s.voids ∧ (s.setTicket n t).crossings = s.crossings ∧ (s.setTicket n t).untimed = s.untimed ∧
    (s.setTicket n t).contribs = s.contribs ∧ (s.setTicket n t).closed = s.closed ∧ (s.setTicket n t).sigWptr = s.sigWptr ∧
    (s.setTicket n t).counters = s.counters ∧ (s.setTicket n t).discrepancies = s.discrepancies ∧
    (s.setTicket n t).discrepant = s.discrepant ∧ (s.setTicket n t).actual = s.actual ∧ (s.setTicket n t).skips = s.skips ∧
    (s.setTicket n t).hazards = s.hazards ∧ (s.setTicket n t).det = s.det ∧ (s.setTicket n t).errs = s.errs ∧
    (s.setTicket n t).errSeq = s.errSeq ∧ (s.setTicket n t).bank = s.bank ∧ (s.setTicket n t).bankErr = s.bankErr ∧
    (s.setTicket n t).bankUse = s.bankUse ∧ (s.setTicket n t).bankScrub = s.bankScrub ∧ (s.setTicket n t).bankScrubNext = s.bankScrubNext ∧
    (s.setTicket n t).refreshing = s.refreshing ∧ (s.setTicket n t).refreshNext = s.refreshNext ∧ (s.setTicket n t).pkgs = s.pkgs ∧
    (s.setTicket n t).host = s.host ∧ (s.setTicket n t).buddy = s.buddy ∧ (s.setTicket n t).landing = s.landing ∧
    (s.setTicket n t).beat = s.beat ∧ (s.setTicket n t).mode = s.mode ∧ (s.setTicket n t).pow = s.pow ∧ (s.setTicket n t).links = s.links ∧
    (s.setTicket n t).isu = s.isu ∧ (s.setTicket n t).port = s.port ∧ (s.setTicket n t).sec = s.sec ∧ (s.setTicket n t).dict = s.dict ∧
    (s.setTicket n t).snap = s.snap ∧ (s.setTicket n t).taps = s.taps ∧ (s.setTicket n t).dbgAddr = s.dbgAddr ∧
    (s.setTicket n t).dbgErr = s.dbgErr ∧ (s.setTicket n t).dbgData = s.dbgData ∧ (s.setTicket n t).scanned = s.scanned :=
    by and_intros <;> rfl

@[simp] theorem clearTicket_fields (n t : Nat) :
    (s.clearTicket n t).pending = s.pending ∧ (s.clearTicket n t).free = s.free ∧ (s.clearTicket n t).uid = s.uid ∧
    (s.clearTicket n t).grade = s.grade ∧ (s.clearTicket n t).fused = s.fused ∧ (s.clearTicket n t).dom = s.dom ∧
    (s.clearTicket n t).seqs = s.seqs ∧ (s.clearTicket n t).units = s.units ∧ (s.clearTicket n t).mck = s.mck ∧
    (s.clearTicket n t).rt = s.rt ∧ (s.clearTicket n t).chans = s.chans ∧ (s.clearTicket n t).hqs = s.hqs ∧
    (s.clearTicket n t).residents = s.residents ∧ (s.clearTicket n t).acks = s.acks ∧ (s.clearTicket n t).bulks = s.bulks ∧
    (s.clearTicket n t).paths = s.paths ∧ (s.clearTicket n t).voids = s.voids ∧ (s.clearTicket n t).crossings = s.crossings ∧
    (s.clearTicket n t).untimed = s.untimed ∧ (s.clearTicket n t).contribs = s.contribs ∧ (s.clearTicket n t).closed = s.closed ∧
    (s.clearTicket n t).sigWptr = s.sigWptr ∧ (s.clearTicket n t).counters = s.counters ∧
    (s.clearTicket n t).discrepancies = s.discrepancies ∧ (s.clearTicket n t).discrepant = s.discrepant ∧
    (s.clearTicket n t).actual = s.actual ∧ (s.clearTicket n t).skips = s.skips ∧ (s.clearTicket n t).hazards = s.hazards ∧
    (s.clearTicket n t).det = s.det ∧ (s.clearTicket n t).errs = s.errs ∧ (s.clearTicket n t).errSeq = s.errSeq ∧
    (s.clearTicket n t).bank = s.bank ∧ (s.clearTicket n t).bankErr = s.bankErr ∧ (s.clearTicket n t).bankUse = s.bankUse ∧
    (s.clearTicket n t).bankScrub = s.bankScrub ∧ (s.clearTicket n t).bankScrubNext = s.bankScrubNext ∧
    (s.clearTicket n t).refreshing = s.refreshing ∧ (s.clearTicket n t).refreshNext = s.refreshNext ∧ (s.clearTicket n t).pkgs = s.pkgs ∧
    (s.clearTicket n t).host = s.host ∧ (s.clearTicket n t).buddy = s.buddy ∧ (s.clearTicket n t).landing = s.landing ∧
    (s.clearTicket n t).beat = s.beat ∧ (s.clearTicket n t).mode = s.mode ∧ (s.clearTicket n t).pow = s.pow ∧
    (s.clearTicket n t).links = s.links ∧ (s.clearTicket n t).isu = s.isu ∧ (s.clearTicket n t).port = s.port ∧
    (s.clearTicket n t).sec = s.sec ∧ (s.clearTicket n t).dict = s.dict ∧ (s.clearTicket n t).snap = s.snap ∧
    (s.clearTicket n t).taps = s.taps ∧ (s.clearTicket n t).dbgAddr = s.dbgAddr ∧ (s.clearTicket n t).dbgErr = s.dbgErr ∧
    (s.clearTicket n t).dbgData = s.dbgData ∧ (s.clearTicket n t).scanned = s.scanned :=
    by and_intros <;> rfl

@[simp] theorem after_fields (t : State) :
    (s.after t).pending = s.pending ∧ (s.after t).free = t.free ∧ (s.after t).uid = t.uid ∧ (s.after t).grade = s.grade ∧
    (s.after t).fused = s.fused ∧ (s.after t).dom = t.dom ∧ (s.after t).cl = t.cl ∧ (s.after t).seqs = t.seqs ∧
    (s.after t).units = t.units ∧ (s.after t).mck = t.mck ∧ (s.after t).rt = t.rt ∧ (s.after t).chans = t.chans ∧ (s.after t).hqs = t.hqs ∧
    (s.after t).residents = t.residents ∧ (s.after t).acks = t.acks ∧ (s.after t).bulks = t.bulks ∧ (s.after t).paths = t.paths ∧
    (s.after t).voids = t.voids ∧ (s.after t).crossings = t.crossings ∧ (s.after t).untimed = t.untimed ∧
    (s.after t).contribs = t.contribs ∧ (s.after t).closed = t.closed ∧ (s.after t).sigWptr = t.sigWptr ∧
    (s.after t).counters = t.counters ∧ (s.after t).discrepancies = t.discrepancies ∧ (s.after t).discrepant = t.discrepant ∧
    (s.after t).actual = t.actual ∧ (s.after t).skips = t.skips ∧ (s.after t).hazards = t.hazards ∧ (s.after t).det = t.det ∧
    (s.after t).errs = t.errs ∧ (s.after t).errSeq = t.errSeq ∧ (s.after t).bank = t.bank ∧ (s.after t).bankErr = t.bankErr ∧
    (s.after t).bankUse = t.bankUse ∧ (s.after t).bankScrub = t.bankScrub ∧ (s.after t).bankScrubNext = t.bankScrubNext ∧
    (s.after t).refreshing = t.refreshing ∧ (s.after t).refreshNext = t.refreshNext ∧ (s.after t).pkgs = t.pkgs ∧
    (s.after t).host = t.host ∧ (s.after t).buddy = t.buddy ∧ (s.after t).landing = t.landing ∧ (s.after t).beat = t.beat ∧
    (s.after t).mode = t.mode ∧ (s.after t).pow = t.pow ∧ (s.after t).links = t.links ∧ (s.after t).isu = t.isu ∧
    (s.after t).port = t.port ∧ (s.after t).sec = t.sec ∧ (s.after t).dict = t.dict ∧ (s.after t).snap = t.snap ∧
    (s.after t).taps = t.taps ∧ (s.after t).dbgAddr = t.dbgAddr ∧ (s.after t).dbgErr = t.dbgErr ∧ (s.after t).dbgData = t.dbgData ∧
    (s.after t).scanned = t.scanned :=
    by and_intros <;> rfl

/-! ## Accessors after an update -/

theorem vmod_get {α : Type} {k : Nat} (v : Vector α k) (n m : Nat) (f : α → α) (h : m < k) :
    (vmod v n f)[m] = if m = n then f v[m] else v[m] := by
  unfold vmod
  split
  · rw [Vector.getElem_set]
    split
    · next e => subst e; simp
    · next e => rw [if_neg (fun h => e h.symm)]
  · rw [if_neg (by omega)]

@[simp] theorem modCl_clus (n : Nat) (f : Cluster → Cluster) (m : Nat) :
    (s.modCl n f).clus m = if m = n ∧ m < 48 then f (s.clus n) else s.clus m := by
  unfold State.clus
  by_cases h : m < 48
  · by_cases e : m = n
    · subst e; simp only [State.modCl, h, ↓reduceDIte, ↓reduceIte, and_self, vmod_get]
    · simp only [State.modCl, h, e, ↓reduceDIte, ↓reduceIte, false_and, vmod_get]
  · simp only [h, ↓reduceDIte, ↓reduceIte, and_false]

@[simp] theorem modDom_domN (d : Nat) (f : Dom → Dom) (m : Nat) :
    (s.modDom d f).domN m = if m = d ∧ m < 10 then f (s.domN d) else s.domN m := by
  unfold State.domN
  by_cases h : m < 10
  · by_cases e : m = d
    · subst e; simp only [State.modDom, h, ↓reduceDIte, ↓reduceIte, and_self, vmod_get]
    · simp only [State.modDom, h, e, ↓reduceDIte, ↓reduceIte, false_and, vmod_get]
  · simp only [h, ↓reduceDIte, ↓reduceIte, and_false]

@[simp] theorem modLink_link (l : Nat) (f : Link → Link) (m : Nat) :
    (s.modLink l f).link m = if m = l ∧ m < 16 then f (s.link l) else s.link m := by
  unfold State.link
  by_cases h : m < 16
  · by_cases e : m = l
    · subst e; simp only [State.modLink, h, ↓reduceDIte, ↓reduceIte, and_self, vmod_get]
    · simp only [State.modLink, h, e, ↓reduceDIte, ↓reduceIte, false_and, vmod_get]
  · simp only [h, ↓reduceDIte, ↓reduceIte, and_false]

@[simp] theorem modUnit_unitN (u : Nat) (f : MUnit → MUnit) (m : Nat) :
    (s.modUnit u f).unitN m = if m = u ∧ m < 58 then f (s.unitN u) else s.unitN m := by
  unfold State.unitN
  by_cases h : m < 58
  · by_cases e : m = u
    · subst e; simp only [State.modUnit, h, ↓reduceDIte, ↓reduceIte, and_self, vmod_get]
    · simp only [State.modUnit, h, e, ↓reduceDIte, ↓reduceIte, false_and, vmod_get]
  · simp only [h, ↓reduceDIte, ↓reduceIte, and_false]

@[simp] theorem modResident_resident (k : Nat) (f : Resident → Resident) (m : Nat) :
    (s.modResident k f).resident m = if m = k ∧ m < 64 then f (s.resident k) else s.resident m := by
  unfold State.resident
  by_cases h : m < 64
  · by_cases e : m = k
    · subst e; simp only [State.modResident, h, ↓reduceDIte, ↓reduceIte, and_self, vmod_get]
    · simp only [State.modResident, h, e, ↓reduceDIte, ↓reduceIte, false_and, vmod_get]
  · simp only [h, ↓reduceDIte, ↓reduceIte, and_false]

@[simp] theorem modFn_fn (k : Nat) (g : HostFn → HostFn) (m : Nat) :
    (s.modFn k g).fn m = if m = k ∧ m < 64 then g (s.fn k) else s.fn m := by
  unfold State.fn
  by_cases h : m < 64
  · by_cases e : m = k
    · subst e; simp only [State.modFn, h, ↓reduceDIte, ↓reduceIte, and_self, vmod_get]
    · simp only [State.modFn, h, e, ↓reduceDIte, ↓reduceIte, false_and, vmod_get]
  · simp only [h, ↓reduceDIte, ↓reduceIte, and_false]

@[simp] theorem modMon_monN (r : Nat) (f : Monitor → Monitor) (m : Nat) :
    (s.modMon r f).monN m = if m = r ∧ m < 8 then f (s.monN r) else s.monN m := by
  unfold State.monN
  by_cases h : m < 8
  · by_cases e : m = r
    · subst e; simp only [State.modMon, h, ↓reduceDIte, ↓reduceIte, and_self, vmod_get]
    · simp only [State.modMon, h, e, ↓reduceDIte, ↓reduceIte, false_and, vmod_get]
  · simp only [h, ↓reduceDIte, ↓reduceIte, and_false]

@[simp] theorem modCl_domN (n : Nat) (f : Cluster → Cluster) (d : Nat) : (s.modCl n f).domN d = s.domN d := rfl
@[simp] theorem modDom_clus (d : Nat) (f : Dom → Dom) (n : Nat) : (s.modDom d f).clus n = s.clus n := rfl
@[simp] theorem modDom_caller (d : Nat) (f : Dom → Dom) (w : Nat) : (s.modDom d f).caller w = s.caller w := rfl
@[simp] theorem modCaller_domN (w : Nat) (f : Caller → Caller) (d : Nat) : (s.modCaller w f).domN d = s.domN d := rfl
@[simp] theorem count_clus (i j k n : Nat) : (s.count i j k).clus n = s.clus n := rfl
@[simp] theorem count_domN (i j k d : Nat) : (s.count i j k).domN d = s.domN d := rfl
@[simp] theorem count_caller (i j k w : Nat) : (s.count i j k).caller w = s.caller w := rfl
@[simp] theorem post_clus (d t ph rank : Nat) (k : EvK) (b : Bool) (n : Nat) : (s.post d t ph rank k b).clus n = s.clus n := rfl
@[simp] theorem post_caller (d t ph rank : Nat) (k : EvK) (b : Bool) (w : Nat) : (s.post d t ph rank k b).caller w = s.caller w := rfl
@[simp] theorem dropEvs_clus (d : Nat) (p : Ev → Bool) (n : Nat) : (s.dropEvs d p).clus n = s.clus n := rfl
@[simp] theorem dropEvs_caller (d : Nat) (p : Ev → Bool) (w : Nat) : (s.dropEvs d p).caller w = s.caller w := rfl

/-- An update of a caller reaches that caller and no other field of any cluster. -/
@[simp] theorem modCaller_clus (w : Nat) (f : Caller → Caller) (m : Nat) :
    (s.modCaller w f).clus m = if m = w ∧ m < 48 then { s.clus m with caller := f (s.clus m).caller } else s.clus m := by
  unfold State.clus State.modCaller
  by_cases hm : m < 48
  · by_cases hw : w < 48
    · simp only [hm, hw, ↓reduceDIte, ↓reduceIte, and_true, vmod_get]
    · have : m ≠ w := by omega
      simp [hm, hw, this]
  · simp [hm]

@[simp] theorem modCaller_caller (w : Nat) (f : Caller → Caller) (v : Nat) :
    (s.modCaller w f).caller v = if v = w ∧ v < 50 then f (s.caller v) else s.caller v := by
  unfold State.caller
  by_cases hv : v < 48
  · simp only [hv, ↓reduceIte, modCaller_clus]
    by_cases h : v = w
    · subst h; simp [show v < 50 by omega]
    · simp [h]
  · simp only [hv, ↓reduceIte]
    by_cases h2 : v - 48 < 2
    · simp only [h2, ↓reduceDIte, State.modCaller]
      by_cases hw : w < 48
      · have : v ≠ w := by omega
        simp [hw, this]
      · simp only [hw, ↓reduceIte, vmod_get]
        by_cases h : v = w
        · subst h; simp [show v < 50 by omega]
        · have : v - 48 ≠ w - 48 := by omega
          simp [this, h]
    · have : ¬ v < 50 := by omega
      simp [h2, this]

/-- What an update of a caller leaves of everything else. -/
theorem modCaller_same (w : Nat) (f : Caller → Caller) : s.sameButCaller (s.modCaller w f) w := by
  refine ⟨rfl, fun v hv => by simp [hv], fun n => ?_⟩
  rw [modCaller_clus]
  split <;> rfl

/-- What an update of a cluster leaves of everything else. -/
theorem modCl_same (n : Nat) (f : Cluster → Cluster) : s.sameButCluster (s.modCl n f) n := ⟨rfl, fun m hm => by simp [hm]⟩

theorem setReg_caller (w r v u : Nat) : (s.setReg w r v).caller u =
    if u = w ∧ u < 50 then { s.caller u with regs := vmod (s.caller u).regs r fun _ => BitVec.ofNat 48 v } else s.caller u := by
  rw [State.setReg, modCaller_caller]

/-- A register of a caller after one is changed. -/
theorem regs_vmod (k : Caller) (r i : Nat) (f : BitVec 48 → BitVec 48) :
    Caller.reg { k with regs := vmod k.regs r f } i = if i = r ∧ i < 32 then f (k.reg i) else k.reg i := by
  unfold Caller.reg
  by_cases h : i < 32
  · by_cases e : i = r
    · subst e; simp only [h, ↓reduceDIte, ↓reduceIte, and_self, vmod_get]
    · simp only [h, e, ↓reduceDIte, ↓reduceIte, false_and, vmod_get]
  · simp only [h, ↓reduceDIte, ↓reduceIte, and_false]

end Sys2Proof.Laws
end

