-- ==== Sys2Proof/WellFormed.lean ====
section
/-! DEFINITION. Well-formed commands: the shapes that the manual gives to what a command carries, where a type does not already hold
them (lengths of messages, of flits, of samples; offsets; pairs of a path and a function). A command that is not well-formed is one that
no sender of the manual sends; its meaning is total all the same. -/

namespace Sys2Proof

/-- A sample has 32 temperatures and the eight core rails (R600, R601). -/
def Sense.wf (e : Sense) : Bool := e.temps.length == 32 && e.rails.length == 8

/-- A dictionary message: path 3 belongs to a virtual function, the other paths to function 0, and a message has a header and a CRC and
at most 4,096 bytes (R566, R568). -/
def dictWf (p : Fin 4) (fn : Fin 64) (m : Bytes) : Bool :=
  (if p = 3 then fn != 0 else fn == 0) && 18 ≤ m.length && m.length ≤ 4096

/-- A flit body has 256 bytes (R455). -/
def flitWf (body : Bytes) : Bool := body.length == 256

/-- The bytes that a BAR has at most (R516). -/
def Bar.most : Bar → Nat
  | .window => 2 ^ 36
  | .page => 2 ^ 26
  | .bells => 4096

/-- An SPDM nonce has 32 bytes (R536). -/
def nonceWf (n : Bytes) : Bool := n.length == 32

/-- Whether a command has the shape that the manual gives it. -/
def Instr.wf : Instr → Bool
  | .beatsyncRun _ e => e.wf
  | .beatsyncHold _ e => e.wf
  | .beatsyncResume _ e => e.wf
  | .beatsyncInvalidFrame _ _ e => e.wf
  | .invalidFrameLimit _ _ e => e.wf
  | .beatLock _ e => e.wf
  | .residentSetWrite _ sub _ => [2, 3, 4, 5, 6, 9].contains sub.toNat
  | .bulkCompletion _ => true
  | .flitData _ _ body _ => flitWf body
  | .flitReplay _ _ body _ => flitWf body
  | .flitIdle _ _ body _ => flitWf body
  | .beatBlock _ block _ => block.length == 644
  | .bypass _ code => !([0x00, 0x01, 0x02, 0x03, 0x04, 0x10, 0x11, 0x12].contains code.toNat)
  | .bar2Read _ q len _ => 1 ≤ len && len ≤ 4096 && q.2 + len ≤ q.1.most
  | .bar2Write _ off data _ _ => 1 ≤ data.length && data.length ≤ 512 && off + data.length ≤ 2 ^ 36
  | .doorbellWrite _ off _ _ _ => off < 4096 && off % 4 == 0
  | .registerWrite fn off _ _ => off % 8 == 0 && (if fn = 0 then decide (off < 2 ^ 26) else decide (off < 16384))
  | .challenge _ n => nonceWf n
  | .getMeasurements _ n => nonceWf n
  | .keyExchange n _ => nonceWf n
  | .vendorDefinedRequest stream _ key => stream.toNat ≤ 4 && key.length == 32
  | .fwImage data => data.length ≤ 6291456
  | .coBuffer data => data.length ≤ 4096
  | .overlayPut _ data => 5 ≤ data.length && data.length ≤ 4096
  | .dictRead p fn m => dictWf p.path fn m
  | .dictWrite p fn m => dictWf p.path fn m
  | .memtrainDone failed => decide failed.Nodup
  | .cblPrsntN _ _ => true
  | .safeSettingDeadline _ | .regionStop _ | .stepRecord _ | .restRecord _ | .beatRecord _ | .openRecord _ | .closeRecord _
  | .routineBegin | .routineEnd | .stop _ | .tload _ _ | .tloadDelayedStart _ | .mstream _ _ | .matrixOperandsReady _
  | .arrayWindDown _ | .mdset _ _ | .mdrain _ _ | .drainDelivery _ | .figure _ _ | .figureStart _ | .figureLanding _
  | .ftload _ _ | .stepCmd _ _ | .amaxBind _ _ | .amaxUnbind _ _ | .amaxSave _ _ | .amaxLoad _ _ | .amaxMerge _ _
  | .amaxRecordArrival _ | .vkey _ _ | .count _ _ | .countResult _ | .scrubWriteBack _ | .residentLoad _ _
  | .residentLoadDone _ | .residentRecord _ _ | .residentVerify _ _ | .residentClear _ _ | .inCmd _ _ _ | .outCmd _ _ _
  | .xfer _ _ _ | .rotate _ _ _ | .granuleRequest _ _ | .granuleArrival _ _ _ | .bankReread _ _ | .bankPatrolScrub _
  | .bankRefresh _ _ | .waitStream _ _ | .waitRelease _ | .waitDeadline _ | .waitHoldTimeout _ | .rotatePlace _ | .hput _ _
  | .htake _ _ | .bmove _ _ _ => true
  | .cueSet _ _ | .cueClear _ _ | .tallyAdd _ _ | .tallyReset _ _ | .roundBind _ _ | .roundUnbind _ _ | .roundArrive _ _
  | .signalApply _ | .waitCue _ _ | .waitModuleCue _ _ | .waitTally _ _ | .waitRound _ _ | .waitComplete _ | .fence _ _
  | .fenceComplete _ | .writeAck _ | .remoteWriteLand _ | .finalHoldTimeout _ _ | .landingRelease _ | .chsend _ _
  | .recordLanded _ | .chtake _ _ | .chfree _ _ | .creditApply _ | .ckinit _ _ | .ckfeed _ _ | .ckread _ _ | .rset _ _
  | .rcalc _ _ | .pbind _ _ | .ticket _ _ | .put _ _ | .mckInit _ _ | .mckFeed _ _ | .mckRead _ _ | .take _ | .slot _
  | .egress _ | .page _ | .isuComplete | .lsend _ _ | .tagCheck _ | .laneLockLoss _ | .codewordErrorLimit _
  | .linkRetrainTimeout _ | .linkLaneLock _ _ | .linkKeyed _ _ | .extest _ | .idcode _ | .samplePreload _ | .clamp _
  | .highz _ | .dbgStatus _ | .dbgAddr _ _ | .dbgDataWrite _ | .dbgDataRead _ | .jtagReset | .windowBase _ _ _
  | .doorbellApply | .mbxGo _ _ _ | .mbxDone _ | .eqCtrl _ _ _ | .functionLevelReset _ | .perstN _ => true
  | .doeDiscovery _ | .getVersion | .getCapabilities _ | .negotiateAlgorithms _ _ _ _ | .getDigests | .getCertificate _ _ _
  | .finish _ _ | .keyUpdate | .heartbeat | .endSession | .fwCommit _ | .coStore _ | .complementCheck | .segmentTimeout _ _
  | .load _ | .loadComplete | .start _ | .mode _ | .modeTakesEffect | .userOverlay _ | .userOverlayTakesEffect
  | .overlayRemove _ _ | .store _ | .storeDone _ | .defaults _ | .clearAll _ | .commanded _ _ | .clusterDrained _
  | .clusterFenceDisable _ | .abortAtBar | .faultAck _ | .snapshot _ | .snapshotDone _ | .restore _ | .restoreDone
  | .snapResume _ | .snapDiscard _ | .coldReset _ | .moduleReset _ | .warmReset _ | .clusterReset _ | .linkReset _
  | .modrstN _ | .warmrstN _ | .powerStageDone _ | .bootDone | .selftestDone _ | .clusterSelftestDone _ _ | .linktrainDone
  | .powerLoss _ | .thermalStepRelease _ | .thermtripRelease _ | .sensorFailed _ _ | .droopStretch _ _ | .droopStepRelease _
  | .generatorLockLoss _ | .ref100Loss | .ref100Valid | .filteredRisingEdge _ | .powerStepRelease | .residentVerifyDone _
  | .residentRecordDone _ | .coStoreDone _ | .configurationRequest _ | .endpointIdAssignment _ _ => true

end Sys2Proof
end

