-- ==== Sys2Proof/Tests/Slice0.lean ====
section
/-! SUPPORT. Tests of the model's own: ill-formed commands that the check refuses, worked examples and tables of the manual, and, for the
statements, states and operands that meet their hypotheses. -/

namespace Sys2Proof.Tests

open Sys2Proof Sys2Proof.Machine

set_option Elab.async false

/-! ## Helpers -/

/-- A word with values at bit positions. -/
def wd (l : List (Nat × Nat)) : Nat := l.foldl (fun a e => a + e.2 * 2 ^ e.1) 0

/-- Command words, each as values at bit positions. -/
def cw (w0 : List (Nat × Nat)) (w1 w2 w3 : List (Nat × Nat) := []) : Cw :=
  ⟨false, 0, BitVec.ofNat 48 (wd w0), BitVec.ofNat 64 (wd w1), BitVec.ofNat 64 (wd w2), BitVec.ofNat 64 (wd w3)⟩

/-- A module with a loaded routine of 48 clusters that may touch domain 0, a channel from LC0 to LC1, resident set 1 of LC0 and LC1, and
amax slot 1 of LC0 bound; a1 of LC0 names the floor of LC1. -/
def base : State :=
  { State.reset with
    rt := { State.reset.rt with hdr := { lc := 48, links := 0xFFFF, lats := [(0, 10), (1, 20), (64, 20)] }, domains := 1
                                routes := [(1, { src := 0, dst := 1, ring := 4096, ringBase := 0, spill := 4096, spillBase := 8192, lat := 20 })] }
    dict := { State.reset.dict with vals := [(0x6100 * 256 + 1, 1), (0x6400 * 256 + 1, 0)] }
    residents := State.reset.residents.set 1
      { state := .settled, kd := 0, base := 1048576, length := 4096, members := 3, flags := 2 }
    cl := State.reset.cl.set 0
      ({ State.reset.cl[0] with caller := { State.reset.cl[0].caller with regs := (Vector.replicate 32 0).set 1 16777216 } }.setAmax 1
        (some { tensor := 7, window := 4, margin := 2, cur := 0, hist := Vector.replicate 16 0 })) }

/-- Whether a command of a slot is accepted, evaluated. -/
def accepted (s : State) (i : Instr) : Bool :=
  match pushOf i with
  | none => false
  | some p => s.pow.on && (!decide (slotCaller p.pbit < 48) || decide (slotCaller p.pbit < s.lcMax))
      && (s.atPush p).sample (slotCaller p.pbit) p.c.psel.toNat && (firstReason (p.reasons (s.atPush p) (s.issueOf p))).isNone

theorem accepts_of {s : State} {i : Instr} (h : accepted s i = true) : ∃ q x, s.accepts i q x := by
  unfold accepted at h
  cases hp : pushOf i with
  | none => simp [hp] at h
  | some p =>
    simp only [hp, Bool.and_eq_true, Bool.or_eq_true, Bool.not_eq_true', decide_eq_false_iff_not, decide_eq_true_eq, Option.isNone_iff_eq_none] at h
    exact ⟨_, _, p, hp, ⟨h.1.1.1, fun hl => h.1.1.2.resolve_left fun hn => hn hl⟩, rfl, rfl, h.1.2, h.2⟩


/-! ## The manual's worked examples and tables -/

/-- The check string of R363. -/
def digits : Bytes := [0x31, 0x32, 0x33, 0x34, 0x35, 0x36, 0x37, 0x38, 0x39]

/-- R363's table of check values. -/
theorem test_crc32c_check : crc32c digits = 0xE3069283 := by decide +kernel
theorem test_crc16_check : crc16 digits = 0x29B1 := by decide +kernel
theorem test_crc64_check : crc64 digits = 0x6C40DF5F0B497347 := by decide +kernel

/-- HCV3 record 0x0007_0102. -/
theorem test_reel : reel 0x2A [7, 0x310, 0x1234, 0] = [0x48ECB7F5, 0x90C43DAA, 0x1E30A2F1, 0x9CD1011B] := by decide +kernel

/-- HCV3 record 0x0007_0310, the weight update of Training Numerics. -/
theorem test_update : updateRound ((m16Val 0x3A 0x50 127).add (h16 0xA940)) 0x48EC = (0x3A, 0x4F) := by decide +kernel

/-- HCV3 records 0x0005_0041 and 0x0005_0042. -/
theorem test_convert_sum :
    let w := readSumWord (leBytes 16 0x0082FFFFFFFFFFFFFFE4200000000008)
    convertAt (w.1.value w.2) 5 127 = 0xC37C ∧ convertAt (w.1.value w.2) 2 127 = 0xCE := by decide +kernel

/-- The three partial sums of the worked example in Number Formats and Whole Sums, merged. -/
theorem test_merge_sums :
    let a := readSumWord (leBytes 16 0x00820000000000000006600000000000)
    let b := readSumWord (leBytes 16 0x0082FFFFFFFFFFFFFFDDC00000000000)
    let c := readSumWord (leBytes 16 0x00820000000000000000000000000008)
    let m := mergeSums a.1 a.2 b.1 b.2
    let r := mergeSums m.1 m.2 c.1 c.2
    sumWord r.1 r.2 = leBytes 16 0x0082FFFFFFFFFFFFFFE4200000000008 := by decide +kernel

/-- The products of elements 70 and 50 of that example enter as -1 and 55 x 2^46 (R167). -/
theorem test_terms : (term { n := -143, k := -59 } 130).1 = -1 ∧ (term { n := 55, k := -4 } 130).1 = 55 * 2 ^ 46 := by decide +kernel

/-- HCV3 record 0x0007_0420. -/
theorem test_amax_scale : scaleCode 3 0x3D00 1 = 0x6F := by decide +kernel

/-- The MSTREAM of Encoding one MSTREAM: its words, with a2 = 0x20_0000 in LC9. -/
def mstreamWord : Cw := ⟨false, 0, 0x123F00216082, 0x1000010010000000, 0, 0⟩

def base9 : State := base.modCl 9 fun c => { c with caller := { c.caller with regs := (Vector.replicate 32 0).set 2 0x200000 } }

theorem test_mstream_word :
    (match (base9.pushMstream 9 {} mstreamWord).clus 9 |>.mx.q with
     | [(_, .mstream j)] => j.tfmt == 2 && j.sfmt == 2 && j.v == 64 && j.fin && j.tkt == 5 && j.consume && j.anchor == 0x82
         && j.scl == 0x204000 && j.str == 0x200000 && j.whdr.isNone && j.p0 == 0 && !j.add
     | _ => false) = true := by decide +kernel

/-- The same command with P0 = 200 is skipped with reason RANGE. -/
theorem test_mstream_range :
    firstReason (mstreamReasons base9 9 {} { mstreamWord with w0 := 0x123F64216082 }) = some 7
      ∧ firstReason (mstreamReasons base9 9 {} mstreamWord) = none := by decide +kernel

/-- The examples of the hash and of the cipher in the standards that R536 and R549 name. -/
theorem test_sm3 : sm3Bytes (ascii "abc") = beBytes 32 0x66c7f0f462eeedd9d1f2d46bdc10e4e24167c4875cf2f7a2297da02b8f4ba8e0 := by decide +kernel
theorem test_sm4 :
    let k := beBytes 16 0x0123456789abcdeffedcba9876543210
    sm4Enc k k = beBytes 16 0x681edf34d206965e86b3e94f536e4246 ∧ sm4Dec k (sm4Enc k k) = k := by decide +kernel

/-- The latencies by scope of The Memory Model and the nominal cycles of R47. -/
theorem test_latencies : [1, 2, 3, 4].map sigLatency = [3, 14, 40, 72] ∧ [1, 2, 3].map nominal = [1024, 1344, 1536] := by decide +kernel

/-! ## Ill-formed commands are refused by the check -/

/-- A string of zeros. -/
def zeros (n : Nat) : Bytes := List.replicate n 0

/-- A sample of the temperatures and rails. -/
def sense0 : Sense := ⟨List.replicate 32 25000, List.replicate 8 700, 100, 48000⟩

theorem smoke_sense : sense0.wf = true ∧ (Instr.beatsyncRun 0 { sense0 with temps := [] }).wf = false
    ∧ (Instr.beatsyncHold 0 { sense0 with rails := [] }).wf = false ∧ (Instr.beatsyncResume 0 { sense0 with temps := [] }).wf = false
    ∧ (Instr.beatsyncInvalidFrame 0 true { sense0 with temps := [] }).wf = false
    ∧ (Instr.invalidFrameLimit 0 true { sense0 with rails := [] }).wf = false ∧ (Instr.beatLock 0 { sense0 with rails := [] }).wf = false := by
  decide +kernel
theorem smoke_residentSetWrite : (Instr.residentSetWrite 0 7 0).wf = false ∧ (Instr.residentSetWrite 0 9 0).wf = true := by decide
theorem smoke_flit : (Instr.flitData 0 0 (zeros 255) .clean).wf = false ∧ (Instr.flitReplay 0 0 (zeros 257) .clean).wf = false
    ∧ (Instr.flitIdle 0 0 [] .clean).wf = false := by decide +kernel
theorem smoke_beatBlock : (Instr.beatBlock 0 (zeros 643) (.clean, .clean)).wf = false := by decide +kernel
theorem smoke_bypass : (Instr.bypass 0 0x12).wf = false ∧ (Instr.bypass 0 0xFF).wf = true := by decide
theorem smoke_bar2 : (Instr.bar2Read 0 (.window, 0) 0 true).wf = false ∧ (Instr.bar2Read 0 (.bells, 0) 4097 true).wf = false
    ∧ (Instr.bar2Read 0 (.window, 2 ^ 36 - 1) 2 true).wf = false ∧ (Instr.bar2Write 0 0 [] true 0).wf = false
    ∧ (Instr.bar2Write 0 0 (zeros 513) true 0).wf = false ∧ (Instr.bar2Write 0 (2 ^ 36) [0] true 0).wf = false := by decide +kernel
theorem smoke_offsets : (Instr.doorbellWrite 0 4096 0 true 0).wf = false ∧ (Instr.doorbellWrite 0 2 0 true 0).wf = false
    ∧ (Instr.registerWrite 0 4 0 true).wf = false ∧ (Instr.registerWrite 0 (2 ^ 26) 0 true).wf = false
    ∧ (Instr.registerWrite 1 16384 0 true).wf = false := by decide
theorem smoke_nonce (peer : SpdmPeer) : (Instr.challenge 0 (zeros 31)).wf = false ∧ (Instr.getMeasurements 0 []).wf = false
    ∧ (Instr.keyExchange (zeros 33) peer).wf = false := ⟨rfl, rfl, rfl⟩
theorem smoke_lengths : (Instr.vendorDefinedRequest 5 0 (zeros 32)).wf = false ∧ (Instr.vendorDefinedRequest 0 0 (zeros 16)).wf = false
    ∧ (Instr.coBuffer (zeros 4097)).wf = false ∧ (Instr.overlayPut 0 (zeros 4)).wf = false ∧ (Instr.overlayPut 0 (zeros 4097)).wf = false := by
  decide +kernel
theorem smoke_fwImage : (Instr.fwImage (zeros 6291457)).wf = false := by
  simp only [Instr.wf, zeros, List.length_replicate]
  decide
theorem smoke_dict : (Instr.dictRead { path := 3 } 0 (zeros 18)).wf = false ∧ (Instr.dictRead { path := 1 } 5 (zeros 18)).wf = false
    ∧ (Instr.dictWrite { path := 0 } 0 (zeros 17)).wf = false ∧ (Instr.dictWrite { path := 0 } 0 (zeros 4097)).wf = false := by decide +kernel
theorem smoke_memtrainDone : (Instr.memtrainDone [1, 1]).wf = false := by decide
/-! ## Witnesses: commands of slots -/

/-- A register command, plain. -/
def rset0 : Cw := cw [(43, 3)] [(0, 5)]

theorem witness_FalsePredicateIsNotPushed :
    pushOf (.rset (.lc 0) { rset0 with psel := 1 }) ≠ none
      ∧ (∃ p, pushOf (.rset (.lc 0) { rset0 with psel := 1 }) = some p ∧ base.offers p
          ∧ (base.atPush p).sample (slotCaller p.pbit) p.c.psel.toNat = false)
      ∧ (∃ p, pushOf (.rset (.lc 47) rset0) = some p ∧ ¬ ({ base with grade := 3, fused := [0, 7, 13, 19, 25, 31, 37, 43] } : State).offers p)
      ∧ ∃ p, pushOf (.rset (.seq 1) rset0) = some p ∧ ¬ ({ base with pow := { base.pow with on := false } } : State).offers p := by
  refine ⟨by simp [pushOf], ⟨_, rfl, ⟨by decide +kernel, fun _ => by decide +kernel⟩, by decide +kernel⟩,
    ⟨_, rfl, fun h => absurd (h.2 (by decide +kernel)) (by decide +kernel)⟩, ⟨_, rfl, fun h => absurd h.1 (by decide +kernel)⟩⟩

theorem witness_SkippedCommandOnlyLogs :
    ∃ p r, pushOf (.rset (.lc 0) (cw [(0, 1)])) = some p ∧ base.offers p ∧ (base.atPush p).sample (slotCaller p.pbit) p.c.psel.toNat = true
      ∧ firstReason (p.reasons (base.atPush p) (base.issueOf p)) = some r :=
  ⟨_, 3, rfl, ⟨by decide +kernel, fun _ => by decide +kernel⟩, by decide +kernel, by decide +kernel⟩

theorem witness_FirstReasonIsLowest : firstReason [(7, true), (3, true), (1, false)] = some 3 := by decide

theorem witness_QuietPush : ∃ p, pushOf (.rset (.lc 0) rset0) = some p
    ∧ (base.domN (base.slotDom p)).due (base.domN (base.slotDom p)).nt 1 = none
    ∧ (base.domN (base.slotDom p)).due (base.domN (base.slotDom p)).nt 0 = none ∧ base.running = false :=
  ⟨_, rfl, by decide +kernel, by decide +kernel, by decide +kernel⟩

theorem witness_RegisterCommands :
    (∃ q x, base.accepts (.rset (.lc 0) rset0) q x) ∧ (∃ q x, base.accepts (.rset (.seq 1) (cw [(43, 31)] [(0, 2 ^ 48 - 1)])) q x)
      ∧ ∃ q x, base.accepts (.rcalc (.lc 47) (cw [(43, 31), (42, 1), (0, 2047)])) q x :=
  by and_intros <;> exact accepts_of (by decide +kernel)

theorem witness_PredicateAndKeyCommands :
    (∃ q x, base.accepts (.pbind (.lc 0) (cw [(44, 1), (31, 255)])) q x) ∧ (∃ q x, base.accepts (.pbind (.seq 0) (cw [(44, 15), (31, 1023)])) q x)
      ∧ ∃ q x, base.accepts (.vkey (.seq 1) (cw [(46, 3)] [(0, 9)])) q x :=
  by and_intros <;> exact accepts_of (by decide +kernel)

theorem witness_TicketAndStepCommands :
    (∃ q x, base.accepts (.ticket 0 (cw [(0, 0xFFFFFFFE)])) q x) ∧ (∃ q x, base.accepts (.stepCmd 0 (cw [(47, 1)])) q x)
      ∧ ∃ q x, base.accepts (.stepCmd 0 (cw [] [(0, 0xFFFFFFFF)])) q x :=
  by and_intros <;> exact accepts_of (by decide +kernel)

theorem witness_AmaxBinding :
    (∃ q x, base.accepts (.amaxBind 0 (cw [(40, 31)])) q x) ∧ ∃ q x, base.accepts (.amaxUnbind 0 (cw [(40, 1)])) q x :=
  by and_intros <;> exact accepts_of (by decide +kernel)

theorem witness_AmaxRecords :
    (∃ q x, base.accepts (.amaxSave 0 (cw [(40, 1)])) q x) ∧ (∃ q x, base.accepts (.amaxLoad 0 (cw [(40, 1), (0, 1)])) q x)
      ∧ ∃ q x, base.accepts (.amaxMerge 0 (cw [(40, 1), (0, 2047)])) q x :=
  by and_intros <;> exact accepts_of (by decide +kernel)

theorem witness_TakesFromQueues :
    (∃ q x, base.accepts (.htake 0 (cw [(42, 63), (37, 30)])) q x) ∧ ∃ q x, base.accepts (.chtake 1 (cw [(40, 1), (35, 30)])) q x :=
  by and_intros <;> exact accepts_of (by decide +kernel)

theorem witness_MatrixCommandsQueue :
    (∃ q x, base.accepts (.tload 0 (cw [(47, 1), (38, 2)])) q x)
      ∧ (∃ q x, base.accepts (.mstream 0 (cw [(43, 2), (40, 2), (32, 255)])) q x)
      ∧ (∃ q x, base.accepts (.mstream 0 (cw [(43, 2), (40, 2), (32, 255), (12, 1)])) q x)
      ∧ (∃ q x, base.accepts (.mdset 0 (cw [(42, 1), (34, 1)])) q x) ∧ ∃ q x, base.accepts (.mdrain 0 (cw [(39, 255), (28, 4)])) q x :=
  by and_intros <;> exact accepts_of (by decide +kernel)

theorem witness_VectorCommandsQueue :
    (∃ q x, base.accepts (.figure 0 (cw [(25, 511), (20, 5), (14, 5)])) q x) ∧ ∃ q x, base.accepts (.ftload 0 (cw [(42, 32), (36, 31)])) q x :=
  by and_intros <;> exact accepts_of (by decide +kernel)

theorem witness_CountAndCheckCommandsQueue :
    (∃ q x, base.accepts (.count 0 (cw [(42, 3), (7, 1023)] [(0, 64)] [(48, 1), (32, 9)])) q x)
      ∧ (∃ q x, base.accepts (.ckinit 0 (cw [(46, 2)])) q x) ∧ (∃ q x, base.accepts (.ckfeed 0 (cw [(46, 1), (45, 1), (40, 31), (0, 2)])) q x)
      ∧ (∃ q x, base.accepts (.ckfeed 0 (cw [(0, 63)] [(0, 2047)])) q x) ∧ ∃ q x, base.accepts (.ckread 0 (cw [(43, 31), (0, 2047)])) q x :=
  by and_intros <;> exact accepts_of (by decide +kernel)

theorem witness_MoverCommandsQueue :
    (∃ q x, base.accepts (.inCmd 0 1 (cw [] [] [(52, 15)])) q x) ∧ (∃ q x, base.accepts (.outCmd 0 0 (cw [] [] [(0, 1)])) q x)
      ∧ (∃ q x, base.accepts (.xfer 0 1 (cw [] [] [(52, 1), (47, 30), (0, 8)])) q x)
      ∧ ∃ q x, base.accepts (.rotate 0 0 (cw [] [] [(58, 1), (0, 10)] [(0, 65535)])) q x :=
  by and_intros <;> exact accepts_of (by decide +kernel)

theorem witness_SignalCommandsQueue :
    (∃ q x, base.accepts (.cueSet (.lc 0) (cw [(44, 4), (33, 255), (27, 47)])) q x)
      ∧ (∃ q x, base.accepts (.cueClear (.seq 0) (cw [(47, 1), (44, 5), (43, 1), (33, 1023)])) q x)
      ∧ (∃ q x, base.accepts (.tallyAdd 0 (cw [(44, 1), (38, 63), (16, 65535)])) q x)
      ∧ (∃ q x, base.accepts (.tallyReset 0 (cw [(47, 1), (44, 3)])) q x) ∧ (∃ q x, base.accepts (.roundBind (.lc 0) (cw [(41, 31), (38, 4)])) q x)
      ∧ (∃ q x, base.accepts (.roundUnbind (.lc 0) (cw [(46, 1), (41, 31), (38, 4)])) q x)
      ∧ ∃ q x, base.accepts (.roundArrive (.seq 1) (cw [(46, 2), (38, 5), (18, 9), (14, 15)])) q x :=
  by and_intros <;> exact accepts_of (by decide +kernel)

theorem witness_MessageCommandsQueue :
    (∃ q x, base.accepts (.fence 0 (cw [(40, 31), (37, 5), (4, 1)])) q x) ∧ (∃ q x, base.accepts (.chsend 0 (cw [(40, 1)])) q x)
      ∧ (∃ q x, base.accepts (.chfree 1 (cw [(40, 1)])) q x) ∧ (∃ q x, base.accepts (.hput 0 (cw [(42, 63)])) q x)
      ∧ (∃ q x, base.accepts (.put 0 (cw [(47, 1), (41, 63), (29, 4095)] [(27, 1), (0, 64)])) q x)
      ∧ ∃ q x, base.accepts (.put 0 (cw [] [(32, 1), (0, 2047)])) q x :=
  by and_intros <;> exact accepts_of (by decide +kernel)

/-- LC0 has nothing to come, and its synchronisation queue holds one command. -/
def heads (cmd : SyCmd) : State := base.modCaller 0 fun c => { c with syq := [({}, cmd)] }

theorem witness_MessageCommandsComplete :
    (∀ n : Fin 48, n.val < 2 → pushable base n (cw [(40, 1)]))
      ∧ (let x := fun op => { base.ctxNow (base.regionOf 0) 3 op with tail := false }
         firstReason (fenceReasons base 0 (x 0x13) (cw [(40, 31), (37, 5), (4, 1)])) = none
           ∧ firstReason (chsendReasons base 0 (x 0x14) (cw [(40, 1)])) = none
           ∧ firstReason (hputReasons base 0 (x 0x16) (cw [(42, 63)])) = none
           ∧ firstReason (putReasons base 0 (x 0x17) (cw [(47, 1), (41, 63), (29, 4095)] [(27, 1), (0, 64)])) = none)
      ∧ firstReason (chfreeReasons base 1 { base.ctxNow (base.regionOf 1) 7 0x15 with tail := false } (cw [(40, 1)])) = none
      ∧ (base.caller 0).syq = [] ∧ (base.caller 0).fence = none
      ∧ (((heads (.fence 0 31 4 0 1)).caller 0).syq = [({}, .fence 0 31 4 0 1)] ∧ ((heads (.hput 63 0)).caller 0).syq = [({}, .hput 63 0)]
           ∧ ((heads (.chfree 1)).caller 0).syq = [({}, .chfree 1)] ∧ ((heads (.chsend 1 4080 0 0 0)).caller 0).syq = [({}, .chsend 1 4080 0 0 0)]
           ∧ ((heads (.put none 0 64 0)).caller 0).syq = [({}, .put none 0 64 0)])
      ∧ ((base.route 1).map fun q => (q.src, q.ring)) = some (0, 4096) ∧ 0 < base.lcMax ∧ (base.chan 1).taken = []
      ∧ (let s := base.modChan 1 fun c => { c with taken := [64] }; (s.chan 1).taken = [64])
      ∧ (let s := base.modChan 1 fun c => { c with free := 4096, slots := 1 }
         recSize 4080 ≤ (s.chan 1).free.toNat ∧ 1 ≤ (s.chan 1).slots.toNat ∧ (s.chan 1).wptr.toNat + recSize 4080 ≤ 4096)
      ∧ (let s := base.modChan 1 fun c => { c with slots := 0 }; (s.chan 1).slots = 0) := by
  unfold pushable
  decide +kernel

theorem witness_WaitsQueue :
    (∃ q x, base.accepts (.waitStream 0 (cw [(4, 1)] [(59, 30), (48, 2047), (0, 0)])) q x)
      ∧ (∃ q x, base.accepts (.waitCue 0 (cw [(45, 1), (36, 255), (20, 65535), (4, 65535)] [(56, 255)])) q x)
      ∧ (∃ q x, base.accepts (.waitModuleCue (.seq 0) (cw [(45, 2), (44, 1), (4, 1)] [(54, 1023)])) q x)
      ∧ (∃ q x, base.accepts (.waitTally 0 (cw [(45, 3), (4, 1)] [(58, 63), (32, 65535)])) q x)
      ∧ ∃ q x, base.accepts (.waitRound (.lc 0) (cw [(45, 4), (4, 1)] [(59, 31), (48, 255)])) q x :=
  by and_intros <;> exact accepts_of (by decide +kernel)

/-- a1 of the sequencer of D1 names a page of bank memory of that die (R436). -/
def lists1 : State := { base with seqs := base.seqs.set 1 { base.seqs[1] with regs := (Vector.replicate 32 0).set 1 524288 } }

theorem witness_ModuleCommandsQueue :
    (∃ q x, base.accepts (.mckInit 0 (cw [(45, 3), (41, 2)])) q x) ∧ (∃ q x, base.accepts (.mckFeed 1 (cw [(43, 1)])) q x)
      ∧ (∃ q x, base.accepts (.mckRead 0 (cw [(43, 2), (13, 1023), (10, 4), (9, 1)])) q x)
      ∧ (∃ q x, base.accepts (.take (cw [] [(0, 8192)])) q x) ∧ (∃ q x, base.accepts (.slot (cw [] [(0, 1)])) q x)
      ∧ (∃ q x, base.accepts (.egress (cw [(38, 1023), (35, 4), (34, 1)] [(0, 1)])) q x) ∧ (∃ q x, base.accepts (.page (cw [] [(0, 1)])) q x)
      ∧ (∃ q x, lists1.accepts (.bmove 1 15 (cw [] [(59, 1), (27, 1)])) q x) ∧ ∃ q x, base.accepts (.lsend 15 (cw [])) q x :=
  by and_intros <;> exact accepts_of (by decide +kernel)

/-! ## Witnesses: effects of step time -/

theorem due_of {s : State} {d : Nat} {e : Ev} (h : (s.domN d).due (s.domN d).nt 0 = some e) (hm : e.mover = false) : s.nextDue d e :=
  ⟨h, fun x => by rw [hm] at x; cases x⟩

/-- An effect at stamp 0 of no particular order. -/
def ev0 (k : EvK) : Ev := { t := 0, ph := 0, rank := 0, mover := false, k := k }

/-- The module with one effect due in a domain, whose next step cycle is 1. -/
def due1 (d : Nat) (k : EvK) (s : State := base) : State := s.modDom d fun x => { x with nt := 1, evs := [ev0 k] }

theorem witness_EventRowsHappen :
    (∃ r, eventRowOf (.figureStart 47) = some r ∧ ¬ ({ base with grade := 2, fused := [0, 7, 24, 31] } : State).offersRow r)
      ∧ (∃ r, eventRowOf (.remoteWriteLand 0) = some r ∧ base.offersRow r
          ∧ ∀ e ∈ (base.domN (r.dom base)).evs, e.t < (base.domN (r.dom base)).nt → r.own base e.k = false)
      ∧ (let s := due1 0 (.figStart 0)
         ∃ r e, eventRowOf (.figureStart 0) = some r ∧ r.runs s = true ∧ s.offersRow r ∧ s.nextDue (r.dom s) e ∧ r.own s e.k = true ∧ r.done s e.k = true) := by
  refine ⟨⟨_, rfl, fun h => absurd (h 47 rfl) (by decide +kernel)⟩, ⟨_, rfl, fun n h => ?_, by decide +kernel⟩, _, ev0 (.figStart 0), rfl, rfl, fun n h => ?_,
    due_of (by decide +kernel) rfl, by decide +kernel, by decide +kernel⟩ <;> (cases h; decide +kernel)

/-- A signal of CLUSTER scope from LC0. -/
def sigOf (obj : SigObj) (op : SigOp) (loc : Nat := locRegion 0 0 0) : Sig := { obj, op, scope := 4, src := 0, last := { loc } }

theorem witness_SignalsApply :
    (∃ e, (due1 0 (.sig (sigOf (.cue 0 255) .set))).nextDue 0 e ∧ e.k = .sig (sigOf (.cue 0 255) .set))
      ∧ (∃ e, (due1 9 (.sig (sigOf (.tally 47 63) (.add 65535)))).nextDue 9 e ∧ e.k = .sig (sigOf (.tally 47 63) (.add 65535)))
      ∧ (due1 0 (.sig (sigOf (.cue 0 255) .set))).locInScope 4 0 0 = true
      ∧ (due1 0 (.sig (sigOf (.cue 6 0) .set))).locInScope 1 0 6 = false :=
  ⟨⟨ev0 _, due_of (by decide +kernel) rfl, rfl⟩, ⟨ev0 _, due_of (by decide +kernel) rfl, rfl⟩, by decide +kernel, by decide +kernel⟩

/-- Round 31 of domain 0: two clusters and one sequencer are expected. -/
def rounds31 (r : Round) (op : SigOp) : State :=
  (due1 0 (.sig (sigOf (.round 31) op))).modDom 0 fun x => { x with rounds := tPut x.rounds 31 { r with bound := true, expect := 3, remote := 1 } }

def roundIn (s : State) : Round := (tGet (s.domN 0).rounds 31).getD {}

theorem witness_RoundsAdvance :
    (∃ e, (rounds31 {} (.arriveLc 0)).nextDue 0 e ∧ e.k = .sig (sigOf (.round 31) (.arriveLc 0)))
      ∧ (roundIn (rounds31 {} (.arriveLc 0))).bound = true
      -- the last arrival of a generation, one that is not the last, and one ahead
      ∧ (let r := roundIn (rounds31 { arrived := 1, rArrived := 1 } (.arriveLc 1))
         r.expect.getLsbD 1 = true ∧ r.arrived.getLsbD 1 = false ∧ r.arrived ||| (1 <<< 1) = r.expect ∧ r.rArrived = r.remote)
      ∧ (let r := roundIn (rounds31 {} (.arriveLc 0))
         r.expect.getLsbD 0 = true ∧ r.arrived.getLsbD 0 = false ∧ ¬ (r.arrived ||| (1 <<< 0) = r.expect ∧ r.rArrived = r.remote))
      ∧ (let r := roundIn (rounds31 { arrived := 1 } (.arriveLc 0)); r.arrived.getLsbD 0 = true ∧ r.ahead.getLsbD 0 = false)
      -- a sequencer's, last, not last, and ahead
      ∧ (let r := roundIn (rounds31 { arrived := 3 } .arriveSeq)
         r.rArrived.toNat < r.remote.toNat ∧ r.arrived = r.expect ∧ r.rArrived + 1 = r.remote)
      ∧ (let r := roundIn (rounds31 {} .arriveSeq); r.rArrived.toNat < r.remote.toNat ∧ ¬ (r.arrived = r.expect ∧ r.rArrived + 1 = r.remote))
      ∧ (let r := roundIn (rounds31 { rArrived := 1 } .arriveSeq); r.remote.toNat ≤ r.rArrived.toNat ∧ r.rAhead ≠ r.remote) :=
  ⟨⟨ev0 _, due_of (by decide +kernel) rfl, rfl⟩, by decide +kernel⟩

/-- A wait of LC0 whose release is stamp 0. -/
def wait0 (form : WaitForm) : Wait := { ctx := {}, form, guard := 0, r := 0, deadline := 1 }

def waiting (form : WaitForm) (s : State := base) : State :=
  s.modDom 0 (fun x => { x with nt := 1 }) |>.modCaller 0 fun c => { c with waits := [wait0 form] }

def waits1 (s : State) (form : WaitForm) : Prop :=
  s.quiet (s.domOf 0) ∧ s.dueWaits [0] (s.domN (s.domOf 0)).nt = [(0, wait0 form)]

theorem witness_WaitsComplete :
    (waits1 (waiting (.cue 255 false)) (.cue 255 false) ∧ (waiting (.cue 255 false)).waitReady 0 (.cue 255 false) = false)
      ∧ (let s := (waiting (.cue 0 true)).modCl 0 fun c => { c with cues := [(0, { set := true })] }
         waits1 s (.cue 0 true) ∧ s.waitReady 0 (.cue 0 true) = true)
      ∧ (let s := (waiting (.tally 63 2 true)).modCl 0 fun c => { c with tallies := [(63, { count := 2 })] }
         waits1 s (.tally 63 2 true) ∧ s.waitReady 0 (.tally 63 2 true) = true)
      ∧ (let s := (waiting (.mcue 5 false)).modDom 0 fun x => { x with mcues := [(5, { set := true })] }
         waits1 s (.mcue 5 false) ∧ s.waitReady 0 (.mcue 5 false) = true ∧ ∀ e, e < 10 → e ≠ 0 → (s.domN e).nt ≤ (wait0 (.mcue 5 false)).r)
      ∧ (let s := (waiting (.round 31 0)).modDom 0 fun x => { x with rounds := [(31, { bound := true, gen := 1 })] }
         waits1 s (.round 31 0) ∧ s.waitReady 0 (.round 31 0) = true)
      ∧ (let s := (waiting (.stream 16 0 1 0 0)).modCl 0 fun c =>
           { c with staging := [{ stream := 16, index := 0, guard := 0, data := [] }] }
         waits1 s (.stream 16 0 1 0 0) ∧ s.waitReady 0 (.stream 16 0 1 0 0) = true ∧ 0 < s.lcMax) := by
  unfold waits1 State.quiet
  decide +kernel

theorem witness_AcknowledgementsAndCompletions :
    ({ base with acks := [.direct 47 0] } : State).acks[0]? = some (.direct 47 0) ∧ base.acks[0]? = none
      ∧ ({ base with acks := [.bulk 3 48 none] } : State).acks[0]? = some (.bulk 3 48 none)
      ∧ (let f : Fence := { ctx := {}, id := 1, engines := 31, scope := 4, r := 1, deadline := 9 }
         let s := (base.modDom 0 fun x => { x with nt := 1 }).modCaller 0 fun c => { c with fence := some f }
         (s.domN (s.regionOf 0)).due (s.domN (s.regionOf 0)).nt 0 = none ∧ (s.caller 0).fence = some f ∧ f.r ≤ (s.domN (s.regionOf 0)).nt
           ∧ s.fenceBusy 0 f = false ∧ (base.domN (base.regionOf 0)).nt < f.r)
      ∧ (let b : Bulk := { id := 1, who := 0, ctx := {}, loc := 0, dsts := [], done := some { obj := .cue 47 255, scope := 4 }
                           left := 0, sent := true, signs := false, count := 0, data := [] }
         let s := { base with bulks := [b] }
         s.bulks[0]? = some b ∧ b.sent = true ∧ b.left = 0 ∧ s.locInScope 4 b.loc 47 = true
           ∧ ∀ d, d < 10 → ∀ e ∈ (s.domN d).evs, (s.domN d).nt < e.t)
      ∧ (let g := sigOf (.cue 47 255) .bulk
         let s := { base with untimed := [g] }
         s.untimed[0]? = some g ∧ s.locInScope g.scope g.last.loc 47 = true ∧ (s.domN (s.regionOf 47)).evs = []) := by decide +kernel

theorem witness_DeadlinesRaiseHold :
    (let s := base.modCaller 0 fun c => { c with waits := [{ wait0 (.cue 0 false) with stalls := 1 }] }
     ∃ w ∈ s.callersOf 0, ∃ q ∈ (s.caller w).waits, q.held = none ∧ q.deadline ≤ q.stalls ∧ s.waitReady w q.form = false)
      ∧ (∀ w ∈ base.callersOf 9, (∀ q ∈ (base.caller w).waits, q.held ≠ none ∨ q.stalls < q.deadline ∨ base.waitReady w q.form = true))
      ∧ (let s := base.modCl 0 fun c => { c with cues := [(0, { set := true })], caller := { c.caller with waits := [{ wait0 (.cue 0 false) with stalls := 1 }] } }
         ∃ q ∈ (s.caller 0).waits, q.held = none ∧ q.deadline ≤ q.stalls ∧ s.waitReady 0 q.form = true)
      ∧ (let s := { base with beat := { base.beat with boundaries := 4096 } }.modCaller 48 fun c => { c with waits := [{ wait0 (.mcue 0 false) with held := some 0 }] }
         s.callersOf 8 = [] ++ 48 :: []
           ∧ (s.caller 48).waits.find? (fun q => q.held.any fun b => b + 4096 ≤ s.beat.boundaries) = some { wait0 (.mcue 0 false) with held := some 0 })
      ∧ (let s := { base with beat := { base.beat with boundaries := 4096 } }.modCaller 0 fun c => { c with waits := [{ wait0 (.cue 0 false) with held := some 0 }] }
         (∃ later, s.callersOf 0 = [] ++ 0 :: later)
           ∧ (s.caller 0).waits.find? (fun q => q.held.any fun b => b + 4096 ≤ s.beat.boundaries) = some { wait0 (.cue 0 false) with held := some 0 }
           ∧ tGet s.actual 0 = none) := by
  refine ⟨⟨0, by decide +kernel, wait0 (.cue 0 false) |> fun q => { q with stalls := 1 }, by decide +kernel, by decide, by decide, by decide +kernel⟩,
    by decide +kernel, ⟨wait0 (.cue 0 false) |> fun q => { q with stalls := 1 }, by decide +kernel, by decide, by decide, by decide +kernel⟩,
    by decide +kernel, ⟨[1, 2, 3, 4, 5], by decide +kernel⟩, by decide +kernel, by decide +kernel⟩

/-- A request of stream 16 for the granule at address 64. -/
def req0 : Req := { stream := 16, index := 0, guard := 0, addr := some 64, rep := 0, block := 0, opens := false }

def asks (m : Mover) : State := base.modCl 0 fun c => { c with movers := c.movers.set 0 m }

theorem witness_GranulesReachStaging :
    (let s := asks { reqs := [req0] }
     ((s.clus 0).mover 0).reqs = [req0] ∧ ((s.clus 0).mover 0).roomFor = true ∧ (s.clus 0).used false < 2048)
      ∧ (let s := asks { reqs := [{ req0 with addr := none, kept := true }] }; ((s.clus 0).mover 0).reqs = [{ req0 with addr := none, kept := true }])
      ∧ (let s := asks { out := [req0] }
         (s.clus 0).outstanding 0 = some (0, req0)
           ∧ ∀ b ∈ burstsOf 64, ((tGet s.bankErr b).all fun e => decide (e.defect = 0 ∧ wrongCount e.stored ≤ 1)) = true)
      ∧ (let s := { asks { out := [{ req0 with again := [2] }] } with bankErr := [(2, { stored := 1 })] }
         (s.clus 0).outstanding 0 = some (0, { req0 with again := [2] })
           ∧ ∀ b ∈ burstsOf 64, ((tGet s.bankErr b).all fun e => decide (e.defect = 0 ∧ wrongCount e.stored ≤ 1)) = true)
      ∧ (let s := { asks { out := [req0] } with bankErr := [(2, { stored := 3 }), (3, { stored := 7 })] }
         (s.clus 0).outstanding 0 = some (0, req0)
           ∧ ∀ b ∈ burstsOf 64, ((tGet s.bankErr b).any fun e => decide (e.defect = 0 ∧ 2 ≤ wrongCount e.stored ∧ wrongCount e.stored ≤ 3)) = true) := by
  decide +kernel

theorem witness_BankScrubAndRefresh :
    base.pow.on = true ∧ base.burstsServed 255 2 < 8 ∧ 8 ≤ ({ base with bankUse := [(255 * 8 + 2, 8)] } : State).burstsServed 255 2
      ∧ base.refreshing.Nodup ∧ (tGet base.refreshNext 255).getD 0 = 0 ∧ base.refreshes = false
      ∧ ({ base with pkgs := [(0, 1)] } : State).refreshes = true
      ∧ (let s := { base with pkgs := [(0, 1)], refreshing := [0, 16 * 255 + 15], refreshNext := [(255, 16)] }
         s.refreshes = true ∧ s.refreshing.Nodup ∧ (tGet s.refreshNext 255).getD 0 = 16 ∧ s.beat.locked = false) := by
  decide +kernel

/-- An effect due at a stamp. -/
def evAt (t : Nat) (k : EvK) : Ev := { ev0 k with t := t }

def dueAt (d t nt : Nat) (k : EvK) (s : State := base) : State := s.modDom d fun x => { x with nt := nt, evs := [evAt t k] }

theorem witness_MatrixStartsAndWindDown :
    (let cmd := MxCmd.tload 1 0 false 2 0 0
     let s := dueAt 0 9 10 (.mxStart 0) (base.modCl 0 fun c => { c with mx := { c.mx with q := [({}, cmd)], tpFree := 9 } })
     let m := (s.clus 0).mx
     0 < s.lcMax ∧ m.q = [({}, cmd)] ∧ (∃ e, s.nextDue (s.regionOf 0) e ∧ e.k = .mxStart 0 ∧ m.startAt {} cmd ≤ e.t ∧ m.freeAt cmd ≤ e.t)
       ∧ (s.clus 0).ticket 0 = true ∧ m.startAt {} cmd < m.freeAt cmd)
      ∧ (let cmd := MxCmd.mdrain 0 0 1 0
         let s := dueAt 0 8 9 (.mxStart 0) (base.modCl 0 fun c => { c with mx := { c.mx with q := [({}, cmd)], starved := true } })
         let m := (s.clus 0).mx
         m.q = [({}, cmd)] ∧ m.starved = true ∧ (s.domN (s.regionOf 0)).stopped = false
           ∧ ∃ e, s.nextDue (s.regionOf 0) e ∧ e.k = .mxStart 0 ∧ m.startAt {} cmd ≤ e.t ∧ m.freeAt cmd ≤ e.t ∧ (s.clus 0).atHand e.t false cmd = true)
      ∧ (base.clus 47).mx.starved = false ∧ 47 < base.lcMax ∧ (base.domN (base.regionOf 47)).due (base.domN (base.regionOf 47)).nt 0 = none := by
  refine ⟨⟨by decide +kernel, by decide +kernel, ⟨evAt 9 _, due_of (by decide +kernel) rfl, rfl, by decide +kernel, by decide +kernel⟩, by decide +kernel,
    by decide +kernel⟩, ⟨by decide +kernel, by decide +kernel, by decide +kernel, evAt 8 _, due_of (by decide +kernel) rfl, rfl, by decide +kernel,
    by decide +kernel, by decide +kernel⟩, by decide +kernel⟩

theorem witness_ScrubFinalAndLandingRegisters :
    (0 < base.lcMax ∧ base.beat.order ≠ 0)
      ∧ (let s := due1 0 (.scrubWrite 0) { base with beat := { base.beat with order := 0 } }
         s.beat.order = 0 ∧ ∃ e, s.nextDue (s.regionOf 0) e ∧ e.k = .scrubWrite 0)
      ∧ (let h : Held := { l := { ctx := {}, origin := 1, writes := [], final := some (63, 2), counts := true, id := 0 }, n := 2, since := 0 }
         let s := base.modCl 0 fun c => { c with slots := [(63, h)] }
         tGet (s.clus 0).slots 63 = some h ∧ tGet (s.clus 0).slots 62 = none ∧ s.beat.boundaries < h.since + 4096
           ∧ s.running = false ∧ tGet s.actual 0 = none
           ∧ h.since + 4096 ≤ ({ s.beat with boundaries := 4096 } : BeatRef).boundaries)
      ∧ (let s := base.modDom 9 fun x => { x with gates := [(0, 1)], words := true, left := 1 }
         (∀ e ∈ (s.domN 9).evs, e.t < (s.domN 9).nt → e.k.crosses s 9 = false) ∧ (∀ e ∈ (s.domN 9).evs, e.k.goesOn = false) ∧ s.gateShut 9 = true ∧ (s.domN 9).words = true
           ∧ (s.domN 9).stopped = false ∧ (s.domN 9).left ≠ 0 ∧ base.gateShut 9 = false) := by
  refine ⟨by decide +kernel, ⟨by decide +kernel, ev0 _, due_of (by decide +kernel) rfl, rfl⟩, by decide +kernel, by decide +kernel⟩

theorem witness_FloorWritesLand : (base.clus 47).upsets = [] ∧ ((base.clus 47).ports.1 ≠ 1 ∨ (base.clus 47).ports.2 = []) := by decide +kernel

/-- A write of LC1 into the floor of LC0. -/
def landing0 (final : Option (Nat × Nat)) : Landing := { ctx := {}, origin := 1, writes := [(16777215, 7, 255)], final, counts := true, id := 0 }

theorem witness_RemoteWrites :
    (∃ e, (due1 0 (.land 0 (landing0 none))).nextDue 0 e ∧ e.k = .land 0 (landing0 none)) ∧ base.regionOf 0 = 0 ∧ 0 < base.lcMax
      ∧ (due1 0 (.land 0 (landing0 none))).isVoid (landing0 none).word = false
      ∧ (base.clus 0).slots = [] ∧ (base.clus 0).upsets = [] ∧ (base.clus 0).ports.2 = []
      ∧ (let s := base.modCl 0 fun c => { c with slots := [(63, { l := landing0 (some (63, 2)), n := 2, since := 0 })] }
         (tGet (s.clus 0).slots 63).isSome = true)
      ∧ (tGet (base.clus 0).landed 1).getD 0 + 1 < 2 :=
  ⟨⟨ev0 _, due_of (by decide +kernel) rfl, rfl⟩, by decide +kernel⟩

/-- The one granule of an empty record of channel 1. -/
def record1 : ChWord :=
  { ctx := {}, ch := 1, off := 0, pad := false, first := true, last := true, data := [0, 0, 1, 1] ++ List.replicate 60 0, crc := 0, word := 0, id := 0 }

theorem witness_ChannelLandings :
    (let s := due1 0 (.chLand 1 record1)
     1 < s.lcMax ∧ s.regionOf 1 = 0 ∧ (∃ e, s.nextDue 0 e ∧ e.k = .chLand 1 record1) ∧ (s.route 1).isSome = true ∧ s.isVoid record1.word = false
       ∧ (s.clus 1).upsets = [] ∧ recField record1.data 3 1 = 1)
      ∧ (let s := due1 0 (.credit 1 64)
         (∃ e, s.nextDue 0 e ∧ e.k = .credit 1 64) ∧ (s.route 1).map (·.src) = some 0) := by
  refine ⟨⟨by decide +kernel, by decide +kernel, ⟨ev0 _, due_of (by decide +kernel) rfl, rfl⟩, by decide +kernel, by decide +kernel, by decide +kernel,
    by decide +kernel⟩, ⟨ev0 _, due_of (by decide +kernel) rfl, rfl⟩, by decide +kernel⟩

/-- An effect of LC0 that is due next. -/
theorem due1_of {k : EvK} (s : State) (h : ((due1 0 k s).domN 0).due ((due1 0 k s).domN 0).nt 0 = some (ev0 k)) :
    ∃ e, (due1 0 k s).nextDue 0 e ∧ e.k = k := ⟨_, due_of h rfl, rfl⟩

def delivery0 : Delivery := { ctx := {}, second := true, form := 0, pos := 0, anchor := 0, sums := [], dr := { tkt := 31 }, final := true }
def band0 : BandOut := { ctx := {}, dst := 0, writes := [], counts := true, final := none, tkt := 31, wid := 0 }
def count0 : CountJob :=
  { width := 0, interp := 0, cond := 0, pmode := 0, pred := 0, tkt := 31, nelem := 1, src := 0, dst := 0, keyLo := 0, keyHi := 0, thresh := 0 }
def figJob0 : FigJob :=
  { ctx := {}, entry := 0, v := 1, lastN := 63, xmode := 0, xfmt := 5, yfmt := 5, dfmt := 5, wall := false, block := false, tileOrder := false, amx := false
    tkt := 0, x := 0, y := 0, d := 0, d2 := 0, xs := 0, ys := 0, ds := 0, d2s := 0, osc := 127, side := 0, final := none, tensor := 0, base := 0
    pitch := 0, preds := 0, stepReg := 0, keys := Vector.replicate 4 0, wid := 0 }
def granule0 : Staged := { stream := 31, index := 0, guard := 0, data := [] }
def rotating0 : Rotating := { ctx := {}, id := 1, mover := 0, set := 1, next := 0, total := 1, base := 0, deadline := 1 }

theorem witness_EngineEffects :
    base.regionOf 0 = 0 ∧ 0 < base.lcMax
      ∧ (∃ e, (due1 0 (.deliver 0 delivery0)).nextDue 0 e ∧ e.k = .deliver 0 delivery0)
      ∧ (∃ e, (due1 0 (.bandOut 0 band0)).nextDue 0 e ∧ e.k = .bandOut 0 band0)
      ∧ (let f : Fig := { id := 1, job := figJob0, moves := [], consts := [], start := 0, kr := 1 }
         let s := base.modCl 0 fun c => { c with vx := { c.vx with figs := [f] } }
         (∃ e, (due1 0 (.figLand 0 1 0) s).nextDue 0 e ∧ e.k = .figLand 0 1 0)
           ∧ ((due1 0 (.figLand 0 1 0) s).clus 0).vx.figs.find? (·.id == 1) = some f ∧ 0 + 1 = f.job.v)
      ∧ (let s := dueAt 0 8 9 (.figStart 0) (base.modCl 0 fun c => { c with vx := { c.vx with q := [({}, .ftload 0 64 0)] } })
         (∃ e, s.nextDue 0 e ∧ e.k = .figStart 0 ∧ 8 ≤ e.t) ∧ (s.clus 0).vx.q = [({}, .ftload 0 64 0)] ∧ (s.clus 0).vx.startAt {} = some 8)
      ∧ (∃ e, (due1 0 (.amaxGot 0 1 true 0 (some [7]) {})).nextDue 0 e ∧ e.k = .amaxGot 0 1 true 0 (some [7]) {})
      ∧ ((base.clus 0).amaxSlot 1).map (fun a => a.tensor.toNat) = some (recField [7] 0 4)
      ∧ recField [8] 0 4 ≠ recField [7] 0 4 ∧ ((due1 0 (.amaxGot 0 0 true 0 (some [7]) {})).clus 0).amaxSlot 0 = none
      ∧ (∃ e, (due1 0 (.amaxGot 0 1 false 0 (some (zeros 64)) {})).nextDue 0 e ∧ e.k = .amaxGot 0 1 false 0 (some (zeros 64)) {})
      ∧ amaxOk (zeros 64) = false ∧ amaxOk ((zeros 4) ++ [1] ++ zeros 59) = true
      ∧ (∃ e, (due1 0 (.cntLand 0 count0 1 0)).nextDue 0 e ∧ e.k = .cntLand 0 count0 1 0)
      ∧ (∃ e, (due1 0 (.arrive 0 granule0 0 0)).nextDue 0 e ∧ e.k = .arrive 0 granule0 0 0) ∧ base.isVoid 0 = false
      ∧ ((base.clus 0).seen 31 0 || 2048 ≤ (base.clus 0).used true) = false
      ∧ (let s := base.modCl 0 fun c => { c with staging := [granule0] }; ((s.clus 0).seen 31 0 || 2048 ≤ (s.clus 0).used true) = true)
      ∧ (let s := base.modCl 0 fun c => { c with rotating := [rotating0] }
         (∃ e, (due1 0 (.rotPlace 0 1 0) s).nextDue 0 e ∧ e.k = .rotPlace 0 1 0)
           ∧ ((due1 0 (.rotPlace 0 1 0) s).clus 0).rotating.find? (·.id == 1) = some rotating0
           ∧ ((due1 0 (.rotPlace 0 1 0) s).clus 0).rotReady rotating0 = false) := by
  refine ⟨by decide +kernel, by decide +kernel, due1_of _ (by decide +kernel), due1_of _ (by decide +kernel), ⟨due1_of _ (by decide +kernel), by decide +kernel, rfl⟩,
    ⟨⟨evAt 8 _, due_of (by decide +kernel) rfl, rfl, by decide⟩, by decide +kernel, by decide +kernel⟩, due1_of _ (by decide +kernel), by decide +kernel,
    by decide, by decide +kernel, due1_of _ (by decide +kernel), by decide +kernel, by decide +kernel, due1_of _ (by decide +kernel), due1_of _ (by decide +kernel), by decide +kernel,
    by decide +kernel, by decide +kernel, due1_of _ (by decide +kernel), by decide +kernel, by decide +kernel⟩

/-! ## Witnesses: the machine, the beat reference, the step stream -/

theorem witness_EmptyQueueIdles : State.reset.pending = [] := rfl

theorem witness_PartKept : State.reset.sound = true ∧ ({ base with grade := 3, fused := [0, 7, 12, 23, 24, 31, 36, 47] } : State).sound = true
    ∧ (let s : State := { base with grade := 2, fused := [0, 7, 24, 31] }; s.sound = true ∧ 43 < s.lcMax ∧ s.fused.contains 47 = false) := by
  decide +kernel

theorem witness_CommandsRunInOrder : (({ base with pending := [.jtagReset, .heartbeat] } : State).pending.drop 1) = .heartbeat :: []
    ∧ base.pending.length ≤ 0 := by decide +kernel

/-- A frame with its CRC. -/
def frame (order bar beat setting next nextBar horizon : Nat) : BitVec 128 :=
  let n := 2 ^ 112 * 0xE2B5 + 2 ^ 110 + 2 ^ 106 * order + 2 ^ 66 * bar + 2 ^ 60 * beat + 2 ^ 58 * setting + 2 ^ 56 * next + 2 ^ 40 * nextBar + 2 ^ 36 * horizon
  BitVec.ofNat 128 (n + frameCrc n)

/-- The module in bring-up stage 6, as the reset leaves it else. -/
def waitsForLock : State := { State.reset with pow := { State.reset.pow with bringup := 6 } }

/-- The module under beat lock, at rest. -/
def rests : State := { waitsForLock with pow := { waitsForLock.pow with bringup := 7 }, beat := { waitsForLock.beat with locked := true, valid := 8, order := 0 } }

def f0_ : BitVec 128 := frame 0 1 0 3 3 1 10

/-- A cluster that `actual` does not list is not FENCED, and without a routine a fault's record keeps its place. -/
theorem unfenced_of {s : State} {n : Nat} (h : tGet s.actual n = none) : s.unfenced n := fun a ha => by simp [h] at ha

theorem aloneIn_of {s : State} (h : s.running = false) (x : Ctx) : s.aloneIn x := .inl h

theorem witness_FramesCount :
    (State.reset.takesFrames = false ∧ State.reset.reportsAlone = false
        ∧ (let s := { waitsForLock with pow := { waitsForLock.pow with bringup := 3 } }; s.takesFrames = false ∧ s.reportsAlone = true ∧ s.cool sense0 ∧ s.calm sense0)
        ∧ frameValid (f0_ ^^^ 1) = false ∧ (frameOf f0_).order ≠ 2)
      ∧ waitsForLock.takesFrames = true ∧ frameValid f0_ = true ∧ (frameOf f0_).order = 0 ∧ waitsForLock.cool sense0
      ∧ waitsForLock.beat.locked = false ∧ waitsForLock.beat.valid + 1 < 8
      ∧ (let s := { waitsForLock with beat := { waitsForLock.beat with valid := 7 } }; s.beat.valid = 7 ∧ s.resting)
      ∧ rests.takesFrames = true ∧ rests.cool sense0 ∧ rests.beat.locked = true ∧ rests.resting
      ∧ frameValid f0_ = true := by
  unfold State.cool State.resting State.calm
  decide +kernel

theorem witness_FramesCount_announced :
    (let s := { rests with beat := { rests.beat with announced := some (3, 1) } }
     s.beat.announced = some (3, 1) ∧ (frameOf f0_).order = 0 ∧ (frameOf f0_).beat = 0 ∧ (frameOf f0_).bar % 65536 = 1
           ∧ s.takesFrames = true ∧ s.beat.locked = true ∧ s.resting ∧ s.cool sense0 ∧ s.calm sense0)
      ∧ (rests.beat.announced = none ∧ (frameOf (frame 0 1 0 3 2 4 10)).next ≠ 0
          ∧ (frameOf (frame 0 1 0 3 2 4 10)).nextBar ≠ (frameOf (frame 0 1 0 3 2 4 10)).bar % 65536) := by
  unfold State.cool State.resting State.calm
  decide +kernel

theorem witness_InvalidFrames :
    State.reset.takesFrames = false ∧ State.reset.reportsAlone = false ∧ waitsForLock.takesFrames = true ∧ frameValid (f0_ ^^^ 1) = false ∧ waitsForLock.cool sense0 ∧ waitsForLock.beat.locked = false
      ∧ rests.takesFrames = true ∧ rests.beat.locked = true ∧ rests.beat.invalid ≠ 3 ∧ rests.resting ∧ rests.cool sense0
      ∧ (let s := { rests with beat := { rests.beat with invalid := 3 }, rt := { rests.rt with runState := 2 } }
         s.takesFrames = true ∧ s.beat.locked = true ∧ s.beat.invalid = 3 ∧ s.cool sense0 ∧ s.running = true ∧ s.bankErr = [] ∧ s.errs = []) := by
  unfold State.cool State.resting
  decide +kernel

/-- The module while a routine runs. -/
def runs (s : State := base) : State :=
  { s with rt := { s.rt with runState := 2 }, beat := { s.beat with locked := true, valid := 8, order := 0, holdReq := false, cause := 0 } }

theorem witness_HoldsStopsAndDrains :
    (let s := { runs with beat := { runs.beat with setting := 3, bar := 5 }
                          pow := { runs.pow with mon := runs.pow.mon.set 7 { runs.pow.mon[7] with below := some 2, safe := 1 } } }
     (s.monN 7).below = some 2 ∧ s.beat.order = 0 ∧ 3 ≤ barGap 2 s.beat.bar.toNat ∧ (s.monN 7).safe.toNat < s.beat.setting.toNat
       ∧ s.beat.live.contains { cause := 5, who := 50 } = false ∧ (s.monN 6).below = none)
      ∧ (let s := base
         s.beat.holdReq = true ∧ (s.domN 9).stopped = false ∧ (s.domN 9).evs = [] ∧ ∀ n ∈ s.ofRegion 0, (s.clus n).mx.q = [])
      ∧ (let s := runs; s.beat.holdReq = false ∧ s.beat.order = 0 ∧ (s.domN 0).stopPend = false)
      ∧ (let s := { runs with rt := { runs.rt with abortAt := some (4, 0x2040) }, beat := { runs.beat with bar := 5 } }
         s.rt.abortAt = some (4, 0x2040) ∧ s.running = true ∧ s.beat.order = 0 ∧ barGap s.rt.firstBar 4 < barGap s.rt.firstBar s.beat.bar.toNat ∧ runs.rt.abortAt = none)
      ∧ (let s := { runs with actual := [(47, 7)] }; tGet s.actual 47 = some 7 ∧ tGet s.actual 0 ≠ some 7)
      ∧ (let s := { runs with actual := [(0, 3)] }; tGet s.actual 0 = some 3 ∧ s.beat.order = 0 ∧ s.beat.beat = 0 ∧ tGet s.actual 47 ≠ some 3 ∧ s.running = true)
      ∧ (let s := { rests with actual := [(0, 3)] }; s.running = false ∧ s.base (0x8000 + 0) 1 1 = 1 ∧ s.beat.order = 0 ∧ s.beat.beat = 0)
      ∧ (runs.running = true ∧ runs.frozen = false ∧ base.running = false)
      ∧ (let s := { (runs.modDoms fun x => { x with stopped := true }) with beat := { runs.beat with order := 1, inHold := true } }
         s.running = true ∧ s.frozen = true ∧ s.beat.inHold = true) := by decide +kernel

/-- Routine space with a few records: STEP without commands, REST 5, OPEN of 3 rounds, CLOSE, BEAT. -/
def program : List (BitVec 64) := [0x1000000400000000, 0, 0, 0, 0, 0x2000000000000005, 0x4000000000000002, 0x5000000000000000, 0x3000000000000000]

/-- Domain `d` stands at a word of routine space, with cycles left. -/
def at_ (d pc : Nat) (reps : List Rep := []) (beats : Nat := 0) : State :=
  { (runs.modDom d fun x => { x with words := true, left := 10, head := some { pc, reps, beats } }) with
    rt := { runs.rt with words := program, hdr := { runs.rt.hdr with segs := [{ body := 0, tail := 0, bars := 1, runs := 2 }], overlap := 0 } } }

theorem link_idle {s : State} (h : s.links = Vector.replicate 16 {}) (l : Nat) : (s.link l).sending = [] := by
  unfold State.link
  split
  · rw [h, Vector.getElem_replicate]
  · rfl

theorem witness_StepAndRestRecords :
    ((at_ 9 0).unhindered 9 1 ∧ ((at_ 9 0).domN 9).head = some { pc := 0 } ∧ (at_ 9 0).kindAt { pc := 0 } = 1)
      ∧ ((at_ 0 5).unhindered 0 5 ∧ ((at_ 0 5).domN 0).head = some { pc := 5 } ∧ (at_ 0 5).kindAt { pc := 5 } = 2)
      ∧ base.mayIssue 0 = false
      ∧ (let s := (at_ 0 0).modCaller 0 fun c => { c with waits := [wait0 (.cue 0 false)] }
         s.mayIssue 0 = true ∧ (s.domN 0).evs = [] ∧ (s.domN 0).stopPend = false ∧ (s.domN 0).tailc = none
           ∧ (∀ w ∈ s.callersOf 0, (s.caller w).fence = none ∧ ∀ q ∈ (s.caller w).waits, q.r ≤ (s.domN 0).nt → s.waitReady w q.form = false)
           ∧ ∃ w ∈ s.callersOf 0, ∃ q ∈ (s.caller w).waits, q.r ≤ (s.domN 0).nt) := by
  refine ⟨⟨?_, by decide +kernel⟩, ⟨?_, by decide +kernel⟩, by decide +kernel, ?_⟩
  · and_intros <;> first | decide +kernel | exact fun _ => link_idle (by decide +kernel)
  · and_intros <;> first | decide +kernel | exact fun _ => link_idle (by decide +kernel)
  · and_intros <;> decide +kernel

theorem witness_BeatsAndRepeats :
    (base.running = false ∧ (at_ 0 0).atBeat 0 = false)
      ∧ (let s := at_ 0 8
         s.running = true ∧ (s.domN 0).words = true ∧ (s.domN 0).last = false ∧ (s.domN 0).tailc = none ∧ (s.domN 0).head = some { pc := 8 }
           ∧ s.kindAt { pc := 8 } = 3 ∧ 0 + 1 ≠ 64 * (s.segN 0).bars)
      ∧ (let s := at_ 9 8 [] 63
         s.bankErr = [] ∧ (s.domN 9).runNo < 1 ∧ s.rt.stopAt ≤ (s.domN 9).runNo ∧ (s.domN 9).head = some { pc := 8, beats := 63 } ∧ 63 + 1 = 64 * (s.segN 0).bars ∧ s.rt.hdr.overlap = 0 ∧ s.rt.stopping = false
           ∧ s.nextRun 0 0 0 = some (0, 1, 0) ∧ s.nextRun 0 1 0 = none)
      ∧ (let s := at_ 0 6; s.running = true ∧ (s.domN 0).words = true ∧ (s.domN 0).head = some { pc := 6 } ∧ s.kindAt { pc := 6 } = 4)
      ∧ (let r : Rep := { idx := 0, start := 7, left := 0, j := 2 }
         let s := at_ 0 7 [r]
         (s.domN 0).head = some { pc := 7, reps := [r] } ∧ s.kindAt { pc := 7 } = 5 ∧ r.left = 0 ∧ ({ r with left := 1 } : Rep).left ≠ 0)
      ∧ ((at_ 0 0).domN 0).head.any (fun c => (at_ 0 0).kindAt c == 4) = false := by decide +kernel

theorem witness_RoutineBeginsAndEnds :
    (let s := { runs with rt := { runs.rt with runState := 1, armedBar := 5 }, beat := { runs.beat with bar := 5 } }
     s.rt.runState = 1 ∧ s.beat.locked = true ∧ s.beat.order = 0 ∧ s.beat.beat = 0 ∧ s.beat.bar.toNat = s.rt.armedBar)
      ∧ State.reset.rt.runState ≠ 1 ∧ State.reset.running = false
      ∧ (runs.running = true ∧ (∀ d, d < 10 → runs.quiet d) ∧ runs.effectsPending = true)
      ∧ (let s := runs.modDoms fun x => { x with last := true }
         s.running = true ∧ (∀ d, d < 10 → s.quiet d) ∧ s.effectsPending = false ∧ s.bankErr = []) := by
  unfold State.quiet
  decide +kernel

/-- The module with resident set 63 in a state. -/
def setIs (r : Resident) : State := { State.reset with residents := State.reset.residents.set 63 r, dict := base.dict }

theorem witness_ResidentSets :
    (let s := State.reset
     s.pow.on = true ∧ s.residentOk 63 4 65536 = true ∧ s.residentOk 63 5 16777216 = true ∧ s.residentOk 63 5 16842752 = false ∧ s.residentOk 63 2 63 = true
       ∧ s.residentOk 63 3 4 = false ∧ s.residentOk 63 9 64 = true ∧ s.running = false ∧ s.loadSetOk 63 = false ∧ s.recordSetOk 63 = false
       ∧ s.verifySetOk 63 = false)
      ∧ (setIs { length := 65536, members := 1 }).loadSetOk 63 = true
      ∧ (setIs { state := .unsettled, length := 65536, members := 2 ^ 47 }).loadSetOk 63 = true
      ∧ (setIs { state := .dirty, length := 65536, members := 1 }).recordSetOk 63 = true
      ∧ (setIs { state := .settled, length := 65536, members := 1 }).verifySetOk 63 = true
      ∧ ((setIs { state := .loading, action := 1 }).copyShards { state := .loading, action := 1 }).1 = some []
      ∧ ({ setIs { state := .loading, action := 4, length := 1, members := 1 } with bankErr := [(0, { stored := 3 })] }.copyShards
            { state := .loading, action := 4, length := 1, members := 1 }).1 = none
      ∧ ((setIs { action := 2 }).resident 63).action = 2 ∧ ((setIs { action := 3 }).resident 63).action = 3
      ∧ (∀ n, n < 48 → ((setIs { action := 2 }).clus n).upsets = []) := by decide +kernel

/-! ## Witnesses: links, debug access, the host port -/

/-- The module with partner link 15 as given. -/
def linked (k : Link) (s : State := State.reset) : State := { s with links := s.links.set 15 k }

/-- A transfer of four granules under way, announced, and its first flit. -/
def xfr0 : Xfr := { first := 0, count := 8, group := 0, stream := 0, kd := 0, lidx := 0 }
def body0 : Bytes := zeros 256
def head0 (kind : Nat) (hold : Bool) (alive : Nat) : BitVec 48 := BitVec.ofNat 48 (flitHead kind hold alive body0)

/-- A beat block with a good CRC. -/
def block0 : Bytes :=
  let b := leBytes 2 0x4C52 ++ zeros 638
  b ++ leBytes 4 (crc32c b).toNat

/-- Link 15 as given, after a wire slot in which no codeword is wrong. -/
def taken (k : Link) : State := ((linked k).takeSlotCw 15 .clean).2

/-- A head and a body as they are received on link 15. -/
def good (k : Link) (head : BitVec 48) : Bool := flitOk head body0 ((linked k).takeSlotCw 15 .clean).1

set_option maxRecDepth 50000 in
theorem witness_FlitsAndBlocks :
    (let k : Link := { st := .up, opens := [xfr0] }
     let q := (taken k).link 15
     (State.reset.link 15).st ≠ .up ∧ ((linked k).link 15).st = .up ∧ q.st = .up ∧ q.rxSlot ≠ 488 ∧ q.rxSlot % 61 ≠ 0
       ∧ bits (head0 1 false 0).toNat 1 0 = 1 ∧ good k (head0 1 false 0) = true ∧ (head0 1 false 0).getLsbD 2 = false
       ∧ (aliveCheck q.rxLast (BitVec.ofNat 8 (bits (head0 1 false 0).toNat 15 8))).1 = false ∧ q.seqOf 0 = 0 ∧ q.rxFull ≤ 0
       ∧ q.openOf 0 = some xfr0 ∧ (taken k).landable 15 xfr0 0 = true ∧ xfr0.landed + (xfr0.places 15 0).length ≠ xfr0.count
       ∧ (aliveCheck ((taken { k with rxLast := 0 }).link 15).rxLast 0).1 = true
       ∧ bits (head0 1 false 0 ^^^ 65536).toNat 1 0 = 1 ∧ good k (head0 1 false 0 ^^^ 65536) = false
       ∧ ((taken { k with rxSlot := 60 }).link 15).rxSlot % 61 = 0)
      ∧ (let k : Link := { st := .up, opens := [xfr0], rxSeen := 2, missing := [0] }
         let q := (taken k).link 15
         q.st = .up ∧ q.missing = [0] ∧ bits (head0 2 false 0).toNat 1 0 = 2 ∧ good k (head0 2 false 0) = true
           ∧ q.openOf 0 = some xfr0 ∧ (taken k).landable 15 xfr0 0 = true ∧ xfr0.landed + (xfr0.places 15 0).length ≠ xfr0.count
           ∧ q.missing.head?.any (fun y => bits (head0 2 false 1).toNat 15 8 != y % 256) = true)
      ∧ (let k : Link := { st := .up }
         bits (head0 0 true 0).toNat 1 0 = 0 ∧ good k (head0 0 true 0) = true ∧ (head0 0 true 0).getLsbD 2 = true
           ∧ ((taken { k with rxSlot := 487 }).link 15).rxSlot = 488 ∧ ((taken { k with rxSlot := 487 }).link 15).st = .up
           ∧ ({ k with cwSeen := 0 } : Link).cwSeen ≤ codewordOf (644 + 261) ∧ codewordOf 644 < 200
           ∧ ((linked { k with badCw := 61 }).link 15).badCw + 2 < 64 ∧ 64 ≤ ((linked { k with badCw := 63 }).link 15).badCw + 1) := by
  decide +kernel

set_option maxRecDepth 50000 in
theorem witness_FlitsAndBlocks_block :
    ((block0.length == 644 && recField block0 0 2 == 0x4C52 && (crc32c (block0.take 0x280)).toNat == recField block0 0x280 4) = true)
      ∧ (recField block0 2 1).testBit 0 = false ∧ (∀ j, j < 38 → recField block0 (16 + 16 * j) 1 = 0) ∧ recField (zeros 644) 0 2 ≠ 0x4C52 := by
  decide +kernel

theorem witness_LinkService :
    (let g := BitVec.ofNat 128 (leNat (linkTag none 1 (zeros 256)))
     let s := linked { st := .up, rxSeen := 1, tags := [(0, 1, g)], bodies := [(0, zeros 256)] }
     (s.link 15).tags = [(0, 1, g)] ∧ 1 ≤ (s.link 15).ackSeq
       ∧ leNat (linkTag (s.link 15).rxKey 1 ((List.range (1 - 0)).flatMap fun i => (tGet (s.link 15).bodies (0 + i)).getD [])) = g.toNat)
      ∧ ((linked { tags := [(0, 1, 0)] }).link 15).ackSeq < 1
      ∧ (State.reset.link 0).st ≠ .up ∧ ((linked { st := .up, badCw := 63 }).link 15).badCw = 63 ∧ ((linked { st := .up }).link 15).badCw < 63
      ∧ (let s := { linked { st := .retrain, outSince := some 0, cable := true } with beat := { State.reset.beat with boundaries := 4096 } }
         (s.link 15).outSince = some 0 ∧ 0 + 4096 ≤ s.beat.boundaries ∧ (s.link 15).st = .retrain ∧ (s.link 15).cable = true ∧ (s.link 15).lane = false)
      ∧ ((linked { st := .keying }).link 15).st = .keying
      ∧ (linked { st := .keying }).val (0x4010 + 15) 2 0x03FF = 0x03FF ∧ (0x03FF : Nat) = (0x3FF : BitVec 10).toNat
      ∧ (linked {}).running = false ∧ (runs (linked {})).running = true := by decide +kernel

theorem witness_DebugInstructions :
    State.reset.pow.on = true ∧ ({ State.reset.pow with on := false } : Power).on = false ∧ State.reset.bscan = false
      ∧ (let s := { State.reset with pow := { State.reset.pow with modrst := false }, sec := { State.reset.sec with cleared := true } }
         s.bscan = true ∧ s.pow.on = true) ∧ State.reset.sec.locked = false ∧ listedIr 0xFF = false ∧ listedIr 0x12 = true := by decide +kernel

/-- Debug access is unlocked, and DBG_ADDR stands at an address. -/
def unlocks (a : BitVec 64) : State :=
  { base with dbgAddr := a, dict := { base.dict with vals := tPut (tPut base.dict.vals (0x6010 * 256 + 1) 1) (0x6010 * 256 + 2) 1 } }

theorem witness_DebugData :
    (State.reset.pow.on = true ∧ State.reset.unlocked = false)
      ∧ (let s := unlocks 0x6F00000000FFFFF8; s.unlocked = true ∧ s.dbgCode = 0 ∧ bits s.dbgAddr.toNat 63 62 = 1 ∧ (s.clus 47).upsets = [])
      ∧ (let s := unlocks 0x8000000000000000; s.unlocked = true ∧ s.dbgCode = 0 ∧ bits s.dbgAddr.toNat 63 62 = 2 ∧ s.bankErr = [])
      ∧ (let s := unlocks 0x0000000003FFFFF8; s.unlocked = true ∧ s.dbgCode = 0 ∧ bits s.dbgAddr.toNat 63 62 = 0 ∧ s.running = false)
      ∧ (unlocks 0x6F00000001000000).dbgCode ≠ 0 := by decide +kernel

/-- The port is up, and function 0 reaches domain 0. -/
def port0 : State := { base with pow := { base.pow with perst := true, bringup := 7 } }

/-- IDE is required. -/
def needsIde : State := { port0 with dict := { port0.dict with vals := tPut port0.dict.vals (0x6010 * 256 + 3) 1 } }

theorem witness_HostMemory :
    State.reset.portUp = false ∧ port0.portUp = true ∧ port0.inBar2 0 0 4096 = true ∧ port0.inBar2 0 (2 ^ 36) 1 = false ∧ port0.pageRefused 63 false = false
      ∧ port0.barBits 0 ≤ 41 ∧ port0.noIde 0 false = false ∧ port0.fnReaches 0 0 4096 = true ∧ port0.bankErr = []
      ∧ port0.inBar 63 .page 16376 8 = true ∧ port0.inBar 63 .bells 4092 4 = true ∧ needsIde.pageRefused 63 false = true
      ∧ port0.fnReaches 1 0 1 = false ∧ needsIde.portUp = true ∧ needsIde.noIde 0 false = true ∧ port0.inBar2 0 (2 ^ 36 - 512) 512 = true := by
  decide +kernel

theorem witness_FunctionPages :
    State.reset.portUp = false ∧ port0.portUp = true ∧ needsIde.pageRefused 63 false = true ∧ needsIde.pageRefused 0 false = false
      ∧ (port0.fn 63).busy = false ∧ port0.noIde 63 true = false ∧ needsIde.noIde 63 true = true := by decide +kernel

theorem witness_HostService :
    (let s := { (port0.modFn 63 fun g => { g with busy := true, reqLen := 4 }) with port :=
       { (port0.modFn 63 fun g => { g with busy := true, reqLen := 4 }).port with mail := [(63, 0)] } }
     s.portUp = true ∧ s.served = true ∧ s.port.mail = [(63, 0)] ∧ (s.fn 63).busy = true ∧ (port0.port.mail.head?).any (fun m => m.1 == 0) = false
       ∧ (State.answer { s with port := { s.port with mail := [] } } (mbxPath 63) 63 (readMem (s.fn 63).req 0 (s.fn 63).reqLen.toNat)).2.2 = none)
      ∧ (let b : Bell := { fn := 0, ring := 63, v := 0, requester := 0 }
         let s := { port0 with port := { port0.port with bells := [b] } }
         s.port.bells = [b] ∧ s.bellOk b = false ∧ b.fn < 64)
      ∧ (let b : Bell := { fn := 0, ring := 0, v := 64, requester := 0 }
         let s := { port0 with port := { port0.port with bells := [b] }, dict := { port0.dict with vals := tPut port0.dict.vals (0x5100 * 256 + 1) 1 } }
         s.bellOk b = true)
      ∧ port0.isu.busy = none ∧ port0.pow.perst = true ∧ State.reset.pow.perst = false ∧ State.reset.pow.on = true ∧ port0.portUp = true := by
  decide +kernel

/-- A connection with everything agreed. -/
def spdm0 : State := { port0 with port := { port0.port with spdmVer := 0x12, spdmAlg := true, spdmKex := true } }
def session0 (secured : Bool) : State :=
  { spdm0 with port := { spdm0.port with session := some { mutual_ := true, rootOk := true, secured, secret := 0, updates := 0 } } }

theorem witness_SpdmRequests :
    State.reset.spdmUp = false ∧ port0.spdmUp = true ∧ port0.port.spdmVer = 0 ∧ port0.agreed = false ∧ spdm0.spdmUp = true ∧ spdm0.port.spdmVer = 0x12
      ∧ spdm0.agreed = true ∧ spdm0.port.spdmKex = true ∧ spdm0.secured = false ∧ spdm0.port.session = none ∧ (spdm0.measured 1).isSome = true
      ∧ spdm0.measured 0xFE = none ∧ (zeros 32).length = 32
      ∧ (∃ x, (session0 false).port.session = some x ∧ x.secured = false) ∧ (∃ x, (session0 true).port.session = some x ∧ x.secured = true)
      ∧ (session0 true).ideKm = true ∧ spdm0.ideKm = false
      ∧ (spdm0.measured 1).any (fun d => d.length + spdm0.measureHead ≤ 65536) = true := by
  and_intros <;> first | exact ⟨_, rfl, rfl⟩ | decide +kernel

/-! ## Witnesses: security, the dictionary, settings, snapshots, resets, power -/

/-- An image of 256 bytes of KIND 1. -/
def image0 : Bytes := zeros 8 ++ [1] ++ zeros 247

/-- A change order of one item for POLICY 0x6010:01, without signatures that hold. -/
def order0 : Bytes :=
  ascii "ELCO" ++ [1, 1, 0, 0] ++ zeros 32 ++ zeros 32 ++ zeros 4 ++ zeros 4 ++ leBytes 2 0x6010 ++ [1, 0, 1, 0, 0, 0] ++ [1, 0, 0, 0, 0, 0, 0, 0] ++ zeros 128

/-- An order for DOMAIN_STATE of domain 1. -/
def order1 : Bytes :=
  ascii "ELCO" ++ [1, 1, 0, 0] ++ zeros 32 ++ zeros 32 ++ zeros 4 ++ zeros 4 ++ leBytes 2 0x6101 ++ [1, 0, 1, 0, 0, 0] ++ [1, 0, 0, 0, 0, 0, 0, 0] ++ zeros 128

def staged (b : Bytes) (s : State := State.reset) : State := { s with sec := { s.sec with staged := some b } }

theorem witness_SecurityUnit :
    fwFits image0 = true ∧ fwFits [] = false ∧ coParse [] = none ∧ (coParse order0).isSome = true
      ∧ State.reset.pow.on = true ∧ (staged order0).storeBusy = false ∧ (staged order0).sec.log.length + (staged order0).logReserved + 1 ≤ 4096 ∧ (staged order0).sec.locked = false ∧ (staged order0).running = false
      ∧ ({ State.reset with sec := { (staged order0).sec with locked := true } } : State).sec.locked = true
      ∧ (runs (staged order1)).running = true ∧ (coParse order1).any (fun q => q.1.any (runs (staged order1)).coTouches) = true
      ∧ ({ (staged order0).sec with storing := some order0 } : Security).storing = some order0 ∧ State.reset.sec.storing = none := by decide +kernel

/-- States in which the copies of the protected entries agree, and one in which the unit is locked already (R559, R561). -/
theorem witness_copiesAgree : State.reset.copiesAgree ∧ (staged order0).copiesAgree ∧ rests.copiesAgree
    ∧ ({ State.reset with sec := { State.reset.sec with locked := true } } : State).copiesAgree :=
  ⟨.inr (by decide +kernel), .inr (by decide +kernel), .inr (by decide +kernel), .inl rfl⟩

theorem witness_SecurityUnit_mismatch :
    (let s := { State.reset with dict := { State.reset.dict with vals := [(0x6000 * 256 + 1, 1)] } }
     s.pow.on = true ∧ s.sec.locked = false ∧ s.running = false ∧ s.complBad.isSome = true) := by decide +kernel

theorem witness_SecurityUnit_commit :
    State.reset.sec.filled = 0 ∧ (let s := { State.reset with sec := { State.reset.sec with images := Vector.replicate 4 [], filled := 1 } }
                                s.sec.filled ≠ 0 ∧ bit s.sec.filled 0 = true ∧ bit s.sec.filled 1 = false ∧ s.imageOk 1 (s.fwImage (1 - s.sec.slot) 1) = false) := by decide +kernel

/-- A request of a path with its CRC. -/
def request (op alive tag idx sub last len off : Nat) (val : Bytes) : Bytes :=
  let b := leBytes 1 1 ++ leBytes 1 op ++ leBytes 1 alive ++ leBytes 1 0 ++ leBytes 2 tag ++ leBytes 2 idx ++ leBytes 1 sub ++ leBytes 1 last ++ leBytes 2 len
    ++ leBytes 4 off ++ val
  b ++ leBytes 2 (crc16 b).toNat

/-- The port is up, and the complements of the values it starts from stand beside them. -/
def dict0 : State := { port0 with dict := { port0.dict with compl := port0.dict.vals } }

/-- A request that arrives on MCTP for the module. -/
def mctp (early : Bool := false) : Carrier := { path := 1, early := early, vendor := Config.vendorId, eid := dict0.dict.eid }

theorem witness_DictionaryRequests_carriers :
    dict0.takesMessage (mctp) = true ∧ dict0.takesMessage (mctp true) = true ∧ (mctp true).early = true
      ∧ dict0.takesMessage { mctp with eid := dict0.dict.eid + 1 } = false
      ∧ ((mctp).early || (decide (2 ≤ (mctp).path.val) && (dict0.fn 0).busy)) = false
      ∧ ((dict0.modFn 5 fun g => { g with busy := true }).fn 5).busy = true
      ∧ dict0.port.mail = [] ∧ dict0.served = true ∧ dict0.copiesAgree := by
  refine ⟨?_, ?_, rfl, ?_, ?_, ?_, rfl, by decide +kernel, .inr (by decide +kernel)⟩
  · simp [State.takesMessage, mctp]
  · simp [State.takesMessage, mctp]
  · simp [State.takesMessage, mctp]
  · simp [mctp]
  · decide +kernel

/-- A WRITE of a value to an entry on MCTP is accepted, and its value is complete. -/
def writes (s : State) (m : Bytes) : Bool :=
  let q := readReq m
  match s.requestCode 1 0 q with
  | (0, some e) => (frameFault 1 m).isNone && q.op == 2 && completes e q
  | _ => false

theorem witness_DictionaryRequests_writes :
    (let m := request 2 1 7 0x2000 1 1 1 0 [4]
     writes dict0 m = true ∧ rowOf (readReq m).idx (readReq m).sub [4] = some (.mode 4))
      ∧ (let m := request 2 1 7 0x4010 1 1 1 0 [1]; writes dict0 m = true ∧ rowOf (readReq m).idx (readReq m).sub [1] = none ∧ (dict0.link 0).st = .down)
      ∧ (let s := { dict0 with links := dict0.links.set 0 { st := .up } }
         writes s (request 2 1 7 0x4010 1 1 1 0 [0]) = true ∧ writes s (request 2 1 7 0x4010 1 1 1 0 [1]) = true ∧ (s.link 0).st = .up)
      ∧ (writes dict0 (request 2 1 7 0x5100 5 1 4 0 [64, 0, 0, 0]) = true ∧ dict0.port.bells = [])
      ∧ (let s := { dict0 with port := { dict0.port with bells := [{ fn := 0, ring := 0, v := 0, requester := 0 }] } }
         writes s (request 2 1 7 0x5100 5 1 4 0 [64, 0, 0, 0]) = true ∧ s.port.bells ≠ [])
      ∧ writes dict0 (request 2 1 7 0x5300 16 1 32 0 (zeros 32)) = true
      ∧ (writes (runs dict0) (request 2 1 7 0x5100 1 1 1 0 [1]) = true ∧ (runs dict0).running = true)
      ∧ writes dict0 (request 2 1 7 0x7000 3 1 2 0 [0xE8, 3]) = true
      ∧ (let m := request 2 1 7 0x5300 1 0 16 0 (zeros 16)
         frameFault 1 m = none ∧ (dict0.requestCode 1 0 (readReq m)).1 = 0
           ∧ (dict0.requestCode 1 0 (readReq m)).2.any (fun e => completes e (readReq m)) = false) := by
  decide +kernel

theorem witness_DictionaryRequests :
    State.reset.served = false ∧ port0.served = true
      ∧ frameFault 0 [] = some 1 ∧ frameFault 1 (zeros 18) = some 2
      ∧ (let m := request 1 1 7 0x2000 4 1 1 0 []
         let q := readReq m
         frameFault 1 m = none ∧ q.op = 1 ∧ (port0.path 1).rsp = []
           ∧ (port0.requestCode 1 0 q).1 = 0 ∧ (port0.requestCode 1 0 q).2.isSome = true)
      ∧ (let m := request 1 0 0 0x2000 4 1 1 0 []
         let s := port0.modPath 1 fun k => { k with rsp := [1] }
         frameFault 1 m = none ∧ (s.path 1).rsp ≠ [] ∧ (readReq m).alive = (s.path 1).rxAlive ∧ (readReq m).tag = (s.path 1).rxTag)
      ∧ (let m := request 1 1 7 0xFFFF 0 1 1 0 []; frameFault 1 m = none ∧ (port0.requestCode 1 0 (readReq m)).1 ≠ 0)
      ∧ (let m := request 2 1 7 0x1100 7 1 8 0 [9, 0, 0, 0, 0, 0, 0, 0]
         let q := readReq m
         frameFault 1 m = none ∧ q.op = 2 ∧ (port0.requestCode 1 0 q).1 = 0 ∧ q.idx = 0x1100 ∧ q.sub = 7)
      ∧ (port0.path 0).segs = none
      ∧ (let s := { port0 with dict := { port0.dict with paths := [(0, { segs := some (1, []) })] } }; (s.path 0).segs = some (1, [])) := by
  decide +kernel

theorem witness_Settings :
    State.reset.pow.on = true ∧ ({ State.reset.pow with on := false } : Power).on = false ∧ State.reset.modeOk 4 = true ∧ State.reset.modeOk 5 = false ∧ State.reset.running = false ∧ runs.modeOk 2 = true ∧ runs.running = true
      ∧ State.reset.dict.modeNext = none
      ∧ (let s := { runs with dict := { runs.dict with modeNext := some (1, 0), userNext := some (7, 0) } }
         s.dict.modeNext = some (1, 0) ∧ s.dict.userNext = some (7, 0) ∧ s.running = true ∧ s.beat.bar.toNat = 0)
      ∧ userOk 7 = true ∧ userOk 3 = false
      ∧ State.reset.putOk 7 (leBytes 2 0x7000 ++ [3, 0] ++ leBytes 2 1500) = true ∧ State.reset.putOk 7 (zeros 5) = false
      ∧ (let s := { State.reset with dict := { State.reset.dict with overlays := State.reset.dict.overlays.set 7 [(0x700003, 1500)] } }
         s.removeOk 7 0x700003 = true) ∧ State.reset.removeOk 7 0x700003 = false
      ∧ State.reset.storeCode = 0 ∧ (staged order0).dict.storing = none ∧ ({ State.reset.dict with storing := some [] } : Dict).storing = some []
      ∧ keptWhileRunning 0x4000 1 = true ∧ keptWhileRunning 0x7000 3 = false
      ∧ 47 < State.reset.lcMax ∧ ({ State.reset with grade := 2, fused := [0, 7, 24, 31] } : State).lcMax ≤ 47
      ∧ tGet ({ State.reset with actual := [(47, 4)] } : State).actual 47 = some 4 := by decide +kernel

/-- The header of an image of one segment, at address 0 of bank memory. -/
def header0 : Mem :=
  let b := ascii "ELOA-RTN" ++ [1, 0, 3, 1, 1, 0, 0, 0, 1, 0, 0, 0]
  writeMem [] 0 b

theorem witness_LoadsFaultsAndSnapshots :
    State.reset.loadOk = true ∧ State.reset.loadBusy = false ∧ runs.loadBusy = true ∧ runs.loadOk = true
      ∧ (({ State.reset.dict with load := some { code := 0, routeDigest := 0 } } : Dict).load.isSome = true) ∧ State.reset.dict.load = none
      ∧ (readHeader (base.bankView (base.base 0x1100 1 0) 256)).formatOk = false
      ∧ (let s := { State.reset with bank := header0 }
         (readHeader (s.bankView (s.base 0x1100 1 0) 256)).formatOk = true ∧ s.pageDomain (s.base 0x1100 1 0) ≠ some 0)
      ∧ (let s := { rests with
                    rt := { rests.rt with loadStatus := 2, hdr := { rests.rt.hdr with segs := [{ body := 0, tail := 0, bars := 1, runs := 1 }] } }
                    dict := { rests.dict with vals := [(0x1100 * 256 + 7, 2)] } }
         s.startOk = true) ∧ State.reset.startOk = false
      ∧ State.reset.ackRefused = true ∧ rests.ackRefused = false
      ∧ (let s := { rests with dict := { rests.dict with vals := [(0x1310 * 256 + 3, 0x400000), (0x1310 * 256 + 6, 0)] } }
         s.snapBusy = false ∧ s.snapRefused = false ∧ s.toBuddy = false)
      ∧ State.reset.restoreRefused = true ∧ State.reset.resumeRefused = true
      ∧ (let s := { rests with snap := { rests.snap with resumable := true, status := 3 } }; s.snapBusy = false ∧ s.resumeRefused = false ∧ s.snap.status = 3)
      ∧ (let s := { rests with snap := { rests.snap with action := 1 } }
         s.snap.action = 1 ∧ s.bankErr = [] ∧ ∀ n, n < 48 → (s.clus n).upsets = [])
      ∧ (let s := { rests with snap := { rests.snap with action := 2 } }; s.snap.action = 2 ∧ s.snap.chunks = [])
      ∧ State.reset.snap.action ≠ 1 ∧ State.reset.snap.action ≠ 2 ∧ State.reset.snap.status ≠ 3
      -- a part of a neighbour's snapshot, at the end of its slot, in a receive area of two extents of domain 0; and one that goes beyond it
      ∧ (let s := { rests with dict := { rests.dict with vals := [(0x1310 * 256 + 7, 1), (0x1310 * 256 + 8, 2), (0x6100 * 256 + 1, 1), (0x6400 * 256 + 2, 0)] } }
         let room := s.inForce 0x1310 8 / 2 * 2 ^ 26
         s.pow.on = true ∧ s.running = false ∧ s.pow.bringup = 7 ∧ (2 ^ 26 - 64) + 64 = room ∧ room < (2 ^ 26 - 63) + 64
           ∧ s.foreignBank 0 (s.inForce 0x1310 7 * 2 ^ 26 + 0 * room + (2 ^ 26 - 64)) 64 = false ∧ s.bankErr = []) := by decide +kernel

theorem witness_Resets :
    (let s := { State.reset with pow := { State.reset.pow with on := false } }
     (!s.pow.on && !s.pow.trip && decide (44000 ≤ 44000) && decide (44000 ≤ 60000) && (!decide (60000 < s.pow.vin.toNat) || decide (44000 < 58000))) = true)
      ∧ State.reset.pow.on = true ∧ State.reset.pow.trip = false ∧ ({ State.reset.pow with trip := true } : Power).trip = true
      ∧ State.reset.moduleBarred = true ∧ State.reset.warmBarred = true ∧ rests.moduleBarred = false ∧ rests.warmBarred = false
      ∧ State.reset.pow.modrst = true ∧ State.reset.pow.warmrst = true
      ∧ (let p := { State.reset.pow with modrst := false, pwrgd := true }
         p.modrst = false ∧ p.on = true ∧ p.bringup = 1 ∧ p.pwrgd = true ∧ p.warmrst = true)
      ∧ rests.pow.ref100 = false ∧ ({ rests.pow with ref100 := true } : Power).ref100 = true
      ∧ rests.pow.bringup ≠ 1 ∧ rests.pow.bringup ≠ 2 := by decide +kernel

/-- Bring-up in a stage. -/
def stage (n : BitVec 8) : State := { base with pow := { base.pow with bringup := n } }

theorem witness_BringUp :
    (State.reset.pow.on = true ∧ State.reset.pow.bringup = 1 ∧ State.reset.pow.pwrgd = false)
      ∧ (let s := { stage 2 with sec := { base.sec with cleared := false } }; s.pow.bringup = 2 ∧ s.sec.recovery = false ∧ s.sec.cleared = false)
      ∧ ((stage 3).pow.bringup = 3 ∧ (stage 3).pow.warmrst = true ∧ (stage 3).running = false ∧ tGet (stage 3).actual 47 = none)
      ∧ (let p := { (stage 3).pow with lastReset := 3, warmrst := false }; p.bringup = 3 ∧ p.lastReset = 3 ∧ p.warmrst = false)
      ∧ bits (0x1C00 : BitVec 16).toNat 12 10 = 7 ∧ locNames (0x1C00 : BitVec 16).toNat = true ∧ locNames (0xFFFF : BitVec 16).toNat = false
      ∧ locNames (0xF800 : BitVec 16).toNat = true ∧ bits (0xF800 : BitVec 16).toNat 12 10 = 6 ∧ 46 ∈ (stage 3).ofRegion 7
      ∧ (let l : BitVec 16 := 0xF440
         locNames l.toNat = true ∧ bits l.toNat 12 10 < 6 ∧ (stage 3).logicalOf ((bits l.toNat 15 15 * 4 + bits l.toNat 14 13) * 6 + bits l.toNat 12 10) = 47)
      ∧ (stage 4).pow.bringup = 4 ∧ (stage 5).pow.bringup = 5 ∧ (stage 5).pow.bringup ≠ 4 ∧ (stage 7).pow.bringup = 7 ∧ (stage 7).pow.on = true
      ∧ (stage 7).clusterResetOk 47 = true ∧ (stage 7).clusterResetOk 48 = false ∧ ({ (stage 7).pow with testing := [47] } : Power).testing.contains 47 = true
      ∧ (stage 7).pow.testing.contains 47 = false
      ∧ (let s := { stage 7 with dict := { base.dict with vals := [(0x4010 * 256 + 1, 1)] } }; s.linkResetOk 0 = true ∧ s.linkUsed 0 = true)
      ∧ (stage 7).linkResetOk 16 = false ∧ ((stage 7).link 0).st = .down := by decide +kernel

theorem witness_PowerAndClocks :
    (let s := { base with pow := { base.pow with mon := base.pow.mon.set 7 { sensors := Vector.replicate 4 { missed := 8 }, lock := false } } }
     (s.monN 7).sensors[3].failed = false ∧ 8 ≤ (s.monN 7).sensors[3].missed ∧ (s.monN 7).lock = false)
      ∧ (base.monN 7).sensors[3].missed < 8 ∧ (base.monN 7).lock = true ∧ 599 < droopThreshold base.beat.setting.toNat
      ∧ droopThreshold base.beat.setting.toNat ≤ 600 ∧ base.pow.on = true ∧ base.running = false ∧ base.actual = []
      ∧ (let s := { base with pow := { base.pow with step := true } }; s.pow.step = true ∧ 10 * s.pow.watts.toNat < 9 * s.powerLimit)
      ∧ base.pow.step = false
      ∧ (let s := base.modDom 7 fun x => { x with stretched := 2049 }; s.bound7 9 < (s.domN 7).stretched)
      ∧ (let t := base.sampleRegion 7 (List.replicate 32 1080); base.stepAt 3 ≤ (t.monN 7).temp)
      ∧ base.powerLimit < 1601 ∧ (base.domN 7).stretched ≤ base.bound7 9 := by decide +kernel

end Sys2Proof.Tests
end

section
/-! The proof of O52: mailboxes, doorbells, the completions of the intake unit, PERST_N and configuration requests. First what an event, a record of
a log, a fault and a signal leave; then the rows. -/

namespace Sys2Proof.Proofs.HostService

open Sys2Proof Sys2Proof.Machine Sys2Proof.Laws

/-! ## What an event for a function leaves -/

/-- From `s` to `t` the module has at most told the function `f` of something: domains, clusters, the routine, the intake unit, bank memory and the
mailbox requests are as before, and so are the pages of the other functions, and on every page the response buffer with its state. -/
structure Tells (f : Nat) (s t : State) : Prop where
  dom : t.dom = s.dom
  cl : t.cl = s.cl
  rt : t.rt = s.rt
  isu : t.isu = s.isu
  bank : t.bank = s.bank
  mail : t.port.mail = s.port.mail
  pages : ∀ m, m ≠ f → t.fn m = s.fn m
  rsp : ∀ m, (t.fn m).rsp = (s.fn m).rsp
  rspLen : ∀ m, (t.fn m).rspLen = (s.fn m).rspLen
  busy : ∀ m, (t.fn m).busy = (s.fn m).busy
  done : ∀ m, (t.fn m).done = (s.fn m).done

theorem Tells.refl (f : Nat) (s : State) : Tells f s s := by constructor <;> intros <;> rfl

theorem Tells.trans {f : Nat} {s t u : State} (h : Tells f s t) (k : Tells f t u) : Tells f s u where
  dom := k.dom.trans h.dom
  cl := k.cl.trans h.cl
  rt := k.rt.trans h.rt
  isu := k.isu.trans h.isu
  bank := k.bank.trans h.bank
  mail := k.mail.trans h.mail
  pages m hm := (k.pages m hm).trans (h.pages m hm)
  rsp m := (k.rsp m).trans (h.rsp m)
  rspLen m := (k.rspLen m).trans (h.rspLen m)
  busy m := (k.busy m).trans (h.busy m)
  done m := (k.done m).trans (h.done m)

/-- A further step that is taken where a condition holds. -/
theorem Tells.ifThen {f : Nat} {s t u : State} {c : Prop} [Decidable c] (h : Tells f s t) (k : Tells f t u) :
    Tells f s (if c then u else t) := by
  split
  · exact h.trans k
  · exact h

/-- A further step that is taken where a condition fails. -/
theorem Tells.ifElse {f : Nat} {s t u : State} {c : Prop} [Decidable c] (h : Tells f s t) (k : Tells f t u) :
    Tells f s (if c then t else u) := by
  split
  · exact h
  · exact h.trans k

section
variable (s : State)

theorem count_tells (f idx sub n : Nat) : Tells f s (s.count idx sub n) := by constructor <;> intros <;> rfl

theorem hostPut_tells (f a : Nat) (bs : Bytes) : Tells f s (s.hostPut a bs) := by constructor <;> intros <;> rfl

/-- A change of a function's page that leaves its response buffer and the state of that. -/
theorem modFn_tells (f : Nat) (g : HostFn → HostFn)
    (hg : ∀ h, (g h).rsp = h.rsp ∧ (g h).rspLen = h.rspLen ∧ (g h).busy = h.busy ∧ (g h).done = h.done) : Tells f s (s.modFn f g) := by
  have kept : ∀ (m : Nat) {α : Type} (p : HostFn → α), p (g (s.fn f)) = p (s.fn f) → p ((s.modFn f g).fn m) = p (s.fn m) := by
    intro m α p hp
    rw [modFn_fn]
    split
    · next h => rw [hp, h.1]
    · rfl
  obtain ⟨hrsp, hlen, hbusy, hdone⟩ := hg (s.fn f)
  exact ⟨rfl, rfl, rfl, rfl, rfl, rfl, fun m hm => by simp [hm], fun m => kept m _ hrsp, fun m => kept m _ hlen,
    fun m => kept m _ hbusy, fun m => kept m _ hdone⟩

/-- An event for a function (R528). -/
theorem hostEvent_tells (f kind source d0 d1 : Nat) : Tells f s (s.hostEvent f kind source d0 d1) := by
  unfold State.hostEvent
  refine .ifElse (.refl f s) (.ifElse (.refl f s) ?_)
  dsimp only
  split
  · refine .trans ?_ (count_tells _ ..)
    exact modFn_tells s f _ fun h => ⟨rfl, rfl, rfl, rfl⟩
  · exact .trans (hostPut_tells s ..) (modFn_tells _ f _ fun h => ⟨rfl, rfl, rfl, rfl⟩)

/-- The dictionary has no part in an event. -/
theorem hostEvent_dict (f kind source d0 d1 : Nat) : (s.hostEvent f kind source d0 d1).dict = s.dict := by
  unfold State.hostEvent
  dsimp only
  split_ifs <;> rfl

/-- A record of the error log (R640), of which the PF hears if its class is 0 (R529). -/
theorem errLog_tells (cls cause loc : Nat) (x : Ctx) (other : Nat) (detail : Bytes) : Tells 0 s (s.errLog cls cause loc x other detail) := by
  unfold State.errLog
  refine .ifThen ?record (hostEvent_tells ..)
  case record => constructor <;> intros <;> rfl

end

/-! ## Answers to mailbox requests (R567-R570) -/

section
variable (s : State)

theorem modPath_tells (k : Nat) (f : Path → Path) : Tells 0 s (s.modPath k f) := by constructor <;> intros <;> rfl

theorem modeRefused_tells (v : Nat) : Tells 0 s (s.modeRefused v) := .ifThen (.refl 0 s) (errLog_tells ..)

theorem respond_tells (p fn : Nat) (q : DictReq) : Tells 0 s (s.respond p fn q).2.1 := by
  unfold State.respond
  dsimp only
  refine .trans ?_ (modPath_tells _ ..)
  exact .ifThen (.ifElse (.ifThen (.refl 0 s) (count_tells s ..)) (count_tells ..)) (modeRefused_tells ..)

/-- Answering a message (R567-R570) writes no response buffer, takes no request, and touches no page but the event queue of the PF. -/
theorem answer_tells (p fn : Nat) (m : Bytes) : Tells 0 s (s.answer p fn m).2.1 := by
  unfold State.answer
  split
  · exact count_tells s ..
  · dsimp only
    split
    · dsimp only
      refine .trans ?_ (modPath_tells _ ..)
      exact count_tells s ..
    · exact respond_tells s ..

end

/-! ## The oldest mailbox request (R527, R572) -/

/-- A function's page with a response in its buffer (R526, R527). -/
def withResponse (r : Bytes) (g : HostFn) : HostFn :=
  { g with rsp := writeMem g.rsp 0 r, rspLen := BitVec.ofNat 13 r.length, busy := false, done := true }

/-- A response in the buffer of a function's mailbox, and its event (R527). -/
def delivered (s : State) (fn : Nat) (r : Bytes) : State := (s.modFn fn (withResponse r)).hostEvent fn 1 0 r.length 0

/-- The answer to a request of a function, in the state in which the requests `rest` are left. -/
def answerTo (s : State) (fn : Nat) (rest : List (Nat × Nat)) : Option Bytes × State × Todo :=
  State.answer { s with port := { s.port with mail := rest } } (mbxPath fn) fn (readMem (s.fn fn).req 0 (s.fn fn).reqLen.toNat)

/-- The bytes of an answer that the response buffer takes. -/
def bufferBytes (r : Option Bytes) : Bytes := (r.getD []).take 4096

theorem mbxDone_cons {s : State} {fn bells : Nat} {rest : List (Nat × Nat)} (h : s.port.mail = (fn, bells) :: rest) :
    s.mbxDone = (delivered (answerTo s fn rest).2.1 fn (bufferBytes (answerTo s fn rest).1)).doTodo bells (answerTo s fn rest).2.2 := by
  unfold State.mbxDone
  rw [h]
  rfl

/-- Where the copies of the protected entries agree, their comparison changes nothing (R559, R561). -/
theorem complCheck_of_copiesAgree {s : State} (h : s.copiesAgree) : s.complCheck = s := by
  unfold State.complCheck
  rcases h with h | h
  · simp [h]
  · split
    · rfl
    · rw [h]

section
variable (s : State) (fn : Fin 64)

/-- The oldest request belongs to another function, or the port or the firmware does not serve it. -/
theorem mbxDone_not_served (h : s.portUp = false ∨ s.served = false ∨ (s.port.mail.head?).any (fun m => m.1 == fn.val) = false) :
    exec (.mbxDone fn) s = .next s := by
  show commit s _ = _
  rw [if_neg, commit_eq]
  · rfl
  · simp only [Bool.and_eq_true, not_and, Bool.not_eq_true]
    rcases h with h | h | h <;> simp [h]

variable {s fn}

theorem mbxDone_served {bells : Nat} {rest : List (Nat × Nat)} (hp : s.portUp = true) (hs : s.served = true) (hc : s.copiesAgree)
    (hm : s.port.mail = (fn.val, bells) :: rest) : exec (.mbxDone fn) s = .next (s.after s.mbxDone) := by
  show commit s (if _ then s.complCheck.mbxDone else s) = _
  rw [if_pos (by simp [hp, hs, hm]), complCheck_of_copiesAgree hc, commit_eq]

end

/-- The state of the response buffer once a response has been delivered. -/
theorem delivered_page (s : State) (fn : Fin 64) (r : Option Bytes) :
    let t := delivered s fn (bufferBytes r)
    (t.fn fn).busy = false ∧ (t.fn fn).done = true ∧ (t.fn fn).rsp = writeMem (s.fn fn).rsp 0 (bufferBytes r)
      ∧ (t.fn fn).rspLen.toNat = (bufferBytes r).length := by
  have hr : (bufferBytes r).length ≤ 4096 := by simp [bufferBytes]
  have told := hostEvent_tells (s.modFn fn (withResponse (bufferBytes r))) fn 1 0 (bufferBytes r).length 0
  have page : (s.modFn fn (withResponse (bufferBytes r))).fn fn = withResponse (bufferBytes r) (s.fn fn) := by
    rw [modFn_fn, if_pos ⟨rfl, fn.isLt⟩]
  refine ⟨(told.busy fn).trans ?_, (told.done fn).trans ?_, (told.rsp fn).trans ?_, (congrArg BitVec.toNat (told.rspLen fn)).trans ?_⟩
    <;> rw [page, withResponse]
  rw [BitVec.toNat_ofNat, Nat.mod_eq_of_lt (by omega)]

/-- What the delivery of a response leaves. -/
theorem delivered_frame (s : State) (fn : Nat) (r : Bytes) :
    (delivered s fn r).port.mail = s.port.mail ∧ (delivered s fn r).dict = s.dict ∧ (delivered s fn r).cl = s.cl
      ∧ (delivered s fn r).rt = s.rt ∧ ∀ m, m ≠ fn → (delivered s fn r).fn m = s.fn m := by
  have told := hostEvent_tells (s.modFn fn (withResponse r)) fn 1 0 r.length 0
  refine ⟨told.mail, hostEvent_dict .., told.cl, told.rt, fun m hm => (told.pages m hm).trans ?_⟩
  rw [modFn_fn, if_neg fun h => hm h.1]

/-- The oldest request of the mailboxes is answered (R527, R572): what stands in the response buffer, and what the answer leaves. -/
theorem answered_request (s : State) (fn : Fin 64) (rest : List (Nat × Nat)) :
    let r := answerTo s fn rest
    let u := delivered r.2.1 fn (bufferBytes r.1)
    u.port.mail = rest ∧ (u.fn fn).busy = false ∧ (u.fn fn).done = true ∧ (u.fn fn).rsp = writeMem (s.fn fn).rsp 0 (bufferBytes r.1)
      ∧ (u.fn fn).rspLen.toNat = (bufferBytes r.1).length ∧ u.dict = r.2.1.dict ∧ u.cl = s.cl ∧ u.rt = s.rt
      ∧ ∀ f, f ≠ fn.val → u.fn f = s.fn f ∨ f = 0 := by
  intro r u
  have told : Tells 0 _ r.2.1 := answer_tells { s with port := { s.port with mail := rest } } (mbxPath fn) fn _
  obtain ⟨hbusy, hdone, hrsp, hlen⟩ := delivered_page r.2.1 fn r.1
  obtain ⟨hmail, hdict, hcl, hrt, hpages⟩ := delivered_frame r.2.1 fn (bufferBytes r.1)
  refine ⟨hmail.trans told.mail, hbusy, hdone, hrsp.trans ?_, hlen, hdict, hcl.trans told.cl, hrt.trans told.rt, fun f hf => ?_⟩
  · rw [told.rsp fn]; rfl
  · by_cases h0 : f = 0
    · exact .inr h0
    · exact .inl ((hpages f hf).trans (told.pages f h0))

/-! ## Doorbells (R530, R531) -/

/-- The state in which the first doorbell has left the queue. -/
def bellTaken (s : State) (l : List Bell) : State :=
  { s with port := { s.port with bells := l, mail := s.port.mail.map fun (m : Nat × Nat) => (m.1, m.2 - 1) } }

theorem applyBell_nil {s : State} (h : s.port.bells = []) : s.applyBell = s := by
  unfold State.applyBell
  rw [h]

theorem applyBell_ok {s : State} {b : Bell} {l : List Bell} (h : s.port.bells = b :: l) (hb : s.bellOk b = true) :
    s.applyBell = (bellTaken s l).setBase (0x5100 + b.ring) 5 b.v.toNat := by
  unfold State.applyBell
  rw [h]
  exact if_pos hb

theorem applyBell_ignored {s : State} {b : Bell} {l : List Bell} (h : s.port.bells = b :: l) (hb : s.bellOk b = false) :
    s.applyBell = ((bellTaken s l).modFn b.fn fun g => { g with err := g.err ||| 4 }).count 0x9009 3 1 := by
  unfold State.applyBell
  rw [h]
  exact if_neg (Bool.eq_false_iff.1 hb)

/-- A base value reads as it was set. -/
theorem base_setBase (s : State) (i sub v d : Nat) : (s.setBase i sub v).base i sub d = v := by
  simp [State.base, State.setBase, tGet_tPut]

/-- A counter after it has counted, up to its bound (R593). -/
theorem counter_count (s : State) (i sub n : Nat) : (tGet (s.count i sub n).counters (i * 256 + sub)).getD 0
    = BitVec.ofNat 64 (min (((tGet s.counters (i * 256 + sub)).getD 0).toNat + n) (2 ^ 64 - 1)) := by
  simp [State.count, tGet_tPut]

/-! ## PERST_N and configuration requests (R515, R516, R540, R615, R670) -/

/-- The port trains: a speed of HIF_STATUS is drawn, and no function page changes (R512, R526). -/
theorem trainPort_spec (s : State) : s.trainPort.pow = { s.pow with trained := true } ∧ 1 ≤ s.trainPort.port.speed.toNat
    ∧ s.trainPort.port.speed.toNat ≤ 6 ∧ s.trainPort.port.fns = s.port.fns := by
  have speed : s.trainPort.port.speed.toNat = 1 + (Config.freeBits s.free 8).toNat % 6 := by
    show (BitVec.ofNat 3 (1 + (Config.freeBits s.free 8).toNat % 6)).toNat = _
    rw [BitVec.toNat_ofNat, Nat.mod_eq_of_lt (by omega)]
  refine ⟨rfl, ?_, ?_, rfl⟩ <;> omega

/-- A window base is cut to a multiple of the size (R526). -/
theorem fits_window (g : HostFn) (n : Nat) : (g.fits n).window.toNat = g.window.toNat / 2 ^ n * 2 ^ n := by
  have := g.window.isLt
  have := Nat.div_mul_le_self g.window.toNat (2 ^ n)
  rw [HostFn.fits, BitVec.toNat_ofNat, Nat.mod_eq_of_lt (by omega)]

/-- The port after a size has been written to the Resizable BAR or VF Resizable BAR capability, and completed (R512, R516, R526). -/
def resizedPort (s : State) (vf : Bool) (k : Nat) : Port :=
  { s.port with
    bar2 := if vf then s.port.bar2 else 30 + k
    bar2v := if vf then 30 + k else s.port.bar2v
    fns := Vector.ofFn fun (f : Fin 64) => if (f != 0) = vf then s.port.fns[f].fits (30 + k) else s.port.fns[f]
    cpl := .written }

theorem resizeBar_complete (s : State) (vf : Bool) (k : Nat) : (s.resizeBar vf k).complete .written = { s with port := resizedPort s vf k } := by
  unfold State.complete State.resizeBar
  rfl

theorem resizedPort_fn (s : State) (vf : Bool) (k : Nat) (f : Fin 64) :
    State.fn { s with port := resizedPort s vf k } f = if (f != 0) = vf then (s.fn f).fits (30 + k) else s.fn f := by
  simp [State.fn, resizedPort]

/-! ## Domains through bank memory and the error log -/

section
variable (s : State)

@[simp] theorem useBurst_dom (sc share : Nat) : (s.useBurst sc share).dom = s.dom := by
  unfold State.useBurst
  dsimp only
  split <;> rfl

@[simp] theorem burstWrong_dom (b : Nat) : (s.burstWrong b).2.dom = s.dom := by
  unfold State.burstWrong
  split
  · rfl
  · split <;> rfl

@[simp] theorem burstRead_dom (b share : Nat) : (s.burstRead b share).2.dom = s.dom := by
  refine Eq.trans ?_ ((burstWrong_dom (s.useBurst (burstSc b) share) b).trans (useBurst_dom s (burstSc b) share))
  unfold State.burstRead
  dsimp only
  split_ifs <;> rfl

@[simp] theorem granuleOf_dom (a : Nat) (p q : Bytes × Bool) : (s.granuleOf a p q).2.dom = s.dom := by
  unfold State.granuleOf
  dsimp only
  split <;> rfl

@[simp] theorem granuleOnce_dom (a loc : Nat) : (s.granuleOnce a loc).2.2.dom = s.dom := by
  unfold State.granuleOnce
  dsimp only
  split <;> simp only [granuleOf_dom, burstRead_dom]

@[simp] theorem burstAgain_dom (bad : List Nat) (b loc : Nat) : (s.burstAgain bad b loc).2.dom = s.dom := by
  have read : ((s.count 0x9007 3 1).burstRead b (shareOf loc)).2.dom = s.dom := burstRead_dom ..
  unfold State.burstAgain
  split
  · split
    · next h => rw [h] at read; exact read
    · next h => rw [h] at read; exact read
  · rfl

@[simp] theorem granuleAgain_dom (bad : List Nat) (a loc : Nat) : (s.granuleAgain bad a loc).2.dom = s.dom := by
  have first := burstAgain_dom s bad (a / 64 * 2) loc
  unfold State.granuleAgain
  dsimp only
  split
  · next h => rw [h] at first; exact first
  · next p t h =>
    rw [h] at first
    have second := burstAgain_dom t bad (a / 64 * 2 + 1) loc
    split
    · next k => rw [k] at second; exact second.trans first
    · next k => rw [k] at second; exact (granuleOf_dom _ a ..).trans (second.trans first)

@[simp] theorem granuleGet_dom (a loc : Nat) : (s.granuleGet a loc).2.dom = s.dom := by
  have once := granuleOnce_dom s a loc
  unfold State.granuleGet
  split
  · next h => rw [h] at once; exact once
  · next h => rw [h] at once; exact (granuleAgain_dom ..).trans once

@[simp] theorem granulePut_dom (a loc : Nat) (plain : Bytes) : (s.granulePut a loc plain).dom = s.dom := by
  unfold State.granulePut
  dsimp only
  simp only [useBurst_dom]

/-- No write of bank memory reaches a domain. -/
@[simp] theorem bankStore_dom (a loc : Nat) (bs : Bytes) (k : Nat) : (s.bankStore a loc bs k).2.dom = s.dom := by
  induction k generalizing s a bs with
  | zero => rfl
  | succ k ih =>
    have got := granuleGet_dom s a loc
    unfold State.bankStore
    dsimp only
    rw [ih]
    split
    · exact granulePut_dom ..
    · split
      · next h => rw [h] at got; exact (granulePut_dom ..).trans got
      · next h => rw [h] at got; exact got

@[simp] theorem faultLog_dom (cls cause loc : Nat) (x : Ctx) (other : Nat) (detail : Bytes) :
    (s.faultLog cls cause loc x other detail).dom = s.dom := by
  refine Eq.trans ?_ (errLog_tells s cls cause loc x other detail).dom
  unfold State.faultLog
  dsimp only
  split
  · split <;> rfl
  · rfl

@[simp] theorem recordLost_dom (burst : Nat) : (s.recordLost burst).dom = s.dom := faultLog_dom ..

/-- The record of a bar goes to bank memory; a domain has no part in it (R644). -/
@[simp] theorem closeBar_dom (bar : Nat) (aborted : Bool) : (s.closeBar bar aborted).dom = s.dom := by
  unfold State.closeBar State.barRecord
  dsimp only
  split
  · split
    · next h => exact (congrArg (·.2.dom) h).symm.trans (bankStore_dom ..)
    · next h => exact (recordLost_dom ..).trans ((congrArg (·.2.dom) h).symm.trans (bankStore_dom ..))
  · rfl

@[simp] theorem holdLinks_dom : s.holdLinks.dom = s.dom := by
  unfold State.holdLinks
  split <;> rfl

@[simp] theorem stopSnap_dom (warm : Bool) : (s.stopSnap warm).dom = s.dom := by
  unfold State.stopSnap
  split_ifs <;> rfl

/-- A step that leaves the domains, taken for each element of a list. -/
theorem foldl_dom {α : Type} (f : State → α → State) (hf : ∀ t a, (f t a).dom = t.dom) (l : List α) : (l.foldl f s).dom = s.dom := by
  induction l generalizing s with
  | nil => rfl
  | cons a l ih => exact (ih _).trans (hf s a)

@[simp] theorem discrepancies1_dom : s.discrepancies1.dom = s.dom := by
  have noted : s.noteDiscrepancies.dom = s.dom := rfl
  unfold State.discrepancies1
  dsimp only
  refine (foldl_dom _ _ (fun t e => ?_) _).trans noted
  exact (errLog_tells t 0 0x82 (t.locLc e.1 0 0) t.nowCtx (t.locLc e.1 0 0) e.2).dom

end

/-! ## Module cues through faults and signals (R327, R617, R634) -/

/-- The replicas of the module cues of every domain are as before. -/
structure SameCues (s t : State) : Prop where
  mcues : ∀ d, (t.domN d).mcues = (s.domN d).mcues

theorem SameCues.refl (s : State) : SameCues s s := ⟨fun _ => rfl⟩

theorem SameCues.trans {s t u : State} (h : SameCues s t) (k : SameCues t u) : SameCues s u := ⟨fun d => (k.mcues d).trans (h.mcues d)⟩

theorem sameCues_of_dom {s t : State} (h : t.dom = s.dom) : SameCues s t := ⟨fun d => by simp only [State.domN, h]⟩

section
variable (s : State)

/-- A change of a domain that leaves its module cues. -/
theorem modDom_sameCues (d : Nat) (f : Dom → Dom) (hf : ∀ x, (f x).mcues = x.mcues) : SameCues s (s.modDom d f) := by
  refine ⟨fun e => ?_⟩
  rw [modDom_domN]
  split
  · next h => rw [hf, h.1]
  · rfl

/-- A change of every domain that leaves its module cues. -/
theorem modDoms_sameCues (f : Dom → Dom) (hf : ∀ x, (f x).mcues = x.mcues) : SameCues s (s.modDoms f) := by
  refine ⟨fun e => ?_⟩
  unfold State.domN State.modDoms
  split
  · simp only [Vector.getElem_map, hf]
  · rfl

/-- The discards at the end of an invocation (R617) keep the module cues. -/
theorem endInvocation_sameCues : SameCues s s.endInvocation := by
  have discarded : SameCues s ((s.modCls Cluster.discard).modDoms Dom.discard) :=
    .trans (sameCues_of_dom (t := s.modCls Cluster.discard) rfl) (modDoms_sameCues _ Dom.discard fun _ => rfl)
  exact discarded.trans (sameCues_of_dom rfl)

theorem reportFault_sameCues (cls bar : Nat) : SameCues s (s.reportFault cls bar) := by
  have stopped := modDoms_sameCues s (fun d => { d with stopped := true, stopPend := false, words := false }) fun _ => rfl
  exact stopped.trans (sameCues_of_dom (holdLinks_dom _))

/-- An abort (R636, R637) keeps the module cues. -/
theorem abort_sameCues (cls bar loc : Nat) : SameCues s (s.abort cls bar loc) := by
  have reported : ∀ t : State, t.dom = s.endInvocation.dom → SameCues s ((t.closeBar bar true).reportFault cls bar).discrepancies1 := fun t ht =>
    (endInvocation_sameCues s).trans <| (sameCues_of_dom ((closeBar_dom t bar true).trans ht)).trans <|
      (reportFault_sameCues _ cls bar).trans (sameCues_of_dom (discrepancies1_dom _))
  unfold State.abort
  by_cases h : 3 ≤ cls
  · simp only [h, if_true]
    exact (reported s.endInvocation.cancelItems rfl).trans (sameCues_of_dom (hostEvent_tells _ 0 ..).dom)
  · simp only [h, if_false]
    exact reported s.endInvocation rfl

theorem fence_sameCues (n cause : Nat) : SameCues s (s.fence n cause) := by
  unfold State.fence
  dsimp only
  refine .trans (.trans (sameCues_of_dom ?noted) (modDoms_sameCues _ _ ?gates)) (modDom_sameCues _ _ _ ?evs)
  case noted => split <;> split <;> rfl
  case gates => exact fun _ => rfl
  case evs => exact fun _ => rfl

theorem abortAtBar_sameCues (loc : Nat) : SameCues s (s.abortAtBar loc) := by
  unfold State.abortAtBar
  split_ifs
  · exact sameCues_of_dom (discrepancies1_dom _)
  · exact abort_sameCues ..
  · exact sameCues_of_dom rfl

theorem unitFault_sameCues (n cause loc : Nat) (x : Ctx) (other : Nat) (detail : Bytes) : SameCues s (s.unitFault n cause loc x other detail) := by
  have logged := sameCues_of_dom ((stopSnap_dom _ false).trans (faultLog_dom s 3 cause loc x other detail))
  exact (logged.trans (fence_sameCues _ n 5)).trans (abortAtBar_sameCues _ loc)

theorem moduleFault_sameCues (cause loc : Nat) (x : Ctx) (detail : Bytes) : SameCues s (s.moduleFault cause loc x detail) := by
  have logged := sameCues_of_dom ((stopSnap_dom _ false).trans (faultLog_dom s 4 cause loc x loc detail))
  unfold State.moduleFault
  dsimp only
  split
  · exact logged.trans (abort_sameCues ..)
  · refine logged.trans (sameCues_of_dom ?_)
    unfold State.widen
    split <;> rfl

end

/-! ## Module cues through signals (R308-R312, R335) -/

/-- The replicas of the module cues of every domain but one are as before. -/
structure OtherCues (d : Nat) (s t : State) : Prop where
  mcues : ∀ e, e ≠ d → (t.domN e).mcues = (s.domN e).mcues

theorem OtherCues.trans {d : Nat} {s t u : State} (h : OtherCues d s t) (k : OtherCues d t u) : OtherCues d s u :=
  ⟨fun e he => (k.mcues e he).trans (h.mcues e he)⟩

theorem SameCues.others {s t : State} (h : SameCues s t) (d : Nat) : OtherCues d s t := ⟨fun e _ => h.mcues e⟩

section
variable (s : State)

theorem modDom_otherCues (d : Nat) (f : Dom → Dom) : OtherCues d s (s.modDom d f) := ⟨fun e he => by simp [he]⟩

theorem post_sameCues (d t ph rank : Nat) (k : EvK) (mover : Bool) : SameCues s (s.post d t ph rank k mover) :=
  modDom_sameCues s d _ fun _ => rfl

theorem roundStep_sameCues (d t q : Nat) : SameCues s (s.roundStep d t q) := by
  have stepped : ∀ r, SameCues s (s.modDom d fun x => { x with rounds := tPut x.rounds q r }) := fun r =>
    modDom_sameCues s d _ fun _ => rfl
  have carried : ∀ r : Round, SameCues s (if r.full then (s.modDom d fun x => { x with rounds := tPut x.rounds q r }).post d (t + 1)
      phStart 0 (.roundGen q) else s.modDom d fun x => { x with rounds := tPut x.rounds q r }) := fun r => by
    split
    · exact (stepped r).trans (post_sameCues ..)
    · exact stepped r
  unfold State.roundStep
  dsimp only
  split
  · exact .refl s
  · split <;> exact carried _

theorem roundFault_sameCues (d t q : Nat) (r : Round) (g : Sig) : SameCues s (s.roundFault d t q r g) := by
  have noted : SameCues s (s.modDom d fun x => { x with rounds := tPut x.rounds q { r with fault := true } }) :=
    modDom_sameCues s d _ fun _ => rfl
  unfold State.roundFault
  dsimp only
  split
  · split
    · exact noted.trans (unitFault_sameCues ..)
    · exact noted
  · split
    · exact noted.trans (moduleFault_sameCues ..)
    · exact noted

@[simp] theorem detApply_dom (d : Nat) (g : Sig) : (s.detApply d g).dom = s.dom := rfl

/-- A signal to a module cue changes its replica in the domain, and counts where it merges (R309, R329, R330). -/
theorem applySig_mcue {d t num : Nat} {g : Sig} (h : g.obj = .mcue num) : s.applySig d t g =
    let c := ((tGet (s.domN d).mcues num).getD {}).apply g.op g.scope g.last
    let q := (s.detApply d g).modDom d fun x => { x with mcues := tPut x.mcues num c.1 }
    if c.2 && d == 8 then q.count 0x9004 3 1 else q := by
  obtain ⟨obj, op, scope, src, last, rel, seg, run, held⟩ := g
  cases h
  rfl

/-- A signal to a round is a fault, or changes its replica in the domain (R333-R336). -/
theorem applySig_round {d t k : Nat} {g : Sig} (h : g.obj = .round k) : s.applySig d t g =
    let r := (tGet (s.domN d).rounds k).getD {}
    let q := (s.detApply d g).modDom d fun x => { x with rounds := tPut x.rounds k (r.apply g.op g.last) }
    if r.faults g.op then (s.detApply d g).roundFault d t k r g else if r.full then q else q.roundStep d t k := by
  obtain ⟨obj, op, scope, src, last, rel, seg, run, held⟩ := g
  cases h
  rfl

/-- A signal to a cue or a tally of a cluster has no part in the domains. -/
theorem applySig_dom_of_holder {d t lc : Nat} {g : Sig} (h : g.obj.holder = some lc) : (s.applySig d t g).dom = s.dom := by
  obtain ⟨obj, op, scope, src, last, rel, seg, run, held⟩ := g
  unfold State.applySig
  cases obj with
  | cue n num => dsimp only; split_ifs <;> rfl
  | tally n num => dsimp only; split_ifs <;> rfl
  | mcue num => cases h
  | round k => cases h

/-- A signal that applies in a domain leaves the module cues of every other one. -/
theorem applySig_otherCues (d t : Nat) (g : Sig) : OtherCues d s (s.applySig d t g) := by
  have noted : SameCues s (s.detApply d g) := sameCues_of_dom (detApply_dom ..)
  cases h : g.obj with
  | cue lc num => exact (sameCues_of_dom (applySig_dom_of_holder s (lc := lc) (by rw [h]; rfl))).others d
  | tally lc num => exact (sameCues_of_dom (applySig_dom_of_holder s (lc := lc) (by rw [h]; rfl))).others d
  | mcue num =>
    rw [applySig_mcue s h]
    have put : ∀ c, OtherCues d s ((s.detApply d g).modDom d fun x => { x with mcues := tPut x.mcues num c }) := fun c =>
      (noted.others d).trans (modDom_otherCues _ d _)
    have counted : ∀ q : State, OtherCues d q (q.count 0x9004 3 1) := fun q => (sameCues_of_dom (count_tells q 0 ..).dom).others d
    dsimp only
    split
    · exact .trans (put _) (counted _)
    · exact put _
  | round k =>
    rw [applySig_round s h]
    have put : ∀ r, SameCues s ((s.detApply d g).modDom d fun x => { x with rounds := tPut x.rounds k r }) := fun r =>
      noted.trans (modDom_sameCues _ d _ fun _ => rfl)
    refine SameCues.others ?_ d
    dsimp only
    split
    · exact noted.trans (roundFault_sameCues ..)
    · split
      · exact put _
      · exact (put _).trans (roundStep_sameCues ..)

/-- A completion that applies in a domain sets the module cue that it names there (R329). -/
theorem applySig_bulk_sets {d t num : Nat} {g : Sig} (hd : d < 10) (hobj : g.obj = .mcue num) (hop : g.op = .bulk) :
    ((tGet ((s.applySig d t g).domN d).mcues num).getD {}).set = true := by
  rw [applySig_mcue s hobj, hop]
  dsimp only
  split <;> simp [hd, tGet_tPut, Cue.apply]

theorem clearMcue_otherCues (d num : Nat) : OtherCues d s (s.clearMcue d num) := by
  refine .trans ?_ (modDom_otherCues _ d _)
  exact (sameCues_of_dom (detApply_dom ..)).others d

/-- A step in a domain, taken for each element of a list. -/
theorem foldl_otherCues {α : Type} (d : Nat) (f : State → α → State) (hf : ∀ t a, OtherCues d t (f t a)) (l : List α) :
    OtherCues d s (l.foldl f s) := by
  induction l generalizing s with
  | nil => exact (SameCues.refl s).others d
  | cons a l ih => exact (hf s a).trans (ih _)

/-- The signals that a domain has due leave the module cues of every other one. -/
theorem signals_otherCues (d upTo gens : Nat) : OtherCues d s (s.signals d upTo gens) := by
  refine (modDom_otherCues s d _).trans (foldl_otherCues _ d _ (fun t e => ?_) _)
  split
  · exact applySig_otherCues ..
  · exact clearMcue_otherCues ..
  · exact (roundStep_sameCues ..).others d
  · exact (SameCues.refl t).others d

end

/-! ## Untimed signals (R307, R309, R310) -/

/-- An untimed signal where a domain holds its object: after the timed ones of the cycle that the domain has reached, with the stamp of its
application. -/
def applyHeld (g : Sig) (s : State) (d : Nat) : State :=
  let x := s.domN d
  let t := if x.waited = 0 then x.nt - 1 else x.nt
  let (bar, beat, cyc) := x.stamp t
  (if x.nt = 0 then s else s.signals d t t).applySig d t { g with last := { g.last with bar, beat, cyc } }

theorem applyUntimed_held {g : Sig} {lc : Nat} (s : State) (h : g.obj.holder = some lc) : s.applyUntimed g = applyHeld g s (s.regionOf lc) := by
  unfold State.applyUntimed
  rw [h]
  rfl

theorem applyUntimed_module {g : Sig} (s : State) (h : g.obj.holder = none) : s.applyUntimed g = (List.range 10).foldl (applyHeld g) s := by
  unfold State.applyUntimed
  rw [h]
  rfl

theorem applyHeld_otherCues (g : Sig) (s : State) (d : Nat) : OtherCues d s (applyHeld g s d) := by
  refine .trans ?_ (applySig_otherCues _ d _ _)
  split
  · exact (SameCues.refl s).others d
  · exact signals_otherCues ..

/-- What a step makes true for its element, and the steps of other elements keep, holds for each element once all steps have been taken. -/
theorem foldl_reaches {α β : Type} {P : α → β → Prop} {f : β → α → β} (hit : ∀ b a, P a (f b a))
    (keep : ∀ b a c, a ≠ c → P a b → P a (f b c)) (a : α) (l : List α) (b : β) (h : P a b ∨ a ∈ l) : P a (l.foldl f b) := by
  induction l generalizing b with
  | nil => exact h.resolve_right (by simp)
  | cons c l ih =>
    refine ih _ ?_
    by_cases hc : a = c
    · exact .inl (hc ▸ hit b a)
    · exact h.imp (keep b a c hc) fun hm => (List.mem_cons.1 hm).resolve_left hc

/-- The completion of a command sets its module cue in every replica (R309, R406). -/
theorem applyUntimed_bulk_sets {num d : Nat} {g : Sig} (s : State) (hobj : g.obj = .mcue num) (hop : g.op = .bulk) (hd : d < 10) :
    ((tGet ((s.applyUntimed g).domN d).mcues num).getD {}).set = true := by
  rw [applyUntimed_module s (by rw [hobj]; rfl)]
  refine foldl_reaches (P := fun d (t : State) => d < 10 → ((tGet (t.domN d).mcues num).getD {}).set = true)
    (fun t d hd => ?_) (fun t d e he ht hd => ?_) d (List.range 10) s (.inr (List.mem_range.2 hd)) hd
  · exact applySig_bulk_sets _ hd hobj hop
  · rw [(applyHeld_otherCues g t e).mcues d he]
    exact ht hd

/-! ## Untimed signals where nothing else is due -/

/-- Bank memory, the floors, the intake unit and the effects to come are as before. -/
structure Untouched (s t : State) : Prop where
  isu : t.isu = s.isu
  bank : t.bank = s.bank
  floor : ∀ n, (t.clus n).floor = (s.clus n).floor
  evs : ∀ d, (t.domN d).evs = (s.domN d).evs
  nt : ∀ d, (t.domN d).nt = (s.domN d).nt

theorem Untouched.refl (s : State) : Untouched s s := ⟨rfl, rfl, fun _ => rfl, fun _ => rfl, fun _ => rfl⟩

theorem Untouched.trans {s t u : State} (h : Untouched s t) (k : Untouched t u) : Untouched s u where
  isu := k.isu.trans h.isu
  bank := k.bank.trans h.bank
  floor n := (k.floor n).trans (h.floor n)
  evs d := (k.evs d).trans (h.evs d)
  nt d := (k.nt d).trans (h.nt d)

theorem Tells.untouched {f : Nat} {s t : State} (h : Tells f s t) : Untouched s t where
  isu := h.isu
  bank := h.bank
  floor n := by simp only [State.clus, h.cl]
  evs d := by simp only [State.domN, h.dom]
  nt d := by simp only [State.domN, h.dom]

/-- No effect of a domain comes before its next step cycle or in it. -/
def nothingDue (s : State) (d : Nat) : Prop := ∀ e ∈ (s.domN d).evs, (s.domN d).nt < e.t

theorem Untouched.nothingDue {s t : State} (h : Untouched s t) {d : Nat} (hq : nothingDue s d) : nothingDue t d := by
  intro e he
  rw [h.nt]
  exact hq e (h.evs d ▸ he)

section
variable (s : State)

/-- A change of a domain that changes nothing. -/
theorem modDom_self (d : Nat) (f : Dom → Dom) (hf : f (s.domN d) = s.domN d) : s.modDom d f = s := by
  have same : vmod s.dom d f = s.dom := by
    unfold vmod
    split
    · next hd =>
      have : f s.dom[d] = s.dom[d] := by simpa [State.domN, hd] using hf
      rw [this, Vector.set_getElem_self]
    · rfl
  unfold State.modDom
  rw [same]

/-- Where nothing is due by a stamp, no signal applies. -/
theorem signals_nothingDue {d u : Nat} (hq : nothingDue s d) (hu : u ≤ (s.domN d).nt) : s.signals d u u = s := by
  have none_due : ∀ (p : Ev → Bool) (act : State → Ev → State), (∀ e ∈ (s.domN d).evs, p e = false) →
      ((s.domN d).evs.filter p).foldl act (s.modDom d fun x =>
        { x with evs := x.evs.filter fun e => !((s.domN d).evs.filter p).contains e }) = s := by
    intro p act hp
    rw [List.filter_eq_nil_iff.2 fun e he => by simp [hp e he]]
    exact modDom_self s d _ (by simp)
  unfold State.signals
  refine none_due _ _ fun e he => ?_
  have late : ¬ e.t ≤ u := by have := hq e he; omega
  split <;> simp [late]

/-- A change of a domain that leaves its effects to come and its step time. -/
theorem modDom_untouched (d : Nat) (f : Dom → Dom) (hf : ∀ x, (f x).evs = x.evs ∧ (f x).nt = x.nt) : Untouched s (s.modDom d f) := by
  refine ⟨rfl, rfl, fun _ => rfl, fun e => ?_, fun e => ?_⟩ <;> rw [modDom_domN] <;> split
  · next h => rw [(hf _).1, h.1]
  · rfl
  · next h => rw [(hf _).2, h.1]
  · rfl

/-- A change of a cluster that leaves its floor. -/
theorem modCl_untouched (n : Nat) (f : Cluster → Cluster) (hf : ∀ c, (f c).floor = c.floor) : Untouched s (s.modCl n f) := by
  refine ⟨rfl, rfl, fun m => ?_, fun _ => rfl, fun _ => rfl⟩
  rw [modCl_clus]
  split
  · next h => rw [hf, h.1]
  · rfl

theorem detApply_untouched (d : Nat) (g : Sig) : Untouched s (s.detApply d g) := ⟨rfl, rfl, fun _ => rfl, fun _ => rfl, fun _ => rfl⟩

theorem count_untouched (idx sub n : Nat) : Untouched s (s.count idx sub n) := (count_tells s 0 ..).untouched

theorem hazard_untouched (x : Ctx) (kind sub loc other resource : Nat) : Untouched s (s.hazard x kind sub loc other resource) :=
  ⟨rfl, rfl, fun _ => rfl, fun _ => rfl, fun _ => rfl⟩

/-- A signal to a cue or a tally of a cluster reaches that object, the counters, the hazards and the detector (R312, R329-R332). -/
theorem applySig_untouched_of_holder {d t lc : Nat} {g : Sig} (h : g.obj.holder = some lc) : Untouched s (s.applySig d t g) := by
  have cueSet : ∀ (q : State) n m c, Untouched q (q.modCl n fun k => { k with cues := tPut k.cues m c }) := fun q n m c =>
    modCl_untouched q n _ fun _ => rfl
  have tallySet : ∀ (q : State) n m c, Untouched q (q.modCl n fun k => { k with tallies := tPut k.tallies m c }) := fun q n m c =>
    modCl_untouched q n _ fun _ => rfl
  obtain ⟨obj, op, scope, src, last, rel, seg, run, held⟩ := g
  unfold State.applySig
  cases obj with
  | cue n num =>
    dsimp only
    split_ifs
    · exact .trans (.trans (detApply_untouched ..) (cueSet ..)) (count_untouched ..)
    · exact .trans (detApply_untouched ..) (cueSet ..)
    · exact .trans (cueSet ..) (hazard_untouched ..)
  | tally n num =>
    dsimp only
    split_ifs
    · exact .trans (.trans (detApply_untouched ..) (tallySet ..)) (count_untouched ..)
    · exact .trans (detApply_untouched ..) (tallySet ..)
    · exact .trans (tallySet ..) (hazard_untouched ..)
  | mcue num => cases h
  | round k => cases h

/-- A round whose generation is not complete takes no step (R335). -/
theorem roundStep_not_full {d t k : Nat} (h : ((tGet (s.domN d).rounds k).getD {}).full = false) : s.roundStep d t k = s := by
  unfold State.roundStep
  exact if_pos (by rw [h]; rfl)

/-- A round that is put as it stands. -/
theorem round_of_put_same (d k : Nat) (r : Round) (hr : (tGet (s.domN d).rounds k).getD {} = r) :
    (tGet ((s.modDom d fun x => { x with rounds := tPut x.rounds k r }).domN d).rounds k).getD {} = r := by
  rw [modDom_domN]
  split
  · simp [tGet_tPut]
  · exact hr

/-- A completion that applies in a domain reaches its object, the counters, the hazards and the detector (R312, R329). -/
theorem applySig_bulk_untouched {d t : Nat} {g : Sig} (hop : g.op = .bulk) : Untouched s (s.applySig d t g) := by
  cases h : g.obj with
  | cue lc num => exact applySig_untouched_of_holder s (lc := lc) (by rw [h]; rfl)
  | tally lc num => exact applySig_untouched_of_holder s (lc := lc) (by rw [h]; rfl)
  | mcue num =>
    rw [applySig_mcue s h]
    have put : ∀ c, Untouched s ((s.detApply d g).modDom d fun x => { x with mcues := tPut x.mcues num c }) := fun c =>
      (detApply_untouched s d g).trans (modDom_untouched _ d _ fun _ => ⟨rfl, rfl⟩)
    dsimp only
    split
    · exact .trans (put _) (count_untouched ..)
    · exact put _
  | round k =>
    rw [applySig_round s h, hop]
    have put : ∀ r, Untouched s ((s.detApply d g).modDom d fun x => { x with rounds := tPut x.rounds k r }) := fun r =>
      (detApply_untouched s d g).trans (modDom_untouched _ d _ fun _ => ⟨rfl, rfl⟩)
    simp only [Round.faults, Round.apply, Bool.false_eq_true, if_false]
    split
    · exact put _
    · next hfull =>
      rw [roundStep_not_full]
      · exact put _
      · exact (congrArg Round.full (round_of_put_same (s.detApply d g) d k _ rfl)).trans (Bool.eq_false_iff.2 hfull)

/-- Where nothing is due in a domain, an untimed completion applies there alone. -/
theorem applyHeld_bulk_untouched {g : Sig} {d : Nat} (hop : g.op = .bulk) (hq : nothingDue s d) : Untouched s (applyHeld g s d) := by
  have quiet : (if (s.domN d).nt = 0 then s else
      s.signals d (if (s.domN d).waited = 0 then (s.domN d).nt - 1 else (s.domN d).nt)
        (if (s.domN d).waited = 0 then (s.domN d).nt - 1 else (s.domN d).nt)) = s := by
    split
    · rfl
    · exact signals_nothingDue s hq (by split <;> omega)
  unfold applyHeld
  dsimp only
  rw [quiet]
  exact applySig_bulk_untouched s hop

/-- Where nothing is due in any domain, an untimed completion leaves bank memory, the floors and the intake unit (R307, R406). -/
theorem applyUntimed_bulk_untouched {g : Sig} (hop : g.op = .bulk) (hq : ∀ d, nothingDue s d) : Untouched s (s.applyUntimed g) := by
  have each : ∀ (l : List Nat) (t : State), Untouched s t → Untouched s (l.foldl (applyHeld g) t) := by
    intro l
    induction l with
    | nil => exact fun t h => h
    | cons d l ih => exact fun t h => ih _ (h.trans (applyHeld_bulk_untouched t hop (h.nothingDue (hq d))))
  cases h : g.obj.holder with
  | some lc =>
    rw [applyUntimed_held s h]
    exact applyHeld_bulk_untouched s hop (hq _)
  | none =>
    rw [applyUntimed_module s h]
    exact each _ s (.refl s)

end

/-! ## The end of a command of the intake unit (R406, R509, R529) -/

/-- The intake unit without the command that ran. -/
def isuFreed (s : State) : State := { s with isu := { s.isu with busy := none, tell := [] } }

/-- The signal that ends a command of the intake unit at its completion cue (R406). -/
def isuSignal (s : State) (x : Ctx) (q : Done) : Sig :=
  { obj := q.obj, op := .bulk, scope := q.scope, src := 51, last := { module := s.moduleId, loc := locIsu, step := x.step, op := 6 } }

/-- The completion of a command of the intake unit at its cue, where it names one. -/
def isuSignalled (s : State) (x : Ctx) (j : IsJob) : State :=
  j.done.elim (isuFreed s) fun q => (isuFreed s).applyUntimed (isuSignal (isuFreed s) x q)

/-- The EGRESS events of a command that has ended (R529). -/
def tellAll (s : State) (l : List (Nat × Nat × Nat)) : State := l.foldl (fun (s : State) e => s.hostEvent e.1 4 e.2.1 e.2.2 0) s

/-- The intake slot is free from a step stamp on and takes its next command (R400, R509). -/
def slotFreed (s : State) (t : Nat) : State := (s.setUnit 0 uIntake fun v => { v with free := t }).schedUnit 0 uIntake

theorem isuComplete_idle {s : State} (h : s.isu.busy = none) : s.isuComplete = s := by
  unfold State.isuComplete
  simp [h]

theorem isuComplete_busy {s : State} {x : Ctx} {j : IsJob} (h : s.isu.busy = some (x, j)) :
    s.isuComplete = slotFreed (tellAll (isuSignalled s x j) s.isu.tell) (s.domN 8).nt := by
  have done : s.isuDone = tellAll (isuSignalled s x j) s.isu.tell := by
    unfold State.isuDone isuSignalled
    rw [h]
    dsimp only
    cases j.done <;> rfl
  unfold State.isuComplete
  rw [if_neg (by simp [h]), done]
  rfl

section
variable (s : State)

theorem tellAll_untouched (l : List (Nat × Nat × Nat)) : Untouched s (tellAll s l) := by
  unfold tellAll
  induction l generalizing s with
  | nil => exact .refl s
  | cons e l ih => exact (hostEvent_tells s ..).untouched.trans (ih _)

theorem tellAll_dom (l : List (Nat × Nat × Nat)) : (tellAll s l).dom = s.dom := foldl_dom s _ (fun t _ => (hostEvent_tells t ..).dom) l

theorem slotFreed_store (t : Nat) : (slotFreed s t).isu = s.isu ∧ (slotFreed s t).bank = s.bank ∧ (slotFreed s t).cl = s.cl := by
  unfold slotFreed State.schedUnit
  dsimp only
  split
  · exact ⟨rfl, rfl, rfl⟩
  · split <;> exact ⟨rfl, rfl, rfl⟩

theorem slotFreed_sameCues (t : Nat) : SameCues s (slotFreed s t) := by
  have dropped : ∀ q : State, SameCues q (q.dropEvs (8 + 0) (·.k == .unitStart 0 uIntake)) := fun q => modDom_sameCues q _ _ fun _ => rfl
  have freed : SameCues s (s.setUnit 0 uIntake fun v => { v with free := t }) := sameCues_of_dom rfl
  unfold slotFreed State.schedUnit
  dsimp only
  split
  · exact freed.trans (dropped _)
  · split
    · exact (freed.trans (dropped _)).trans (post_sameCues ..)
    · exact freed.trans (dropped _)

/-- A command of the intake unit that ends leaves what its start has done (R509; log 55), where no cue is set or nothing else is due. -/
theorem isuComplete_store {x : Ctx} {j : IsJob} (h : s.isu.busy = some (x, j))
    (hq : j.done = none ∨ ∀ d, d < 10 → nothingDue s d) :
    s.isuComplete.isu = { s.isu with busy := none, tell := [] } ∧ s.isuComplete.bank = s.bank
      ∧ ∀ n, (s.isuComplete.clus n).floor = (s.clus n).floor := by
  have signalled : Untouched (isuFreed s) (isuSignalled s x j) := by
    unfold isuSignalled
    cases hj : j.done with
    | none => exact .refl _
    | some q =>
      refine applyUntimed_bulk_untouched _ rfl fun d => ?_
      by_cases hd : d < 10
      · exact hq.resolve_left (by simp [hj]) d hd
      · intro e he
        simp [State.domN, hd] at he
  have told := signalled.trans (tellAll_untouched _ s.isu.tell)
  obtain ⟨hisu, hbank, hcl⟩ := slotFreed_store (tellAll (isuSignalled s x j) s.isu.tell) (s.domN 8).nt
  rw [isuComplete_busy h]
  refine ⟨hisu.trans told.isu, hbank.trans told.bank, fun n => Eq.trans ?_ (told.floor n)⟩
  simp only [State.clus, hcl]

/-- A command of the intake unit that ends sets its module cue in every replica (R406). -/
theorem isuComplete_sets {x : Ctx} {j : IsJob} {q : Done} {num d : Nat} (h : s.isu.busy = some (x, j)) (hj : j.done = some q)
    (hobj : q.obj = .mcue num) (hd : d < 10) : ((tGet (s.isuComplete.domN d).mcues num).getD {}).set = true := by
  have kept : SameCues (isuSignalled s x j) s.isuComplete := by
    rw [isuComplete_busy h]
    exact (sameCues_of_dom (tellAll_dom ..)).trans (slotFreed_sameCues ..)
  rw [kept.mcues d, isuSignalled, hj]
  exact applyUntimed_bulk_sets _ hobj rfl hd

end

/-! ## The rows of the host port -/

section
variable (s : State)

theorem exec_doorbellApply : exec .doorbellApply s = .next (s.after s.applyBell) := rfl

theorem exec_isuComplete : exec .isuComplete s = .next (s.after s.isuComplete) := rfl

/-- The state of a port that has lost PERST_N (R615). -/
theorem exec_perstN_low :
    exec (.perstN false) s = .next (s.after { s with pow := { s.pow with perst := false, trained := false }, port := {} }) := rfl

theorem exec_perstN_high (h : s.pow.perst = true) : exec (.perstN true) s = .next s := by
  show commit s (if s.pow.perst then s else _) = _
  rw [if_pos h, commit_eq]
  rfl

/-- PERST_N rises: with power the port trains (R670). -/
theorem exec_perstN_rise (h : s.pow.perst = false) : exec (.perstN true) s =
    .next (s.after (if s.pow.on then State.trainPort { s with pow := { s.pow with perst := true } }
      else { s with pow := { s.pow with perst := true } })) := by
  show commit s (if s.pow.perst then s else _) = _
  rw [if_neg (by simp [h]), commit_eq]

theorem exec_configurationRequest_down (h : s.portUp = false) (r : Option (Bool × Fin 7)) : exec (.configurationRequest r) s = .next s := by
  show commit s (if !s.portUp then s else _) = _
  rw [if_pos (by simp [h]), commit_eq]
  rfl

/-- Until the firmware runs, a configuration request is to be retried (R540, R670). -/
theorem exec_configurationRequest_retry (h : s.portUp = true) (hs : s.served = false) (r : Option (Bool × Fin 7)) :
    exec (.configurationRequest r) s = .next (s.after (s.complete .retryLater)) := by
  show commit s (if !s.portUp then s else if !s.served then s.complete .retryLater else _) = _
  rw [if_neg (by simp [h]), if_pos (by simp [hs]), commit_eq]

theorem exec_configurationRequest_none (h : s.portUp = true) (hs : s.served = true) :
    exec (.configurationRequest none) s = .next (s.after (s.complete .written)) := by
  show commit s (if !s.portUp then s else if !s.served then _ else s.complete .written) = _
  rw [if_neg (by simp [h]), if_neg (by simp [hs]), commit_eq]

theorem exec_configurationRequest_resize (h : s.portUp = true) (hs : s.served = true) (vf : Bool) (k : Fin 7) :
    exec (.configurationRequest (some (vf, k))) s = .next (s.after { s with port := resizedPort s vf k }) := by
  show commit s (if !s.portUp then s else if !s.served then _ else (s.resizeBar vf k).complete .written) = _
  rw [if_neg (by simp [h]), if_neg (by simp [hs]), resizeBar_complete, commit_eq]

/-- The page of a function whose BAR2 takes a size keeps all but its window base, which is cut to a multiple of the size (R516, R526). -/
theorem fits_spec (g : HostFn) (n : Nat) : g.fits n = { g with window := (g.fits n).window } ∧ (g.fits n).window.toNat % 2 ^ n = 0
    ∧ (g.fits n).window.toNat ≤ g.window.toNat ∧ g.window.toNat - (g.fits n).window.toNat < 2 ^ n := by
  have hpos : 0 < 2 ^ n := Nat.two_pow_pos n
  have hmod := Nat.mod_lt g.window.toNat hpos
  have hdiv := Nat.div_add_mod' g.window.toNat (2 ^ n)
  rw [fits_window]
  exact ⟨rfl, Nat.mul_mod_left .., by omega, by omega⟩

end

/-! ## The obligation -/

/-- Settles O52, row by row. The completion of the intake unit rests on what the signal of its cue leaves: signals that are due before it in a domain
may end an invocation, but never change the replica of a module cue in another domain. -/
theorem hostService : Obligations.HostService := by
  refine ⟨fun s fn => ⟨mbxDone_not_served s fn, fun bells rest hp hs hc hm => ?_⟩, fun s => ⟨fun h => ?_, fun b rest h => ?_⟩,
    fun s => ⟨fun h => ?_, fun x j h => ?_⟩, fun s => ⟨⟨_, exec_perstN_low s, rfl⟩, exec_perstN_high s, fun h hon => ?_, fun h hon => ?_,
      exec_configurationRequest_down s, fun h r hr => ?_, fun h hs vf k => ?_⟩⟩
  · -- MBX_DONE
    have done : exec (.mbxDone fn) s = .next (s.after _) := (mbxDone_served hp hs hc hm).trans (by rw [mbxDone_cons hm])
    obtain ⟨hmail, hbusy, hdone, hrsp, hlen, hdict, hcl, hrt, hpages⟩ := answered_request s fn rest
    refine ⟨fun hr => ⟨_, done, ?_⟩, ⟨_, done, hmail, hbusy, hdone, hrsp, hdict, hcl, hrt⟩⟩
    rw [show (answerTo s fn rest).2.2 = none from hr]
    exact ⟨hmail, hbusy, hdone, hrsp, hlen, hpages⟩
  · -- no doorbell waits
    rw [exec_doorbellApply, applyBell_nil h]
    rfl
  · -- the first doorbell
    refine ⟨_, exec_doorbellApply s, ?_⟩
    cases hb : s.bellOk b with
    | true =>
      rw [applyBell_ok h hb]
      exact ⟨rfl, fun _ => ⟨base_setBase .., rfl, rfl⟩, fun hf => absurd hf (by simp)⟩
    | false =>
      rw [applyBell_ignored h hb]
      refine ⟨rfl, fun ht => absurd ht (by simp), fun _ => ⟨rfl, fun hf => ?_, counter_count _ 0x9009 3 1⟩⟩
      show (State.fn (State.modFn _ b.fn _) b.fn).err = _
      rw [modFn_fn, if_pos ⟨rfl, hf⟩]
      rfl
  · -- no command of the intake unit runs
    rw [exec_isuComplete, isuComplete_idle h]
    rfl
  · -- the command of the intake unit
    exact ⟨_, exec_isuComplete s, fun hq => isuComplete_store s h hq, fun q num hj hobj d hd => isuComplete_sets s h hj hobj hd⟩
  · -- PERST_N rises without power
    rw [exec_perstN_rise s h, if_neg (by simp [hon])]
  · -- PERST_N rises with power
    refine ⟨_, exec_perstN_rise s h, ?_⟩
    rw [if_pos hon]
    exact trainPort_spec _
  · -- a configuration request that writes no size
    cases hs : s.served with
    | false => exact exec_configurationRequest_retry s h hs r
    | true =>
      rw [hr.resolve_right (by simp [hs])]
      exact exec_configurationRequest_none s h hs
  · -- a configuration request that writes a size
    have other : ∀ f : Fin 64, (f != 0) = !decide (f = 0) := fun f => by rw [bne, beq_eq_decide]
    refine ⟨_, exec_configurationRequest_resize s h hs vf k, rfl, rfl, fun f => ⟨fun hf => ?_, fun hf => ?_⟩⟩
    · exact (resizedPort_fn s vf k f).trans (if_neg (by rw [other, hf]; exact Bool.not_ne_self _))
    · rw [(resizedPort_fn s vf k f).trans (if_pos (by rw [other, hf, decide_not]))]
      exact fits_spec (s.fn f) (30 + k)

end Sys2Proof.Proofs.HostService
end

section
/-! The proof of O37: every row of the table commits, so a step takes one command and leaves the grade and the fuse map; and what a legal fuse map says
of the logical numbers. -/

namespace Sys2Proof.Proofs.Part

open Sys2Proof Sys2Proof.Machine Sys2Proof.Laws

/-! ## Steps (R3, R27; log 1) -/

/-- Every row of the table answers by a commit, whatever it does to the rest of the state. -/
theorem exec_commit (i : Instr) (s : State) : ∃ t, exec i s = commit s t := by
  cases i <;> exact ⟨_, rfl⟩

/-- A step answers a next state and takes the command at the front of the queue; the part stays as it is. -/
theorem step_next (s : State) :
    ∃ t, step s = .next t ∧ t.pending = s.pending.tail ∧ t.grade = s.grade ∧ t.fused = s.fused := by
  unfold step
  split
  · next h => exact ⟨s, rfl, by rw [h]; rfl, rfl, rfl⟩
  · next c cs h =>
    obtain ⟨t, ht⟩ := exec_commit c { s with pending := cs }
    exact ⟨_, ht.trans (commit_eq _ t), by rw [h]; rfl, rfl, rfl⟩

/-- Soundness of the part is a matter of its grade and its fuse map. -/
theorem sound_congr {s t : State} (hg : t.grade = s.grade) (hf : t.fused = s.fused) : t.sound = s.sound := by
  simp only [State.sound, hg, hf]

/-! ## Fused clusters (R27) -/

/-- What R27 says of a fuse map: distinct physical indices, two in a region at most, as many on each die as the grade has fused. -/
structure FuseMap (perDie : Nat) (fused : List Nat) : Prop where
  bound : ∀ p ∈ fused, p < 48
  nodup : fused.Nodup
  region : ∀ r, r < 8 → (fused.filter fun p => p / 6 == r).length ≤ 2
  die : ∀ d, d < 2 → (fused.filter fun p => p / 24 == d).length = perDie

theorem fuseMap_of_legal {g : BitVec 8} {fused : List Nat} (h : fuseMapLegal g fused = true) : FuseMap (fusedPerDie g.toNat) fused := by
  simp only [fuseMapLegal, Bool.and_eq_true, List.all_eq_true, decide_eq_true_eq, List.mem_range, beq_iff_eq] at h
  obtain ⟨⟨⟨bound, nodup⟩, region⟩, die⟩ := h
  exact ⟨bound, nodup, region, die⟩

/-- Fused clusters of a legal grade per die, by its grade code. -/
theorem fusedPerDie_of_legal {g : BitVec 8} (h : gradeLegal g = true) :
    fusedPerDie g.toNat = if g = 1 then 0 else if g = 2 then 2 else 4 := by
  simp only [gradeLegal, Bool.or_eq_true, beq_iff_eq] at h
  obtain (rfl | rfl) | rfl := h <;> rfl

section
variable {perDie : Nat} {fused : List Nat} (h : FuseMap perDie fused)
include h

/-- To go through the physical indices and keep the fused ones is to go through the fuse map. -/
theorem FuseMap.count_fused (c : Nat → Bool) : ((List.range 48).filter fun p => fused.contains p && c p).length = (fused.filter c).length := by
  refine List.Perm.length_eq ((List.perm_ext_iff_of_nodup (List.nodup_range.filter _) (h.nodup.filter _)).2 fun p => ?_)
  have := h.bound p
  simp only [List.mem_filter, List.mem_range, Bool.and_eq_true, List.contains_iff_mem]
  tauto

/-- Half of the fused clusters lie on each die. -/
theorem FuseMap.length_eq : fused.length = 2 * perDie := by
  have other : (fused.filter fun p => !(p / 24 == 0)) = fused.filter fun p => p / 24 == 1 :=
    List.filter_congr fun p hp => by
      have := h.bound p hp
      rw [Bool.eq_iff_iff]
      simp only [Bool.not_eq_true', beq_eq_false_iff_ne, beq_iff_eq]
      omega
  have split := List.length_eq_length_filter_add (l := fused) fun p => p / 24 == 0
  rw [other, h.die 0 (by omega), h.die 1 (by omega)] at split
  omega

/-- The clusters that are not fused, among the 48. -/
theorem FuseMap.length_unfused : ((List.range 48).filter fun p => !fused.contains p).length = 48 - 2 * perDie := by
  have split := List.length_eq_length_filter_add (l := List.range 48) fun p => fused.contains p
  have count := h.count_fused fun _ => true
  simp only [Bool.and_true, List.filter_true, List.length_range, h.length_eq] at split count
  omega

end

/-! ## Logical numbers (R28) -/

section
variable (s : State)

/-- The physical indices of the logical clusters, in the order of their numbers. -/
def unfused : List Nat := (List.range 48).filter fun p => !s.fused.contains p

theorem mem_unfused (p : Nat) : p ∈ unfused s ↔ p < 48 ∧ s.fused.contains p = false := by
  simp only [unfused, List.mem_filter, List.mem_range, Bool.not_eq_true']

theorem lcMax_eq_length : s.lcMax = (unfused s).length := rfl

variable {s}

theorem phys_eq_getElem {n : Nat} (h : n < s.lcMax) : s.phys n = (unfused s)[n]'h :=
  congrArg (·.getD 48) (List.getElem?_eq_getElem (l := unfused s) h)

/-- A logical cluster is one that is not fused. -/
theorem phys_unfused {n : Nat} (h : n < s.lcMax) : s.phys n < 48 ∧ s.fused.contains (s.phys n) = false := by
  rw [← mem_unfused, phys_eq_getElem h]
  exact List.getElem_mem h

/-- Logical numbers rise with the physical index. -/
theorem phys_lt_phys {m n : Nat} (hn : n < s.lcMax) (h : m < n) : s.phys m < s.phys n := by
  have hm := Nat.lt_trans h hn
  rw [phys_eq_getElem hm, phys_eq_getElem hn]
  exact List.pairwise_iff_getElem.1 (List.pairwise_lt_range.filter _) m n hm hn h

/-- Each cluster that is not fused has a logical number. -/
theorem exists_phys_eq {p : Nat} (hp : p < 48) (hf : s.fused.contains p = false) : ∃ n, n < s.lcMax ∧ s.phys n = p := by
  obtain ⟨n, hn, rfl⟩ := List.mem_iff_getElem.1 ((mem_unfused s p).2 ⟨hp, hf⟩)
  exact ⟨n, hn, phys_eq_getElem hn⟩

/-- Logical clusters that a grade offers (R3). -/
theorem lcMax_of_fuseMap {g : BitVec 8} (hg : gradeLegal g = true) (h : FuseMap (fusedPerDie g.toNat) s.fused) :
    s.lcMax = if g = 1 then 48 else if g = 2 then 44 else 40 := by
  rw [State.lcMax, h.length_unfused, fusedPerDie_of_legal hg]
  split_ifs <;> rfl

end

/-! ## The obligation -/

/-- Settles O37: a step leaves the grade and the fuse map (`step_next`), so what a legal fuse map says of the logical numbers holds after it. -/
theorem partKept : Obligations.PartKept := by
  intro s hs
  obtain ⟨t, ht, hpending, hgrade, hfused⟩ := step_next s
  have sound : t.sound = true := (sound_congr hgrade hfused).trans hs
  obtain ⟨legal, map⟩ := Bool.and_eq_true_iff.1 sound
  have fuse := fuseMap_of_legal map
  refine ⟨t, ht, sound, hpending, hgrade, hfused, ⟨fun d hd => ?_, fun r hr => ?_, lcMax_of_fuseMap legal fuse⟩, fun n hn => ?_, fun p => exists_phys_eq⟩
  · exact (fuse.count_fused _).trans ((fuse.die d hd).trans (fusedPerDie_of_legal legal))
  · exact (fuse.count_fused _).trans_le (fuse.region r hr)
  · obtain ⟨hp, hf⟩ := phys_unfused hn
    exact ⟨hp, hf, fun m => phys_lt_phys hn⟩

end Sys2Proof.Proofs.Part
end

section
/-! The refutations of O29 and O60. Both promise that the record of a fault stands in the error log after the abort that it brings. An abort also records
the discrepancies that are due (R591), and the error log keeps the 16,384 records that came last (R640): where 16,384 discrepancies are due, their
events push the record of the fault out. So many gather where a hold keeps a bar open, since each change of COMMANDED back and forth at a cluster that is
fenced by DISABLE notes one more (R588, R591). The premise `aloneIn` looks at the records that stand in the log, and at none that are due. -/

namespace Sys2Proof.Proofs.CrowdedLog

open Sys2Proof Sys2Proof.Machine Sys2Proof.Laws Sys2Proof.Proofs.HostService

/-! ## The error log after many events (R591, R640) -/

section
variable (s : State)

@[simp] theorem hostEvent_errs (f kind source d0 d1 : Nat) : (s.hostEvent f kind source d0 d1).errs = s.errs := by
  unfold State.hostEvent
  dsimp only
  split_ifs <;> rfl

@[simp] theorem hostEvent_due (f kind source d0 d1 : Nat) : (s.hostEvent f kind source d0 d1).discrepancyDue = s.discrepancyDue := by
  unfold State.hostEvent
  dsimp only
  split_ifs <;> rfl

/-- An event enters the log before all others, and the oldest record leaves a full log. -/
theorem event_errs (cause loc : Nat) (detail : Bytes) :
    ∃ r : ErrRec, r.cls = 0 ∧ (s.event cause loc detail).errs = (r :: s.errs).take 16384 :=
  ⟨_, rfl, hostEvent_errs ..⟩

/-- A discrepancy that has begun is recorded and counted (R591). -/
def recordDiscrepancy (s : State) (e : Nat × Bytes) : State :=
  let t := (s.event 0x82 (s.locLc e.1 0 0) e.2).count 0x900A 1 1
  { t with discrepancies := vmod t.discrepancies e.1 (· + 1) }

theorem discrepancies1_eq : s.discrepancies1 =
    { s.noteDiscrepancies.discrepancyDue.foldl recordDiscrepancy s.noteDiscrepancies with discrepancyDue := [] } := rfl

theorem recordDiscrepancy_errs (e : Nat × Bytes) :
    ∃ r : ErrRec, r.cls = 0 ∧ (recordDiscrepancy s e).errs = (r :: s.errs).take 16384 := event_errs s ..

/-- The last records are the events of the discrepancies that have been recorded. -/
theorem recordDiscrepancy_latest (l : List (Nat × Bytes)) (i : Nat) (r : ErrRec) (hi : i < l.length)
    (hr : (l.foldl recordDiscrepancy s).errs[i]? = some r) : r.cls = 0 := by
  induction l using List.reverseRecOn generalizing i r with
  | nil => simp at hi
  | append_singleton l e ih =>
    obtain ⟨q, hq, errs⟩ := recordDiscrepancy_errs (l.foldl recordDiscrepancy s) e
    rw [List.foldl_append, List.foldl_cons, List.foldl_nil, errs] at hr
    have hr : (q :: (l.foldl recordDiscrepancy s).errs)[i]? = some r := by
      rw [List.getElem?_take] at hr
      exact (ite_eq_iff.1 hr).elim And.right fun h => absurd h.2 (by simp)
    cases i with
    | zero => exact Option.some.inj hr ▸ hq
    | succ i => exact ih i r (by simpa using hi) hr

/-- Once 16,384 discrepancies have been recorded, the log holds nothing else. -/
theorem recordDiscrepancy_fill (l : List (Nat × Bytes)) (h : 16384 ≤ l.length) : ∀ r ∈ (l.foldl recordDiscrepancy s).errs, r.cls = 0 := by
  intro r hr
  obtain ⟨i, hi, rfl⟩ := List.mem_iff_getElem.1 hr
  refine recordDiscrepancy_latest s l i _ (Nat.lt_of_lt_of_le hi ?_) (List.getElem?_eq_getElem hi)
  obtain rfl | ⟨l, e, rfl⟩ := List.eq_nil_or_concat l
  · simp at h
  · obtain ⟨q, -, errs⟩ := recordDiscrepancy_errs (l.foldl recordDiscrepancy s) e
    rw [List.concat_eq_append, List.foldl_append, List.foldl_cons, List.foldl_nil, errs]
    exact (List.length_take_le ..).trans (List.concat_eq_append ▸ h)

theorem noteDiscrepancies_due : s.discrepancyDue.length ≤ s.noteDiscrepancies.discrepancyDue.length :=
  (List.length_append (as := s.discrepancyDue)).symm ▸ Nat.le_add_right ..

theorem discrepancies1_fill (h : 16384 ≤ s.discrepancyDue.length) : ∀ r ∈ s.discrepancies1.errs, r.cls = 0 := by
  rw [discrepancies1_eq]
  exact recordDiscrepancy_fill s.noteDiscrepancies _ (h.trans (noteDiscrepancies_due s))

end

/-! ## Aborts where many discrepancies are due (R636, R637) -/

/-- A routine runs in a module that stands in hold, 16,384 discrepancies are due, and no page of bank memory belongs to a key domain. -/
structure Crowded (s : State) : Prop where
  running : s.running = true
  frozen : s.frozen = true
  due : 16384 ≤ s.discrepancyDue.length
  pages : ∀ a, s.pageDomain a = none

/-- From `s` to `t` nothing has come that bears on an abort: the routine, the stops and the dictionary are as before, and what was due is due. -/
structure Bystands (s t : State) : Prop where
  rt : t.rt = s.rt
  stopped : ∀ d, (t.domN d).stopped = (s.domN d).stopped
  dict : t.dict = s.dict
  due : s.discrepancyDue.length ≤ t.discrepancyDue.length

theorem Bystands.refl (s : State) : Bystands s s := ⟨rfl, fun _ => rfl, rfl, Nat.le_refl _⟩

theorem Bystands.trans {s t u : State} (h : Bystands s t) (k : Bystands t u) : Bystands s u :=
  ⟨k.rt.trans h.rt, fun d => (k.stopped d).trans (h.stopped d), k.dict.trans h.dict, h.due.trans k.due⟩

/-- A further step that is taken where a condition holds. -/
theorem Bystands.ifThen {s t u : State} {c : Prop} [Decidable c] (h : Bystands s t) (k : Bystands t u) : Bystands s (if c then u else t) := by
  split
  · exact h.trans k
  · exact h

/-- A further step that is taken where a condition fails. -/
theorem Bystands.ifElse {s t u : State} {c : Prop} [Decidable c] (h : Bystands s t) (k : Bystands t u) : Bystands s (if c then t else u) := by
  split
  · exact h
  · exact h.trans k

/-- A change of other fields than these. -/
theorem bystands_of_fields {s t : State} (rt : t.rt = s.rt) (dom : t.dom = s.dom) (dict : t.dict = s.dict)
    (due : t.discrepancyDue = s.discrepancyDue) : Bystands s t :=
  ⟨rt, fun d => by simp only [State.domN, dom], dict, Nat.le_of_eq (congrArg List.length due.symm)⟩

theorem frozen_iff (s : State) : s.frozen = true ↔ ∀ d, d < 10 → (s.domN d).stopped = true := by
  simp only [State.frozen, List.all_eq_true, Vector.mem_toList_iff, Vector.mem_iff_getElem, State.domN]
  constructor
  · intro h d hd
    rw [dif_pos hd]
    exact h _ ⟨d, hd, rfl⟩
  · rintro h _ ⟨d, hd, rfl⟩
    have := h d hd
    rwa [dif_pos hd] at this

theorem Crowded.bystands {s t : State} (h : Crowded s) (k : Bystands s t) : Crowded t where
  running := by rw [State.running, k.rt]; exact h.running
  frozen := (frozen_iff t).2 fun d hd => (k.stopped d).trans ((frozen_iff s).1 h.frozen d hd)
  due := h.due.trans k.due
  pages a := by simp only [State.pageDomain, State.base, k.dict]; exact h.pages a

section
variable (s : State)

theorem modCl_bystands (n : Nat) (f : Cluster → Cluster) : Bystands s (s.modCl n f) := bystands_of_fields rfl rfl rfl rfl

theorem modDom_bystands (d : Nat) (f : Dom → Dom) (hf : ∀ x, (f x).stopped = x.stopped) : Bystands s (s.modDom d f) := by
  refine ⟨rfl, fun e => ?_, rfl, Nat.le_refl _⟩
  rw [modDom_domN]
  split
  · next h => rw [hf, h.1]
  · rfl

theorem modDoms_bystands (f : Dom → Dom) (hf : ∀ x, (f x).stopped = x.stopped) : Bystands s (s.modDoms f) := by
  refine ⟨rfl, fun e => ?_, rfl, Nat.le_refl _⟩
  unfold State.domN State.modDoms
  split
  · simp only [Vector.getElem_map, hf]
  · rfl

theorem hostEvent_bystands (f kind source d0 d1 : Nat) : Bystands s (s.hostEvent f kind source d0 d1) :=
  have told := hostEvent_tells s f kind source d0 d1
  bystands_of_fields told.rt told.dom (hostEvent_dict ..) (hostEvent_due ..)

theorem errLog_bystands (cls cause loc : Nat) (x : Ctx) (other : Nat) (detail : Bytes) : Bystands s (s.errLog cls cause loc x other detail) := by
  unfold State.errLog
  exact .ifThen (bystands_of_fields rfl rfl rfl rfl) (hostEvent_bystands ..)

theorem faultLog_bystands (cls cause loc : Nat) (x : Ctx) (other : Nat) (detail : Bytes) : Bystands s (s.faultLog cls cause loc x other detail) := by
  have logged := errLog_bystands s cls cause loc x other detail
  unfold State.faultLog
  dsimp only
  split
  · split
    · exact logged.trans (bystands_of_fields rfl rfl rfl rfl)
    · exact logged
  · exact logged

theorem stopSnap_bystands (warm : Bool) : Bystands s (s.stopSnap warm) := by
  unfold State.stopSnap
  split_ifs <;> exact bystands_of_fields rfl rfl rfl rfl

theorem noteDiscrepancies_bystands : Bystands s s.noteDiscrepancies := ⟨rfl, fun _ => rfl, rfl, noteDiscrepancies_due s⟩

theorem fence_bystands (n cause : Nat) : Bystands s (s.fence n cause) := by
  unfold State.fence
  refine .trans (.trans (.trans ?noted (modCl_bystands _ n _)) (modDoms_bystands _ _ ?gates)) (modDom_bystands _ _ _ ?evs)
  case gates => exact fun _ => rfl
  case evs => exact fun _ => rfl
  case noted => exact .ifThen (.ifElse (.refl s) (bystands_of_fields rfl rfl rfl rfl)) (noteDiscrepancies_bystands _)

/-- Where no page belongs to a key domain, the record of a bar goes nowhere, and what is due stays due (R644). -/
theorem closeBar_due (bar : Nat) (aborted : Bool) (h : ∀ a, s.pageDomain a = none) :
    (s.closeBar bar aborted).discrepancyDue = s.discrepancyDue := by
  unfold State.closeBar State.barRecord
  dsimp only
  rw [if_neg (by simp [h])]

theorem reportFault_due (cls bar : Nat) : (s.reportFault cls bar).discrepancyDue = s.discrepancyDue := by
  unfold State.reportFault State.holdLinks
  dsimp only
  split <;> rfl

variable {s}

/-- After an abort with many discrepancies due, the log holds events alone (R591, R637). -/
theorem abort_fill (h : Crowded s) (cls bar loc : Nat) : ∀ r ∈ (s.abort cls bar loc).errs, r.cls = 0 := by
  have recorded : ∀ t : State, t.discrepancyDue = s.discrepancyDue → t.dict = s.dict →
      ∀ r ∈ ((t.closeBar bar true).reportFault cls bar).discrepancies1.errs, r.cls = 0 := fun t due dict => by
    have pages : ∀ a, t.pageDomain a = none := fun a => by simp only [State.pageDomain, State.base, dict]; exact h.pages a
    refine discrepancies1_fill _ ?_
    rw [reportFault_due, closeBar_due t bar true pages, due]
    exact h.due
  unfold State.abort
  dsimp only
  split
  · rw [hostEvent_errs]
    exact recorded _ rfl rfl
  · exact recorded _ rfl rfl

/-- A unit fault in a module that stands in hold ends the invocation at once (R635). -/
theorem unitFault_fill (h : Crowded s) (n cause loc : Nat) (x : Ctx) (other : Nat) (detail : Bytes) :
    ∀ r ∈ (s.unitFault n cause loc x other detail).errs, r.cls = 0 := by
  have fenced := h.bystands (.trans (.trans (faultLog_bystands s 3 cause loc x other detail) (stopSnap_bystands _ false)) (fence_bystands _ n 5))
  unfold State.unitFault State.abortAtBar
  dsimp only
  rw [if_neg (by simp [fenced.running]), if_pos fenced.frozen]
  exact abort_fill fenced _ _ _

/-- An ensemble fault ends the invocation at once (R636). -/
theorem ensembleFault_fill (h : Crowded s) (cause loc : Nat) (detail : Bytes) : ∀ r ∈ (s.ensembleFault cause loc detail).errs, r.cls = 0 := by
  have logged := h.bystands (.trans (faultLog_bystands s 5 cause loc s.nowCtx loc detail) (stopSnap_bystands _ false))
  unfold State.ensembleFault
  dsimp only
  rw [if_pos logged.running]
  exact abort_fill logged _ _ _

/-- A FINAL write that has been held too long (R326): the log keeps no record of its fault. -/
theorem finalTimeout_fill (h : Crowded s) {n tid : Nat} {q : Held} (held : tGet (s.clus n).slots tid = some q)
    (old : q.since + 4096 ≤ s.beat.boundaries) : ∀ r ∈ (s.finalTimeout n tid).errs, r.cls = 0 := by
  have taken := h.bystands (modCl_bystands s n fun c => { c with slots := tDel c.slots tid })
  unfold State.finalTimeout
  rw [held]
  dsimp only
  rw [if_pos old]
  exact unitFault_fill taken _ _ _ _ _ _

/-- The module once the loss of REF100 has been found an ensemble fault, while beat lock stands (R20, R671). -/
def refLost (s : State) : State :=
  State.ensembleFault { s with pow := { s.pow with ref100 := false } } 0x0B (locDie 0 7 0) (leBytes 16 s.beat.frame.toNat)

theorem exec_ref100Loss (on : s.pow.on = true) : exec .ref100Loss s = .next (s.after (refLost s).unlockBeat) :=
  congrArg (commit s) (if_neg (by simp [on]))

@[simp] theorem unlockBeat_errs : s.unlockBeat.errs = s.errs := rfl

/-- The log keeps no record of the loss of REF100. -/
theorem refLost_fill (h : Crowded s) : ∀ r ∈ (refLost s).unlockBeat.errs, r.cls = 0 := by
  have lost : Crowded { s with pow := { s.pow with ref100 := false } } := h.bystands (bystands_of_fields rfl rfl rfl rfl)
  rw [unlockBeat_errs]
  exact ensembleFault_fill lost 0x0B (locDie 0 7 0) (leBytes 16 s.beat.frame.toNat)

end

/-! ## The counterexample -/

/-- A FINAL write of LC1 that LC0 has held since boundary 0, its TID 0. -/
def finalHeld : Held := { l := { ctx := {}, origin := 1, writes := [], final := some (0, 2), counts := true, id := 0 }, n := 2, since := 0 }

/-- A module that stands in hold at its 4,096th boundary with a FINAL write held, while 16,384 discrepancies of LC1, fenced by DISABLE, are due. -/
def crowded : State :=
  { State.reset with
    rt := { State.reset.rt with runState := 2 }
    dom := Vector.replicate 10 { stopped := true }
    cl := State.reset.cl.set 0 { slots := [(0, finalHeld)] }
    beat := { State.reset.beat with locked := true, inHold := true, boundaries := 4096 }
    actual := [(1, 4)]
    discrepant := [1]
    discrepancyDue := List.replicate 16384 (1, [1, 1, 2, 1]) }

theorem crowded_pages (a : Nat) : crowded.pageDomain a = none := by
  unfold State.pageDomain
  dsimp only
  split
  · rfl
  · exact if_neg (show ¬ 255 < 64 by decide)

theorem crowded_crowded : Crowded crowded where
  running := rfl
  frozen := by decide
  due := Nat.le_of_eq List.length_replicate.symm
  pages := crowded_pages

/-- No record stands in its way, so the record of the next fault is to keep its place. -/
theorem crowded_alone (x : Ctx) : crowded.aloneIn x := .inr ⟨rfl, fun _ hq => absurd hq List.not_mem_nil⟩

/-- What a command leaves in the log is the log of the state that it answers. -/
theorem errs_of_answer {s t u : State} {i : Instr} (ht : exec i s = .next (s.after t)) (hu : exec i s = .next (s.after u)) : t.errs = u.errs := by
  have same : s.after t = s.after u := Host.Outcome.next.inj (ht.symm.trans hu)
  simpa using congrArg State.errs same

/-- Refutes O29: the unit fault of a FINAL write that has been held too long ends an invocation that stands in hold, and the 16,384 discrepancies that
are recorded then push the record of the fault out of the error log. -/
theorem not_scrubFinalAndLandingRegisters : ¬ Obligations.ScrubFinalAndLandingRegisters := by
  intro h
  obtain ⟨-, final, -⟩ := h
  obtain ⟨-, expired⟩ := (final crowded 0 0).2 finalHeld rfl
  obtain ⟨t, ht, -, -, recorded⟩ := expired (Nat.le_refl 4096)
  obtain ⟨r, hr, hcls, -⟩ := recorded (crowded_alone _)
  rw [errs_of_answer ht (commit_eq ..)] at hr
  exact absurd (finalTimeout_fill crowded_crowded rfl (Nat.le_refl 4096) r hr) (by simp [hcls])

/-- Refutes O60: the loss of REF100 ends an invocation, and the 16,384 discrepancies that are recorded then push the record of the ensemble fault out of
the error log. -/
theorem not_powerAndClocks : ¬ Obligations.PowerAndClocks := by
  intro h
  obtain ⟨-, -, -, -, -, -, -, -, -, lost, -⟩ := h crowded 0 0 0 0 0 false
  obtain ⟨t, ht, -, -, -, -, -, recorded⟩ := lost rfl
  obtain ⟨r, hr, -, hcls, -⟩ := recorded (crowded_alone _)
  rw [errs_of_answer ht (exec_ref100Loss rfl)] at hr
  exact absurd (refLost_fill crowded_crowded r hr) (by simp [hcls])

end Sys2Proof.Proofs.CrowdedLog
end

section
/-! The proof of O20: every event row of the table is one and the same act, the row's own effect in its domain, where the grade offers its cluster. -/

namespace Sys2Proof.Proofs.EventRows

open Sys2Proof Sys2Proof.Machine Sys2Proof.Laws

/-! ## The event rows (log 2) -/

/-- Whether the grade offers the cluster of an event row, as the model tests it. -/
def rowOffered (s : State) (r : EventRow) : Bool := r.lc.all fun n => decide (n < s.lcMax)

theorem rowOffered_iff (s : State) (r : EventRow) : rowOffered s r = true ↔ s.offersRow r := by
  unfold rowOffered State.offersRow
  cases r.lc <;> simp

/-- A row of a cluster whose every effect completes it, as the command of that cluster carries it out. -/
theorem fireCl_eq (s : State) (n : Nat) (own : State → EvK → Bool) :
    s.fireCl n (own s) = if rowOffered s (clusterRow n own) then s.fire (s.regionOf n) (own s) (own s) else s := by
  unfold State.fireCl rowOffered clusterRow
  by_cases h : n < s.lcMax
  · simp [h, Nat.not_le.2 h]
  · simp [h, Nat.not_lt.1 h]

/-- What an arrival does: the granule that a stop lets arrive, or else the row's own effect in step time. -/
def arrivalAct (s : State) (n : Nat) : Option Ev → State
  | some e => (s.modDom (s.regionOf n) fun d => { d with evs := d.evs.erase e }).runEv (s.regionOf n) e.t e.k
  | none => s.fireCl n (arrivalAt n)

/-- The arrival of a granule that another cluster sent (R63). -/
theorem exec_granuleArrival (s : State) (n : Fin 48) (k : Nat) : exec (.granuleArrival n true k) s = commit s (
    if s.lcMax ≤ n then s
    else arrivalAct s n (if (s.domN (s.regionOf n)).stopped then (s.domN (s.regionOf n)).evs.find? fun e => arrivalAt n e.k else none)) := rfl

/-- The event row of an arrival. -/
def arrivalRow (n : Nat) : EventRow :=
  { clusterRow n (fun _ => arrivalAt n) with runs := fun s => !(s.domN (s.regionOf n)).stopped }

/-- Outside a stop an arrival is its event row. -/
theorem exec_arrivalRow {s : State} {n : Fin 48} {k : Nat} (hr : rowOffered s (arrivalRow n) = true → (arrivalRow n).runs s = true) :
    exec (.granuleArrival n true k) s
      = commit s (if rowOffered s (arrivalRow n) then s.fire ((arrivalRow n).dom s) ((arrivalRow n).own s) ((arrivalRow n).done s) else s) := by
  rw [exec_granuleArrival]
  by_cases hn : n.val < s.lcMax
  · have going : (s.domN (s.regionOf n)).stopped = false := by simpa [arrivalRow] using hr (by simp [rowOffered, arrivalRow, clusterRow, hn])
    rw [if_neg (Nat.not_le.2 hn), going]
    exact congrArg (commit s) (fireCl_eq s n fun _ => arrivalAt n)
  · have absent : rowOffered s (arrivalRow n) = false := by simp [rowOffered, arrivalRow, clusterRow, hn]
    rw [if_pos (Nat.not_lt.1 hn), absent]
    rfl

/-- What an event row of the table does: where its cluster is offered and it follows step time, its own effect takes place if it is due. -/
theorem exec_eventRow {s : State} {i : Instr} {r : EventRow} (h : eventRowOf i = some r) (hr : rowOffered s r = true → r.runs s = true) :
    exec i s = commit s (if rowOffered s r then s.fire (r.dom s) (r.own s) (r.done s) else s) := by
  have clusterCase : ∀ (n : Nat) (own : State → EvK → Bool), some (clusterRow n own) = some r →
      commit s (s.fireCl n (own s)) = commit s (if rowOffered s r then s.fire (r.dom s) (r.own s) (r.done s) else s) := by
    rintro n own h
    cases h
    rw [fireCl_eq]
    rfl
  have counted : ∀ (n : Nat) (own : State → EvK → Bool) (done : State → EvK → Bool),
      some ({ dom := fun s => s.regionOf n, lc := some n, own, done } : EventRow) = some r →
      commit s (if s.lcMax ≤ n then s else s.fire (s.regionOf n) (own s) (done s))
        = commit s (if rowOffered s r then s.fire (r.dom s) (r.own s) (r.done s) else s) := by
    rintro n own done h
    cases h
    by_cases hn : n < s.lcMax
    · simp [rowOffered, hn, Nat.not_le.2 hn]
    · simp [rowOffered, hn, Nat.not_lt.1 hn]
  cases i with
  | drainDelivery n => exact clusterCase _ _ h
  | figureStart n => exact clusterCase _ _ h
  | figureLanding n => exact clusterCase _ _ h
  | amaxRecordArrival n => exact clusterCase _ _ h
  | remoteWriteLand n => exact clusterCase _ _ h
  | recordLanded n => exact clusterCase _ _ h
  | creditApply n => exact clusterCase _ _ h
  | countResult n => exact counted _ _ _ h
  | rotatePlace n => exact counted _ _ _ h
  | signalApply w =>
    cases w with
    | timed d => cases h; rfl
    | untimed k => cases h
  | granuleArrival n inbound k =>
    cases inbound with
    | false => cases h
    | true =>
      cases h
      exact exec_arrivalRow hr
  | _ => cases h

/-- A command that leaves the state as it is. -/
theorem commit_self (s : State) : commit s s = .next s := rfl

/-! ## The obligation -/

/-- Settles O20: an event row fires its own effect in its domain (`exec_eventRow`), which is the next one due or none (`fire_next`, `fire_none`); an
arrival in a stop goes past step time (`exec_granuleArrival`). -/
theorem eventRowsHappen : Obligations.EventRowsHappen := by
  refine ⟨fun s i r hi => ⟨fun absent => ?_, fun offered runs => ⟨fun none => ?_, fun e next own done => ?_⟩⟩,
    fun s n k hn stopped => ⟨fun none => ?_, fun e found => ?_⟩⟩
  · have hf : rowOffered s r = false := Bool.eq_false_iff.2 (absent ∘ (rowOffered_iff s r).1)
    rw [exec_eventRow hi (by simp [hf]), hf]
    rfl
  · rw [exec_eventRow hi fun _ => runs, if_pos ((rowOffered_iff s r).2 offered), fire_none s _ _ _ none, commit_self]
  · rw [exec_eventRow hi fun _ => runs, if_pos ((rowOffered_iff s r).2 offered), fire_next s _ _ _ e next own done, commit_eq]
  · have idle : s.fireCl n (arrivalAt n) = s := by
      unfold State.fireCl
      rw [if_neg (Nat.not_le.2 hn), fire_none]
      exact fun e he _ => Bool.eq_false_iff.2 (List.find?_eq_none.1 none e he)
    rw [exec_granuleArrival, if_neg (Nat.not_le.2 hn), if_pos stopped, none]
    exact congrArg (commit s) idle
  · rw [exec_granuleArrival, if_neg (Nat.not_le.2 hn), if_pos stopped, found]
    rfl

end Sys2Proof.Proofs.EventRows
end

section
/-! The proof of O36: each numbered part of the module reads, at reset, as its own reset value, whatever its number. -/

namespace Sys2Proof.Proofs.ResetState

open Sys2Proof Sys2Proof.Machine Sys2Proof.Laws

/-! ## The parts of the module at reset (R618) -/

theorem reset_clus (n : Nat) : State.reset.clus n = {} := by
  unfold State.clus State.reset
  split
  · exact Vector.getElem_replicate _
  · rfl

theorem reset_resident (k : Nat) : State.reset.resident k = {} := by
  unfold State.resident State.reset
  split
  · exact Vector.getElem_replicate _
  · rfl

theorem reset_link (l : Nat) : State.reset.link l = {} := by
  unfold State.link State.reset
  split
  · exact Vector.getElem_replicate _
  · rfl

/-- The address registers of a caller at reset read 0 (log 7). -/
theorem reset_reg (r : Nat) : ({} : Caller).reg r = 0 := by
  unfold Caller.reg
  split
  · exact Vector.getElem_replicate _
  · rfl

/-- Of the operand tickets only T0 reads set (R143). -/
theorem reset_ticket (k : Nat) : ({} : Cluster).ticket k = (k == 0) := by
  cases k with
  | zero => rfl
  | succ k =>
    unfold Cluster.ticket
    simp

theorem reset_sound : State.reset.sound = true := by decide

/-- Settles O36: the state at reset gives each field by its definition; soundness is evaluated, and each cluster, set and link reads as its own reset
value. -/
theorem resetState : Obligations.ResetState := by
  refine ⟨rfl, reset_sound, fun n => ?_, rfl, rfl, rfl, rfl, rfl, rfl, rfl, rfl, rfl, rfl, rfl, rfl, rfl,
    fun k => ?_, fun l => ?_, rfl, rfl, rfl, rfl⟩
  · rw [reset_clus]
    exact ⟨rfl, rfl, rfl, rfl, rfl, reset_ticket, reset_reg⟩
  · rw [reset_resident]
  · rw [reset_link]

end Sys2Proof.Proofs.ResetState
end

section
/-! What the books of the module leave: counters, logs, events for the host, discrepancies, bank memory. -/

namespace Sys2Proof.Proofs.Books

open Sys2Proof Sys2Proof.Machine Sys2Proof.Laws

/-! ## Counters, logs and events -/

/-- From `s` to `t` the module has at most kept its books: counters, the error log with what the host hears of it, discrepancies, free values drawn,
and the end of a snapshot that a fault stops. -/
structure Records (s t : State) : Prop where
  eq : t = { s with
      counters := t.counters, errs := t.errs, errSeq := t.errSeq, host := t.host, tlp := t.tlp, port := t.port, free := t.free
      discrepancies := t.discrepancies, discrepant := t.discrepant, discrepancyDue := t.discrepancyDue, snap := t.snap }

theorem Records.refl (s : State) : Records s s := ⟨rfl⟩

theorem Records.trans {s t u : State} (h : Records s t) (k : Records t u) : Records s u := ⟨k.eq.trans (by rw [h.eq])⟩

/-- A further step that is taken where a condition holds. -/
theorem Records.ifThen {s t u : State} {c : Prop} [Decidable c] (h : Records s t) (k : Records t u) : Records s (if c then u else t) := by
  split
  · exact h.trans k
  · exact h

/-- A further step that is taken where a condition fails. -/
theorem Records.ifElse {s t u : State} {c : Prop} [Decidable c] (h : Records s t) (k : Records t u) : Records s (if c then t else u) := by
  split
  · exact h
  · exact h.trans k

/-- A step that keeps the books, taken for each element of a list. -/
theorem Records.foldl {α : Type} {f : State → α → State} (hf : ∀ t a, Records t (f t a)) (l : List α) (s : State) : Records s (l.foldl f s) := by
  induction l generalizing s with
  | nil => exact .refl s
  | cons a l ih => exact (hf s a).trans (ih _)

section
variable (s : State)

theorem count_records (idx sub n : Nat) : Records s (s.count idx sub n) := ⟨rfl⟩

theorem modFn_records (f : Nat) (g : HostFn → HostFn) : Records s (s.modFn f g) := ⟨rfl⟩

theorem hostPut_records (a : Nat) (bs : Bytes) : Records s (s.hostPut a bs) := ⟨rfl⟩

theorem hostEvent_records (f kind source d0 d1 : Nat) : Records s (s.hostEvent f kind source d0 d1) := by
  unfold State.hostEvent
  refine .ifElse (.refl s) (.ifElse (.refl s) ?_)
  dsimp only
  split <;> exact ⟨rfl⟩

theorem errLog_records (cls cause loc : Nat) (x : Ctx) (other : Nat) (detail : Bytes) : Records s (s.errLog cls cause loc x other detail) := by
  unfold State.errLog
  refine .ifThen ?record (hostEvent_records ..)
  case record => exact ⟨rfl⟩

theorem event_records (cause loc : Nat) (detail : Bytes) : Records s (s.event cause loc detail) := errLog_records ..

theorem faultLog_records (cls cause loc : Nat) (x : Ctx) (other : Nat) (detail : Bytes) : Records s (s.faultLog cls cause loc x other detail) := by
  have logged := errLog_records s cls cause loc x other detail
  unfold State.faultLog
  dsimp only
  split
  · exact .ifThen logged ⟨rfl⟩
  · exact logged

theorem stopSnap_records (warm : Bool) : Records s (s.stopSnap warm) := by
  unfold State.stopSnap
  split_ifs <;> exact ⟨rfl⟩

theorem discrepancies1_records : Records s s.discrepancies1 := by
  have noted : Records s s.noteDiscrepancies := ⟨rfl⟩
  have each : ∀ (t : State) (e : Nat × Bytes), Records t (CrowdedLog.recordDiscrepancy t e) := fun t e =>
    (event_records t 0x82 _ e.2).trans ⟨rfl⟩
  rw [CrowdedLog.discrepancies1_eq]
  exact (noted.trans (.foldl each _ _)).trans ⟨rfl⟩

end

/-! ## Bank memory and the records of bars (R440, R445, R644) -/

/-- From `s` to `t` the module has at most kept its books and used bank memory, for the record of a bar or otherwise. -/
structure Stores (s t : State) : Prop where
  eq : t = { s with
      counters := t.counters, errs := t.errs, errSeq := t.errSeq, host := t.host, tlp := t.tlp, port := t.port, free := t.free
      discrepancies := t.discrepancies, discrepant := t.discrepant, discrepancyDue := t.discrepancyDue, snap := t.snap
      bank := t.bank, bankErr := t.bankErr, bankUse := t.bankUse, bankScrub := t.bankScrub
      sigWptr := t.sigWptr, closed := t.closed, contribs := t.contribs }

theorem Stores.refl (s : State) : Stores s s := ⟨rfl⟩

theorem Stores.trans {s t u : State} (h : Stores s t) (k : Stores t u) : Stores s u := ⟨k.eq.trans (by rw [h.eq])⟩

theorem Records.stores {s t : State} (h : Records s t) : Stores s t := ⟨h.eq.trans (by rw [h.eq])⟩

section
variable {s t : State} (h : Stores s t)
include h

theorem Stores.dom : t.dom = s.dom := by rw [h.eq]
theorem Stores.cl : t.cl = s.cl := by rw [h.eq]
theorem Stores.rt : t.rt = s.rt := by rw [h.eq]
theorem Stores.beat : t.beat = s.beat := by rw [h.eq]
theorem Stores.acks : t.acks = s.acks := by rw [h.eq]
theorem Stores.bulks : t.bulks = s.bulks := by rw [h.eq]
theorem Stores.actual : t.actual = s.actual := by rw [h.eq]

end

section
variable (s : State)

theorem useBurst_stores (sc share : Nat) : Stores s (s.useBurst sc share) := by
  unfold State.useBurst
  dsimp only
  split <;> exact ⟨rfl⟩

theorem burstWrong_stores (b : Nat) : Stores s (s.burstWrong b).2 := by
  unfold State.burstWrong
  split
  · exact ⟨rfl⟩
  · split <;> exact ⟨rfl⟩

theorem burstRead_stores (b share : Nat) : Stores s (s.burstRead b share).2 := by
  have found := (useBurst_stores s (burstSc b) share).trans (burstWrong_stores _ b)
  unfold State.burstRead
  generalize (s.useBurst (burstSc b) share).burstWrong b = r at found ⊢
  obtain ⟨w, t⟩ := r
  dsimp only at found ⊢
  split_ifs
  · exact found
  · exact found
  · exact found
  · exact found.trans ⟨rfl⟩

theorem granuleOf_stores (a : Nat) (p q : Bytes × Bool) : Stores s (s.granuleOf a p q).2 := by
  unfold State.granuleOf
  dsimp only
  split <;> exact ⟨rfl⟩

theorem granuleOnce_stores (a loc : Nat) : Stores s (s.granuleOnce a loc).2.2 := by
  have both := (burstRead_stores s (a / 64 * 2) (shareOf loc)).trans (burstRead_stores _ (a / 64 * 2 + 1) (shareOf loc))
  unfold State.granuleOnce
  dsimp only
  generalize (s.burstRead (a / 64 * 2) (shareOf loc)).2.burstRead (a / 64 * 2 + 1) (shareOf loc) = q at both ⊢
  split
  · exact both.trans (granuleOf_stores ..)
  · exact both

theorem burstAgain_stores (bad : List Nat) (b loc : Nat) : Stores s (s.burstAgain bad b loc).2 := by
  have read : Stores s ((s.count 0x9007 3 1).burstRead b (shareOf loc)).2 := .trans (count_records ..).stores (burstRead_stores ..)
  unfold State.burstAgain
  split
  · split
    · next h => rw [h] at read; exact read
    · next h => rw [h] at read; exact read
  · exact ⟨rfl⟩

theorem granuleAgain_stores (bad : List Nat) (a loc : Nat) : Stores s (s.granuleAgain bad a loc).2 := by
  have first := burstAgain_stores s bad (a / 64 * 2) loc
  unfold State.granuleAgain
  dsimp only
  split
  · next h => rw [h] at first; exact first
  · next p t h =>
    rw [h] at first
    have second := burstAgain_stores t bad (a / 64 * 2 + 1) loc
    split
    · next k => rw [k] at second; exact first.trans second
    · next k => rw [k] at second; exact first.trans (second.trans (granuleOf_stores _ a ..))

theorem granuleGet_stores (a loc : Nat) : Stores s (s.granuleGet a loc).2 := by
  have once := granuleOnce_stores s a loc
  unfold State.granuleGet
  split
  · next h => rw [h] at once; exact once
  · next h => rw [h] at once; exact once.trans (granuleAgain_stores ..)

theorem granulePut_stores (a loc : Nat) (plain : Bytes) : Stores s (s.granulePut a loc plain) := by
  have asked := (useBurst_stores s (burstSc (a / 64 * 2)) (shareOf loc)).trans (useBurst_stores _ (burstSc (a / 64 * 2 + 1)) (shareOf loc))
  unfold State.granulePut
  generalize (s.useBurst (burstSc (a / 64 * 2)) (shareOf loc)).useBurst (burstSc (a / 64 * 2 + 1)) (shareOf loc) = t at asked ⊢
  exact asked.trans ⟨rfl⟩

theorem bankStore_stores (a loc : Nat) (bs : Bytes) (k : Nat) : Stores s (s.bankStore a loc bs k).2 := by
  induction k generalizing s a bs with
  | zero => exact .refl s
  | succ k ih =>
    have got := granuleGet_stores s a loc
    unfold State.bankStore
    dsimp only
    refine .trans ?_ (ih ..)
    split
    · exact granulePut_stores ..
    · split
      · next h => rw [h] at got; exact got.trans (granulePut_stores ..)
      · next h => rw [h] at got; exact got

theorem recordLost_stores (burst : Nat) : Stores s (s.recordLost burst) := by
  unfold State.recordLost
  exact ((count_records s ..).trans (faultLog_records ..)).stores

/-- A bar that an abort closes: its record goes to bank memory (R644). -/
theorem closeBar_stores (bar : Nat) (aborted : Bool) : Stores s (s.closeBar bar aborted) := by
  have kept : ∀ a loc bs k, Stores s (match s.bankStore a loc bs k with
      | (none, t) => (false, t)
      | (some b, t) => (true, t.recordLost b)).2 := fun a loc bs k => by
    have stored := bankStore_stores s a loc bs k
    split
    · next h => rw [h] at stored; exact stored
    · next h => rw [h] at stored; exact stored.trans (recordLost_stores ..)
  unfold State.closeBar State.barRecord
  dsimp only
  split
  · exact .trans (kept _ _ _ _) ⟨rfl⟩
  · exact ⟨rfl⟩

end

/-! ## Holds (R46, R64, R471) -/

section
variable (s : State)

/-- What a hold that reaches the link units leaves (R471; log 82). -/
theorem holdLinks_eq : s.holdLinks = { s with free := s.holdLinks.free, links := s.holdLinks.links } := by
  unfold State.holdLinks
  split <;> rfl

@[simp] theorem holdLinks_fields : s.holdLinks.dom = s.dom ∧ s.holdLinks.cl = s.cl ∧ s.holdLinks.rt = s.rt ∧ s.holdLinks.beat = s.beat
    ∧ s.holdLinks.pow = s.pow ∧ s.holdLinks.bank = s.bank := by
  and_intros <;> rw [holdLinks_eq]

@[simp] theorem holdLinks_domN (d : Nat) : s.holdLinks.domN d = s.domN d := by simp [State.domN]

/-- Every link carries HOLD then (R64, R471). -/
theorem holdLinks_holdTx (l : Nat) (hl : l < 16) : (s.holdLinks.link l).holdTx = true := by
  unfold State.link State.holdLinks
  rw [dif_pos hl]
  split
  · next h =>
    simp only [List.all_eq_true, Vector.mem_toList_iff, Vector.mem_iff_getElem] at h
    exact h _ ⟨l, hl, rfl⟩
  · dsimp only
    rw [Vector.getElem_ofFn]
    split
    · assumption
    · rfl

/-- The beat reference once a hold has been raised (R46). -/
def raised (cause who : Nat) (b : BeatRef) : BeatRef :=
  { b with
    holdReq := true, inHold := true, cause := if b.holdReq then b.cause else BitVec.ofNat 3 cause, lastCause := BitVec.ofNat 3 cause
    live := if b.live.contains { cause, who } then b.live else b.live ++ [{ cause, who }] }

/-- A hold raised by no domain (R46). -/
@[simp] theorem raiseHold_fields (cause who loc : Nat) (x : Ctx) :
    (s.raiseHold cause who loc none x).beat = raised cause who s.beat ∧ (s.raiseHold cause who loc none x).dom = s.dom
      ∧ (s.raiseHold cause who loc none x).cl = s.cl ∧ (s.raiseHold cause who loc none x).rt = s.rt
      ∧ (s.raiseHold cause who loc none x).pow = s.pow ∧ (s.raiseHold cause who loc none x).bank = s.bank := by
  have logged : Records s (if (cause = 6 || s.beat.live.contains { cause, who }) = true then s else s.errLog 2 cause loc x loc []) :=
    .ifElse (.refl s) (errLog_records ..)
  unfold State.raiseHold
  dsimp only
  rw [logged.eq]
  simp [raised]

/-- A hold that reaches the module stops every domain at its next step boundary (R62). -/
@[simp] theorem holdAll_fields :
    s.holdAll.beat = { s.beat with inHold := true } ∧ s.holdAll.dom = s.dom.map (fun d => { d with stopPend := true })
      ∧ s.holdAll.cl = s.cl ∧ s.holdAll.rt = s.rt ∧ s.holdAll.pow = s.pow ∧ s.holdAll.bank = s.bank := by
  unfold State.holdAll State.modDoms
  simp

end

end Sys2Proof.Proofs.Books
end

section
/-! The proof of O41: the protective hold, region stops, the abort at the bar, STOP and draining clusters. -/

namespace Sys2Proof.Proofs.Holds

open Sys2Proof Sys2Proof.Machine Sys2Proof.Laws Sys2Proof.Proofs.HostService Sys2Proof.Proofs.CrowdedLog Sys2Proof.Proofs.Books

/-! ## The end of an invocation by an abort (R617, R636, R637) -/

section
variable (s : State)

/-- The invocation once an abort of a class has discarded what is left of it. -/
def discarded (cls : Nat) : State := if 3 ≤ cls then s.endInvocation.cancelItems else s.endInvocation

theorem discarded_fields (cls : Nat) : (discarded s cls).rt = s.endInvocation.rt ∧ (discarded s cls).dom = s.dom.map Dom.discard
    ∧ (discarded s cls).cl = s.cl.map Cluster.discard ∧ (discarded s cls).acks = [] ∧ (discarded s cls).bulks = []
    ∧ (discarded s cls).beat.boundaries = s.beat.boundaries := by
  unfold discarded
  split <;> exact ⟨rfl, rfl, rfl, rfl, rfl, rfl⟩

/-- An abort, but for what it records. -/
def aborted (cls bar : Nat) : State := ((discarded s cls).closeBar bar true).reportFault cls bar

theorem abort_records (cls bar loc : Nat) : Records (aborted s cls bar) (s.abort cls bar loc) := by
  unfold State.abort aborted discarded
  dsimp only
  by_cases h : 3 ≤ cls
  · simp only [h, if_true]
    exact (discrepancies1_records _).trans (hostEvent_records ..)
  · simp only [h, if_false]
    exact discrepancies1_records _

/-- The report of a fault (R637). -/
theorem reportFault_eq (cls bar : Nat) : s.reportFault cls bar =
    { s with
      dom := s.dom.map fun d => { d with stopped := true, stopPend := false, words := false }
      rt := { s.rt with runState := 0, abortBar := BitVec.ofNat 40 bar, abortClass := BitVec.ofNat 8 cls
                        abortEdge := s.beat.boundaries, faultReport := true, faultAcked := false }
      beat := { s.beat with
        holdReq := true, inHold := true, cause := 6, lastCause := 6
        live := s.beat.live.filter (fun l => l.cause != 6) ++ [{ cause := 6, who := 50 }] }
      free := (s.reportFault cls bar).free, links := (s.reportFault cls bar).links } := by
  unfold State.reportFault
  exact holdLinks_eq _

end

/-- A domain after an abort: nothing to issue or to take place, and stopped. -/
def abortedDom (d : Dom) : Dom := { d.discard with stopped := true, stopPend := false, words := false }

/-- The routine after an abort (R636, R637). -/
def abortedRt (s : State) (cls bar : Nat) : Routine :=
  { s.rt with
    stopAsked := false, stopping := false, abortAt := none, runState := 0, abortBar := BitVec.ofNat 40 bar, abortClass := BitVec.ofNat 8 cls
    abortEdge := s.beat.boundaries, faultReport := true, faultAcked := false }

/-- What an abort leaves of the invocation, and what it reports (R617, R636, R637). -/
theorem abort_spec (s : State) (cls bar loc : Nat) :
    (s.abort cls bar loc).rt = abortedRt s cls bar ∧ (s.abort cls bar loc).dom = s.dom.map abortedDom
      ∧ (s.abort cls bar loc).cl = s.cl.map Cluster.discard ∧ (s.abort cls bar loc).acks = [] ∧ (s.abort cls bar loc).bulks = []
      ∧ (s.abort cls bar loc).beat.holdReq = true ∧ (s.abort cls bar loc).beat.cause = 6 := by
  obtain ⟨rt, dom, cl, acks, bulks, boundaries⟩ := discarded_fields s cls
  have closed := closeBar_stores (discarded s cls) bar true
  have booked := (abort_records s cls bar loc).stores
  have reported := reportFault_eq ((discarded s cls).closeBar bar true) cls bar
  refine ⟨booked.rt.trans ?_, booked.dom.trans ?_, booked.cl.trans ?_, booked.acks.trans ?_, booked.bulks.trans ?_,
    (congrArg BeatRef.holdReq booked.beat).trans ?_, (congrArg BeatRef.cause booked.beat).trans ?_⟩ <;> unfold aborted <;> rw [reported]
  · rw [closed.rt, closed.beat, rt, boundaries]
    rfl
  · rw [closed.dom, dom, Vector.map_map]
    rfl
  · rw [closed.cl, cl]
  · rw [closed.acks, acks]
  · rw [closed.bulks, bulks]

/-- A domain of the state after an abort. -/
theorem abort_domN (s : State) (cls bar loc d : Nat) (hd : d < 10) : (s.abort cls bar loc).domN d = abortedDom (s.domN d) := by
  obtain ⟨-, dom, -⟩ := abort_spec s cls bar loc
  simp only [State.domN, dom, hd, ↓reduceDIte, Vector.getElem_map]

/-- A cluster of the state after an abort. -/
theorem abort_clus (s : State) (cls bar loc m : Nat) (hm : m < 48) : (s.abort cls bar loc).clus m = (s.clus m).discard := by
  obtain ⟨-, -, cl, -⟩ := abort_spec s cls bar loc
  simp only [State.clus, cl, hm, ↓reduceDIte, Vector.getElem_map]

/-! ## The safe setting at the third bar (R46, R59) -/

section
variable {s : State}

/-- The hold that an exceeded safe setting raises (R59). -/
theorem protectHold_spec (loc : Nat) (x : Ctx) (h : s.beat.live.contains { cause := 5, who := 50 } = false) :
    let t := (s.raiseHold 5 50 loc none x).holdAll
    t.beat.holdReq = true ∧ t.beat.lastCause = 5 ∧ (s.beat.holdReq = false → t.beat.cause = 5)
      ∧ t.beat.live.contains { cause := 5, who := 50 } = true ∧ (∀ d, d < 10 → t.domN d = { s.domN d with stopPend := true })
      ∧ (∀ l, l < 16 → (t.link l).holdTx = true) ∧ t.cl = s.cl ∧ t.rt = s.rt := by
  intro t
  have beat : t.beat = { raised 5 50 s.beat with inHold := true } := by simp [t]
  refine ⟨?_, ?_, fun hr => ?_, ?_, fun d hd => ?_, fun l hl => holdLinks_holdTx _ l hl, ?_, ?_⟩
  · rw [beat]; rfl
  · rw [beat]; rfl
  · simp [beat, raised, hr]
  · rw [beat]
    simp only [raised, h, Bool.false_eq_true, if_false]
    simp
  · simp [t, State.domN, hd]
  · simp [t]
  · simp [t]

/-- What keeps the deadline of a region's safe setting from raising a hold, where the region has reported one below the setting in force (R59). -/
def deadlineIdle (s : State) (r b : Nat) : Bool :=
  s.beat.order != 0 || decide (barGap b s.beat.bar.toNat < 3) || decide (s.beat.setting.toNat ≤ (s.monN r).safe.toNat)
    || s.beat.live.contains { cause := 5, who := 50 }

theorem exec_safeSettingDeadline_idle {r : Fin 8} (h : ∀ b, (s.monN r).below = some b → deadlineIdle s r b = true) :
    exec (.safeSettingDeadline r) s = .next s := by
  have idle : execSafeSettingDeadline r s = commit s s := by
    unfold execSafeSettingDeadline
    split
    · rfl
    · next b hb => exact congrArg (commit s) (if_pos (h b hb))
  exact idle

theorem exec_safeSettingDeadline_hold {r : Fin 8} {b : Nat} (hb : (s.monN r).below = some b) (h : deadlineIdle s r b = false) :
    ∃ u loc, Records s u ∧ exec (.safeSettingDeadline r) s = .next (s.after (u.raiseHold 5 50 loc none u.nowCtx).holdAll) := by
  have held : ∃ u loc, Records s u ∧ execSafeSettingDeadline r s = commit s (u.raiseHold 5 50 loc none u.nowCtx).holdAll := by
    unfold execSafeSettingDeadline
    rw [hb]
    exact ⟨_, _, event_records s 0x80 _ _, congrArg (commit s) (if_neg (Bool.eq_false_iff.1 h))⟩
  exact held

end

/-! ## Stops of a domain where nothing is left to take place (R61-R63) -/

/-- A step that changes nothing, taken for each element of a list. -/
theorem foldl_unchanged {α β : Type} {f : β → α → β} {b : β} (l : List α) (h : ∀ a ∈ l, f b a = b) : l.foldl f b = b := by
  induction l with
  | nil => rfl
  | cons a l ih =>
    rw [List.foldl_cons, h a List.mem_cons_self]
    exact ih fun c hc => h c (List.mem_cons_of_mem a hc)

section
variable {s : State}

/-- An array of whose reads and contributions none is to come carries nothing on (R148). -/
theorem arrayOn_idle {n k : Nat} {limit : Option Nat} (h : (s.domN (s.regionOf n)).evs = []) : s.arrayOn n limit k = s := by
  cases k with
  | zero => rfl
  | succ k =>
    unfold State.arrayOn
    dsimp only
    rw [h]
    rfl

/-- With no command in its queue an array starts none in a stop (R149). -/
theorem startAhead_idle {n k : Nat} (h : (s.domN (s.regionOf n)).evs = []) (hq : (s.clus n).mx.q = []) : s.startAhead n k = s := by
  cases k with
  | zero => rfl
  | succ k =>
    unfold State.startAhead
    dsimp only
    rw [arrayOn_idle h, hq]

theorem filter_evs_self {x : Dom} (p : Ev → Bool) (h : x.evs = []) : { x with evs := x.evs.filter p } = x := by
  cases x
  cases h
  rfl

/-- The signals of a domain that has none to come (R308). -/
theorem signals_idle {d upTo gens : Nat} (h : (s.domN d).evs = []) : s.signals d upTo gens = s := by
  unfold State.signals
  dsimp only
  rw [modDom_self s d _ (filter_evs_self _ h), h]
  rfl

theorem flush_idle {d : Nat} (h : (s.domN d).evs = []) : s.flush d = s :=
  flush_quiet s d (by simp [State.quiet, Dom.due, h])

theorem mem_ofRegion {d n : Nat} : n ∈ s.ofRegion d ↔ n < s.lcMax ∧ s.regionOf n = d := by
  simp [State.ofRegion]

/-- Nothing is left that a stop of a domain would carry on: no effect to come, no command on its way to its push, no queued matrix command. -/
structure Still (s : State) (d : Nat) : Prop where
  evs : (s.domN d).evs = []
  handed : (s.domN d).handed = []
  queues : d < 8 → ∀ n ∈ s.ofRegion d, (s.clus n).mx.q = []

/-- A domain that has stopped at a step boundary. -/
def stoppedDom (x : Dom) : Dom := { x with stopped := true, stopPend := false, waited := 0 }

/-- What a domain that has just stopped carries on (R63, R102, R149). -/
def carryOn (s : State) (d : Nat) : State :=
  let nt := (s.domN d).nt
  let t := (if nt = 0 then s else s.signals d (nt - 1) (nt + 256)).pushAfter d [] (inPushOrder (s.domN d).handed)
  if d < 8 then (t.ofRegion d).foldl (fun (s : State) n => s.startAhead n 8) t else t

theorem stopDom_going {d : Nat} (going : (s.domN d).stopped = false) :
    s.stopDom d = (carryOn ((s.flush d).modDom d stoppedDom) d).noteFrozen := if_neg (by simp [going])

theorem carryOn_still {d : Nat} (h : Still s d) : carryOn s d = s := by
  have signalled : (if (s.domN d).nt = 0 then s else s.signals d ((s.domN d).nt - 1) ((s.domN d).nt + 256)) = s := by
    split
    · rfl
    · exact signals_idle h.evs
  have pushed : s.pushAfter d [] (inPushOrder (s.domN d).handed) = s := by rw [h.handed]; rfl
  unfold carryOn
  dsimp only
  rw [signalled, pushed]
  split
  · next h8 =>
    refine foldl_unchanged _ fun n hn => startAhead_idle ?_ (h.queues h8 n hn)
    rw [(mem_ofRegion.1 hn).2]
    exact h.evs
  · rfl

theorem Still.stopped {d : Nat} (h : Still s d) : Still (s.modDom d stoppedDom) d where
  evs := by rw [modDom_domN]; split <;> exact h.evs
  handed := by rw [modDom_domN]; split <;> exact h.handed
  queues := h.queues

/-- A stop of a domain where nothing is left to carry on (R61, R63). -/
theorem stopDom_still {d : Nat} (h : Still s d) (going : (s.domN d).stopped = false) : s.stopDom d = (s.modDom d stoppedDom).noteFrozen := by
  rw [stopDom_going going, flush_idle h.evs, carryOn_still h.stopped]

theorem stopDom_stopped {d : Nat} (h : (s.domN d).stopped = true) : s.stopDom d = s := if_pos h

@[simp] theorem noteFrozen_fields : s.noteFrozen.dom = s.dom ∧ s.noteFrozen.cl = s.cl ∧ s.noteFrozen.rt = s.rt ∧ s.noteFrozen.pow = s.pow := by
  unfold State.noteFrozen
  split <;> simp

@[simp] theorem noteFrozen_domN (d : Nat) : s.noteFrozen.domN d = s.domN d := by simp [State.domN]

/-- The row of a hold that has travelled to a domain (R62). -/
theorem exec_regionStop (d : Fin 10) : exec (.regionStop d) s
    = commit s (if (s.beat.holdReq || s.beat.order != 0 || (s.domN d).stopPend) = true then s.stopDom d else s) := rfl

end

/-! ## The earliest beat at which a domain stands (R46, R588) -/

/-- The place of a working beat in the count from a bar. -/
def gapOf (bar : Nat) (p : Nat × Nat) : Nat := beatGap bar p.1 p.2

theorem earlier_eq_or (bar : Nat) (a b : Nat × Nat) : earlier bar a b = a ∨ earlier bar a b = b := by
  unfold earlier
  split
  · exact .inr rfl
  · exact .inl rfl

theorem gapOf_earlier (bar : Nat) (a b : Nat × Nat) : gapOf bar (earlier bar a b) = min (gapOf bar a) (gapOf bar b) := by
  unfold earlier
  split
  · next h => exact (Nat.min_eq_right (Nat.le_of_lt h)).symm
  · next h => exact (Nat.min_eq_left (Nat.not_lt.1 h)).symm

/-- The earliest of beats is one of them, and no later than any of them. -/
theorem foldl_earlier (bar : Nat) (l : List (Nat × Nat)) (a : Nat × Nat) :
    l.foldl (earlier bar) a ∈ a :: l ∧ ∀ b ∈ a :: l, gapOf bar (l.foldl (earlier bar) a) ≤ gapOf bar b := by
  induction l generalizing a with
  | nil => exact ⟨List.mem_cons_self, fun b hb => by simp_all⟩
  | cons c l ih =>
    obtain ⟨mem, least⟩ := ih (earlier bar a c)
    have first := (least _ List.mem_cons_self).trans_eq (gapOf_earlier bar a c)
    refine ⟨?_, fun b hb => ?_⟩
    · rcases List.mem_cons.1 mem with h | h
      · rw [List.foldl_cons, h]
        rcases earlier_eq_or bar a c with k | k <;> simp [k]
      · exact List.mem_cons_of_mem _ (List.mem_cons_of_mem _ h)
    · rcases List.mem_cons.1 hb with rfl | hb
      · exact first.trans (Nat.min_le_left ..)
      · rcases List.mem_cons.1 hb with rfl | hb
        · exact first.trans (Nat.min_le_right ..)
        · exact least b (List.mem_cons_of_mem _ hb)

section
variable (s : State)

/-- The working beats at which the domains stand. -/
def stands : List (Nat × Nat) := s.dom.toList.map fun x => (x.bar, x.beat)

theorem mem_stands (p : Nat × Nat) : p ∈ stands s ↔ ∃ d, d < 10 ∧ p = ((s.domN d).bar, (s.domN d).beat) := by
  simp only [stands, List.mem_map, Vector.mem_toList_iff, Vector.mem_iff_getElem, State.domN]
  constructor
  · rintro ⟨_, ⟨d, hd, rfl⟩, rfl⟩
    exact ⟨d, hd, by rw [dif_pos hd]⟩
  · rintro ⟨d, hd, rfl⟩
    exact ⟨_, ⟨d, hd, rfl⟩, by rw [dif_pos hd]⟩

theorem frozenAt_eq : s.frozenAt = (stands s).foldl (earlier s.rt.firstBar) ((s.domN 0).bar, (s.domN 0).beat) := rfl

/-- The beat at which the module reports that it stands is that of a domain, and no domain stands earlier (R46). -/
theorem frozenAt_spec : (∃ d, d < 10 ∧ s.frozenAt = ((s.domN d).bar, (s.domN d).beat))
    ∧ ∀ e, e < 10 → beatGap s.rt.firstBar s.frozenAt.1 s.frozenAt.2 ≤ beatGap s.rt.firstBar (s.domN e).bar (s.domN e).beat := by
  have first : ((s.domN 0).bar, (s.domN 0).beat) ∈ stands s := (mem_stands s _).2 ⟨0, by omega, rfl⟩
  obtain ⟨mem, least⟩ := foldl_earlier s.rt.firstBar (stands s) ((s.domN 0).bar, (s.domN 0).beat)
  rw [← frozenAt_eq] at mem least
  refine ⟨(mem_stands s _).1 ?_, fun e he => ?_⟩
  · rcases List.mem_cons.1 mem with h | h
    · rw [h]
      exact first
    · exact h
  · have := least _ (List.mem_cons_of_mem _ ((mem_stands s _).2 ⟨e, he, rfl⟩))
    unfold gapOf at this
    exact this

end

/-! ## The rows of aborts, of STOP and of draining clusters -/

section
variable {s : State}

theorem abortDue_iff {n loc bar : Nat} (h : s.rt.abortAt = some (n, loc)) :
    s.abortDue bar = true ↔ barGap s.rt.firstBar n < barGap s.rt.firstBar bar := by
  unfold State.abortDue
  rw [Option.any_eq_true]
  constructor
  · rintro ⟨a, ha, due⟩
    cases h.symm.trans ha
    exact of_decide_eq_true due
  · exact fun due => ⟨_, h, decide_eq_true due⟩

/-- Whether an abort at the end of a bar takes place now (R635). -/
def abortsNow (s : State) : Bool := s.running && (s.frozen || (s.beat.order == 0 && s.abortDue s.beat.bar.toNat))

theorem exec_abortAtBar_none (h : s.rt.abortAt = none) : exec .abortAtBar s = .next s := by
  have idle : execAbortAtBar s = commit s s := by
    unfold execAbortAtBar
    rw [h]
  exact idle

theorem exec_abortAtBar_some {n loc : Nat} (h : s.rt.abortAt = some (n, loc)) :
    exec .abortAtBar s = commit s (if abortsNow s then s.abort 3 n loc else s) := by
  have row : execAbortAtBar s = commit s (if abortsNow s then s.abort 3 n loc else s) := by
    unfold execAbortAtBar
    rw [h]
    rfl
  exact row

theorem exec_clusterDrained (n : Fin 48) : exec (.clusterDrained n) s = commit s (if (tGet s.actual n == some 7) = true then
    ({ s with actual := tPut s.actual n 2 }).modCl n fun c => { c with caller := { c.caller with waits := [] } } else s) := rfl

/-- ACTUAL of the clusters once a drained one is fenced, or is ACTIVE again (R588). -/
def fencedActual (s : State) (n : Fin 48) : Table Nat :=
  if s.running = false ∧ s.base (0x8000 + n) 1 1 = 1 then tDel s.actual n else tPut s.actual n 4

theorem exec_clusterFenceDisable_idle {n : Fin 48} (h : tGet s.actual n ≠ some 3 ∨ s.beat.order ≠ 0 ∨ s.beat.beat ≠ 0) :
    exec (.clusterFenceDisable n) s = .next s := by
  refine congrArg (commit s) (if_neg ?_)
  simp only [Bool.and_eq_true, beq_iff_eq]
  tauto

theorem exec_clusterFenceDisable {n : Fin 48} (ha : tGet s.actual n = some 3) (ho : s.beat.order = 0) (hb : s.beat.beat = 0) :
    exec (.clusterFenceDisable n) s = commit s (State.discrepancies1 { s with actual := fencedActual s n }) := by
  refine congrArg (commit s) ((if_pos (by simp [ha, ho, hb])).trans (congrArg State.discrepancies1 ?_))
  unfold fencedActual
  by_cases h : s.running = false ∧ s.base (0x8000 + n) 1 1 = 1
  · rw [if_pos h, if_pos (by simp [h])]
  · rw [if_neg h, if_neg (by simpa using h)]

theorem exec_stop (arg : BitVec 32) : exec (.stop arg) s = commit s (if arg = 0 then s.stopCmd else s) := rfl

theorem stopCmd_idle (h : s.running = false) : s.stopCmd = s := if_pos (by simp [h])

/-- A STOP of a module that stands in hold ends the invocation at once (R638). -/
theorem stopCmd_held (h : s.running = true) (hf : s.frozen = true) (hh : s.beat.inHold = true) :
    s.stopCmd = s.abort 0 s.frozenAt.1 (locDie 0 0 0) := by
  unfold State.stopCmd
  rw [if_neg (by simp [h]), if_pos (by simp [hf, hh])]
  rfl

theorem stopCmd_asked (h : s.running = true) (hf : s.frozen = false ∨ s.beat.inHold = false) :
    s.stopCmd = { s with rt := { s.rt with stopAsked := true } } := by
  unfold State.stopCmd
  rw [if_neg (by simp [h]), if_neg]
  rcases hf with hf | hf <;> simp [hf]

end

/-! ## The obligation -/

/-- Settles O41, row by row. -/
theorem holdsStopsAndDrains : Obligations.HoldsStopsAndDrains := by
  refine ⟨fun s r => ⟨fun idle => ?_, fun b hb ho hg hs hl => ?_⟩, fun s d => ⟨fun idle => ?_, fun due going evs handed queues => ?_⟩,
    frozenAt_spec, fun s => ⟨fun idle => ?_, fun n loc ha running now => ?_⟩,
    fun s n => ⟨fun other => ?_, fun drained => ?_, exec_clusterFenceDisable_idle, fun ha ho hb => ?_⟩,
    fun s arg => ⟨fun idle => ?_, fun harg running => ⟨fun asked => ?_, fun frozen held => ?_⟩⟩⟩
  · -- the safe setting, where nothing is exceeded
    refine exec_safeSettingDeadline_idle fun b hb => ?_
    simp only [deadlineIdle, Bool.or_eq_true, bne_iff_ne, decide_eq_true_eq]
    rcases idle with h | h | ⟨c, hc, h⟩ | h | h
    · simp [hb] at h
    · exact .inl (.inl (.inl h))
    · rw [hb] at hc
      cases hc
      exact .inl (.inl (.inr h))
    · exact .inl (.inr h)
    · exact .inr h
  · -- the safe setting at the third bar
    have open_ : deadlineIdle s r b = false := by
      simp only [deadlineIdle, hl, ho, Bool.or_false, Bool.or_eq_false_iff, decide_eq_false_iff_not, bne_self_eq_false, true_and]
      omega
    obtain ⟨u, loc, booked, ht⟩ := exec_safeSettingDeadline_hold hb open_
    obtain ⟨holdReq, lastCause, cause, live, dom, links, cl, rt⟩ := protectHold_spec loc u.nowCtx (s := u) (by rw [booked.stores.beat]; exact hl)
    refine ⟨_, ht, holdReq, lastCause, by rwa [booked.stores.beat] at cause, live, fun d hd => ?_, links, cl.trans booked.stores.cl,
      rt.trans booked.stores.rt⟩
    rw [dom d hd]
    simp only [State.domN, booked.stores.dom]
  · -- no hold reaches the domain, or it has stopped
    rw [exec_regionStop]
    rcases idle with ⟨hr, ho, hp⟩ | stopped
    · rw [if_neg (by simp [hr, ho, hp])]
      rfl
    · rw [stopDom_stopped stopped, ite_self]
      rfl
  · -- a hold reaches the domain
    have reached : (s.beat.holdReq || s.beat.order != 0 || (s.domN d).stopPend) = true := by
      simp only [Bool.or_eq_true, bne_iff_ne]
      tauto
    refine ⟨_, by rw [exec_regionStop, if_pos reached, stopDom_still ⟨evs, handed, queues⟩ going]; rfl, ?_, fun e he => ?_, by simp⟩
    · rw [noteFrozen_domN, modDom_domN, if_pos ⟨rfl, d.isLt⟩]
      rfl
    · rw [noteFrozen_domN, modDom_domN, if_neg fun h => he h.1]
  · -- no abort is due
    cases ha : s.rt.abortAt with
    | none => exact exec_abortAtBar_none ha
    | some a =>
      have later : abortsNow s = false := by
        rcases idle with h | h | ⟨hf, h⟩ | ⟨hf, c, hc, h⟩
        · simp [ha] at h
        · simp [abortsNow, h]
        · have off : (s.beat.order == 0) = false := beq_eq_false_iff_ne.2 h
          rw [abortsNow, hf, off, Bool.false_and, Bool.or_false, Bool.and_false]
        · have early : s.abortDue s.beat.bar.toNat = false := Bool.eq_false_iff.2 fun k => Nat.not_lt.2 h ((abortDue_iff hc).1 k)
          rw [abortsNow, hf, early, Bool.and_false, Bool.or_false, Bool.and_false]
      rw [exec_abortAtBar_some ha, if_neg (by simp [later])]
      rfl
  · -- an abort is due
    have due : abortsNow s = true := by
      rcases now with h | ⟨ho, h⟩
      · simp [abortsNow, running, h]
      · rw [abortsNow, running, ho, (abortDue_iff ha).2 h, Bool.true_and, beq_self_eq_true, Bool.and_true, Bool.or_true]
    obtain ⟨rt, dom, cl, acks, bulks, holdReq, cause⟩ := abort_spec s 3 n loc
    refine ⟨_, by rw [exec_abortAtBar_some ha, if_pos due]; rfl, by rw [rt]; rfl, by rw [rt]; rfl, by rw [rt]; rfl, by rw [rt]; rfl, by rw [rt]; rfl,
      by rw [rt]; rfl, holdReq, cause, fun d hd => ?_, fun m hm => ?_, acks, bulks⟩
    · rw [abort_domN s 3 n loc d hd]
      exact ⟨rfl, rfl, rfl⟩
    · rw [abort_clus s 3 n loc m hm]
      exact ⟨rfl, rfl, rfl, rfl⟩
  · -- a cluster that has seen no bar boundary since it became DRAINING
    rw [exec_clusterDrained, if_neg (by simpa using other)]
    rfl
  · -- it has drained
    refine ⟨_, by rw [exec_clusterDrained, if_pos (by simp [drained])]; rfl, ?_, fun m hm => ?_, ?_, fun m hm => ?_, rfl⟩
    · simp [tGet_tPut]
    · simp [tGet_tPut, hm]
    · rw [modCl_clus, if_pos ⟨rfl, n.isLt⟩]
      rfl
    · rw [modCl_clus, if_neg fun h => hm h.1]
      rfl
  · -- it is fenced, or ACTIVE again
    have booked := (discrepancies1_records { s with actual := fencedActual s n }).stores
    exact ⟨_, exec_clusterFenceDisable ha ho hb, booked.actual, booked.cl, booked.rt, booked.beat, booked.dom⟩
  · -- a STOP that means nothing
    rw [exec_stop]
    rcases idle with h | h
    · rw [if_neg h]
      rfl
    · rw [stopCmd_idle h, ite_self]
      rfl
  · -- a STOP is asked for
    rw [exec_stop, if_pos harg, stopCmd_asked running asked]
    rfl
  · -- a STOP in a hold
    obtain ⟨rt, -, -, -, -, holdReq, cause⟩ := abort_spec s 0 s.frozenAt.1 (locDie 0 0 0)
    refine ⟨_, by rw [exec_stop, if_pos harg, stopCmd_held running frozen held]; rfl, by rw [rt]; rfl, by rw [rt]; rfl, by rw [rt]; rfl, holdReq, cause,
      fun m hm => ?_⟩
    rw [abort_clus s 0 _ _ m hm]
    exact ⟨rfl, rfl, rfl⟩

end Sys2Proof.Proofs.Holds
end

section
/-! The refutation of O40. Like O29 and O60 it promises that the record of a fault stands in the error log after the abort that it brings; what follows
the abort in the row of the fourth invalid frame, a boundary before beat lock, records only events and holds. -/

namespace Sys2Proof.Proofs.InvalidFrames

open Sys2Proof Sys2Proof.Machine Sys2Proof.Laws Sys2Proof.Proofs.CrowdedLog Sys2Proof.Proofs.Books

/-! ## Boundaries before beat lock record no fault (R45, R640) -/

/-- From `s` to `t` no record of a fault enters the error log: events and holds at most. -/
structure NoFault (s t : State) : Prop where
  minor : ∀ r ∈ t.errs, r ∈ s.errs ∨ r.cls < 3

theorem noFault_of_errs {s t : State} (h : t.errs = s.errs) : NoFault s t := ⟨fun _ hr => .inl (h ▸ hr)⟩

theorem NoFault.trans {s t u : State} (h : NoFault s t) (k : NoFault t u) : NoFault s u :=
  ⟨fun r hr => (k.minor r hr).elim (h.minor r) .inr⟩

/-- A step that records no fault, taken for each element of a list. -/
theorem NoFault.foldl {α : Type} {f : State → α → State} (hf : ∀ t a, NoFault t (f t a)) (l : List α) (s : State) : NoFault s (l.foldl f s) := by
  induction l generalizing s with
  | nil => exact noFault_of_errs rfl
  | cons a l ih => exact (hf s a).trans (ih _)

section
variable (s : State)

theorem errLog_noFault {cls : Nat} (h : cls < 3) (cause loc : Nat) (x : Ctx) (other : Nat) (detail : Bytes) :
    NoFault s (s.errLog cls cause loc x other detail) := by
  have entered : ∃ r : ErrRec, r.cls = cls ∧ (s.errLog cls cause loc x other detail).errs = (r :: s.errs).take 16384 := by
    unfold State.errLog
    dsimp only
    split
    · exact ⟨_, rfl, hostEvent_errs ..⟩
    · exact ⟨_, rfl, rfl⟩
  obtain ⟨r, hcls, errs⟩ := entered
  refine ⟨fun q hq => ?_⟩
  obtain rfl | old := List.mem_cons.1 (List.mem_of_mem_take (errs ▸ hq))
  · exact .inr (hcls ▸ h)
  · exact .inl old

theorem event_noFault (cause loc : Nat) (detail : Bytes) : NoFault s (s.event cause loc detail) := errLog_noFault s (Nat.zero_lt_succ 2) ..

theorem raiseHold_noFault (cause who loc : Nat) (x : Ctx) : NoFault s (s.raiseHold cause who loc none x) := by
  have logged : NoFault s (if (cause = 6 || s.beat.live.contains { cause, who }) = true then s else s.errLog 2 cause loc x loc []) := by
    split
    · exact noFault_of_errs rfl
    · exact errLog_noFault s (Nat.lt_succ_self 2) ..
  have rest : (s.raiseHold cause who loc none x).errs
      = (if (cause = 6 || s.beat.live.contains { cause, who }) = true then s else s.errLog 2 cause loc x loc []).errs := by
    unfold State.raiseHold
    dsimp only
    rw [holdLinks_eq]
  exact logged.trans (noFault_of_errs rest)

theorem holdAll_noFault : NoFault s s.holdAll := by
  refine noFault_of_errs ?_
  unfold State.holdAll
  rw [holdLinks_eq]
  rfl

theorem heldAll_noFault (cause who loc : Nat) (x : Ctx) : NoFault s (s.raiseHold cause who loc none x).holdAll :=
  (raiseHold_noFault s cause who loc x).trans (holdAll_noFault _)

/-- A region that reports records overrides and unmet bounds as events (R607, R608). -/
theorem reportRegion_noFault (r : Nat) : NoFault s (s.reportRegion r) := by
  unfold State.reportRegion
  dsimp only
  refine .trans (.trans (.foldl ?overrides _ s) (.foldl ?unmet _ _)) (noFault_of_errs rfl)
  case overrides => exact fun t k => (event_noFault t ..).trans (noFault_of_errs rfl)
  case unmet => exact fun t b => (event_noFault t ..).trans (noFault_of_errs rfl)

/-- A region at 108 °C records an event and a hold (R604). -/
theorem hotHold_noFault (r : Nat) : NoFault s (s.hotHold r) := by
  have noted : NoFault s (s.modMon r fun m => { m with hot := (s.monN r).step 3 }) := noFault_of_errs rfl
  unfold State.hotHold
  dsimp only
  split
  · exact noted
  · exact noted.trans ((event_noFault ..).trans (heldAll_noFault ..))

/-- The module with the samples of a beat (R596, R601, R613). -/
def sensed (e : Sense) : State :=
  let s := { s with pow := { s.pow with
    vin := BitVec.ofNat 16 e.vin
    mon := Vector.ofFn fun (r : Fin 8) => { s.pow.mon[r] with vcore := BitVec.ofNat 16 ((e.rails[r.val]?).getD 0) } } }
  (List.range 8).foldl (fun (s : State) r => s.sampleRegion r e.temps) s

/-- The samples of a region change what the monitors hold, and nothing else. -/
theorem samples_pow (temps : List Int) (l : List Nat) (s : State) :
    let t := l.foldl (fun (s : State) r => s.sampleRegion r temps) s
    t = { s with pow := t.pow } := by
  induction l generalizing s with
  | nil => rfl
  | cons r l ih =>
    dsimp only
    rw [List.foldl_cons, ih]
    rfl

theorem sensed_errs (e : Sense) : (sensed s e).errs = s.errs := by
  unfold sensed
  dsimp only
  rw [samples_pow]

theorem senseBeat_eq (e : Sense) : s.senseBeat e = if (List.range 8).any (fun r => decide (1150 ≤ ((sensed s e).monN r).temp)) = true
    then (sensed s e).thermalTrip else (List.range 8).foldl State.hotHold (sensed s e) := rfl

/-- A thermal trip records an event, and the loss of power keeps the log (R609, R618). -/
theorem senseBeat_noFault (e : Sense) : NoFault s (s.senseBeat e) := by
  rw [senseBeat_eq]
  split
  · exact (noFault_of_errs (sensed_errs s e)).trans ((event_noFault ..).trans (noFault_of_errs rfl))
  · exact (noFault_of_errs (sensed_errs s e)).trans (.foldl hotHold_noFault _ _)

theorem judgeDroop_noFault (r : Nat) : NoFault s (s.judgeDroop r) := noFault_of_errs rfl

theorem powerBeat_noFault : NoFault s s.powerBeat := noFault_of_errs rfl

/-- The module once it has made its report (R46). -/
def reportNow : State := { s with beat := { s.beat with report := s.reportFrame } }

theorem reportNow_noFault : NoFault s (reportNow s) := noFault_of_errs rfl

theorem unlockedBeat_eq (e : Sense) : s.unlockedBeat e
    = (reportNow ((List.range 8).foldl State.judgeDroop s.countBoundary.bankBeat).powerBeat.reportAll).senseBeat e := rfl

theorem unlockedBeat_noFault (e : Sense) : NoFault s (s.unlockedBeat e) := by
  have counted : NoFault s s.countBoundary.bankBeat := noFault_of_errs rfl
  have judged := counted.trans (.foldl judgeDroop_noFault (List.range 8) _)
  have reported := (judged.trans (powerBeat_noFault _)).trans (.foldl reportRegion_noFault (List.range 8) _)
  rw [unlockedBeat_eq]
  exact reported.trans ((reportNow_noFault _).trans (senseBeat_noFault _ e))

end

/-! ## The fourth invalid frame (R43) -/

/-- The fourth invalid frame is an ensemble fault (R43). -/
def fourthInvalid (s : State) : State :=
  State.ensembleFault { s with beat := { s.beat with invalid := 4, valid := 0 } } 0x0B (locDie 0 7 0) (leBytes 16 s.beat.frame.toNat)

theorem exec_fourthInvalid {s : State} (takes : s.takesFrames = true) (locked : s.beat.locked = true) (third : s.beat.invalid = 3)
    (f : BitVec 128) (e : Sense) :
    exec (.beatsyncInvalidFrame f false e) s = .next (s.after ((fourthInvalid s).unlockBeat.unlockedBeat e)) := by
  have row : execBeatsyncInvalidFrame f false e s = commit s ((fourthInvalid s).unlockBeat.unlockedBeat e) := by
    unfold execBeatsyncInvalidFrame State.invalidFrame fourthInvalid
    simp only [Bool.and_false, Bool.false_eq_true, if_false, takes, if_true, locked, third, Nat.reduceAdd, Bool.not_true]
  exact row

/-- The log keeps no record of the ensemble fault. -/
theorem fourthInvalid_fill {s : State} (h : Crowded s) : ∀ r ∈ (fourthInvalid s).errs, r.cls = 0 := by
  have counted : Crowded { s with beat := { s.beat with invalid := 4, valid := 0 } } := h.bystands (bystands_of_fields rfl rfl rfl rfl)
  exact ensembleFault_fill counted 0x0B (locDie 0 7 0) (leBytes 16 s.beat.frame.toNat)

/-- What the row answers holds no record of class 5: the abort leaves events alone, and the boundary after it records no fault. -/
theorem fourthInvalid_unrecorded {s : State} (h : Crowded s) (e : Sense) :
    ∀ r ∈ ((fourthInvalid s).unlockBeat.unlockedBeat e).errs, r.cls < 5 := fun r hr => by
  obtain old | minor := (unlockedBeat_noFault _ e).minor r hr
  · rw [unlockBeat_errs] at old
    have event := fourthInvalid_fill h r old
    omega
  · omega

/-! ## The counterexample -/

/-- A module under beat lock that has had three invalid frames in a row, in the hold and with the 16,384 discrepancies of `crowded`. -/
def threeInvalid : State :=
  { crowded with beat := { crowded.beat with invalid := 3 }, pow := { crowded.pow with bringup := 7 } }

/-- No sensor has a sample, and every rail reads 0. -/
def nothingSensed : Sense := { temps := [], rails := [], power := 0, vin := 0 }

theorem threeInvalid_crowded : Crowded threeInvalid where
  running := rfl
  frozen := crowded_crowded.frozen
  due := crowded_crowded.due
  pages := crowded_crowded.pages

theorem threeInvalid_alone (x : Ctx) : threeInvalid.aloneIn x := .inr ⟨rfl, fun _ hq => absurd hq List.not_mem_nil⟩

theorem threeInvalid_cool : threeInvalid.cool nothingSensed := by
  unfold State.cool
  decide

/-- The counterexample with all that the row of the fourth invalid frame and the promise of a record look at. -/
theorem exists_threeInvalid : ∃ s : State, Crowded s ∧ s.takesFrames = true ∧ s.beat.locked = true ∧ s.beat.invalid = 3 ∧ s.cool nothingSensed
    ∧ s.aloneIn s.nowCtx :=
  ⟨threeInvalid, threeInvalid_crowded, rfl, rfl, rfl, threeInvalid_cool, threeInvalid_alone _⟩

/-- Refutes O40: the fourth invalid frame ends an invocation, and the 16,384 discrepancies that are recorded then push the record of the ensemble fault
out of the error log. -/
theorem not_invalidFrames : ¬ Obligations.InvalidFrames := by
  intro h
  obtain ⟨rows, -⟩ := h
  obtain ⟨s, crowd, takes, locked, third, cool, alone⟩ := exists_threeInvalid
  obtain ⟨-, -, taken⟩ := rows s 0 false nothingSensed _ (.inl rfl)
  obtain ⟨-, -, fourth⟩ := taken takes (.inr rfl) cool
  obtain ⟨t, ht, -, -, -, -, -, -, recorded⟩ := fourth locked third
  obtain ⟨r, hr, hcls, -⟩ := recorded alone
  rw [errs_of_answer ht (exec_fourthInvalid takes locked third ..)] at hr
  exact Nat.ne_of_lt (fourthInvalid_unrecorded crowd _ r hr) hcls

end Sys2Proof.Proofs.InvalidFrames
end

section
/-! The proof of O42: a cycle in which nothing is to come, to be pushed or to wait does no more than hand over its slots, so that a rest is that many
such cycles; and a cycle that a wait holds is a stalled one. -/

namespace Sys2Proof.Proofs.Issue

open Sys2Proof Sys2Proof.Machine Sys2Proof.Laws Sys2Proof.Proofs.HostService Sys2Proof.Proofs.Holds

/-! ## What a cycle does before its pushes, where nothing is to come (R50, R101, R109, R314) -/

section
variable {s : State} {d c : Nat}

theorem modDom_modDom (f g : Dom → Dom) : (s.modDom d f).modDom d g = s.modDom d fun x => g (f x) := by
  have twice : vmod (vmod s.dom d f) d g = vmod s.dom d fun x => g (f x) := by
    unfold vmod
    by_cases h : d < 10
    · simp [h]
    · simp [h]
  exact congrArg (fun v => { s with dom := v }) twice

theorem modDom_domN_ne {e : Nat} (h : e ≠ d) (f : Dom → Dom) : (s.modDom d f).domN e = s.domN e := by
  rw [modDom_domN, if_neg fun k => h k.1]

theorem runTo_idle (t ph k : Nat) (h : (s.domN d).evs = []) : s.runTo d t ph k = s :=
  runTo_quiet s d t ph k (by simp [Dom.due, h])

theorem arrivals_idle (h : (s.domN d).evs = []) : s.arrivals d = s := by
  unfold State.arrivals
  dsimp only
  rw [modDom_self s d _ (filter_evs_self _ h), h]
  rfl

theorem sampleDue_idle (h : (s.domN d).handed = []) : s.sampleDue d c = s := by
  unfold State.sampleDue
  dsimp only
  rw [h]
  refine modDom_self s d _ ?_
  rw [h]
  exact congrArg (fun l => { s.domN d with handed := l }) h.symm

theorem pushes_idle (h : (s.domN d).handed = []) : s.pushes d c = s := by
  have none : (s.modDom d fun x => { x with handed := x.handed.filter fun h => !decide (h.ctx.t + 4 ≤ c) }) = s := by
    refine modDom_self s d _ ?_
    rw [h]
    exact congrArg (fun l => { s.domN d with handed := l }) h.symm
  unfold State.pushes
  rw [h, none]
  rfl

theorem loadLinks_idle (e slots : Nat) (h : ∀ l, (s.link l).sending = []) : s.loadLinks e slots = s := by
  unfold State.loadLinks
  rw [if_pos]
  simp [h]

theorem replayFull_idle (e slots : Nat) (h : ∀ l, (s.link l).sending = []) : s.replayFull e slots = false := by
  simp [State.replayFull, Link.stuck, Link.takes, h]

/-! ## Waits and fences at their releases (R284, R314, R323) -/

theorem mem_insertWait {q p : Nat × Wait} {l : List (Nat × Wait)} : q ∈ insertWait p l ↔ q = p ∨ q ∈ l := by
  induction l with
  | nil => simp [insertWait]
  | cons a l ih =>
    unfold insertWait
    split
    · simp
    · rw [List.mem_cons, ih, List.mem_cons, or_left_comm]

theorem mem_foldl_insertWait {q : Nat × Wait} (l m : List (Nat × Wait)) : q ∈ l.foldl (fun l q => insertWait q l) m ↔ q ∈ l ∨ q ∈ m := by
  induction l generalizing m with
  | nil => simp
  | cons a l ih => rw [List.foldl_cons, ih, mem_insertWait, List.mem_cons, ← or_assoc, or_comm (a := q ∈ l)]

/-- The waits of some callers that have reached their release. -/
theorem mem_dueWaits {q : Nat × Wait} {ws : List Nat} : q ∈ s.dueWaits ws c ↔ q.1 ∈ ws ∧ q.2 ∈ (s.caller q.1).waits ∧ q.2.r ≤ c := by
  unfold State.dueWaits
  rw [mem_foldl_insertWait]
  obtain ⟨w, q⟩ := q
  simp only [List.not_mem_nil, or_false, List.mem_flatMap, List.mem_map, List.mem_filter, decide_eq_true_eq, Prod.mk.injEq]
  constructor
  · rintro ⟨v, hv, p, hp, rfl, rfl⟩
    exact ⟨hv, hp⟩
  · exact fun h => ⟨w, h.1, q, h.2, rfl, rfl⟩

/-- A fold that keeps the first part of a pair, whatever it does to the second. -/
theorem foldl_fst_unchanged {α β γ : Type} {f : β × γ → α → β × γ} {b : β} (l : List α) (h : ∀ a ∈ l, ∀ x, (f (b, x) a).1 = b) (x : γ) :
    (l.foldl f (b, x)).1 = b := by
  induction l generalizing x with
  | nil => rfl
  | cons a l ih =>
    have first : f (b, x) a = (b, (f (b, x) a).2) := Prod.ext (h a List.mem_cons_self x) rfl
    rw [List.foldl_cons, first]
    exact ih (fun c hc => h c (List.mem_cons_of_mem a hc)) _

/-- No wait completes whose condition does not hold. -/
theorem completeWaits_idle {ws : List Nat} (h : ∀ w ∈ ws, ∀ q ∈ (s.caller w).waits, q.r ≤ c → s.waitReady w q.form = false) :
    s.completeWaits ws c = s := by
  refine foldl_fst_unchanged _ (fun q hq held => ?_) _
  obtain ⟨hw, hmem, due⟩ := mem_dueWaits.1 hq
  dsimp only
  rw [h q.1 hw q.2 hmem due]
  split <;> rfl

theorem completeFence_none {w : Nat} (h : (s.caller w).fence = none) : s.completeFence w c = s := by
  unfold State.completeFence
  rw [h]

theorem release_idle (h : ∀ w ∈ s.callersOf d, (s.caller w).fence = none ∧ ∀ q ∈ (s.caller w).waits, q.r ≤ c → s.waitReady w q.form = false) :
    s.release d c = s := by
  unfold State.release
  rw [completeWaits_idle fun w hw => (h w hw).2]
  exact foldl_unchanged _ fun w hw => completeFence_none (h w hw).1

theorem fenceBlocked_none (h : ∀ w ∈ s.callersOf d, (s.caller w).fence = none) : s.fenceBlocked d c = [] := by
  unfold State.fenceBlocked
  rw [List.filter_eq_nil_iff]
  intro w hw
  simp [h w hw]

/-! ## What stands before an issue (R50, R679) -/

theorem foretell_idle {r : Nat} (upTo fuel : Nat) (hw : (s.domN r).words = false) (he : (s.domN r).evs = []) : s.foretell r upTo fuel = s := by
  cases fuel with
  | zero => exact flush_idle he
  | succ fuel =>
    unfold State.foretell
    dsimp only
    rw [flush_idle he, if_pos (by simp [hw])]

/-- A domain awaits nothing of regions that are not that far behind, or that have nothing to send. -/
theorem awaited_idle (he : (s.domN d).evs = [])
    (h : ∀ r, r < 8 → r ≠ d → (s.domN d).nt < (s.domN r).nt + crossMin ∨ ((s.domN r).words = false ∧ (s.domN r).evs = [])) : s.awaited d = false := by
  unfold State.awaited
  dsimp only
  rw [List.any_eq_false]
  intro r hr
  by_cases hd : r = d
  · simp [hd]
  · obtain near | ⟨hw, hev⟩ := h r (List.mem_range.1 hr) hd
    · simp [Nat.not_le.2 near]
    · rw [foretell_idle _ _ hw hev, he]
      simp

/-- Nothing stalls the next step cycle of a domain. -/
theorem blocked_idle (he : (s.domN d).evs = []) (hg : (s.domN d).gates = [])
    (hw : ∀ w ∈ s.callersOf d, (s.caller w).waits = [] ∧ (s.caller w).fence = none)
    (hr : ∀ r, r < 8 → r ≠ d → (s.domN d).nt < (s.domN r).nt + crossMin ∨ ((s.domN r).words = false ∧ (s.domN r).evs = []))
    (hl : 8 ≤ d → ∀ l, (s.link l).sending = []) : s.blocked d c = false := by
  have waits : s.dueWaits (s.callersOf d) c = [] := List.eq_nil_iff_forall_not_mem.2 fun q hq => by
    obtain ⟨hmem, hq, -⟩ := mem_dueWaits.1 hq
    exact List.not_mem_nil ((hw q.1 hmem).1 ▸ hq)
  have fences : s.fenceBlocked d c = [] := fenceBlocked_none fun w hmem => (hw w hmem).2
  have rotations : s.rotBlocked d c = [] := by simp [State.rotBlocked, he]
  have placements : s.placeBlocked d c = [] := by simp [State.placeBlocked, he]
  have gates : s.gateShut d = false := by simp [State.gateShut, hg, awaited_idle he hr]
  have die : (8 ≤ d && (!(s.landingMissing (d - 8) c).isEmpty || s.replayFull (d - 8) (slotsBy (s.domN d).cyc))) = false := by
    by_cases h8 : 8 ≤ d
    · have landing : s.landingMissing (d - 8) c = [] := by simp [State.landingMissing, Nat.add_sub_cancel' h8, he]
      simp [landing, replayFull_idle _ _ (hl h8)]
    · simp [h8]
  unfold State.blocked
  rw [waits, fences, rotations, placements, gates, die]
  rfl

/-! ## The cycle (R79, R84, R101) -/

/-- A domain whose next `k` step cycles have nothing before them has nothing before the next one. -/
theorem unhindered_blocked {k : Nat} (h : s.unhindered d k) : s.blocked d c = false := by
  obtain ⟨-, evs, -, gates, -, -, -, waits, regions, links⟩ := h
  exact blocked_idle evs gates waits (fun r hr hd => (regions r hr hd).imp_left (by omega)) links

/-- What a cycle does first, where nothing is to come and no wait completes. -/
theorem before_idle (he : (s.domN d).evs = []) (hh : (s.domN d).handed = [])
    (hw : ∀ w ∈ s.callersOf d, (s.caller w).fence = none ∧ ∀ q ∈ (s.caller w).waits, q.r ≤ c → s.waitReady w q.form = false)
    (hl : 8 ≤ d → ∀ l, (s.link l).sending = []) :
    (let t := (((s.flush d).arrivals d).sampleDue d c).release d c
     if 8 ≤ d then t.loadLinks (d - 8) (slotsBy (t.domN d).cyc) else t) = s := by
  rw [flush_idle he, arrivals_idle he, sampleDue_idle hh, release_idle hw]
  dsimp only
  split
  · next h8 => exact loadLinks_idle _ _ (hl h8)
  · rfl

/-- The step cycle of a domain is over (R79). -/
def pastCycle (nt : Nat) (x : Dom) : Dom := { x with nt := nt + 1, cyc := x.cyc + 1, left := x.left - 1, waited := 0 }

theorem cycle_unhindered {k : Nat} (h : s.unhindered d k) (hwords : ((s.hand d).domN d).words = true) (hlast : ((s.hand d).domN d).last = false)
    (hstop : ((s.hand d).domN d).stopPend = false) : s.cycle d = (s.hand d).modDom d (pastCycle (s.domN d).nt) := by
  have free := unhindered_blocked (c := (s.domN d).nt) h
  obtain ⟨issues, evs, handed, gates, -, -, -, waits, regions, links⟩ := h
  have running : s.running = true := by
    simp only [State.mayIssue, Bool.and_eq_true] at issues
    exact issues.1.1.1.1.1
  have noWait : ∀ w ∈ s.callersOf d, (s.caller w).fence = none ∧ ∀ q ∈ (s.caller w).waits, q.r ≤ (s.domN d).nt → s.waitReady w q.form = false :=
    fun w hw => ⟨(waits w hw).2, fun q hq => absurd ((waits w hw).1 ▸ hq) List.not_mem_nil⟩
  have past : ∀ y, (((s.hand d).modDom d (pastCycle y)).domN d).words = true ∧ (((s.hand d).modDom d (pastCycle y)).domN d).last = false
      ∧ (((s.hand d).modDom d (pastCycle y)).domN d).stopPend = false := fun y => by
    rw [modDom_domN]
    split
    · exact ⟨hwords, hlast, hstop⟩
    · exact ⟨hwords, hlast, hstop⟩
  have drained : ∀ t : State, (t.domN d).words = true → (t.domN d).last = false → (t.modDom d Dom.drained).endDrain d = t := fun t hw hl => by
    rw [modDom_self t d _ (by simp [Dom.drained, hl])]
    exact if_neg (by simp [hw])
  have start := before_idle evs handed noWait links
  unfold State.cycle
  dsimp only at start ⊢
  rw [start, if_neg (by simp [running]), if_neg (by simp [free])]
  have same : ((s.flushStarts d).pushes d (s.domN d).nt).release d (s.domN d).nt = s := by
    rw [State.flushStarts, runTo_idle _ _ _ evs, pushes_idle handed, release_idle noWait]
  rw [same, if_neg (by simp [running]), if_neg (by simp [free])]
  obtain ⟨hw, hl, hs⟩ := past (s.domN d).nt
  rw [show (fun x : Dom => { x with nt := (s.domN d).nt + 1, cyc := x.cyc + 1, left := x.left - 1, waited := 0 }) = pastCycle (s.domN d).nt from rfl,
    drained _ hw hl, if_neg (Bool.eq_false_iff.1 hs)]

end

/-! ## The hand-over (R79, R99, R194; log 99) -/

/-- From `s` to `t` clusters of a domain have named deliveries of their arrays afresh: reads of Y and starts of figures are scheduled, and nothing but the
names and what was read under earlier ones has changed (R194; log 99). -/
structure Foresees (d : Nat) (s t : State) : Prop where
  eq : t = { s with dom := t.dom, cl := t.cl }
  other : ∀ e, e ≠ d → t.domN e = s.domN e
  own : t.domN d = { s.domN d with evs := (t.domN d).evs }
  evs : ∀ e ∈ (t.domN d).evs, e ∈ (s.domN d).evs ∨ ∃ n, e.k = .vxRead n ∨ e.k = .figStart n
  clus : ∀ n, t.clus n = { s.clus n with vx := { (s.clus n).vx with ahead := (t.clus n).vx.ahead, figs := (t.clus n).vx.figs } }

section
variable {s t u : State} {d n : Nat}

theorem Foresees.refl (s : State) : Foresees d s s := ⟨rfl, fun _ _ => rfl, rfl, fun _ h => .inl h, fun _ => rfl⟩

theorem Foresees.trans (h : Foresees d s t) (k : Foresees d t u) : Foresees d s u where
  eq := k.eq.trans (by rw [h.eq])
  other e he := (k.other e he).trans (h.other e he)
  own := k.own.trans (by rw [h.own])
  evs e he := (k.evs e he).elim (h.evs e) .inr
  clus n := (k.clus n).trans (by rw [h.clus])

theorem Foresees.regionOf (h : Foresees d s t) : t.regionOf n = s.regionOf n := by rw [h.eq]; rfl

/-- Steps that name deliveries afresh, for each element of a list. -/
theorem Foresees.foldl {α : Type} {f : State → α → State} (l : List α) (s : State)
    (hf : ∀ t, Foresees d s t → ∀ a ∈ l, Foresees d t (f t a)) : Foresees d s (l.foldl f s) := by
  suffices all : ∀ (m : List α) (t : State), (∀ a ∈ m, a ∈ l) → Foresees d s t → Foresees d s (m.foldl f t) from all l s (fun _ h => h) (.refl s)
  intro m
  induction m with
  | nil => exact fun t _ h => h
  | cons a m ih =>
    exact fun t sub h => ih _ (fun b hb => sub b (List.mem_cons_of_mem a hb)) (h.trans (hf t h a (sub a List.mem_cons_self)))

theorem mem_insertEv {e x : Ev} {l : List Ev} : e ∈ insertEv x l → e = x ∨ e ∈ l := by
  induction l with
  | nil => simp [insertEv]
  | cons a l ih =>
    unfold insertEv
    split
    · simp
    · rw [List.mem_cons, List.mem_cons]
      rintro (h | h)
      · exact .inr (.inl h)
      · exact (ih h).imp_right .inr

/-- A change of the effects to come in a domain. -/
theorem evs_foresees (f : List Ev → List Ev) (hf : ∀ e ∈ f (s.domN d).evs, e ∈ (s.domN d).evs ∨ ∃ n, e.k = .vxRead n ∨ e.k = .figStart n) :
    Foresees d s (s.modDom d fun x => { x with evs := f x.evs }) := by
  refine ⟨rfl, fun e he => modDom_domN_ne he _, ?_, ?_, fun _ => rfl⟩ <;> rw [modDom_domN] <;> split
  · rfl
  · rfl
  · exact hf
  · exact fun e he => .inl he

theorem post_foresees (t ph rank : Nat) (k : EvK) (m : Nat) (hk : k = .vxRead m ∨ k = .figStart m) : Foresees d s (s.post d t ph rank k) :=
  evs_foresees _ fun _ he => (mem_insertEv he).elim (fun h => .inr ⟨m, by rw [h]; exact hk⟩) .inl

theorem dropEvs_foresees (p : Ev → Bool) : Foresees d s (s.dropEvs d p) :=
  evs_foresees _ fun _ he => .inl (List.mem_of_mem_filter he)

theorem modVx_foresees (f : Vx → Vx) (hf : ∀ v, f v = { v with ahead := (f v).ahead, figs := (f v).figs }) : Foresees d s (s.modVx n f) := by
  refine ⟨rfl, fun _ _ => rfl, rfl, fun _ h => .inl h, fun m => ?_⟩
  unfold State.modVx
  rw [modCl_clus]
  split
  · next h =>
    rw [h.1]
    exact congrArg (fun v => { s.clus n with vx := v }) (hf _)
  · rfl

theorem schedVx_foresees (h : s.regionOf n = d) : Foresees d s (s.schedVx n) := by
  have dropped : Foresees d s (s.dropEvs d (·.k == .figStart n)) := dropEvs_foresees _
  unfold State.schedVx
  dsimp only
  rw [h]
  split
  · exact dropped
  · split
    · exact dropped.trans (post_foresees _ _ _ _ n (.inr rfl))
    · exact dropped

theorem Foresees.schedVx (h : s.regionOf n = d) (k : Foresees d s t) : Foresees d s (t.schedVx n) :=
  k.trans (schedVx_foresees (k.regionOf.trans h))

theorem readAhead_foresees {l : Nat} (h : s.regionOf n = d) : Foresees d s (s.post (s.regionOf n) (l - 10) phRead 2 (.vxRead n)) := by
  rw [h]
  exact post_foresees _ _ _ _ n (.inl rfl)

theorem foreseeVx_foresees (stamps : List Nat) (h : s.regionOf n = d) : Foresees d s (s.foreseeVx n stamps) := by
  unfold State.foreseeVx
  dsimp only
  split
  · exact .refl s
  · have named : Foresees d s (s.modVx n fun v => { v with ahead := stamps }) := modVx_foresees _ fun _ => rfl
    refine Foresees.schedVx h (.trans (named.trans (modVx_foresees _ ?reread)) (.foldl _ _ fun t k l _ => readAhead_foresees (k.regionOf.trans h)))
    exact fun _ => rfl

theorem foreseeDrains_foresees (l : List Handed) (h : ∀ g ∈ l, g.ctx.pbit < 192 → s.regionOf (g.ctx.pbit / 4) = d) :
    Foresees d s (s.foreseeDrains l) := by
  refine .foldl _ s fun t k g hg => ?_
  simp only [List.mem_filter, Bool.and_eq_true, decide_eq_true_eq] at hg
  obtain ⟨hmem, ⟨hp, -⟩, -⟩ := hg
  exact foreseeVx_foresees _ (k.regionOf.trans (h g hmem hp))

end

section
variable {s : State} {d : Nat}

/-- The commands that a domain's section issues in a cycle, as handed to their callers (R79, R101). -/
def issued (s : State) (d : Nat) (c : Cursor) : List Handed :=
  handedOf { t := (s.domN d).nt, bar := (s.domN d).bar, beat := (s.domN d).beat, cyc := (s.domN d).cyc } c (s.domN d).seg (s.domN d).run
    ((s.tick c).1.filter fun q => s.ownSlot d q.1)

theorem issued_slots (s : State) (d : Nat) (c : Cursor) :
    (issued s d c).map (fun g => (g.ctx.pbit, g.len, g.ctx.op, g.cw)) = (s.tick c).1.filter (fun g => s.ownSlot d g.1) := by
  unfold issued handedOf
  rw [List.map_map]
  exact List.map_id _

theorem ctx_of_issued {c : Cursor} {g : Handed} (h : g ∈ issued s d c) :
    s.ownSlot d g.ctx.pbit = true ∧ g.ctx.t = (s.domN d).nt ∧ g.ctx.bar = (s.domN d).bar ∧ g.ctx.beat = (s.domN d).beat ∧ g.ctx.cyc = (s.domN d).cyc
      ∧ g.ctx.step = c.pc ∧ g.ctx.seg = (s.domN d).seg ∧ g.ctx.run = (s.domN d).run ∧ g.ctx.idx = c.idx := by
  obtain ⟨q, hq, rfl⟩ := List.mem_map.1 h
  exact ⟨(List.mem_filter.1 hq).2, rfl, rfl, rfl, rfl, rfl, rfl, rfl, rfl⟩

theorem regionOf_of_ownSlot {p : Nat} (h : s.ownSlot d p = true) (hp : p < 192) : s.regionOf (p / 4) = d := by
  unfold State.ownSlot at h
  rw [if_pos hp, Bool.and_eq_true, beq_iff_eq] at h
  exact h.2

/-- A domain with one section once its cycle's commands are handed over. -/
def handOver (l : List Handed) (c : Cursor) (x : Dom) : Dom := { x with handed := x.handed ++ l, head := some c, tailc := none }

theorem hand_eq {c : Cursor} (hc : (s.domN d).head = some c) (ht : (s.domN d).tailc = none) :
    s.hand d = (s.modDom d (handOver (issued s d c) (s.tick c).2)).foreseeDrains (issued s d c) := by
  unfold State.hand
  dsimp only
  rw [hc, ht]
  simp only [List.append_nil]
  rfl

/-- A cycle of one section with nothing before it hands over its commands, names deliveries afresh, and is over. -/
theorem cycle_of_section {k : Nat} {c : Cursor} (h : s.unhindered d k) (hc : (s.domN d).head = some c) :
    s.cycle d = (s.hand d).modDom d (pastCycle (s.domN d).nt)
      ∧ Foresees d (s.modDom d (handOver (issued s d c) (s.tick c).2)) (s.hand d) := by
  have unhindered := h
  obtain ⟨issues, -, -, -, stop, last, tail, -⟩ := h
  have named : Foresees d (s.modDom d (handOver (issued s d c) (s.tick c).2)) (s.hand d) := by
    rw [hand_eq hc tail]
    exact foreseeDrains_foresees _ fun g hg hp => regionOf_of_ownSlot (ctx_of_issued hg).1 hp
  have words : (s.domN d).words = true := by
    simp only [State.mayIssue, Bool.and_eq_true] at issues
    exact issues.1.1.2
  have flags : ((s.hand d).domN d).words = true ∧ ((s.hand d).domN d).last = false ∧ ((s.hand d).domN d).stopPend = false := by
    rw [named.own, modDom_domN]
    split
    · exact ⟨words, last, stop⟩
    · exact ⟨words, last, stop⟩
  obtain ⟨hw, hl, hs⟩ := flags
  exact ⟨cycle_unhindered unhindered hw hl hs, named⟩

/-- A domain with one section after a step cycle. -/
def stepped (s : State) (d : Nat) (c : Cursor) (evs : List Ev) : Dom :=
  { pastCycle (s.domN d).nt (s.domN d) with handed := issued s d c, head := some (s.tick c).2, evs }

/-- What a cycle of one section with nothing before it leaves (R79, R194). -/
theorem stepCycle_spec {k : Nat} {c : Cursor} (hd : d < 10) (h : s.unhindered d k) (hc : (s.domN d).head = some c) :
    let t := s.cycle d
    t.domN d = stepped s d c (t.domN d).evs ∧ (∀ e, e ≠ d → t.domN e = s.domN e) ∧ t = { s with dom := t.dom, cl := t.cl }
      ∧ ((∀ g ∈ issued s d c, ¬ (g.ctx.pbit < 192 ∧ g.ctx.pbit % 4 = 0 ∧ g.ctx.op = 4)) → (t.domN d).evs = [] ∧ t.cl = s.cl)
      ∧ (∀ e ∈ (t.domN d).evs, ∃ n, e.k = .vxRead n ∨ e.k = .figStart n)
      ∧ ∀ n, t.clus n = { s.clus n with vx := { (s.clus n).vx with ahead := (t.clus n).vx.ahead, figs := (t.clus n).vx.figs } } := by
  intro t
  obtain ⟨cycle, named⟩ := cycle_of_section h hc
  obtain ⟨-, evs, handed, -, -, -, tail, -⟩ := h
  have past : t = (s.hand d).modDom d (pastCycle (s.domN d).nt) := cycle
  have handedOver : (s.modDom d (handOver (issued s d c) (s.tick c).2)).domN d = handOver (issued s d c) (s.tick c).2 (s.domN d) := by
    rw [modDom_domN, if_pos ⟨rfl, hd⟩]
  have own : t.domN d = pastCycle (s.domN d).nt ((s.hand d).domN d) := by rw [past, modDom_domN, if_pos ⟨rfl, hd⟩]
  have later : (t.domN d).evs = ((s.hand d).domN d).evs := by
    rw [own]
    rfl
  refine ⟨?_, fun e he => ?_, ?_, fun plain => ?_, fun e he => ?_, fun n => ?_⟩
  · rw [later, own, named.own, handedOver]
    simp only [pastCycle, handOver, stepped, handed, List.nil_append, tail]
  · rw [past, modDom_domN_ne he, named.other e he, modDom_domN_ne he]
  · have eq := named.eq
    rw [past]
    unfold State.modDom at eq ⊢
    rw [eq]
  · have none : s.hand d = s.modDom d (handOver (issued s d c) (s.tick c).2) := by
      rw [hand_eq hc tail, State.foreseeDrains, List.filter_eq_nil_iff.2 fun g hg => ?_]
      · rfl
      · simpa [and_assoc] using plain g hg
    rw [later, past, none, handedOver]
    exact ⟨evs, rfl⟩
  · rw [later] at he
    obtain old | new := named.evs e he
    · rw [handedOver] at old
      exact absurd (evs ▸ old) List.not_mem_nil
    · exact new
  · rw [past]
    exact named.clus n

/-! ## The rows of STEP and REST records (R61, R79, R84, R85) -/

theorem kinds_of_section {c : Cursor} (hc : (s.domN d).head = some c) (ht : (s.domN d).tailc = none) : s.kinds d = [s.kindAt c] := by
  simp [State.kinds, Dom.active, hc, ht]

theorem exec_stepRecord_held {d : Fin 10} (h : s.mayIssue d = false) : exec (.stepRecord d) s = .next s :=
  congrArg (commit s) (if_neg (by simp [h]))

theorem exec_stepRecord {d : Fin 10} {c : Cursor} (h : s.mayIssue d = true) (hc : (s.domN d).head = some c) (ht : (s.domN d).tailc = none)
    (hk : s.kindAt c = 1) : exec (.stepRecord d) s = .next (s.after (s.cycle d)) :=
  congrArg (commit s) (if_pos (by simp [h, kinds_of_section hc ht, hk]))

theorem restGo_held (at_ : List Nat) (k : Nat) (h : s.mayIssue d = false) : s.restGo d at_ k = s := by
  cases k with
  | zero => rfl
  | succ k => exact if_neg (by simp [h])

theorem exec_restRecord_held {d : Fin 10} (cycles : Nat) (h : s.mayIssue d = false) : exec (.restRecord (d, cycles)) s = .next s :=
  congrArg (commit s) (restGo_held _ _ h)

theorem exec_restRecord {d : Fin 10} {c : Cursor} (cycles : Nat) (hc : (s.domN d).head = some c) (ht : (s.domN d).tailc = none) :
    exec (.restRecord (d, cycles)) s = .next (s.after (s.restGo d [c.pc] (min cycles (s.domN d).left))) := by
  have place : (s.domN d).active.map (·.pc) = [c.pc] := by simp [Dom.active, hc, ht]
  rw [← place]
  rfl

/-- The cycles that a rest at a place has still to count, at least one (R84). -/
def restLen (s : State) (c : Cursor) : Nat := max 1 (if c.rest = 0 then bits (s.rtWord c.pc) 15 0 else c.rest)

/-- A place after some cycles of its rest. -/
def restAfter (s : State) (c : Cursor) (k : Nat) : Cursor :=
  if k = restLen s c then { c with pc := c.pc + 1, rest := 0 } else { c with rest := restLen s c - k }

theorem restLen_pos (s : State) (c : Cursor) : 1 ≤ restLen s c := Nat.le_max_left ..

/-- Inside a rest the place holds what is left of it. -/
theorem restLen_inside (s : State) (c : Cursor) {n : Nat} (h : n ≠ 0) : restLen s { c with rest := n } = n := by
  unfold restLen
  dsimp only
  rw [if_neg h]
  exact Nat.max_eq_right (Nat.one_le_iff_ne_zero.2 h)

theorem tick_rest {c : Cursor} (hk : s.kindAt c = 2) : s.tick c = ([], restAfter s c 1) := by
  unfold State.tick
  rw [if_neg (by simp [hk]), if_pos hk]
  dsimp only
  unfold restAfter restLen
  generalize (if c.rest = 0 then bits (s.rtWord c.pc) 15 0 else c.rest) = n
  by_cases h : n ≤ 1
  · rw [if_pos h, if_pos (by omega)]
  · rw [if_neg h, if_neg (by omega), Nat.max_eq_right (by omega)]

/-- A domain after some cycles of a rest. -/
def rested (k : Nat) (c : Cursor) (x : Dom) : Dom := { x with nt := x.nt + k, cyc := x.cyc + k, left := x.left - k, waited := 0, head := some c }

theorem modDom_congr {f g : Dom → Dom} (h : f (s.domN d) = g (s.domN d)) : s.modDom d f = s.modDom d g := by
  have same : vmod s.dom d f = vmod s.dom d g := by
    unfold vmod
    split
    · next hd =>
      have at_d : f s.dom[d] = g s.dom[d] := by simpa [State.domN, hd] using h
      rw [at_d]
    · rfl
  exact congrArg (fun v => { s with dom := v }) same

/-- One cycle of a rest. -/
theorem cycle_rest {k : Nat} {c : Cursor} (h : s.unhindered d k) (hc : (s.domN d).head = some c) (hk : s.kindAt c = 2) :
    s.cycle d = s.modDom d (rested 1 (restAfter s c 1)) := by
  have cycle := (cycle_of_section h hc).1
  obtain ⟨-, -, handed, -, -, -, tail, -⟩ := h
  have quiet : s.hand d = s.modDom d (handOver [] (restAfter s c 1)) := by
    rw [hand_eq hc tail, issued, tick_rest hk]
    rfl
  rw [cycle, quiet, modDom_modDom]
  refine modDom_congr ?_
  simp only [pastCycle, handOver, rested, List.append_nil, tail]

/-- After a cycle of a rest a domain is as little hindered in what is left of the cycles. -/
theorem unhindered_rested {k : Nat} {c : Cursor} (hd : d < 10) (h : s.unhindered d (k + 1)) (hleft : 1 < (s.domN d).left) :
    (s.modDom d (rested 1 c)).unhindered d k := by
  obtain ⟨issues, evs, handed, gates, stop, last, tail, waits, regions, links⟩ := h
  have own : (s.modDom d (rested 1 c)).domN d = rested 1 c (s.domN d) := by rw [modDom_domN, if_pos ⟨rfl, hd⟩]
  simp only [State.mayIssue, Bool.and_eq_true, bne_iff_ne] at issues
  obtain ⟨hrun, -⟩ := issues
  refine ⟨?_, by rw [own]; exact evs, by rw [own]; exact handed, by rw [own]; exact gates, by rw [own]; exact stop, by rw [own]; exact last,
    by rw [own]; exact tail, waits, fun r hr hne => ?_, links⟩
  · simp only [State.mayIssue, Bool.and_eq_true, bne_iff_ne, own]
    exact ⟨hrun, by simp only [rested]; omega⟩
  · rw [own, modDom_domN_ne hne]
    exact (regions r hr hne).imp_left fun near => by simp only [rested]; omega

theorem restGo_step {c : Cursor} (m : Nat) (h : s.mayIssue d = true) (hc : (s.domN d).head = some c) (ht : (s.domN d).tailc = none)
    (hk : s.kindAt c = 2) : s.restGo d [c.pc] (m + 1) = (s.cycle d).restGo d [c.pc] m :=
  if_pos (by simp [h, kinds_of_section hc ht, hk, Dom.active, hc, ht])

/-- A rest that has been counted out issues no more. -/
theorem restGo_past {c : Cursor} {p : Nat} (m : Nat) (hc : (s.domN d).head = some c) (ht : (s.domN d).tailc = none) (hp : c.pc ≠ p) :
    s.restGo d [p] m = s := by
  cases m with
  | zero => rfl
  | succ m => exact if_neg (by simp [Dom.active, hc, ht, hp])

/-- A first cycle of a rest, and further ones from the place after it. -/
theorem rested_rested {c e : Cursor} (k : Nat) : (s.modDom d (rested 1 c)).modDom d (rested k e) = s.modDom d (rested (k + 1) e) := by
  rw [modDom_modDom]
  refine modDom_congr ?_
  simp only [rested, Nat.add_assoc, Nat.sub_sub, Nat.add_comm 1 k]

/-- The first cycle of a rest. -/
theorem restGo_first {k : Nat} {c : Cursor} (m : Nat) (h : s.unhindered d k) (hc : (s.domN d).head = some c) (hk : s.kindAt c = 2) :
    s.restGo d [c.pc] (m + 1) = (s.modDom d (rested 1 (restAfter s c 1))).restGo d [c.pc] m := by
  have cycle := cycle_rest h hc hk
  obtain ⟨issues, -, -, -, -, -, tail, -⟩ := h
  rw [restGo_step m issues hc tail hk, cycle]

/-- As many cycles of a rest are issued as the fuel and the rest allow. -/
theorem restGo_unhindered (hd : d < 10) (m : Nat) {s : State} {c : Cursor} (hc : (s.domN d).head = some c) (hk : s.kindAt c = 2)
    (fits : m + 1 ≤ (s.domN d).left) (h : s.unhindered d (min (m + 1) (restLen s c))) :
    s.restGo d [c.pc] (m + 1) = s.modDom d (rested (min (m + 1) (restLen s c)) (restAfter s c (min (m + 1) (restLen s c)))) := by
  induction m generalizing s c with
  | zero =>
    rw [restGo_first 0 h hc hk, Nat.min_eq_left (restLen_pos s c)]
    rfl
  | succ m ih =>
    have pos := restLen_pos s c
    have own : ∀ e, (s.modDom d (rested 1 e)).domN d = rested 1 e (s.domN d) := fun e => by rw [modDom_domN, if_pos ⟨rfl, hd⟩]
    rw [restGo_first (m + 1) h hc hk]
    by_cases out : restLen s c = 1
    · -- the rest is counted out
      have past : restAfter s c 1 = { c with pc := c.pc + 1, rest := 0 } := if_pos out.symm
      obtain ⟨-, -, -, -, -, -, tail, -⟩ := h
      rw [out, Nat.min_eq_right (by omega), past]
      exact restGo_past _ (c := { c with pc := c.pc + 1, rest := 0 }) (by rw [own]; rfl) (by rw [own]; exact tail) (Nat.succ_ne_self c.pc)
    · -- the rest goes on from its next cycle
      have further : restAfter s c 1 = { c with rest := restLen s c - 1 } := if_neg (Ne.symm out)
      have some_left : restLen s c - 1 ≠ 0 := by omega
      have len : ∀ t : State, restLen t { c with rest := restLen s c - 1 } = restLen s c - 1 := fun t => restLen_inside t c some_left
      have split : min (m + 1 + 1) (restLen s c) = min (m + 1) (restLen s c - 1) + 1 := by omega
      rw [split] at h ⊢
      have rest := ih (s := s.modDom d (rested 1 { c with rest := restLen s c - 1 })) (c := { c with rest := restLen s c - 1 }) (by rw [own]; rfl)
        (if_neg some_left) (by rw [own]; simp only [rested]; omega) (by rw [len]; exact unhindered_rested hd h (by omega))
      rw [len] at rest
      rw [further]
      refine rest.trans ((rested_rested _).trans (congrArg (fun e => s.modDom d (rested _ e)) ?_))
      unfold restAfter
      rw [len]
      by_cases whole : min (m + 1) (restLen s c - 1) = restLen s c - 1
      · rw [if_pos whole, if_pos (by omega)]
      · rw [if_neg whole, if_neg (by omega), Nat.sub_sub, Nat.add_comm 1]

end

/-! ## Stalled cycles (R50, R61, R285) -/

/-- The waits of a caller once a stalled cycle counts for those that have reached their release. -/
def countWaits (c : Nat) (l : List Wait) : List Wait := l.map fun q => if q.r ≤ c then { q with stalls := q.stalls + 1 } else q

/-- A caller once a stalled cycle counts for its waits, and for its FENCE where it is one of those that hold. -/
def countHeld (fen : List Nat) (c w : Nat) (k : Caller) : Caller :=
  { k with waits := countWaits c k.waits
           fence := k.fence.map fun f => if fen.contains w then { f with stalls := f.stalls + 1 } else f }

/-- A cluster once a stalled cycle counts for the placements that lack granules. -/
def countPlaced (rot plc : List (Nat × Nat)) (w : Nat) (k : Cluster) : Cluster :=
  { k with rotating := k.rotating.map fun q => if rot.contains (w, q.id) then { q with stalls := q.stalls + 1 } else q
           placing := k.placing.map fun q => if plc.contains (w, q.id) then { q with stalls := q.stalls + 1 } else q }

/-- A stalled cycle counts at a caller. -/
def countCaller (rot plc : List (Nat × Nat)) (fen : List Nat) (c : Nat) (s : State) (w : Nat) : State :=
  if w < 48 then (s.modCaller w (countHeld fen c w)).modCl w (countPlaced rot plc w) else s.modCaller w (countHeld fen c w)

section
variable {s : State} {d c : Nat}

theorem modCl_caller_of_keeps {n : Nat} {f : Cluster → Cluster} (hf : ∀ k, (f k).caller = k.caller) (v : Nat) : (s.modCl n f).caller v = s.caller v := by
  unfold State.caller
  split
  · rw [modCl_clus]
    split
    · next h => rw [hf, h.1]
    · rfl
  · rfl

theorem countCaller_domN (rot plc : List (Nat × Nat)) (fen : List Nat) (w e : Nat) : (countCaller rot plc fen c s w).domN e = s.domN e := by
  unfold countCaller
  split <;> rfl

theorem countCaller_waits (rot plc : List (Nat × Nat)) (fen : List Nat) (w v : Nat) :
    ((countCaller rot plc fen c s w).caller v).waits = if v = w ∧ v < 50 then countWaits c (s.caller v).waits else (s.caller v).waits := by
  have counted : ((s.modCaller w (countHeld fen c w)).caller v).waits
      = if v = w ∧ v < 50 then countWaits c (s.caller v).waits else (s.caller v).waits := by
    rw [modCaller_caller]
    split <;> rfl
  unfold countCaller
  split
  · rw [modCl_caller_of_keeps (f := countPlaced rot plc w) fun _ => rfl, counted]
  · exact counted

theorem countCallers_domN (rot plc : List (Nat × Nat)) (fen : List Nat) (ws : List Nat) (e : Nat) :
    (ws.foldl (countCaller rot plc fen c) s).domN e = s.domN e := by
  induction ws generalizing s with
  | nil => rfl
  | cons w ws ih => rw [List.foldl_cons, ih, countCaller_domN]

/-- Each caller of a list without repetitions counts once. -/
theorem countCallers_waits (rot plc : List (Nat × Nat)) (fen : List Nat) {ws : List Nat} (once : ws.Nodup) (h50 : ∀ w ∈ ws, w < 50) (v : Nat) :
    ((ws.foldl (countCaller rot plc fen c) s).caller v).waits = if v ∈ ws then countWaits c (s.caller v).waits else (s.caller v).waits := by
  induction ws generalizing s with
  | nil => rfl
  | cons w ws ih =>
    obtain ⟨fresh, once⟩ := List.nodup_cons.1 once
    rw [List.foldl_cons, ih once fun u hu => h50 u (List.mem_cons_of_mem w hu), countCaller_waits]
    by_cases hv : v = w
    · subst hv
      simp [fresh, h50 v List.mem_cons_self]
    · simp [hv]

/-- A domain after a stalled cycle. -/
def stalledDom (x : Dom) : Dom := { x with left := x.left - 1, stalls := x.stalls + 1, waited := x.waited + 1 }

/-- What goes on in a domain whose step time stands (R50, R148, R308, R335). -/
def goOn (s : State) (d : Nat) : State :=
  let x := s.domN d
  let t := s.signals d x.nt (x.nt + x.waited)
  if d < 8 then (t.ofRegion d).foldl (fun (u : State) n => u.arrayOn n (some (x.nt + x.waited)) 4096) t else t

theorem goOn_idle (h : (s.domN d).evs = []) : goOn s d = s := by
  unfold goOn
  dsimp only
  rw [signals_idle h]
  split
  · refine foldl_unchanged _ fun n hn => arrayOn_idle ?_
    rw [(mem_ofRegion.1 hn).2]
    exact h
  · rfl

/-- A stalled cycle of a domain to which nothing is to come. -/
theorem stallCycle_idle (h : (s.domN d).evs = []) : s.stallCycle d = s.modDom d stalledDom := by
  have begun : s.stallCycle d = goOn (s.modDom d stalledDom) d := rfl
  refine begun.trans (goOn_idle ?_)
  rw [modDom_domN]
  split <;> exact h

theorem countStalls_idle (h : (s.domN d).evs = []) : s.countStalls d c
    = ((s.callersOf d).foldl (countCaller (s.rotBlocked d c) (s.placeBlocked d c) (s.fenceBlocked d c) c) s).modDom d stalledDom :=
  stallCycle_idle (s := (s.callersOf d).foldl (countCaller (s.rotBlocked d c) (s.placeBlocked d c) (s.fenceBlocked d c) c) s)
    ((congrArg Dom.evs (countCallers_domN _ _ _ _ d)).trans h)

/-- The callers of a domain are distinct, clusters or sequencers. -/
theorem callersOf_nodup (d : Nat) : (s.callersOf d).Nodup := by
  unfold State.callersOf State.ofRegion
  split
  · exact List.nodup_range.filter _
  · exact List.nodup_singleton _

theorem callersOf_lt (hd : d < 10) : ∀ w ∈ s.callersOf d, w < 50 := by
  intro w hw
  unfold State.callersOf at hw
  split at hw
  · have range : w < s.lcMax := (mem_ofRegion.1 hw).1
    have most : s.lcMax ≤ 48 := (List.length_filter_le ..).trans (Nat.le_of_eq List.length_range)
    omega
  · have := List.mem_singleton.1 hw
    omega

/-- A cycle that a wait holds, where nothing is to come and no wait that is due can complete. -/
theorem cycle_stalled (hrun : s.running = true) (he : (s.domN d).evs = []) (hh : (s.domN d).handed = []) (hs : (s.domN d).stopPend = false)
    (hl : 8 ≤ d → ∀ l, (s.link l).sending = [])
    (hw : ∀ w ∈ s.callersOf d, (s.caller w).fence = none ∧ ∀ q ∈ (s.caller w).waits, q.r ≤ (s.domN d).nt → s.waitReady w q.form = false)
    (due : ∃ w ∈ s.callersOf d, ∃ q ∈ (s.caller w).waits, q.r ≤ (s.domN d).nt) : s.cycle d = s.countStalls d (s.domN d).nt := by
  obtain ⟨w, hmem, q, hq, hr⟩ := due
  have waiting : s.dueWaits (s.callersOf d) (s.domN d).nt ≠ [] := List.ne_nil_of_mem (mem_dueWaits.2 ⟨hmem, hq, hr⟩ : (w, q) ∈ _)
  have blocked : s.blocked d (s.domN d).nt = true := by simp [State.blocked, waiting]
  have start := before_idle he hh hw hl
  unfold State.cycle
  dsimp only at start ⊢
  rw [start, if_neg (by simp [hrun]), if_pos blocked]
  have going : ((s.countStalls d (s.domN d).nt).domN d).stopPend = false := by
    rw [countStalls_idle he, modDom_domN, countCallers_domN]
    split <;> exact hs
  exact if_neg (Bool.eq_false_iff.1 going)

end

/-! ## The obligation -/

/-- Settles O42: a STEP record is one such cycle (`cycle_of_section`), a REST record as many as it counts (`restGo_unhindered`), and a wait past its
release stalls (`cycle_stalled`). -/
theorem stepAndRestRecords : Obligations.StepAndRestRecords := by
  refine ⟨fun s d c hc => ⟨fun free hk => ?_, fun hk => ?_⟩, fun s d held => ⟨exec_stepRecord_held held, fun cycles => exec_restRecord_held cycles held⟩,
    fun s d c issues evs handed stop links tail hc hk waits due => ?_⟩
  · -- a STEP record
    obtain ⟨dom, other, eq, quiet, evs, clus⟩ := stepCycle_spec d.isLt free hc
    obtain ⟨issues, -, -, -, -, -, tail, -⟩ := free
    have ticked : (s.tick c).2 = { c with pc := c.pc + 1 + bits (s.rtWord c.pc) 47 32, map := (s.tick c).2.map } := by
      simp only [State.tick, if_pos hk]
    have handed : ((s.cycle d).domN d).handed = issued s d c := congrArg Dom.handed dom
    refine ⟨s.cycle d, (s.tick c).2, exec_stepRecord issues hc tail hk, ?_, by rw [ticked], by rw [ticked], by rw [ticked], by rw [ticked], ?_, ?_,
      other, eq, ?_, evs, clus⟩
    · rw [dom]
      rfl
    · rw [handed]
      exact issued_slots s d c
    · rw [handed]
      exact fun g hg => (ctx_of_issued hg).2
    · rw [handed]
      exact quiet
  · -- a REST record
    intro n cycles some_cycle k free
    obtain ⟨issues, -, -, -, -, -, tail, -⟩ := id free
    have left : (s.domN d).left ≠ 0 := by
      simp only [State.mayIssue, Bool.and_eq_true, bne_iff_ne] at issues
      exact issues.2
    obtain ⟨m, hm⟩ : ∃ m, min cycles (s.domN d).left = m + 1 := Nat.exists_eq_succ_of_ne_zero (by omega)
    have count : k = min (m + 1) (restLen s c) := by rw [← hm]; simp only [k, n, restLen]; omega
    rw [count] at free ⊢
    refine ⟨_, exec_restRecord cycles hc tail, ?_⟩
    rw [hm, restGo_unhindered d.isLt m hc hk (by omega) free]
    refine ⟨?_, fun e he => modDom_domN_ne he _, rfl⟩
    rw [modDom_domN, if_pos ⟨rfl, d.isLt⟩]
    rfl
  · -- a wait past its release
    have running : s.running = true := by
      simp only [State.mayIssue, Bool.and_eq_true] at issues
      exact issues.1.1.1.1.1
    refine ⟨_, exec_stepRecord issues hc tail hk, ?_, fun w hw => ?_, fun e he => ?_⟩ <;>
      rw [cycle_stalled running evs handed stop links waits due, countStalls_idle evs]
    · rw [modDom_domN, if_pos ⟨rfl, d.isLt⟩, countCallers_domN]
      rfl
    · rw [modDom_caller, countCallers_waits _ _ _ (callersOf_nodup d) (callersOf_lt d.isLt), if_pos hw]
      rfl
    · rw [modDom_domN_ne he, countCallers_domN]

end Sys2Proof.Proofs.Issue
end

section
/-! What a boundary leaves alone: the monitors, the report and the holds of a beat touch nothing of the invocation and of the frame that has been taken. -/

namespace Sys2Proof.Proofs.Boundary

open Sys2Proof Sys2Proof.Machine Sys2Proof.Laws Sys2Proof.Proofs.HostService Sys2Proof.Proofs.Books Sys2Proof.Proofs.InvalidFrames

/-! ## Steps that keep the frame and the invocation -/

/-- Of the beat reference at most the holds and the report differ (R46). -/
structure SameFrame (b b' : BeatRef) : Prop where
  eq : b' = { b with holdReq := b'.holdReq, cause := b'.cause, lastCause := b'.lastCause, live := b'.live, report := b'.report, inHold := b'.inHold }

theorem SameFrame.refl (b : BeatRef) : SameFrame b b := ⟨rfl⟩

theorem SameFrame.trans {b b' b'' : BeatRef} (h : SameFrame b b') (k : SameFrame b' b'') : SameFrame b b'' := ⟨k.eq.trans (by rw [h.eq])⟩

theorem SameFrame.fields {b b' : BeatRef} (h : SameFrame b b') :
    b'.locked = b.locked ∧ b'.valid = b.valid ∧ b'.invalid = b.invalid ∧ b'.frame = b.frame ∧ b'.boundaries = b.boundaries ∧ b'.setting = b.setting
      ∧ b'.announced = b.announced ∧ b'.order = b.order ∧ b'.bar = b.bar ∧ b'.beat = b.beat ∧ b'.horizon = b.horizon
      ∧ b'.nextSetting = b.nextSetting ∧ b'.nextBar = b.nextBar := by
  and_intros <;> rw [h.eq]

/-- A domain with no open step words, no effect to come and no command on its way to its push. -/
def domRests (x : Dom) : Prop := x.words = false ∧ x.evs = [] ∧ x.handed = []

/-- From `s` to `t` the routine, the clusters, bank memory, the frame and the stage of bring-up are as before, and domains rest as before. -/
structure Steady (s t : State) : Prop where
  rt : t.rt = s.rt
  cl : t.cl = s.cl
  bank : t.bank = s.bank
  bringup : t.pow.bringup = s.pow.bringup
  frame : SameFrame s.beat t.beat
  dom : ∀ d, domRests (s.domN d) → domRests (t.domN d)

/-- What the monitors judge the next samples by is as before (R601, R603, R604). -/
structure SameMon (s t : State) : Prop where
  of : ∀ r, (t.monN r).sensors = (s.monN r).sensors ∧ (t.monN r).temp = (s.monN r).temp ∧ (t.monN r).steps = (s.monN r).steps
    ∧ (t.monN r).hot = (s.monN r).hot

/-- A steady step that leaves what the monitors judge the next samples by. -/
structure Watches (s t : State) : Prop extends Steady s t where
  mon : SameMon s t

section
variable {s t u : State}

theorem Steady.refl (s : State) : Steady s s := ⟨rfl, rfl, rfl, rfl, .refl _, fun _ h => h⟩

theorem Steady.trans (h : Steady s t) (k : Steady t u) : Steady s u :=
  ⟨k.rt.trans h.rt, k.cl.trans h.cl, k.bank.trans h.bank, k.bringup.trans h.bringup, h.frame.trans k.frame, fun d r => k.dom d (h.dom d r)⟩

theorem SameMon.trans (h : SameMon s t) (k : SameMon t u) : SameMon s u where
  of r := by
    obtain ⟨hs, ht, hp, hh⟩ := h.of r
    obtain ⟨ks, kt, kp, kh⟩ := k.of r
    exact ⟨ks.trans hs, kt.trans ht, kp.trans hp, kh.trans hh⟩

/-- Nothing of the power area has changed. -/
theorem sameMon_of_pow (h : t.pow = s.pow) : SameMon s t := ⟨fun r => by simp only [State.monN, h, and_self]⟩

theorem Watches.refl (s : State) : Watches s s := ⟨.refl s, sameMon_of_pow rfl⟩

theorem Watches.trans (h : Watches s t) (k : Watches t u) : Watches s u where
  toSteady := h.toSteady.trans k.toSteady
  mon := h.mon.trans k.mon

/-- A watching step, taken for each element of a list. -/
theorem Watches.foldl {α : Type} {f : State → α → State} (hf : ∀ t a, Watches t (f t a)) (l : List α) (s : State) : Watches s (l.foldl f s) := by
  induction l generalizing s with
  | nil => exact .refl s
  | cons a l ih => exact (hf s a).trans (ih _)

/-- A change of other fields than these. -/
theorem watches_of_fields (rt : t.rt = s.rt) (cl : t.cl = s.cl) (bank : t.bank = s.bank) (pow : t.pow = s.pow) (frame : SameFrame s.beat t.beat)
    (dom : t.dom = s.dom) : Watches s t where
  rt := rt
  cl := cl
  bank := bank
  bringup := congrArg Power.bringup pow
  frame := frame
  dom d := by simp only [State.domN, dom, imp_self]
  mon := sameMon_of_pow pow

/-- The books bear on nothing that a boundary takes. -/
theorem watches_of_records (h : Records s t) : Watches s t := by
  rw [h.eq]
  exact watches_of_fields rfl rfl rfl rfl (.refl _) rfl

end

/-! ## The monitors and the report (R46, R59, R596-R608) -/

section
variable (s : State)

theorem modMon_watches (r : Nat) (f : Monitor → Monitor)
    (hf : ∀ m, (f m).sensors = m.sensors ∧ (f m).temp = m.temp ∧ (f m).steps = m.steps ∧ (f m).hot = m.hot) : Watches s (s.modMon r f) where
  toSteady := ⟨rfl, rfl, rfl, rfl, .refl _, fun _ h => h⟩
  mon := ⟨fun q => by
    rw [modMon_monN]
    split
    · next h => exact h.1 ▸ hf _
    · exact ⟨rfl, rfl, rfl, rfl⟩⟩

theorem mons_watches {p : Power} (hb : p.bringup = s.pow.bringup) (f : Monitor → Monitor) (hm : p.mon = s.pow.mon.map f)
    (hf : ∀ m, (f m).sensors = m.sensors ∧ (f m).temp = m.temp ∧ (f m).steps = m.steps ∧ (f m).hot = m.hot) : Watches s { s with pow := p } where
  toSteady := ⟨rfl, rfl, rfl, hb, .refl _, fun _ h => h⟩
  mon := ⟨fun r => by
    simp only [State.monN, hm]
    split
    · rw [Vector.getElem_map]
      exact hf _
    · exact ⟨rfl, rfl, rfl, rfl⟩⟩

theorem modDom_watches (d : Nat) (f : Dom → Dom) (hf : ∀ x, domRests x → domRests (f x)) : Watches s (s.modDom d f) where
  toSteady := ⟨rfl, rfl, rfl, rfl, .refl _, fun e h => by
    rw [modDom_domN]
    split
    · next k => exact hf _ (k.1 ▸ h)
    · exact h⟩
  mon := sameMon_of_pow rfl

theorem clearCause_watches (cause who : Nat) : Watches s (s.clearCause cause who) := watches_of_fields rfl rfl rfl rfl ⟨rfl⟩ rfl

theorem event_watches (cause loc : Nat) (detail : Bytes) : Watches s (s.event cause loc detail) := watches_of_records (event_records ..)

theorem raiseHold_watches (cause who loc : Nat) (x : Ctx) : Watches s (s.raiseHold cause who loc none x) := by
  obtain ⟨beat, dom, cl, rt, pow, bank⟩ := raiseHold_fields s cause who loc x
  exact watches_of_fields rt cl bank pow (beat ▸ ⟨rfl⟩) dom

theorem holdAll_watches : Watches s s.holdAll := by
  obtain ⟨beat, dom, cl, rt, pow, bank⟩ := holdAll_fields s
  refine ⟨⟨rt, cl, bank, congrArg Power.bringup pow, beat ▸ ⟨rfl⟩, fun d h => ?_⟩, sameMon_of_pow pow⟩
  simp only [State.domN, dom] at h ⊢
  split
  · next hd =>
    rw [dif_pos hd] at h
    rw [Vector.getElem_map]
    exact h
  · exact ⟨rfl, rfl, rfl⟩

/-- A hold that is raised by no domain and that reaches the module (R46, R62). -/
theorem heldAll_watches (cause who loc : Nat) (x : Ctx) : Watches s (s.raiseHold cause who loc none x).holdAll :=
  (raiseHold_watches s cause who loc x).trans (holdAll_watches _)

theorem judgeDroop_watches (r : Nat) : Watches s (s.judgeDroop r) := by
  refine .trans (modMon_watches s r _ fun m => ?_) (modDom_watches _ r _ fun _ h => h)
  split_ifs <;> exact ⟨rfl, rfl, rfl, rfl⟩

theorem moveRails_watches : Watches s s.moveRails := mons_watches s rfl _ rfl fun _ => ⟨rfl, rfl, rfl, rfl⟩

theorem powerBeat_watches : Watches s s.powerBeat := by
  unfold State.powerBeat
  refine .trans ?written (moveRails_watches _)
  case written => exact mons_watches s rfl _ rfl fun _ => ⟨rfl, rfl, rfl, rfl⟩

theorem reportRegion_watches (r : Nat) : Watches s (s.reportRegion r) := by
  have overrides : ∀ t : State, Watches t { t with pow := { t.pow with overrides := t.pow.overrides + 1 } } := fun t =>
    mons_watches t rfl id (Vector.map_id _).symm fun _ => ⟨rfl, rfl, rfl, rfl⟩
  have unmet : ∀ t : State, Watches t { t with pow := { t.pow with unmet := t.pow.unmet + 1 } } := fun t =>
    mons_watches t rfl id (Vector.map_id _).symm fun _ => ⟨rfl, rfl, rfl, rfl⟩
  unfold State.reportRegion
  dsimp only
  refine .trans (.trans (.foldl (fun t k => ?_) _ s) (.foldl (fun t b => ?_) _ _)) (modMon_watches _ r _ fun _ => ⟨rfl, rfl, rfl, rfl⟩)
  · exact (event_watches ..).trans (overrides _)
  · exact (event_watches ..).trans (unmet _)

theorem reportAll_watches : Watches s s.reportAll := .foldl reportRegion_watches _ s

theorem reportNow_watches : Watches s (reportNow s) := watches_of_fields rfl rfl rfl rfl ⟨rfl⟩ rfl

theorem settleProtect_watches : Watches s s.settleProtect := by
  unfold State.settleProtect
  dsimp only
  split
  · exact clearCause_watches ..
  · exact .refl s

theorem settleLate_watches (e : Nat) : Watches s (s.settleLate e) := by
  unfold State.settleLate
  split
  · exact clearCause_watches ..
  · exact .refl s

end

/-! ## The samples of a beat (R601, R603, R604) -/

/-- A monitor with the samples of a beat for its region (R601, R603). -/
def sampleMon (s : State) (r : Nat) (temps : List Int) (m : Monitor) : Monitor :=
  let m := { m with sensors := Vector.ofFn fun (i : Fin 4) =>
    match temps[4 * r + i.val]? with
    | some v => m.sensors[i].take v
    | none => m.sensors[i].take 9999 }
  { m with temp := m.hottest, steps := Vector.ofFn fun (i : Fin 4) => m.steps[i].heat m.hottest (s.stepAt i) }

section
variable {s t : State} {r : Nat} {temps : List Int}

theorem sampleRegion_eq : s.sampleRegion r temps = s.modMon r (sampleMon s r temps) := by
  unfold State.sampleRegion sampleMon
  refine congrArg (s.modMon r) (funext fun m => ?_)
  rfl

/-- What the samples give follows from the sensors, the temperature and the steps before them. -/
theorem sampleMon_congr {m m' : Monitor} (hs : m'.sensors = m.sensors) (ht : m'.temp = m.temp) (hp : m'.steps = m.steps) :
    (sampleMon t r temps m').temp = (sampleMon s r temps m).temp ∧ (sampleMon t r temps m').step 3 = (sampleMon s r temps m).step 3 := by
  have hot : ∀ (x : State) (n : Monitor), (sampleMon x r temps n).step 3 = (n.steps[3].heat (sampleMon x r temps n).temp 1080).on := fun x n => by
    unfold Monitor.step sampleMon
    simp [State.stepAt]
  have temp : (sampleMon t r temps m').temp = (sampleMon s r temps m).temp := by
    unfold sampleMon Monitor.hottest
    simp only [hs, ht]
  exact ⟨temp, by rw [hot, hot, temp, hp]⟩

theorem samples_monN (l : List Nat) (once : l.Nodup) (hr : r < 8) : ((l.foldl (fun (s : State) q => s.sampleRegion q temps) s).monN r)
    = if r ∈ l then sampleMon s r temps (s.monN r) else s.monN r := by
  induction l generalizing s with
  | nil => rfl
  | cons q l ih =>
    obtain ⟨fresh, once⟩ := List.nodup_cons.1 once
    have same : sampleMon (s.modMon q (sampleMon s q temps)) r temps = sampleMon s r temps := rfl
    rw [List.foldl_cons, sampleRegion_eq, ih once, same, modMon_monN]
    by_cases h : r = q
    · subst h
      simp [fresh, hr]
    · simp [h]

/-- A monitor once the samples of a beat have been taken, but for the voltage of its rail. -/
theorem sensed_monN (e : Sense) (hr : r < 8) : ∃ v, (sensed s e).monN r = sampleMon s r e.temps { s.monN r with vcore := v } := by
  unfold sensed
  dsimp only
  rw [samples_monN _ List.nodup_range hr, if_pos (List.mem_range.2 hr)]
  simp only [State.monN, hr, ↓reduceDIte, Vector.getElem_ofFn]
  exact ⟨_, rfl⟩

theorem sensed_eq (s : State) (e : Sense) : sensed s e = { s with pow := (sensed s e).pow } := by
  unfold sensed
  dsimp only
  rw [samples_pow]

theorem samples_bringup (temps : List Int) (l : List Nat) (s : State) :
    (l.foldl (fun (s : State) r => s.sampleRegion r temps) s).pow.bringup = s.pow.bringup := by
  induction l generalizing s with
  | nil => rfl
  | cons q l ih =>
    rw [List.foldl_cons, ih]
    rfl

theorem sensed_steady (s : State) (e : Sense) : Steady s (sensed s e) where
  rt := by rw [sensed_eq]
  cl := by rw [sensed_eq]
  bank := by rw [sensed_eq]
  bringup := by
    unfold sensed
    dsimp only
    rw [samples_bringup]
  frame := by
    rw [sensed_eq]
    exact .refl _
  dom d h := by
    have dom : (sensed s e).dom = s.dom := by rw [sensed_eq]
    simpa only [State.domN, dom] using h

/-- No region trips with the samples of a beat that stays cool, and none raises a hold with those of a calm one, whatever has been watched before. -/
theorem sensed_of_sameMon (h : SameMon s t) (e : Sense) (hr : r < 8) :
    ((sensed t e).monN r).temp = ((s.sampleRegion r e.temps).monN r).temp
      ∧ ((sensed t e).monN r).step 3 = ((s.sampleRegion r e.temps).monN r).step 3
      ∧ ((sensed t e).monN r).hot = (s.monN r).hot := by
  obtain ⟨sensors, temp, steps, hot⟩ := h.of r
  obtain ⟨v, hv⟩ := sensed_monN (s := t) e hr
  rw [hv, sampleRegion_eq, modMon_monN, if_pos ⟨rfl, hr⟩]
  obtain ⟨ht, hp⟩ := sampleMon_congr (s := s) (t := t) (r := r) (temps := e.temps) (m := s.monN r) (m' := { t.monN r with vcore := v }) sensors temp steps
  exact ⟨ht, hp, hot⟩

theorem hotHold_steady (r : Nat) (s : State) : Steady s (s.hotHold r) := by
  have noted : Steady s (s.modMon r fun m => { m with hot := (s.monN r).step 3 }) := ⟨rfl, rfl, rfl, rfl, .refl _, fun _ h => h⟩
  unfold State.hotHold
  dsimp only
  split
  · exact noted
  · exact noted.trans ((event_watches ..).trans (heldAll_watches ..)).toSteady

theorem hotHolds_steady (l : List Nat) (s : State) : Steady s (l.foldl State.hotHold s) := by
  induction l generalizing s with
  | nil => exact .refl s
  | cons r l ih => exact (hotHold_steady r s).trans (ih _)

/-- The samples of a beat in which no region reaches 115 °C (R601, R604, R609). -/
theorem senseBeat_cool {e : Sense} (h : SameMon s t) (cool : s.cool e) : t.senseBeat e = (List.range 8).foldl State.hotHold (sensed t e) := by
  refine (senseBeat_eq t e).trans (if_neg ?_)
  simp only [List.any_eq_true, List.mem_range, decide_eq_true_eq, not_exists, not_and, not_le]
  intro r hr
  rw [(sensed_of_sameMon h e hr).1]
  exact cool r hr

theorem senseBeat_steady {e : Sense} (h : SameMon s t) (cool : s.cool e) : Steady t (t.senseBeat e) := by
  rw [senseBeat_cool h cool]
  exact (sensed_steady t e).trans (hotHolds_steady ..)

/-- From `s` to `t` monitors have changed, and no safe setting that is reported. -/
structure SameSafe (s t : State) : Prop where
  eq : t = { s with pow := t.pow }
  safe : ∀ r, (t.monN r).safe = (s.monN r).safe

theorem SameSafe.trans {u : State} (h : SameSafe s t) (k : SameSafe t u) : SameSafe s u where
  eq := k.eq.trans (by rw [h.eq])
  safe r := (k.safe r).trans (h.safe r)

theorem safeSetting_of_sameSafe (h : SameSafe s t) : t.safeSetting = s.safeSetting := by
  have mode : t.mode = s.mode := by rw [h.eq]
  have safe : t.pow.mon.map (·.safe) = s.pow.mon.map (·.safe) := by
    refine Vector.ext fun r hr => ?_
    have same := h.safe r
    simp only [State.monN, hr, ↓reduceDIte] at same
    simpa using same
  have folded : ∀ v : Vector Monitor 8, v.toList.foldl (fun m q => min m q.safe.toNat) 3 = (v.map (·.safe)).toList.foldl (fun m q => min m q.toNat) 3 :=
    fun v => by rw [Vector.toList_map, List.foldl_map]
  unfold State.safeSetting
  rw [folded, folded, safe, mode]

/-- What the report names (R46). -/
theorem reportFrame_congr (hid : t.moduleId = s.moduleId) (hold : t.beat.holdReq = s.beat.holdReq) (cause : t.beat.cause = s.beat.cause)
    (frozen : t.frozen = s.frozen) (ready : t.ready = s.ready) (at_ : t.frozenAt = s.frozenAt) (safe : t.safeSetting = s.safeSetting) :
    t.reportFrame = s.reportFrame := by
  unfold State.reportFrame
  simp only [hid, hold, cause, frozen, ready, at_, safe]

/-- The report names nothing of the monitors but the safe setting. -/
theorem reportFrame_of_sameSafe (h : SameSafe s t) : t.reportFrame = s.reportFrame := by
  refine reportFrame_congr ?_ ?_ ?_ ?_ ?_ ?_ (safeSetting_of_sameSafe h) <;> rw [h.eq] <;> rfl

/-- The report that is sent names no earlier one. -/
theorem reportFrame_reportNow (s : State) : (reportNow s).beat.report = (reportNow s).reportFrame :=
  (reportFrame_congr (s := s) (t := reportNow s) rfl rfl rfl rfl rfl rfl rfl).symm

/-- A region that is not newly at 108 °C raises no hold (R604). -/
def coolOrHot (m : Monitor) : Prop := m.step 3 = false ∨ m.hot = true

theorem hotHold_idle (h : coolOrHot (s.monN r)) : s.hotHold r = s.modMon r fun m => { m with hot := (s.monN r).step 3 } := by
  unfold State.hotHold
  dsimp only
  refine if_pos ?_
  rcases h with h | h <;> simp [h]

theorem hotHolds_idle (l : List Nat) (hl : ∀ r ∈ l, r < 8) (s : State) (h : ∀ r, r < 8 → coolOrHot (s.monN r)) : SameSafe s (l.foldl State.hotHold s) := by
  induction l generalizing s with
  | nil => exact ⟨rfl, fun _ => rfl⟩
  | cons r l ih =>
    rw [List.foldl_cons, hotHold_idle (h r (hl r List.mem_cons_self))]
    refine .trans ⟨rfl, fun q => ?_⟩ (ih (fun q hq => hl q (List.mem_cons_of_mem r hq)) _ fun q hq => ?_)
    · rw [modMon_monN]
      split
      · next k => rw [k.1]
      · rfl
    · rw [modMon_monN]
      split
      · exact (Bool.eq_false_or_eq_true _).symm
      · exact h q hq

theorem sensed_sameSafe (s : State) (e : Sense) : SameSafe s (sensed s e) := by
  refine ⟨sensed_eq s e, fun r => ?_⟩
  by_cases hr : r < 8
  · obtain ⟨v, hv⟩ := sensed_monN (s := s) e hr
    rw [hv]
    rfl
  · simp only [State.monN, hr, ↓reduceDIte]

/-- After the samples of a calm beat the report would be what it was (R46, R604). -/
theorem senseBeat_calm {e : Sense} (h : SameMon s t) (cool : s.cool e) (calm : s.calm e) : SameSafe t (t.senseBeat e) := by
  rw [senseBeat_cool h cool]
  refine (sensed_sameSafe t e).trans (hotHolds_idle _ (fun r hr => List.mem_range.1 hr) _ fun r hr => ?_)
  obtain ⟨-, step, hot⟩ := sensed_of_sameMon h e hr
  unfold coolOrHot
  rw [step, hot]
  exact calm r hr

/-! ## Boundaries before beat lock (R45, R612, R665) -/

/-- The module as it reports at a boundary before beat lock, but for the count of boundaries. -/
theorem beforeReport_watches (s : State) :
    Watches s.countBoundary ((List.range 8).foldl State.judgeDroop s.countBoundary.bankBeat).powerBeat.reportAll := by
  have used : Watches s.countBoundary s.countBoundary.bankBeat := watches_of_fields rfl rfl rfl rfl (.refl _) rfl
  exact (used.trans (.foldl judgeDroop_watches _ _)).trans ((powerBeat_watches _).trans (reportAll_watches _))

/-- A boundary before beat lock counts, reports and takes the samples of the beat (R45, R665). -/
theorem unlockedBeat_spec {e : Sense} (cool : s.cool e) :
    Steady s.countBoundary (s.unlockedBeat e) ∧ (s.calm e → (s.unlockedBeat e).beat.report = (s.unlockedBeat e).reportFrame) := by
  have reported := (beforeReport_watches s).trans (reportNow_watches _)
  have mon : SameMon s s.countBoundary := sameMon_of_pow rfl
  rw [unlockedBeat_eq]
  refine ⟨reported.toSteady.trans (senseBeat_steady (mon.trans reported.mon) cool), fun calm => ?_⟩
  have same := senseBeat_calm (mon.trans reported.mon) cool calm
  have report : ∀ {u v : State}, SameSafe u v → v.beat.report = u.beat.report := fun k => by rw [k.eq]
  rw [reportFrame_of_sameSafe same, report same]
  exact reportFrame_reportNow _

end

end Sys2Proof.Proofs.Boundary
end

section
/-! A module in which no routine runs and nothing of an invocation is left stays so through a boundary, which takes its frame and does what the
monitors, the links, the scrubbers and the fault records ask for. -/

namespace Sys2Proof.Proofs.AtRest

open Sys2Proof Sys2Proof.Machine Sys2Proof.Laws Sys2Proof.Proofs.HostService Sys2Proof.Proofs.Books Sys2Proof.Proofs.InvalidFrames
  Sys2Proof.Proofs.Holds Sys2Proof.Proofs.Boundary

/-! ## Steps that leave a module at rest -/

/-- From `s` to `t` a module at rest stays at rest, with the same frame and the same stage of bring-up. -/
structure Idles (s t : State) : Prop where
  rest : t.resting
  frame : SameFrame s.beat t.beat
  bringup : t.pow.bringup = s.pow.bringup
  mon : SameMon s t

section
variable {s t u : State}

theorem Idles.refl (hs : s.resting) : Idles s s := ⟨hs, .refl _, rfl, sameMon_of_pow rfl⟩

theorem Idles.trans (h : Idles s t) (k : Idles t u) : Idles s u :=
  ⟨k.rest, h.frame.trans k.frame, k.bringup.trans h.bringup, h.mon.trans k.mon⟩

/-- A step that leaves a module at rest, taken for each element of a list. -/
theorem Idles.foldl {α : Type} {f : State → α → State} (hs : s.resting) (hf : ∀ t a, t.resting → Idles t (f t a)) (l : List α) : Idles s (l.foldl f s) := by
  induction l generalizing s with
  | nil => exact .refl hs
  | cons a l ih =>
    have first := hf s a hs
    exact first.trans (ih first.rest)

/-- What a module at rest keeps. -/
theorem resting_of_steady (h : Steady s t) (hs : s.resting) : t.resting := by
  obtain ⟨run, dom, queues⟩ := hs
  refine ⟨?_, fun d hd => h.dom d (dom d hd), fun n hn => ?_⟩
  · unfold State.running
    rw [h.rt]
    exact run
  · unfold State.clus
    rw [h.cl]
    exact queues n hn

theorem idles_of_watches (h : Watches s t) (hs : s.resting) : Idles s t := ⟨resting_of_steady h.toSteady hs, h.frame, h.bringup, h.mon⟩

theorem Idles.watches (h : Idles s t) (k : Watches t u) : Idles s u := h.trans (idles_of_watches k h.rest)

/-- A change of other fields than these, also of the routine but for its state. -/
theorem idles_of_fields (hs : s.resting) (run : t.rt.runState = s.rt.runState) (cl : t.cl = s.cl) (pow : t.pow = s.pow)
    (frame : SameFrame s.beat t.beat) (dom : t.dom = s.dom) : Idles s t := by
  obtain ⟨still, doms, queues⟩ := hs
  refine ⟨⟨?_, ?_, ?_⟩, frame, congrArg Power.bringup pow, sameMon_of_pow pow⟩
  · unfold State.running
    rw [run]
    exact still
  · simpa only [State.domN, dom] using doms
  · simpa only [State.clus, cl] using queues

theorem modCl_idles (hs : s.resting) (n : Nat) (f : Cluster → Cluster) (hf : ∀ c, c.mx.q = [] → (f c).mx.q = []) : Idles s (s.modCl n f) := by
  obtain ⟨still, doms, queues⟩ := hs
  refine ⟨⟨still, doms, fun m hm => ?_⟩, .refl _, rfl, sameMon_of_pow rfl⟩
  rw [modCl_clus]
  split
  · next h => exact hf _ (h.1 ▸ queues m hm)
  · exact queues m hm

theorem modCls_idles (hs : s.resting) (f : Cluster → Cluster) (hf : ∀ c, c.mx.q = [] → (f c).mx.q = []) : Idles s (s.modCls f) := by
  obtain ⟨still, doms, queues⟩ := hs
  refine ⟨⟨still, doms, fun m hm => ?_⟩, .refl _, rfl, sameMon_of_pow rfl⟩
  have before := queues m hm
  simp only [State.clus, State.modCls, hm, ↓reduceDIte, Vector.getElem_map] at before ⊢
  exact hf _ before

theorem modDoms_watches (f : Dom → Dom) (hf : ∀ x, domRests x → domRests (f x)) : Watches s (s.modDoms f) := by
  refine ⟨⟨rfl, rfl, rfl, rfl, .refl _, fun d h => ?_⟩, sameMon_of_pow rfl⟩
  simp only [State.domN, State.modDoms] at h ⊢
  split
  · next hd =>
    rw [dif_pos hd] at h
    rw [Vector.getElem_map]
    exact hf _ h
  · exact ⟨rfl, rfl, rfl⟩

/-! ## Faults while no routine runs (R591, R634-R636, R658) -/

theorem fence_idles (hs : s.resting) (n cause : Nat) : Idles s (s.fence n cause) := by
  have noted : Idles s (if (tGet s.actual n).any (fun a => a == 4 || a == 5 || a == 6) then s else { s with actual := tPut s.actual n cause }) := by
    split
    · exact .refl hs
    · exact idles_of_fields hs rfl rfl rfl (.refl _) rfl
  have filtered : ∀ {α : Type} (p : α → Bool) {l : List α}, l = [] → l.filter p = [] := fun p l h => by
    rw [h]
    rfl
  unfold State.fence
  dsimp only
  generalize (if (tGet s.actual n).any (fun a => a == 4 || a == 5 || a == 6) then s else { s with actual := tPut s.actual n cause }) = t at noted
  have still : t.running = false := noted.rest.1
  rw [if_neg (by simp [still])]
  refine (noted.trans (modCl_idles noted.rest n _ ?queue)).watches (.trans (modDoms_watches _ ?gates) (modDom_watches _ _ _ ?evs))
  case queue => exact fun _ _ => rfl
  case gates => exact fun _ h => h
  case evs =>
    rintro x ⟨words, evs, handed⟩
    exact ⟨words, filtered _ evs, filtered _ handed⟩

theorem abortAtBar_idles (hs : s.resting) (loc : Nat) : Idles s (s.abortAtBar loc) := by
  have cancelled : Watches s s.cancelItems := watches_of_fields rfl rfl rfl rfl (.refl _) rfl
  obtain ⟨still, -⟩ := id hs
  unfold State.abortAtBar
  rw [if_pos (by simp [still])]
  exact idles_of_watches (cancelled.trans (watches_of_records (discrepancies1_records _))) hs

/-- What a fault records before it acts. -/
theorem faultRecord_watches (s : State) (cls cause loc : Nat) (x : Ctx) (other : Nat) (detail : Bytes) :
    Watches s ((s.faultLog cls cause loc x other detail).stopSnap false) :=
  watches_of_records ((faultLog_records ..).trans (stopSnap_records ..))

theorem unitFault_idles (hs : s.resting) (n cause loc : Nat) (x : Ctx) (other : Nat) (detail : Bytes) :
    Idles s (s.unitFault n cause loc x other detail) := by
  have recorded := idles_of_watches (faultRecord_watches s 3 cause loc x other detail) hs
  have fenced := recorded.trans (fence_idles recorded.rest n 5)
  exact fenced.trans (abortAtBar_idles fenced.rest loc)

theorem regionFault_idles (hs : s.resting) (r cause loc : Nat) (detail : Bytes) : Idles s (s.regionFault r cause loc detail) := by
  have recorded := idles_of_watches (faultRecord_watches s 3 cause loc s.nowCtx loc detail) hs
  have fenced := recorded.trans (.foldl (f := fun s n => s.fence n 6) recorded.rest (fun t n ht => fence_idles ht n 6)
    (((s.faultLog 3 cause loc s.nowCtx loc detail).stopSnap false).ofRegion r))
  exact fenced.trans (abortAtBar_idles fenced.rest loc)

theorem widen_idles (hs : s.resting) (cls : Nat) : Idles s (s.widen cls) := by
  unfold State.widen
  split
  · exact idles_of_fields hs rfl rfl rfl (.refl _) rfl
  · exact .refl hs

theorem moduleFault_idles (hs : s.resting) (cause loc : Nat) (x : Ctx) (detail : Bytes) : Idles s (s.moduleFault cause loc x detail) := by
  have recorded := idles_of_watches (faultRecord_watches s 4 cause loc x loc detail) hs
  obtain ⟨still, -⟩ := recorded.rest
  unfold State.moduleFault
  dsimp only
  rw [if_neg (by simp [still])]
  exact recorded.trans (widen_idles recorded.rest 4)

theorem ensembleFault_idles (hs : s.resting) (cause loc : Nat) (detail : Bytes) : Idles s (s.ensembleFault cause loc detail) := by
  have recorded := idles_of_watches (faultRecord_watches s 5 cause loc s.nowCtx loc detail) hs
  obtain ⟨still, -⟩ := recorded.rest
  unfold State.ensembleFault
  dsimp only
  rw [if_neg (by simp [still])]
  exact recorded.trans (widen_idles recorded.rest 5)

/-- The security unit locks (R561). -/
def lockUnit (s : State) : State := { s with sec := { s.sec with locked := true } }

theorem lockUnit_watches (s : State) : Watches s (lockUnit s) := watches_of_fields rfl rfl rfl rfl (.refl _) rfl

/-- The comparison of the two copies of protected entries (R559, R561). -/
theorem complCheck_idles (hs : s.resting) : Idles s s.complCheck := by
  unfold State.complCheck
  split
  · exact .refl hs
  · split
    · exact .refl hs
    · next i sub _ =>
      have locked := (event_watches s 0x0A (locDie 0 0xA 0) (leBytes 2 i ++ leBytes 1 sub)).trans (lockUnit_watches _)
      have rests := idles_of_watches locked hs
      exact rests.trans (moduleFault_idles rests.rest ..)

/-- A region with four failed sensors faults (R602). -/
theorem sensorFaults_idles (hs : s.resting) : Idles s s.sensorFaults := by
  refine .foldl hs (fun t r ht => ?_) _
  split
  · have noted := idles_of_watches (modMon_watches t r (fun m => { m with faulted := true }) fun _ => ⟨rfl, rfl, rfl, rfl⟩) ht
    exact noted.trans (regionFault_idles noted.rest ..)
  · exact .refl ht

end

/-! ## What a boundary does in a module at rest (R41, R49, R64, R69, R152, R266, R455) -/

section
variable {s t : State}

theorem words_of_rest (hs : s.resting) (d : Nat) : (s.domN d).words = false ∧ (s.domN d).evs = [] ∧ (s.domN d).handed = [] := by
  obtain ⟨-, doms, -⟩ := hs
  by_cases hd : d < 10
  · exact doms d hd
  · simp only [State.domN, hd, ↓reduceDIte, and_self]

theorem lateness_idle (hs : s.resting) (d : Nat) : s.lateness d = s := by
  obtain ⟨words, -⟩ := words_of_rest hs d
  have past : s.atBeat d = false := by simp [State.atBeat, words]
  unfold State.lateness
  rw [past]
  exact if_pos (by simp [words])

theorem fetchAhead_idle (hs : s.resting) (e : Nat) : s.fetchAhead e = s := by
  obtain ⟨still, -⟩ := hs
  exact if_pos (by simp [still])

theorem acceptStop_idle (hs : s.resting) (opens : Option (Nat × Nat)) : s.acceptStop opens = s := by
  obtain ⟨still, -⟩ := hs
  exact if_neg (by simp [still])

theorem closeBars_idle (hs : s.resting) (k : Nat) : s.closeBars k = s := by
  obtain ⟨still, -⟩ := hs
  cases k with
  | zero => rfl
  | succ k => exact if_neg (by simp [still])

theorem holdSpreads_idle (hs : s.resting) : s.holdSpreads = s := by
  obtain ⟨still, -⟩ := hs
  exact if_neg (by simp [still])

theorem resumeRun_idles (hs : s.resting) : Idles s s.resumeRun := by
  unfold State.resumeRun
  dsimp only
  split <;> exact idles_of_fields hs rfl rfl rfl ⟨rfl⟩ rfl

theorem rampEnd_idles (hs : s.resting) : Idles s s.rampEnd := by
  refine modCls_idles hs _ fun c h => ?_
  split <;> exact h

theorem rampBack_idles (hs : s.resting) (n : Nat) : Idles s (s.rampBack n) := by
  refine modCl_idles hs n _ fun c h => ?_
  dsimp only
  split <;> exact h

theorem bankBeat_watches (s : State) : Watches s s.bankBeat := watches_of_fields rfl rfl rfl rfl (.refl _) rfl

theorem modLink_watches (s : State) (l : Nat) (f : Link → Link) : Watches s (s.modLink l f) := watches_of_fields rfl rfl rfl rfl (.refl _) rfl

theorem draw_watches (s : State) (w : Nat) : Watches s (s.draw w).2 := watches_of_fields rfl rfl rfl rfl (.refl _) rfl

theorem frameTag_watches (s : State) (k : Link) : Watches s (s.frameTag k).2 := by
  unfold State.frameTag
  split
  · exact .refl s
  · exact draw_watches s 128

/-- Control words that find no room in a frame are counted. -/
theorem lateWords_watches (s : State) (l late : Nat) : Watches s (if late = 0 then s else s.count (0x9080 + l) 8 late) := by
  split
  · exact .refl s
  · exact watches_of_records (count_records ..)

/-- The frame of a link (R455, R459, R462, R469). -/
theorem sendFrame_watches (s : State) (l : Nat) (at_ : Nat × Nat) (cut : Bool) : Watches s (s.sendFrame l at_ cut) := by
  have tagged := frameTag_watches s (s.link l)
  unfold State.sendFrame
  dsimp only
  split
  · exact modLink_watches ..
  · exact (tagged.trans (lateWords_watches _ l _)).trans (modLink_watches ..)

theorem sendFrames_watches (s : State) (hold begins : Bool) : Watches s (s.sendFrames hold begins) :=
  .foldl (fun t l => (modLink_watches t l _).trans (sendFrame_watches ..)) _ s

theorem settingLow_watches (s : State) (q : Frame) : Watches s (s.settingLow q) := by
  unfold State.settingLow
  split
  · exact .refl s
  · split
    · exact heldAll_watches ..
    · exact clearCause_watches ..

theorem noteDrains_watches (s : State) (bar : Bool) : Watches s (s.noteDrains bar) := watches_of_fields rfl rfl rfl rfl (.refl _) rfl

theorem judgePower_watches (s : State) (watts : Nat) : Watches s (s.judgePower watts) := by
  have meaned : Watches s { s with pow := { s.pow with
      watts := BitVec.ofNat 16 watts
      mon := s.pow.mon.map fun (m : Monitor) => { m with stretch := m.stretchNow, stretchNow := 0 } } } :=
    mons_watches s rfl _ rfl fun _ => ⟨rfl, rfl, rfl, rfl⟩
  unfold State.judgePower
  dsimp only
  split
  · exact meaned.trans (mons_watches _ rfl id (Vector.map_id _).symm fun _ => ⟨rfl, rfl, rfl, rfl⟩)
  · exact meaned

/-- A working beat in a module at rest opens no step words (R49, R69). -/
theorem openBeat_watches (hs : s.running = false) (d bar beat cycles : Nat) : Watches s (s.openBeat d bar beat cycles) := by
  unfold State.openBeat
  dsimp only
  rw [if_pos (by simp [hs])]
  refine modDom_watches s d _ ?_
  rintro x ⟨-, evs, handed⟩
  exact ⟨rfl, evs, handed⟩

theorem relockCycles_watches (s : State) (a b : Nat) : Watches s (s.relockCycles a b).2 := draw_watches s 16

theorem openBeats_idles (hs : s.resting) (q : Frame) (old : Nat) : Idles s (s.openBeats q old) := by
  unfold State.openBeats
  dsimp only
  split
  · exact .refl hs
  · refine .foldl hs (fun t d ht => ?_) _
    obtain ⟨still, -⟩ := id ht
    split
    · have drawn := relockCycles_watches t old s.beat.setting.toNat
      have drawnStill : (t.relockCycles old s.beat.setting.toNat).2.running = false := still
      exact idles_of_watches (drawn.trans (openBeat_watches drawnStill ..)) ht
    · exact idles_of_watches (openBeat_watches still ..) ht

theorem noteFrozen_watches (s : State) : Watches s s.noteFrozen := by
  unfold State.noteFrozen
  split
  · exact watches_of_fields rfl rfl rfl rfl ⟨rfl⟩ rfl
  · exact .refl s

theorem lt_of_mem_ofRegion {r n : Nat} (h : n ∈ s.ofRegion r) : n < 48 :=
  (mem_ofRegion.1 h).1.trans_le ((List.length_filter_le ..).trans (Nat.le_of_eq List.length_range))

/-- A domain of a module at rest stops at once (R61, R63). -/
theorem stopDom_idles (hs : s.resting) (d : Nat) : Idles s (s.stopDom d) := by
  obtain ⟨-, evs, handed⟩ := words_of_rest hs d
  obtain ⟨-, -, queues⟩ := id hs
  by_cases stopped : (s.domN d).stopped = true
  · rw [stopDom_stopped stopped]
    exact .refl hs
  · have still : Still s d := ⟨evs, handed, fun _ n hn => queues n (lt_of_mem_ofRegion hn)⟩
    rw [stopDom_still still (Bool.eq_false_iff.2 stopped)]
    exact idles_of_watches ((modDom_watches s d stoppedDom fun _ h => h).trans (noteFrozen_watches _)) hs

theorem heldBeat_idles (hs : s.resting) (q : Frame) : Idles s (s.heldBeat q) := by
  have reached : Idles s (if q.order = 1 then s.holdAll else s) := by
    split
    · exact idles_of_watches (holdAll_watches s) hs
    · exact .refl hs
  have stopped := reached.trans (.foldl reached.rest (fun t d ht => stopDom_idles ht d) (List.range 10))
  have noted : ∀ t : State, Watches t { t with beat := { t.beat with inHold := q.order == 1 } } := fun t => watches_of_fields rfl rfl rfl rfl ⟨rfl⟩ rfl
  unfold State.heldBeat
  dsimp only
  split
  · have released := (stopped.watches (noted _)).watches (modDoms_watches (fun x => { x with stopPend := false }) fun _ h => h)
    exact released.trans (.foldl released.rest (fun t n ht => rampBack_idles ht n) _)
  · exact stopped.watches (noted _)

end

/-! ## The scrubbers of regions that open no working beat (R264-R266) -/

section
variable {s t : State}

theorem readLane_watches (s : State) (n a : Nat) : Watches s (s.readLane n a).2 := by
  have drawn : Watches s { s with free := s.free + 1 } := watches_of_fields rfl rfl rfl rfl (.refl _) rfl
  unfold State.readLane
  dsimp only
  split
  · exact .refl s
  · split_ifs
    · exact .refl s
    · exact .refl s
    · split <;> exact drawn

theorem readLanes_watches (s : State) (n a k : Nat) : Watches s (s.readLanes n a k).2 := by
  induction k with
  | zero => exact .refl s
  | succ k ih => exact ih.trans (readLane_watches ..)

theorem readCode_watches (s : State) (n a : Nat) : Watches s (s.readCode n a).2.2.2 := by
  have read := readLanes_watches s n a 8
  unfold State.readCode
  dsimp only
  split_ifs
  · exact read
  · exact read
  · exact read.trans (watches_of_records (count_records ..))

/-- An uncorrectable word of a floor (R265). -/
theorem floorUe_idles (hs : s.resting) (n a : Nat) (x : Ctx) : Idles s (s.floorUe n a x) := by
  unfold State.floorUe
  dsimp only
  cases s.setOf n a with
  | none => exact unitFault_idles hs ..
  | some k =>
    have failed : Idles s (s.modResident k fun r => { r with state := .failed }) := idles_of_fields hs rfl rfl rfl (.refl _) rfl
    exact failed.trans (unitFault_idles failed.rest ..)

theorem scrubWrite_idles (hs : s.resting) (n : Nat) : Idles s (s.scrubWrite n none) := modCl_idles hs n _ fun _ h => h

theorem scrubRead_idles (hs : s.resting) (n : Nat) : Idles s (s.scrubRead n none) := by
  have moved : Idles s (s.modCl n fun c => { c with scrubNext := c.scrubNext + 1 }) := modCl_idles hs n _ fun _ h => h
  unfold State.scrubRead
  dsimp only
  split
  · exact moved
  · refine moved.trans (.foldl moved.rest (fun t b ht => ?_) _)
    have read := idles_of_watches (readCode_watches t n (wordAt b (s.clus n).scrubNext.toNat)) ht
    split_ifs
    · exact read.trans (floorUe_idles read.rest ..)
    · exact read.trans (modCl_idles read.rest n _ fun _ h => h)
    · exact read

theorem scrubIdle_idles (hs : s.resting) (q : Frame) : Idles s (s.scrubIdle q) := by
  refine .foldl hs (fun t d ht => ?_) _
  dsimp only
  split
  · exact .refl ht
  · refine .foldl ht (fun u n hu => ?_) _
    have written : Idles u (if (u.clus n).scrub.isEmpty then u else u.scrubWrite n none) := by
      split
      · exact .refl hu
      · exact scrubWrite_idles hu n
    exact written.trans (scrubRead_idles written.rest n)

end

/-! ## The frame that a boundary takes (R39, R57, R58) -/

/-- The beat reference with a frame (R39, R57). -/
def noted (q : Frame) (b : BeatRef) : BeatRef :=
  { b with
    order := BitVec.ofNat 4 q.order, bar := BitVec.ofNat 40 q.bar, beat := BitVec.ofNat 6 q.beat, horizon := BitVec.ofNat 4 q.horizon
    nextSetting := BitVec.ofNat 2 q.next, nextBar := BitVec.ofNat 16 q.nextBar
    announced := if q.next = 0 || q.nextBar = q.bar % 65536 then b.announced else some (q.next, q.nextBar) }

/-- The announced setting that a frame brings into force (R58). -/
def dueSetting (q : Frame) (announced : Option (Nat × Nat)) : Option Nat :=
  if q.order = 0 && q.beat = 0 then announced.bind fun a => if q.bar % 65536 = a.2 then some a.1 else none else none

/-- The beat reference once a change that is due has come into force (R58). -/
def applied (q : Frame) (b : BeatRef) : BeatRef :=
  match dueSetting q b.announced with
  | some v => { b with setting := BitVec.ofNat 2 v, announced := none }
  | none => b

/-- The module with a frame taken. -/
def taken (s : State) (q : Frame) : State := (s.applySetting q).noteFrame q

section
variable {s t : State}

theorem taken_eq (s : State) (q : Frame) : taken s q = { s with beat := noted q (applied q s.beat) } := by
  have due : s.settingDue q = dueSetting q s.beat.announced := rfl
  unfold taken State.applySetting applied
  rw [due]
  cases dueSetting q s.beat.announced <;> rfl

theorem taken_sameFrame {b b' : BeatRef} (h : SameFrame b b') (q : Frame) : SameFrame (noted q (applied q b)) (noted q (applied q b')) := by
  rw [h.eq]
  unfold applied
  dsimp only
  cases dueSetting q b.announced <;> exact ⟨rfl⟩

theorem taken_resting (hs : s.resting) (q : Frame) : (taken s q).resting := by
  rw [taken_eq]
  exact hs

/-- What leaves a module at rest before a frame is taken leaves it at rest with the frame. -/
theorem taken_idles (h : Idles s t) (q : Frame) : Idles (taken s q) (taken t q) := by
  have pow : ∀ u : State, (taken u q).pow = u.pow := fun u => by rw [taken_eq]
  refine ⟨taken_resting h.rest q, ?_, ?_, (sameMon_of_pow (pow s).symm).trans (h.mon.trans (sameMon_of_pow (pow t)))⟩
  · rw [taken_eq, taken_eq]
    exact taken_sameFrame h.frame q
  · rw [pow, pow]
    exact h.bringup

end

/-! ## The boundary of a module at rest (R39-R46) -/

/-- A boundary up to the frame that it takes: the beat that has ended. -/
def ended (s : State) (q : Frame) : State :=
  let resumed := s.beat.order == 2 && q.order == 0
  let s := s.complCheck.countBoundary
  let s := if resumed then s.resumeRun else s
  let s := s.rampEnd.holdSpreads.bankBeat
  let s := if q.order = 0 then (((List.range 10).foldl State.lateness s).fetchAhead 0).fetchAhead 1 else s
  ((s.acceptStop (if q.order = 0 then some (q.bar, q.beat) else none)).closeBars 64).sendFrames (q.order == 1) (q.order == 0 && s.beginsAt q.bar q.beat)

/-- A boundary from the frame that it takes up to the report: the beat that begins. -/
def begun (s : State) (q : Frame) : State :=
  let bar := q.order == 0 && q.beat == 0
  let old := s.beat.setting.toNat
  let s := (taken s q).settingLow q
  let s := ((List.range 8).foldl State.judgeDroop s).powerBeat
  let s := s.noteDrains bar
  let s := if q.order = 0 then s.openBeats q old else s.heldBeat q
  let s := s.scrubIdle q
  let s := if bar then s.sensorFaults.discrepancies1 else s
  ((s.reportAll.settleProtect).settleLate 0).settleLate 1

theorem boundary_eq (s : State) (q : Frame) (e : Sense) : s.boundary q e =
    if (q.order == 0 && q.beat == 0) = true then ((reportNow (begun (ended s q) q)).senseBeat e).judgePower e.power
    else (reportNow (begun (ended s q) q)).senseBeat e := by
  unfold State.boundary
  extract_lets bar resumed s1 s2 s3 s4 s5 old s6 s7 s8 s9 s10 s11 s12 b s13 s14
  have closed : ended s q = s5 := rfl
  have opened : begun s5 q = s12 := rfl
  have told : s13 = reportNow s12 := rfl
  rw [closed, opened, ← told]

section
variable {s t : State}

theorem countBoundary_idles (h : Idles s t) : Idles s.countBoundary t.countBoundary := by
  have counted : ∀ {b b' : BeatRef}, SameFrame b b' → SameFrame { b with boundaries := b.boundaries + 1 } { b' with boundaries := b'.boundaries + 1 } :=
    fun k => by
      rw [k.eq]
      exact ⟨rfl⟩
  exact ⟨h.rest, counted h.frame, h.bringup, ((sameMon_of_pow rfl : SameMon s.countBoundary s).trans h.mon).trans (sameMon_of_pow rfl)⟩

theorem ended_idles (hs : s.resting) (q : Frame) : Idles s.countBoundary (ended s q) := by
  have counted := countBoundary_idles (complCheck_idles hs)
  have resumed : ∀ c : Bool, Idles s.countBoundary (if c = true then s.complCheck.countBoundary.resumeRun else s.complCheck.countBoundary) := fun c => by
    split
    · exact counted.trans (resumeRun_idles counted.rest)
    · exact counted
  have issued : ∀ t : State, t.resting →
      (if q.order = 0 then (((List.range 10).foldl State.lateness t).fetchAhead 0).fetchAhead 1 else t) = t := fun t ht => by
    split
    · rw [foldl_unchanged _ fun d _ => lateness_idle ht d, fetchAhead_idle ht, fetchAhead_idle ht]
    · rfl
  unfold ended
  dsimp only
  have resumedNow := resumed (s.beat.order == 2 && q.order == 0)
  generalize (if (s.beat.order == 2 && q.order == 0) = true then s.complCheck.countBoundary.resumeRun else s.complCheck.countBoundary) = t at resumedNow ⊢
  have ramped := resumedNow.trans (rampEnd_idles resumedNow.rest)
  have used := ramped.watches (bankBeat_watches _)
  rw [holdSpreads_idle ramped.rest, issued _ used.rest, acceptStop_idle used.rest, closeBars_idle used.rest]
  exact used.watches (sendFrames_watches ..)

theorem begun_idles (hs : s.resting) (q : Frame) : Idles (taken s q) (begun s q) := by
  have watched : Watches (taken s q) ((List.range 8).foldl State.judgeDroop ((taken s q).settingLow q)).powerBeat :=
    ((settingLow_watches _ q).trans (.foldl judgeDroop_watches _ _)).trans (powerBeat_watches _)
  have drained := (idles_of_watches watched (taken_resting hs q)).watches (noteDrains_watches _ (q.order == 0 && q.beat == 0))
  unfold begun
  dsimp only
  generalize (((List.range 8).foldl State.judgeDroop ((taken s q).settingLow q)).powerBeat.noteDrains (q.order == 0 && q.beat == 0)) = t at drained ⊢
  have opened : Idles t (if q.order = 0 then t.openBeats q s.beat.setting.toNat else t.heldBeat q) := by
    split
    · exact openBeats_idles drained.rest ..
    · exact heldBeat_idles drained.rest q
  have scrubbed := (drained.trans opened).trans (scrubIdle_idles opened.rest q)
  generalize ((if q.order = 0 then t.openBeats q s.beat.setting.toNat else t.heldBeat q).scrubIdle q) = u at scrubbed ⊢
  have faulted : Idles u (if (q.order == 0 && q.beat == 0) = true then u.sensorFaults.discrepancies1 else u) := by
    split
    · exact (sensorFaults_idles scrubbed.rest).watches (watches_of_records (discrepancies1_records _))
    · exact .refl scrubbed.rest
  exact (scrubbed.trans faulted).watches
    (((reportAll_watches _).trans (settleProtect_watches _)).trans ((settleLate_watches _ 0).trans (settleLate_watches _ 1)))

/-- A boundary takes its frame, and leaves a module at rest at rest. -/
theorem boundary_spec {e : Sense} (hs : s.resting) (cool : s.cool e) (q : Frame) :
    ∃ u, Idles (taken s.countBoundary q) u ∧ Steady u (s.boundary q e) := by
  have closed := ended_idles hs q
  have idles := ((taken_idles closed q).trans (begun_idles closed.rest q)).watches (reportNow_watches _)
  have mon : SameMon s (taken s.countBoundary q) := sameMon_of_pow (by rw [taken_eq]; rfl)
  have sensed := senseBeat_steady (mon.trans idles.mon) cool
  refine ⟨reportNow (begun (ended s q) q), idles, ?_⟩
  rw [boundary_eq]
  split
  · exact sensed.trans (judgePower_watches ..).toSteady
  · exact sensed

end

end Sys2Proof.Proofs.AtRest
end

section
/-! The proof of O39: the rows of valid frames, before beat lock, as it comes, and under it. -/

namespace Sys2Proof.Proofs.Frames

open Sys2Proof Sys2Proof.Machine Sys2Proof.Laws Sys2Proof.Proofs.HostService Sys2Proof.Proofs.Books Sys2Proof.Proofs.InvalidFrames
  Sys2Proof.Proofs.Holds Sys2Proof.Proofs.Boundary Sys2Proof.Proofs.AtRest

/-! ## The rows of frames (R40-R45, R58, R665) -/

section
variable {s t : State} {f : BitVec 128} {e : Sense} {k : Nat} {i : Instr}

/-- The rows of valid frames, by their ORDER (R41). -/
def frameRowOf (f : BitVec 128) (e : Sense) (k : Nat) (i : Instr) : Prop :=
  (k = 0 ∧ i = .beatsyncRun f e) ∨ (k = 1 ∧ i = .beatsyncHold f e) ∨ (k = 2 ∧ i = .beatsyncResume f e)

theorem exec_frameRow (s : State) (h : frameRowOf f e k i) :
    exec i s = commit s (if (frameValid f && (frameOf f).order == k) = true then s.frameRow f e else s) := by
  rcases h with ⟨rfl, rfl⟩ | ⟨rfl, rfl⟩ | ⟨rfl, rfl⟩ <;> rfl

theorem exec_frameRow_other (h : frameRowOf f e k i) (other : frameValid f = false ∨ (frameOf f).order ≠ k) : exec i s = .next s := by
  rw [exec_frameRow s h, if_neg]
  · rfl
  · rcases other with other | other <;> simp [other]

theorem exec_frameRow_own (h : frameRowOf f e k i) (valid : frameValid f = true) (order : (frameOf f).order = k) :
    exec i s = .next (s.after (s.frameRow f e)) := by
  rw [exec_frameRow s h, if_pos (by simp [valid, order])]
  rfl

theorem frameRow_idle (takes : s.takesFrames = false) (alone : s.reportsAlone = false) : s.frameRow f e = s := by
  simp [State.frameRow, takes, alone]

theorem frameRow_alone (takes : s.takesFrames = false) (alone : s.reportsAlone = true) : s.frameRow f e = s.unlockedBeat e := by
  simp [State.frameRow, takes, alone]

theorem frameRow_takes (takes : s.takesFrames = true) : s.frameRow f e = s.validFrame f e := by
  simp [State.frameRow, takes]

theorem exec_beatLock_other (h : s.takesFrames = false ∨ frameValid f = false ∨ s.beat.locked = true ∨ s.beat.valid ≠ 7) :
    exec (.beatLock f e) s = .next s := by
  refine congrArg (commit s) (if_neg ?_)
  rcases h with h | h | h | h <;> simp [h]

theorem exec_beatLock (takes : s.takesFrames = true) (valid : frameValid f = true) (locked : s.beat.locked = false) (seventh : s.beat.valid = 7) :
    exec (.beatLock f e) s = .next (s.after (s.validFrame f e)) :=
  congrArg (commit s) (if_pos (by simp [takes, valid, locked, seventh]))

/-- A valid frame has come (R43, R45). -/
def counted (s : State) (f : BitVec 128) (n : Nat) : State := { s with beat := { s.beat with frame := f, invalid := 0, valid := n } }

theorem validFrame_counts (locked : s.beat.locked = false) (h : s.beat.valid + 1 < 8) :
    s.validFrame f e = (counted s f (s.beat.valid + 1)).unlockedBeat e := by
  unfold State.validFrame
  dsimp only
  rw [if_neg (by simp [locked]), if_neg (by omega)]
  rfl

theorem validFrame_locks (locked : s.beat.locked = false) (h : s.beat.valid = 7) :
    s.validFrame f e = ((counted s f 8).lockBeat (frameOf f)).boundary (frameOf f) e := by
  unfold State.validFrame
  dsimp only
  rw [if_neg (by simp [locked]), if_pos (by omega), h]
  rfl

/-- The module once a frame that is out of sequence has been found (R44). -/
def sequenced (s : State) (f : BitVec 128) : State :=
  if s.sequenceBad (frameOf f) then s.ensembleFault 0x0B (locDie 0 7 0) (leBytes 16 f.toNat) else s

/-- The module with a frame that has come under beat lock. -/
def underLock (s : State) (f : BitVec 128) : State := counted (sequenced s f) f (min 8 ((sequenced s f).beat.valid + 1))

theorem validFrame_locked (locked : s.beat.locked = true) :
    s.validFrame f e = (underLock s f).boundary (frameOf f) e := by
  unfold State.validFrame
  dsimp only
  rw [if_pos locked]
  rfl

theorem sequenced_idles (hs : s.resting) (f : BitVec 128) : Idles s (sequenced s f) := by
  unfold sequenced
  split
  · exact ensembleFault_idles hs ..
  · exact .refl hs

theorem cool_of_sameMon (h : SameMon s t) (cool : s.cool e) : t.cool e := fun r hr => by
  obtain ⟨sensors, temp, steps, -⟩ := h.of r
  have before := cool r hr
  rw [sampleRegion_eq, modMon_monN, if_pos ⟨rfl, hr⟩] at before ⊢
  rwa [(sampleMon_congr (s := s) (t := t) sensors temp steps).1]

theorem frameOf_lt (f : BitVec 128) : (frameOf f).order < 2 ^ 4 ∧ (frameOf f).bar < 2 ^ 40 ∧ (frameOf f).beat < 2 ^ 6 ∧ (frameOf f).setting < 2 ^ 2
    ∧ (frameOf f).next < 2 ^ 2 ∧ (frameOf f).nextBar < 2 ^ 16 ∧ (frameOf f).horizon < 2 ^ 4 := by
  and_intros <;> exact Nat.mod_lt _ (Nat.two_pow_pos _)

theorem applied_fields (q : Frame) (b : BeatRef) : (applied q b).locked = b.locked ∧ (applied q b).valid = b.valid
    ∧ (applied q b).invalid = b.invalid ∧ (applied q b).frame = b.frame ∧ (applied q b).boundaries = b.boundaries := by
  unfold applied
  cases dueSetting q b.announced <;> exact ⟨rfl, rfl, rfl, rfl, rfl⟩

/-- What a module at rest is after a boundary at which it takes the frame of a record (R39). -/
structure TakesFrame (b : BeatRef) (f : BitVec 128) (t : State) : Prop where
  rest : t.resting
  frame : SameFrame (noted (frameOf f) (applied (frameOf f) b)) t.beat

theorem atFrame_of_takesFrame {b : BeatRef} (h : TakesFrame b f t) (hb : b.boundaries = s.beat.boundaries + 1) : atFrame s t (frameOf f) := by
  obtain ⟨-, -, -, -, boundaries, -, -, order, bar, beat, horizon, next, nextBar⟩ := h.frame.fields
  obtain ⟨-, -, -, -, kept⟩ := applied_fields (frameOf f) b
  obtain ⟨lo, lb, lbt, -, ln, lnb, lh⟩ := frameOf_lt f
  have read : ∀ {w n : Nat} {v : BitVec w}, v = BitVec.ofNat w n → n < 2 ^ w → v.toNat = n := fun hv hn => by
    rw [hv, BitVec.toNat_ofNat, Nat.mod_eq_of_lt hn]
  exact ⟨read order lo, read bar lb, read beat lbt, read horizon lh, read next ln, read nextBar lnb, (boundaries.trans kept).trans hb⟩

/-- A boundary of a module at rest, after whatever the frame has done before it. -/
theorem boundary_takesFrame (hs : s.resting) (cool : s.cool e) (f : BitVec 128) :
    TakesFrame s.countBoundary.beat f (s.boundary (frameOf f) e) ∧ (s.boundary (frameOf f) e).pow.bringup = s.pow.bringup := by
  obtain ⟨u, idles, sensed⟩ := boundary_spec hs cool (frameOf f)
  have kept := idles.frame.trans sensed.frame
  have bringup := sensed.bringup.trans idles.bringup
  rw [taken_eq] at kept bringup
  exact ⟨⟨resting_of_steady sensed idles.rest, kept⟩, bringup⟩

/-- Nothing is due of what the frame itself has announced (R57, R58). -/
theorem applied_own {q : Frame} {b : BeatRef} (h : b.announced = if q.next = 0 || q.nextBar = q.bar % 65536 then none else some (q.next, q.nextBar)) :
    applied q b = b := by
  have none_due : dueSetting q b.announced = none := by
    unfold dueSetting
    rw [h]
    by_cases own : (q.next = 0 || q.nextBar = q.bar % 65536) = true
    · simp [own]
    · have later : q.bar % 65536 ≠ q.nextBar := fun k => own (by simp [k])
      simp [own, later]
  unfold applied
  rw [none_due]

/-- A change that is due comes into force (R58). -/
theorem applied_due {q : Frame} {b : BeatRef} {a : Nat × Nat} (h : b.announced = some a) (ho : q.order = 0) (hb : q.beat = 0)
    (hbar : q.bar % 65536 = a.2) : (applied q b).setting = BitVec.ofNat 2 a.1 := by
  have due : dueSetting q b.announced = some a.1 := by simp [dueSetting, h, ho, hb, hbar]
  unfold applied
  rw [due]

theorem applied_not_due {q : Frame} {b : BeatRef} (h : q.order ≠ 0 ∨ q.beat ≠ 0 ∨ ∀ a, b.announced = some a → q.bar % 65536 ≠ a.2) :
    applied q b = b := by
  have none_due : dueSetting q b.announced = none := by
    unfold dueSetting
    rcases h with h | h | h
    · simp [h]
    · simp [h]
    · cases ha : b.announced with
      | none => simp
      | some a => simp [h a ha]
  unfold applied
  rw [none_due]

/-- A frame that counts towards beat lock (R45). -/
theorem counts_spec (cool : s.cool e) (f : BitVec 128) (n : Nat) : Steady (counted s f n).countBoundary ((counted s f n).unlockedBeat e) := by
  have mon : SameMon s (counted s f n) := sameMon_of_pow rfl
  exact (unlockedBeat_spec (cool_of_sameMon mon cool)).1

/-- The eighth valid frame in a row locks the beat and is the first boundary (R45, R624). -/
theorem locks_spec (hs : s.resting) (cool : s.cool e) (f : BitVec 128) :
    let t := ((counted s f 8).lockBeat (frameOf f)).boundary (frameOf f) e
    t.beat.locked = true ∧ t.beat.valid = 8 ∧ t.beat.invalid = 0 ∧ t.beat.frame = f ∧ atFrame s t (frameOf f)
      ∧ (s.pow.bringup = 6 → t.pow.bringup = 7) ∧ t.beat.setting.toNat = (frameOf f).setting := by
  intro t
  have rests : ((counted s f 8).lockBeat (frameOf f)).resting := hs
  have mon : SameMon s ((counted s f 8).lockBeat (frameOf f)) := ⟨fun _ => ⟨rfl, rfl, rfl, rfl⟩⟩
  obtain ⟨takes, bringup⟩ := boundary_takesFrame rests (cool_of_sameMon mon cool) f
  obtain ⟨locked, valid, invalid, frame, -, setting, -⟩ := takes.frame.fields
  rw [applied_own rfl] at locked valid invalid frame setting
  obtain ⟨-, -, -, small, -⟩ := frameOf_lt f
  refine ⟨locked, valid, invalid, frame, atFrame_of_takesFrame takes rfl, fun h => bringup.trans (if_pos h), ?_⟩
  rw [show t.beat.setting = BitVec.ofNat 2 (frameOf f).setting from setting, BitVec.toNat_ofNat, Nat.mod_eq_of_lt small]

/-- Under beat lock a valid frame is a boundary (R39, R43, R57, R58). -/
theorem locked_spec (hs : s.resting) (cool : s.cool e) (locked : s.beat.locked = true) (f : BitVec 128) :
    let q := frameOf f
    let t := s.validFrame f e
    t.beat.locked = true ∧ t.beat.valid = min 8 (s.beat.valid + 1) ∧ t.beat.invalid = 0 ∧ t.beat.frame = f ∧ atFrame s t q
      ∧ (∀ a, s.beat.announced = some a → q.order = 0 → q.beat = 0 → q.bar % 65536 = a.2 → t.beat.setting = BitVec.ofNat 2 a.1)
      ∧ (q.order ≠ 0 ∨ q.beat ≠ 0 ∨ (∀ a, s.beat.announced = some a → q.bar % 65536 ≠ a.2) → t.beat.setting = s.beat.setting)
      ∧ (q.next ≠ 0 → q.nextBar ≠ q.bar % 65536 → t.beat.announced = some (q.next, q.nextBar)) ∧ t.running = false := by
  intro q t
  have idles := sequenced_idles hs f
  obtain ⟨oldLocked, oldValid, -, -, oldBoundaries, oldSetting, oldAnnounced, -⟩ := idles.frame.fields
  have rests : (underLock s f).resting := idles.rest
  have mon : SameMon s (underLock s f) := idles.mon.trans (sameMon_of_pow rfl)
  obtain ⟨takes, -⟩ := boundary_takesFrame rests (cool_of_sameMon mon cool) f
  rw [← validFrame_locked locked] at takes
  obtain ⟨tLocked, tValid, tInvalid, tFrame, -, tSetting, tAnnounced, -⟩ := takes.frame.fields
  obtain ⟨aLocked, aValid, aInvalid, aFrame, -⟩ := applied_fields q
    (underLock s f).countBoundary.beat
  obtain ⟨still, -⟩ := takes.rest
  refine ⟨(tLocked.trans aLocked).trans (oldLocked.trans locked), (tValid.trans aValid).trans (congrArg (fun v => min 8 (v + 1)) oldValid),
    tInvalid.trans aInvalid, tFrame.trans aFrame, atFrame_of_takesFrame takes (congrArg (· + 1) oldBoundaries),
    fun a ha ho hb hbar => tSetting.trans (applied_due (oldAnnounced.trans ha) ho hb hbar), fun later => tSetting.trans ?_,
    fun hn hbar => tAnnounced.trans (if_neg fun own => (by simpa using own : _ ∨ _).elim hn hbar), still⟩
  have not_due : applied q (underLock s f).countBoundary.beat
      = (underLock s f).countBoundary.beat :=
    applied_not_due (later.imp_right (Or.imp_right fun h a ha => h a (oldAnnounced.symm.trans ha)))
  exact (congrArg BeatRef.setting not_due).trans oldSetting

end

/-- Settles O39, by the boundary before beat lock (`unlockedBeat_spec`) and the boundary of a module at rest (`boundary_spec`). -/
theorem framesCount : Obligations.FramesCount := by
  refine ⟨fun s f e k i row => ?_, fun s f e other => exec_beatLock_other other⟩
  intro q
  refine ⟨fun other => ?_, fun takes alone valid order cool => ?_, fun takes valid order cool => ⟨fun unlocked few => ?_,
    fun unlocked seventh rest j hj => ?_, fun locked rest => ?_⟩⟩
  · -- a frame that is not the row's, or that the module does not take
    by_cases own : frameValid f = true ∧ q.order = k
    · obtain ⟨valid, order⟩ := own
      obtain ⟨takes, alone⟩ | bad := other
      · rw [exec_frameRow_own row valid order, frameRow_idle takes alone]
        rfl
      · rcases bad with bad | bad
        · simp [valid] at bad
        · exact absurd order bad
    · refine exec_frameRow_other row ?_
      by_cases valid : frameValid f = true
      · exact .inr fun order => own ⟨valid, order⟩
      · exact .inl (Bool.eq_false_iff.2 valid)
  · -- stages 3 to 5 of bring-up
    obtain ⟨steady, report⟩ := unlockedBeat_spec cool
    obtain ⟨locked, count, -, -, boundaries, -⟩ := steady.frame.fields
    exact ⟨_, by rw [exec_frameRow_own row valid order, frameRow_alone takes alone], locked, count, boundaries, report, steady.bringup, steady.rt,
      steady.cl⟩
  · -- a frame that counts towards beat lock
    have steady := counts_spec cool f (s.beat.valid + 1)
    obtain ⟨lock, count, invalid, frame, boundaries, setting, -, ord, bar, beat, -⟩ := steady.frame.fields
    exact ⟨_, by rw [exec_frameRow_own row valid order, frameRow_takes takes, validFrame_counts unlocked few], lock.trans unlocked, count, invalid, frame,
      ord, bar, beat, setting, boundaries, steady.bringup, steady.rt, steady.cl, steady.bank⟩
  · -- the frame that locks the beat
    refine ⟨_, ?_, locks_spec rest cool f⟩
    rcases hj with rfl | rfl
    · rw [exec_frameRow_own row valid order, frameRow_takes takes, validFrame_locks unlocked seventh]
    · rw [exec_beatLock takes valid unlocked seventh, validFrame_locks unlocked seventh]
  · -- a boundary under beat lock
    refine ⟨_, by rw [exec_frameRow_own row valid order, frameRow_takes takes], ?_⟩
    obtain ⟨a1, a2, a3, a4, a5, due, not_due, announced, still⟩ := locked_spec rest cool locked f
    exact ⟨a1, a2, a3, a4, a5, fun a ha hk => due a ha (order.trans hk), fun h => not_due (h.imp_left fun hk ho => hk (order.symm.trans ho)), announced,
      still⟩

end Sys2Proof.Proofs.Frames
end

section
/-! The proofs of O1 to O6: commands of a slot that are not pushed, that are skipped, and those that act on the caller alone. -/

namespace Sys2Proof.Proofs.Callers

open Sys2Proof Sys2Proof.Machine Sys2Proof.Laws Sys2Proof.Proofs.HostService

/-! ## Reasons (R117) -/

/-- The lower of a reason found before and the reason of an entry, where that applies. -/
def lowerReason (m : Option Nat) (e : Nat × Bool) : Option Nat :=
  if e.2 then (match m with | some r => some (min r e.1) | none => some e.1) else m

theorem lowerReason_of_applies {e : Nat × Bool} (h : e.2 = true) (m : Option Nat) : lowerReason m e = some ((m.map (min · e.1)).getD e.1) := by
  cases m <;> simp [lowerReason, h]

theorem lowerReason_of_not_applies {e : Nat × Bool} (h : e.2 = false) (m : Option Nat) : lowerReason m e = m := by simp [lowerReason, h]

theorem firstReason_eq (l : List (Nat × Bool)) : firstReason l = l.foldl lowerReason none := rfl

theorem foldl_lowerReason_eq_none (l : List (Nat × Bool)) (m : Option Nat) :
    l.foldl lowerReason m = none ↔ m = none ∧ ∀ e ∈ l, e.2 = false := by
  induction l generalizing m with
  | nil => simp
  | cons e l ih =>
    rw [List.foldl_cons, ih]
    cases h : e.2 with
    | false => simp [lowerReason_of_not_applies h, h]
    | true => simp [lowerReason_of_applies h, h]

/-- The reason found is the one found before or one of the list that applies, and no higher than any of them. -/
theorem foldl_lowerReason_eq_some {l : List (Nat × Bool)} {m : Option Nat} {r : Nat} (h : l.foldl lowerReason m = some r) :
    (m = some r ∨ (r, true) ∈ l) ∧ (∀ k, m = some k → r ≤ k) ∧ ∀ e ∈ l, e.2 = true → r ≤ e.1 := by
  induction l generalizing m with
  | nil => simp_all
  | cons e l ih =>
    rw [List.foldl_cons] at h
    obtain ⟨found, before, lowest⟩ := ih h
    obtain ⟨k, b⟩ := e
    cases b with
    | false =>
      rw [lowerReason_of_not_applies rfl] at found before
      exact ⟨found.imp_right (List.mem_cons_of_mem _), before, by simpa using lowest⟩
    | true =>
      rw [lowerReason_of_applies rfl] at found before
      have le := before _ rfl
      cases m with
      | none =>
        simp only [Option.map_none, Option.getD_none, Option.some.injEq] at found le
        refine ⟨.inr ?_, by simp, ?_⟩
        · obtain rfl | mem := found
          · exact List.mem_cons_self
          · exact List.mem_cons_of_mem _ mem
        · simp only [List.mem_cons, forall_eq_or_imp]
          exact ⟨fun _ => le, lowest⟩
      | some j =>
        simp only [Option.map_some, Option.getD_some, Option.some.injEq] at found le
        refine ⟨?_, by simp; omega, ?_⟩
        · obtain rfl | mem := found
          · obtain hj | hk := Nat.le_total j k
            · exact .inl (by rw [Nat.min_eq_left hj])
            · exact .inr (by rw [Nat.min_eq_right hk]; exact List.mem_cons_self)
          · exact .inr (List.mem_cons_of_mem _ mem)
        · simp only [List.mem_cons, forall_eq_or_imp]
          exact ⟨fun _ => by omega, lowest⟩

theorem firstReason_eq_none (l : List (Nat × Bool)) : firstReason l = none ↔ ∀ e ∈ l, e.2 = false := by
  rw [firstReason_eq, foldl_lowerReason_eq_none]
  simp

/-- Settles O3: the fold keeps the lowest code that applies. -/
theorem firstReasonIsLowest : Obligations.FirstReasonIsLowest := by
  intro l
  refine ⟨firstReason_eq_none l, fun r h => ?_⟩
  obtain ⟨found, -, lowest⟩ := foldl_lowerReason_eq_some h
  exact ⟨found.resolve_left (by simp), lowest⟩

/-- A command that is accepted meets none of its reasons. -/
theorem accepted_not_applies {s q : State} {x : Ctx} {i : Instr} {p : Push} (hp : pushOf i = some p) (h : s.accepts i q x) {r : Nat} {b : Bool}
    (hr : (r, b) ∈ p.reasons q x) : b = false :=
  (firstReason_eq_none _).1 (accepted_reason hp h) _ hr

/-! ## Commands that are not pushed, and skipped ones (R110, R116-R119) -/

/-- Settles O1: a push under a false predicate is no push. -/
theorem falsePredicateIsNotPushed : Obligations.FalsePredicateIsNotPushed := by
  intro s i p hp
  refine ⟨exec_absent s i p hp, fun offered unread => ?_⟩
  obtain ⟨act, acts⟩ := exec_push s i p hp offered
  rw [acts, if_neg (by simp [unread])]

theorem counter_count_ne (s : State) (i sub n : Nat) {k : Nat} (h : k ≠ i * 256 + sub) :
    tGet (s.count i sub n).counters k = tGet s.counters k := by
  simp only [State.count, tGet_tPut, if_neg h]

/-- Settles O2: the judge of a push that finds a reason does no more than log the skip. -/
theorem skippedCommandOnlyLogs : Obligations.SkippedCommandOnlyLogs := by
  intro s i p r hp offered q x pushed reason
  obtain ⟨act, acts⟩ := exec_push s i p hp offered
  refine ⟨q.skipLog x r (p.loc q), ?_, rfl, rfl, counter_count q 0x9001 r 1, fun k hk => counter_count_ne q 0x9001 r 1 hk⟩
  rw [acts, if_pos pushed, reason, judge_some]

/-! ## The state of a push (R102, R109, R113) -/

theorem unkept_of_not_audits {s : State} (h : s.audits = false) (w p : Nat) : s.unkept w p = false := by
  unfold State.unkept
  split
  · simp [h]
  · rfl

theorem samples_of_not_audits {s : State} (h : s.audits = false) (w p : Nat) (x : Ctx) : s.samples w p x = s :=
  if_neg (by simp [unkept_of_not_audits h])

theorem audits_eq_false {s : State} (h : s.mode ≠ 4 ∨ s.running = false) : s.audits = false := by
  unfold State.audits
  obtain h | h := h
  · rw [beq_eq_false_iff_ne.2 h, Bool.false_and]
  · rw [h, Bool.and_false]

theorem flushStarts_of_none {s : State} {d : Nat} (h : (s.domN d).due (s.domN d).nt 1 = none) : s.flushStarts d = s := runTo_quiet s d _ _ _ h

theorem atPush_of_quiet {s : State} {p : Push} (starts : (s.domN (s.slotDom p)).due (s.domN (s.slotDom p)).nt 1 = none)
    (before : s.quiet (s.slotDom p)) (off : s.mode ≠ 4 ∨ s.running = false) : s.atPush p = s := by
  unfold State.atPush
  rw [flush_quiet s _ before, flushStarts_of_none starts]
  exact samples_of_not_audits (audits_eq_false off) ..

theorem issueOf_of_quiet {s : State} {p : Push} (starts : (s.domN (s.slotDom p)).due (s.domN (s.slotDom p)).nt 1 = none)
    (before : s.quiet (s.slotDom p)) : s.issueOf p = { s.ctxNow (s.slotDom p) p.pbit p.op with tail := p.c.tail } := by
  unfold State.issueOf
  rw [flush_quiet s _ before, flushStarts_of_none starts]

/-- Settles O4: no effect precedes the push, and without the detector the sample of a predicate leaves no trace. -/
theorem quietPush : Obligations.QuietPush := by
  intro s p starts before off
  rw [issueOf_of_quiet starts before]
  exact ⟨atPush_of_quiet starts before off, rfl, rfl, rfl, rfl, rfl, rfl, rfl⟩

/-! ## Registers, predicates and keys (R103, R105, R108, R239, R386, R388, R393) -/

theorem bits_lt (v hi lo : Nat) : bits v hi lo < 2 ^ (hi + 1 - lo) := Nat.mod_lt _ (Nat.two_pow_pos _)

theorem siteNum_lt (w : Site) : siteNum w < 50 := by
  cases w with
  | lc n => exact Nat.lt_trans n.isLt (by decide)
  | seq d => exact Nat.add_lt_add_left d.isLt 48

/-- A predicate source of a caller after one is bound. -/
theorem preds_vmod (k : Caller) (r i : Nat) (f : Pred → Pred) :
    Caller.pred { k with preds := vmod k.preds r f } i = if i = r ∧ i < 16 then f (k.pred i) else k.pred i := by
  unfold Caller.pred
  by_cases h : i < 16
  · by_cases e : i = r <;> simp [h, e, vmod_get]
    subst e
    simp [h]
  · simp [h]

section
variable {s q : State} {x : Ctx} {w : Site} {c : Cw}

/-- What a write of one register leaves of its caller and of all else. -/
theorem setReg_spec (q : State) (w : Site) {r : Nat} (hr : r < 32) (v : Nat) :
    let t := q.setReg (siteNum w) r v
    (t.caller (siteNum w)).reg r = BitVec.ofNat 48 v
      ∧ (∀ i, i ≠ r → (t.caller (siteNum w)).reg i = (q.caller (siteNum w)).reg i)
      ∧ t.caller (siteNum w) = { q.caller (siteNum w) with regs := (t.caller (siteNum w)).regs }
      ∧ q.sameButCaller t (siteNum w) := by
  intro t
  have written : t.caller (siteNum w) = { q.caller (siteNum w) with regs := vmod (q.caller (siteNum w)).regs r fun _ => BitVec.ofNat 48 v } := by
    rw [setReg_caller, if_pos ⟨rfl, siteNum_lt w⟩]
  refine ⟨?_, fun i hi => ?_, ?_, modCaller_same ..⟩
  · rw [written, regs_vmod, if_pos ⟨rfl, hr⟩]
  · rw [written, regs_vmod, if_neg fun k => hi k.1]
  · rw [written]

theorem pushRset_of_accepts (h : s.accepts (.rset w c) q x) :
    q.pushRset (siteNum w) x c = q.setReg (siteNum w) (f0 c 47 43) (f1 c 47 0) := by
  unfold State.pushRset
  rw [show firstReason (rsetReasons q (siteNum w) x c) = none from accepted_reason rfl h, judge_none]

/-- The value of the expression of an RCALC (R105). -/
def rcalcVal (q : State) (x : Ctx) (w : Site) (c : Cw) : Int :=
  exprVal (q.caller (siteNum w)) x.idx (if f0 c 42 42 = 1 then 64 else 1) (f0 c 31 0)

theorem pushRcalc_of_accepts (h : s.accepts (.rcalc w c) q x) :
    q.pushRcalc (siteNum w) x c = q.setReg (siteNum w) (f0 c 47 43) (rcalcVal q x w c).toNat := by
  unfold State.pushRcalc
  dsimp only
  rw [show firstReason (rcalcReasons q (siteNum w) x c) = none from accepted_reason rfl h, judge_none]
  rfl

/-- An RCALC whose value does not fit its register is skipped (R105, R117). -/
theorem rcalcVal_fits (h : s.accepts (.rcalc w c) q x) : 0 ≤ rcalcVal q x w c ∧ rcalcVal q x w c < 2 ^ 48 := by
  have fits : (!okA (rcalcVal q x w c)) = false := accepted_not_applies rfl h (r := rRange) (by simp [rcalcReasons, rcalcVal])
  simpa [okA] using fits

/-- Settles O5: both commands are a write of one register. -/
theorem registerCommands : Obligations.RegisterCommands := by
  intro s q x w c
  have reg : f0 c 47 43 < 32 := bits_lt _ 47 43
  refine ⟨fun h => ⟨_, push_rset h, ?_⟩, fun h => ⟨_, push_rcalc h, ?_⟩⟩
  · rw [pushRset_of_accepts h]
    exact setReg_spec q w reg _
  · rw [pushRcalc_of_accepts h]
    obtain ⟨value, rest⟩ := setReg_spec q w reg (rcalcVal q x w c).toNat
    obtain ⟨nonneg, small⟩ := rcalcVal_fits h
    refine ⟨?_, rest⟩
    rw [value, BitVec.toNat_ofNat, Nat.mod_eq_of_lt (by omega), Int.toNat_of_nonneg nonneg]
    rfl

theorem pushPbind_of_accepts (h : s.accepts (.pbind w c) q x) : q.pushPbind (siteNum w) x c = q.modCaller (siteNum w) fun k =>
    { k with preds := vmod k.preds (f0 c 47 44) fun _ => { kind := pbindKind (siteNum w) c, val := false, since := x.t + 4 } } := by
  unfold State.pushPbind
  rw [show firstReason (pbindReasons q (siteNum w) x c) = none from accepted_reason rfl h, judge_none]

theorem pushVkey_of_accepts (h : s.accepts (.vkey w c) q x) :
    q.pushVkey (siteNum w) x c = q.modCaller (siteNum w) fun k => { k with keys := vmod k.keys (f0 c 47 46) fun _ => c.w1 } := by
  unfold State.pushVkey
  rw [show firstReason (vkeyReasons q (siteNum w) x c) = none from accepted_reason rfl h, judge_none]

theorem modCaller_caller_site (q : State) (w : Site) (f : Caller → Caller) :
    (q.modCaller (siteNum w) f).caller (siteNum w) = f (q.caller (siteNum w)) := by
  rw [modCaller_caller, if_pos ⟨rfl, siteNum_lt w⟩]

/-- Settles O6: PBIND changes one predicate source of its caller, VKEY one key slot. -/
theorem predicateAndKeyCommands : Obligations.PredicateAndKeyCommands := by
  intro s q x w c
  refine ⟨fun h => ⟨_, push_pbind h, ?_⟩, fun h => ⟨_, push_vkey h, ?_⟩⟩
  · have source : f0 c 47 44 < 16 := bits_lt _ 47 44
    rw [pushPbind_of_accepts h, modCaller_caller_site]
    refine ⟨?_, fun p hp => ?_, rfl, modCaller_same ..⟩
    · rw [preds_vmod, if_pos ⟨rfl, source⟩]
    · rw [preds_vmod, if_neg fun k => hp k.1]
  · rw [pushVkey_of_accepts h, modCaller_caller_site]
    exact ⟨rfl, rfl, modCaller_same ..⟩

end

end Sys2Proof.Proofs.Callers
end

section
/-! The proofs of O11 to O14: a command that enters a queue of its cluster changes that cluster alone, and schedules no more than starts of queue heads and
what goes with them. -/

namespace Sys2Proof.Proofs.Queues

open Sys2Proof Sys2Proof.Machine Sys2Proof.Laws Sys2Proof.Proofs.Issue Sys2Proof.Proofs.Callers

/-! ## What a push into a queue leaves (R111) -/

/-- The start of the head of a queue, which a push may schedule anew. -/
def isStart : EvK → Bool
  | .mxStart _ => true
  | .figStart _ => true
  | .mvStart _ _ => true
  | .syStart _ => true
  | .ckStart _ => true
  | _ => false

/-- From `s` to `t` one cluster changes, effects of one domain are scheduled, of which only starts are dropped, numbers are given, and the hazard
detector keeps and reports what it sees. -/
structure Files (n d : Nat) (s t : State) : Prop where
  eq : t = { s with cl := t.cl, dom := t.dom, uid := t.uid, det := t.det, hazards := t.hazards, counters := t.counters }
  others : ∀ m, m ≠ n → t.clus m = s.clus m
  dom : ∀ e, t.domN e = { s.domN e with evs := if e = d then (t.domN e).evs else (s.domN e).evs }
  kept : ∀ e ∈ (s.domN d).evs, isStart e.k = false → e ∈ (t.domN d).evs

section
variable {n d : Nat} {s t u : State}

theorem domN_keeps_evs (s : State) (d e : Nat) : s.domN e = { s.domN e with evs := if e = d then (s.domN e).evs else (s.domN e).evs } := by
  rw [ite_self]

theorem Files.refl (n d : Nat) (s : State) : Files n d s s := ⟨rfl, fun _ _ => rfl, domN_keeps_evs s d, fun _ h _ => h⟩

theorem Files.trans (h : Files n d s t) (k : Files n d t u) : Files n d s u where
  eq := k.eq.trans (by rw [h.eq])
  others m hm := (k.others m hm).trans (h.others m hm)
  dom e := by
    rw [k.dom e, h.dom e]
    split
    · rfl
    · rfl
  kept e he hs := k.kept e (h.kept e he hs) hs

theorem Files.regionOf (h : Files n d s t) (m : Nat) : t.regionOf m = s.regionOf m := by
  rw [h.eq]
  rfl

theorem Files.ifThen {c : Prop} [Decidable c] (h : c → Files n d s t) (k : ¬ c → Files n d s u) : Files n d s (if c then t else u) := by
  split
  · next hc => exact h hc
  · next hc => exact k hc

/-- Steps for each element of a list. -/
theorem Files.foldl {α : Type} {f : State → α → State} (hf : ∀ t, t.regionOf n = d → ∀ a, Files n d t (f t a)) (l : List α)
    (hs : s.regionOf n = d) : Files n d s (l.foldl f s) := by
  induction l generalizing s with
  | nil => exact .refl n d s
  | cons a l ih =>
    have first := hf s hs a
    exact first.trans (ih ((first.regionOf n).trans hs))

/-- What does not reach the clusters and the domains. -/
theorem files_of_fields (eq : t = { s with uid := t.uid, det := t.det, hazards := t.hazards, counters := t.counters }) : Files n d s t := by
  have domN : ∀ e, t.domN e = s.domN e := fun e => by rw [eq]; rfl
  refine ⟨by rw [eq], fun m _ => by rw [eq]; rfl, fun e => ?_, fun e he _ => by rw [domN]; exact he⟩
  rw [domN, ite_self]

/-- The frame that the statements about queues ask for. -/
theorem Files.frame (h : Files n d s t) : (∀ m, m ≠ n → t.clus m = s.clus m) ∧ (∀ w, 48 ≤ w → t.caller w = s.caller w) ∧ t.units = s.units
    ∧ s.sameButQueues t d := by
  refine ⟨h.others, fun w hw => ?_, by rw [h.eq], by rw [h.eq], h.dom⟩
  unfold State.caller
  rw [if_neg (Nat.not_lt.2 hw), if_neg (Nat.not_lt.2 hw), h.eq]

end

/-! ## The steps of a push -/

theorem mem_insertEv_self (e : Ev) (l : List Ev) : e ∈ insertEv e l := by
  induction l with
  | nil => exact List.mem_singleton.2 rfl
  | cons a l ih =>
    unfold insertEv
    split
    · exact List.mem_cons_self
    · exact List.mem_cons_of_mem _ ih

theorem mem_insertEv_of_mem {e x : Ev} {l : List Ev} (h : e ∈ l) : e ∈ insertEv x l := by
  induction l with
  | nil => exact absurd h List.not_mem_nil
  | cons a l ih =>
    unfold insertEv
    split
    · exact List.mem_cons_of_mem _ h
    · obtain rfl | h := List.mem_cons.1 h
      · exact List.mem_cons_self
      · exact List.mem_cons_of_mem _ (ih h)

theorem regionOf_lt (s : State) (n : Nat) : s.regionOf n < 10 := by
  have place : s.phys n ≤ 48 := by
    unfold State.phys
    cases h : ((List.range 48).filter fun p => !s.fused.contains p)[n]? with
    | none => exact Nat.le_refl 48
    | some p => exact Nat.le_of_lt (List.mem_range.1 (List.mem_of_mem_filter (List.mem_of_getElem? h)))
  unfold State.regionOf
  omega

section
variable (n d : Nat) (s : State)

theorem modCl_files (f : Cluster → Cluster) : Files n d s (s.modCl n f) where
  eq := rfl
  others m hm := by rw [modCl_clus, if_neg fun k => hm k.1]
  dom := domN_keeps_evs s d
  kept _ h _ := h

/-- A change of the effects of the domain that drops nothing but starts. -/
theorem evs_files (f : List Ev → List Ev) (hf : ∀ l, ∀ e ∈ l, isStart e.k = false → e ∈ f l) :
    Files n d s (s.modDom d fun x => { x with evs := f x.evs }) where
  eq := rfl
  others _ _ := rfl
  dom e := by
    rw [modDom_domN]
    by_cases he : e = d
    · subst he
      simp only [true_and, if_true]
      split
      · rfl
      · rfl
    · rw [if_neg fun k => he k.1, if_neg he]
  kept e he hs := by
    rw [modDom_domN]
    split
    · exact hf _ e he hs
    · exact he

theorem post_files (t ph rank : Nat) (k : EvK) (m : Bool) : Files n d s (s.post d t ph rank k m) :=
  evs_files n d s _ fun _ _ h _ => mem_insertEv_of_mem h

theorem dropEvs_files (p : Ev → Bool) (hp : ∀ e, p e = true → isStart e.k = true) : Files n d s (s.dropEvs d p) :=
  evs_files n d s _ fun l e he hs => List.mem_filter.2 ⟨he, by
    cases hpe : p e with
    | false => rfl
    | true => exact absurd (hp e hpe) (by simp [hs])⟩

theorem modDet_files (f : Detector → Detector) : Files n d s (s.modDet f) := files_of_fields rfl

theorem hazard_files (x : Ctx) (kind sub loc other resource : Nat) : Files n d s (s.hazard x kind sub loc other resource) := files_of_fields rfl

theorem will_files (m dst : Nat) (x : Ctx) (loc : Nat) (parts : List (Nat × Nat × Nat)) : Files n d s (s.will m dst x loc parts) :=
  .ifThen (fun _ => .refl n d s) fun _ => modDet_files n d s _

theorem fresh_files : Files n d s s.fresh.2 := files_of_fields rfl

theorem narrowSignal_files (m loc scope : Nat) (o : SigObj) (x : Ctx) : Files n d s (s.narrowSignal m loc scope o x) := by
  unfold State.narrowSignal
  split
  · exact .ifThen (fun _ => hazard_files n d s ..) fun _ => .refl n d s
  · exact .refl n d s

@[simp] theorem will_clus (m dst : Nat) (x : Ctx) (loc : Nat) (parts : List (Nat × Nat × Nat)) (k : Nat) :
    (s.will m dst x loc parts).clus k = s.clus k := by
  unfold State.will
  split <;> rfl

@[simp] theorem narrowSignal_clus (m loc scope : Nat) (o : SigObj) (x : Ctx) (k : Nat) : (s.narrowSignal m loc scope o x).clus k = s.clus k := by
  unfold State.narrowSignal
  split
  · split <;> rfl
  · rfl

end

/-! ## The count queue and the check-unit queue (R252, R364, R385, R399) -/

section
variable {s q : State} {x : Ctx} {n : Fin 48} {c : Cw}

theorem modCl_clus_self (s : State) (n : Fin 48) (f : Cluster → Cluster) : (s.modCl n f).clus n = f (s.clus n) := by
  rw [modCl_clus, if_pos ⟨rfl, n.isLt⟩]

theorem schedCnt_files {s : State} {n d : Nat} (h : s.regionOf n = d) : Files n d s (s.schedCnt n) := by
  subst h
  unfold State.schedCnt
  dsimp only
  split
  · exact post_files n _ s ..
  · exact .refl ..

theorem schedCnt_clus (s : State) (n m : Nat) : (s.schedCnt n).clus m = s.clus m := by
  unfold State.schedCnt
  dsimp only
  split <;> rfl

/-- A COUNT enters its queue. -/
def enqueueCnt (s : State) (n : Nat) (x : Ctx) (j : CountJob) : State :=
  let s := s.modCl n fun c => { c with cntq := c.cntq ++ [(x, j)] }
  if (s.clus n).cntq.length = 1 then s.schedCnt n else s

theorem enqueueCnt_files {s : State} {n d : Nat} (h : s.regionOf n = d) (x : Ctx) (j : CountJob) : Files n d s (enqueueCnt s n x j) :=
  .ifThen (fun _ => (modCl_files n _ s _).trans (schedCnt_files h)) fun _ => modCl_files n _ s _

theorem enqueueCnt_clus (s : State) (n : Fin 48) (x : Ctx) (j : CountJob) :
    (enqueueCnt s n x j).clus n = { s.clus n with cntq := (s.clus n).cntq ++ [(x, j)] } := by
  unfold enqueueCnt
  dsimp only
  split
  · rw [schedCnt_clus, modCl_clus_self]
  · rw [modCl_clus_self]

/-- The COUNT of a command's words (R252, R385). -/
def countJob (q : State) (n : Nat) (x : Ctx) (c : Cw) : CountJob :=
  { width := f0 c 47 47, interp := f0 c 46 45, cond := f0 c 44 42, pmode := f0 c 41 40, pred := f0 c 39 36, tkt := f0 c 35 31
    nelem := f0 c 30 7 + 1, src := (exprVal (q.caller n) x.idx 64 (f1 c 63 32)).toNat
    dst := (exprVal (q.caller n) x.idx 64 (f1 c 31 0)).toNat, keyLo := f2 c 63 48, keyHi := f2 c 47 32, thresh := f2 c 31 0, ctx := x }

theorem pushCount_of_accepts (h : s.accepts (.count n c) q x) :
    q.pushCount n x c = enqueueCnt (q.will n n x (q.locLc n 7 0) [(0, (countJob q n x c).dst, 64)]) n x (countJob q n x c) := by
  unfold State.pushCount
  dsimp only
  rw [show firstReason (countReasons q n x c) = none from accepted_reason rfl h, judge_none]
  rfl

theorem okF_nonneg {v : Int} {len : Nat} (h : okF v len = true) : 0 ≤ v := by
  simp only [okF, Bool.and_eq_true, decide_eq_true_eq] at h
  obtain ⟨⟨⟨nonneg, -⟩, -⟩, -⟩ := h
  exact nonneg

theorem count_ranges (h : s.accepts (.count n c) q x) :
    0 ≤ exprVal (q.caller n) x.idx 64 (f1 c 63 32) ∧ 0 ≤ exprVal (q.caller n) x.idx 64 (f1 c 31 0) := by
  have ranges : (!okF (exprVal (q.caller n) x.idx 64 (f1 c 63 32)) ((f0 c 30 7 + 1) * (1 + f0 c 47 47))
      || !okF (exprVal (q.caller n) x.idx 64 (f1 c 31 0)) 64) = false := accepted_not_applies rfl h (r := rRange) (by simp [countReasons])
  simp only [Bool.or_eq_false_iff, Bool.not_eq_false'] at ranges
  exact ⟨okF_nonneg ranges.1, okF_nonneg ranges.2⟩

theorem schedCk_files {s : State} {n d : Nat} (h : s.regionOf n = d) : Files n d s (s.schedCk n) := by
  subst h
  have dropped : Files n (s.regionOf n) s (s.dropEvs (s.regionOf n) (·.k == .ckStart n)) := dropEvs_files _ _ s _ fun e he => by
    rw [beq_iff_eq] at he
    rw [he]
    rfl
  unfold State.schedCk
  dsimp only
  split
  · exact dropped.trans (post_files n _ _ ..)
  · exact dropped

theorem schedCk_clus (s : State) (n m : Nat) : (s.schedCk n).clus m = s.clus m := by
  unfold State.schedCk
  dsimp only
  split <;> rfl

theorem enqueueCk_files {s : State} {n d : Nat} (h : s.regionOf n = d) (x : Ctx) (cmd : CkCmd) : Files n d s (s.enqueueCk n x cmd) :=
  .ifThen (fun _ => (modCl_files n _ s _).trans (schedCk_files h)) fun _ => modCl_files n _ s _

theorem enqueueCk_clus (s : State) (n : Fin 48) (x : Ctx) (cmd : CkCmd) :
    (s.enqueueCk n x cmd).clus n = { s.clus n with ckq := (s.clus n).ckq ++ [(x, cmd)] } := by
  unfold State.enqueueCk
  dsimp only
  split
  · rw [schedCk_clus, modCl_clus_self]
  · rw [modCl_clus_self]

theorem pushCkinit_of_accepts (h : s.accepts (.ckinit n c) q x) : q.pushCkinit n x c = q.enqueueCk n x (.init (f0 c 47 46)) := by
  unfold State.pushCkinit
  rw [show firstReason (ckinitReasons q n x c) = none from accepted_reason rfl h, judge_none]

theorem pushCkfeed_of_accepts (h : s.accepts (.ckfeed n c) q x) : q.pushCkfeed n x c = q.enqueueCk n x
    (if f0 c 45 45 == 1 then .feedReg (leBytes ((f0 c 23 0 + 1) * 2 ^ f0 c 47 46) ((q.caller n).reg (f0 c 44 40)).toNat)
      else .feedFloor ((f0 c 23 0 + 1) * 2 ^ f0 c 47 46) (exprVal (q.caller n) x.idx 64 (f1 c 31 0)).toNat) := by
  unfold State.pushCkfeed
  dsimp only
  rw [show firstReason (ckfeedReasons q n x c) = none from accepted_reason rfl h, judge_none]

theorem pushCkread_of_accepts (h : s.accepts (.ckread n c) q x) :
    let dst := (exprVal (q.caller n) x.idx 64 (f0 c 31 0)).toNat
    q.pushCkread n x c = (q.will n n x (q.locLc n 5 0) [(0, dst, 8)]).enqueueCk n x (.read (f0 c 47 43) dst) := by
  unfold State.pushCkread
  dsimp only
  rw [show firstReason (ckreadReasons q n x c) = none from accepted_reason rfl h, judge_none]

/-- What the check-unit queue holds after a push that the detector has seen, and what the push leaves. -/
theorem enqueueCk_spec {u : State} (seen : Files n (q.regionOf n) q u) (same : u.clus n = q.clus n) (x : Ctx) (cmd : CkCmd) :
    let t := u.enqueueCk n x cmd
    t.clus n = { q.clus n with ckq := (q.clus n).ckq ++ [(x, cmd)] }
      ∧ (∀ m, m ≠ n.val → t.clus m = q.clus m) ∧ (∀ w, 48 ≤ w → t.caller w = q.caller w) ∧ t.units = q.units
      ∧ q.sameButQueues t (q.regionOf n) := by
  exact ⟨by rw [enqueueCk_clus, same], (seen.trans (enqueueCk_files (seen.regionOf n) x cmd)).frame⟩

/-- Settles O13: each command stands last in its queue, and the rest is the frame of a push. -/
theorem countAndCheckCommandsQueue : Obligations.CountAndCheckCommandsQueue := by
  intro s q x n c
  refine ⟨fun h => ⟨_, countJob q n x c, push_count h, ?_⟩, fun i cmd row h => ?_⟩
  · obtain ⟨src, dst⟩ := count_ranges h
    have seen : Files n (q.regionOf n) q _ := will_files n _ q n n x (q.locLc n 7 0) [(0, (countJob q n x c).dst, 64)]
    rw [pushCount_of_accepts h]
    refine ⟨?_, rfl, rfl, rfl, rfl, rfl, rfl, rfl, rfl, rfl, rfl, Int.toNat_of_nonneg src, Int.toNat_of_nonneg dst,
      (seen.trans (enqueueCnt_files (seen.regionOf n) x _)).frame⟩
    rw [enqueueCnt_clus, will_clus]
  · obtain ⟨rfl, rfl⟩ | ⟨rfl, reg, rfl⟩ | ⟨rfl, reg, rfl⟩ | ⟨rfl, rfl⟩ := row
    · refine ⟨_, push_ckinit h, ?_⟩
      rw [pushCkinit_of_accepts h]
      exact enqueueCk_spec (.refl ..) rfl x _
    · refine ⟨_, push_ckfeed h, ?_⟩
      rw [pushCkfeed_of_accepts h, if_pos (by simp [reg])]
      exact enqueueCk_spec (.refl ..) rfl x _
    · refine ⟨_, push_ckfeed h, ?_⟩
      rw [pushCkfeed_of_accepts h, if_neg (by simp [reg])]
      exact enqueueCk_spec (.refl ..) rfl x _
    · refine ⟨_, push_ckread h, ?_⟩
      rw [pushCkread_of_accepts h]
      exact enqueueCk_spec (will_files ..) (will_clus ..) x _

end

/-! ## The queues of the movers (R383, R384) -/

section
variable {s q : State} {x : Ctx} {n : Fin 48} {m : Fin 2} {c : Cw}

theorem mover_vmod (k : Cluster) (m i : Nat) (f : Mover → Mover) :
    Cluster.mover { k with movers := vmod k.movers m f } i = if i = m ∧ i < 2 then f (k.mover i) else k.mover i := by
  unfold Cluster.mover
  by_cases h : i < 2
  · by_cases e : i = m
    · subst e; simp only [h, ↓reduceDIte, ↓reduceIte, and_self, vmod_get]
    · simp only [h, e, ↓reduceDIte, ↓reduceIte, false_and, vmod_get]
  · simp only [h, ↓reduceDIte, ↓reduceIte, and_false]

theorem schedMv_files {s : State} {n d : Nat} (m : Nat) (h : s.regionOf n = d) : Files n d s (s.schedMv n m) := by
  subst h
  have dropped : Files n (s.regionOf n) s (s.dropEvs (s.regionOf n) (·.k == .mvStart n m)) := dropEvs_files _ _ s _ fun e he => by
    rw [beq_iff_eq] at he
    rw [he]
    rfl
  unfold State.schedMv
  dsimp only
  split
  · exact dropped.trans (.ifThen (fun _ => .refl ..) fun _ => post_files n _ _ ..)
  · exact dropped

theorem schedMv_clus (s : State) (n m k : Nat) : (s.schedMv n m).clus k = s.clus k := by
  unfold State.schedMv
  dsimp only
  split
  · split <;> rfl
  · rfl

/-- The completion of a mover command is judged as a signal (R320, R419). -/
def judgeDone (s : State) (n m : Nat) (x : Ctx) (cmd : MvCmd) : State :=
  match cmd.done with
  | some q => s.narrowSignal n (s.locLc n 4 m) q.scope q.obj x
  | none => s

theorem judgeDone_files (s : State) (n d m : Nat) (x : Ctx) (cmd : MvCmd) : Files n d s (judgeDone s n m x cmd) := by
  unfold judgeDone
  split
  · exact narrowSignal_files n d s ..
  · exact .refl ..

theorem judgeDone_clus (s : State) (n m : Nat) (x : Ctx) (cmd : MvCmd) (k : Nat) : (judgeDone s n m x cmd).clus k = s.clus k := by
  unfold judgeDone
  split
  · exact narrowSignal_clus s ..
  · rfl

/-- A mover with a command as the last of its queue. -/
def moverQueued (e : Ctx × MvCmd) (v : Mover) : Mover := { v with q := v.q ++ [e] }

theorem enqueueMv_eq (s : State) (n m : Nat) (x : Ctx) (cmd : MvCmd) : s.enqueueMv n m x cmd =
    let t := (judgeDone s n m x cmd).modMv n m (moverQueued (x, cmd))
    if ((t.clus n).mover m).q.length = 1 then t.schedMv n m else t := rfl

theorem enqueueMv_files (s : State) (n m : Nat) (x : Ctx) (cmd : MvCmd) : Files n (s.regionOf n) s (s.enqueueMv n m x cmd) := by
  have queued : Files n (s.regionOf n) s ((judgeDone s n m x cmd).modMv n m (moverQueued (x, cmd))) :=
    (judgeDone_files s n _ m x cmd).trans (modCl_files n _ _ _)
  rw [enqueueMv_eq]
  exact .ifThen (fun _ => queued.trans (schedMv_files m (queued.regionOf n))) fun _ => queued

theorem enqueueMv_clus (s : State) (n : Fin 48) (m : Nat) (x : Ctx) (cmd : MvCmd) :
    (s.enqueueMv n m x cmd).clus n = { s.clus n with movers := vmod (s.clus n).movers m (moverQueued (x, cmd)) } := by
  have queued : ((judgeDone s n m x cmd).modMv n m (moverQueued (x, cmd))).clus n
      = { s.clus n with movers := vmod (s.clus n).movers m (moverQueued (x, cmd)) } := by
    unfold State.modMv
    rw [modCl_clus_self, judgeDone_clus]
  rw [enqueueMv_eq]
  dsimp only
  split
  · rw [schedMv_clus, queued]
  · exact queued

theorem enqueueMv_spec (q : State) (n : Fin 48) (m : Fin 2) (x : Ctx) (cmd : MvCmd) :
    let t := q.enqueueMv n m x cmd
    (t.clus n).mover m = { (q.clus n).mover m with q := ((q.clus n).mover m).q ++ [(x, cmd)] }
      ∧ (∀ k, k ≠ m.val → (t.clus n).mover k = (q.clus n).mover k)
      ∧ t.clus n = { q.clus n with movers := (t.clus n).movers }
      ∧ (∀ k, k ≠ n.val → t.clus k = q.clus k) ∧ (∀ w, 48 ≤ w → t.caller w = q.caller w) ∧ t.units = q.units
      ∧ q.sameButQueues t (q.regionOf n) := by
  intro t
  have queued : t.clus n = _ := enqueueMv_clus q n m x cmd
  refine ⟨?_, fun k hk => ?_, by rw [queued], (enqueueMv_files q n m x cmd).frame⟩
  · rw [queued, mover_vmod, if_pos ⟨rfl, m.isLt⟩]
    rfl
  · rw [queued, mover_vmod, if_neg fun h => hk h.1]

theorem pushIn_of_accepts (h : s.accepts (.inCmd n m c) q x) : q.pushIn n m x c = q.enqueueMv n m x
    (.inC (exprVal (q.caller n) x.idx 64 (f1 c 63 32)).toNat (f0 c 47 36 + 1) (f0 c 35 30) (f2 c 63 56) (f2 c 55 52) (mvDone c)) := by
  unfold State.pushIn
  dsimp only
  rw [show firstReason (inReasons q n m x c) = none from accepted_reason rfl h, judge_none]

theorem pushOut_of_accepts (h : s.accepts (.outCmd n m c) q x) : q.pushOut n m x c = q.enqueueMv n m x
    (.outC (exprVal (q.caller n) x.idx 64 (f1 c 63 32)).toNat (f0 c 47 36 + 1) (f0 c 35 30)
      (exprVal (q.caller n) x.idx 64 (f1 c 31 0)).toNat (f2 c 17 0) (mvDone c)) := by
  unfold State.pushOut
  dsimp only
  rw [show firstReason (outReasons q n m x c) = none from accepted_reason rfl h, judge_none]

theorem pushXfer_of_accepts (h : s.accepts (.xfer n m c) q x) : q.pushXfer n m x c = q.enqueueMv n m x
    (.xfer (exprVal (q.caller n) x.idx 64 (f1 c 63 32)).toNat (exprVal (q.caller n) x.idx 1 (f1 c 31 0)).toNat (f2 c 51 47) (f2 c 17 0)
      (if f2 c 63 63 = 1 then (List.range 48).filter fun k => ((q.caller n).reg (f2 c 62 58)).getLsbD k else [f2 c 57 52]) (mvDone c)) := by
  unfold State.pushXfer
  dsimp only
  rw [show firstReason (xferReasons q n m x c) = none from accepted_reason rfl h, judge_none]
  simp only [beq_iff_eq]

theorem pushRotate_of_accepts (h : s.accepts (.rotate n m c) q x) : q.pushRotate n m x c = q.enqueueMv n m x
    (.rotate (f2 c 63 58) (f2 c 15 0) (f3 c 15 0) (mvDone c)) := by
  unfold State.pushRotate
  dsimp only
  rw [show firstReason (rotateReasons q n m x c) = none from accepted_reason rfl h, judge_none]

/-- Settles O14: each of the four commands is a push into the queue of its mover. -/
theorem moverCommandsQueue : Obligations.MoverCommandsQueue := by
  intro s q x n m c i cmd e row h
  have spec := enqueueMv_spec q n m x cmd
  obtain ⟨rfl, rfl⟩ | ⟨rfl, rfl⟩ | ⟨rfl, rfl⟩ | ⟨rfl, rfl⟩ := row
  · exact ⟨_, push_inCmd h, by rw [pushIn_of_accepts h]; exact spec⟩
  · exact ⟨_, push_outCmd h, by rw [pushOut_of_accepts h]; exact spec⟩
  · exact ⟨_, push_xfer h, by rw [pushXfer_of_accepts h]; exact spec⟩
  · exact ⟨_, push_rotate h, by rw [pushRotate_of_accepts h]; exact spec⟩

end

end Sys2Proof.Proofs.Queues
end

section
/-! The proofs of O11 and O12: the matrix queue, whose MDRAINs name VX deliveries ahead, and the vector queue. -/

namespace Sys2Proof.Proofs.EngineQueues

open Sys2Proof Sys2Proof.Machine Sys2Proof.Laws Sys2Proof.Proofs.Issue Sys2Proof.Proofs.Callers Sys2Proof.Proofs.Queues

/-! ## The vector queue (R111, R194) -/

section
variable {s t : State} {n d : Nat}

theorem schedVx_files (h : s.regionOf n = d) : Files n d s (s.schedVx n) := by
  subst h
  have dropped : Files n (s.regionOf n) s (s.dropEvs (s.regionOf n) (·.k == .figStart n)) := dropEvs_files _ _ s _ fun e he => by
    rw [beq_iff_eq] at he
    rw [he]
    rfl
  unfold State.schedVx
  dsimp only
  split
  · exact dropped
  · split
    · exact dropped.trans (post_files n _ _ ..)
    · exact dropped

theorem schedVx_clus (s : State) (n m : Nat) : (s.schedVx n).clus m = s.clus m := by
  unfold State.schedVx
  dsimp only
  split
  · rfl
  · split <;> rfl

theorem enqueueVx_files (h : s.regionOf n = d) (x : Ctx) (cmd : VxCmd) : Files n d s (s.enqueueVx n x cmd) :=
  .ifThen (fun _ => (modCl_files n _ s _).trans (schedVx_files h)) fun _ => modCl_files n _ s _

theorem enqueueVx_clus (s : State) (n : Fin 48) (x : Ctx) (cmd : VxCmd) :
    (s.enqueueVx n x cmd).clus n = { s.clus n with vx := { (s.clus n).vx with q := (s.clus n).vx.q ++ [(x, cmd)] } } := by
  unfold State.enqueueVx State.modVx
  dsimp only
  split
  · rw [schedVx_clus, modCl_clus_self]
  · rw [modCl_clus_self]

theorem owe_files (s : State) (n d id engine dst addr left : Nat) (x : Ctx) : Files n d s (s.owe n id engine dst addr left x) :=
  (modDet_files n d s _).trans (modCl_files n d _ _)

theorem owe_clus (s : State) (n : Fin 48) (id engine dst addr left : Nat) (x : Ctx) :
    (s.owe n id engine dst addr left x).clus n = { s.clus n with unacked := (s.clus n).unacked ++ [{ id, engine, dst, addr, left }] } :=
  modCl_clus_self _ n _

end

/-! ## FIGURE and FTLOAD (R322, R378-R382) -/

section
variable {s q : State} {x : Ctx} {n : Fin 48} {c : Cw}

theorem pushFtload_of_accepts (h : s.accepts (.ftload n c) q x) : q.pushFtload n x c = q.enqueueVx n x
    (.ftload (f0 c 47 42) (f0 c 41 36 + 1) (exprVal (q.caller n) x.idx 64 (f0 c 31 0)).toNat) := by
  unfold State.pushFtload
  dsimp only
  rw [show firstReason (ftloadReasons q n x c) = none from accepted_reason rfl h, judge_none]

/-- Two numbers are taken for the writes of a figure. -/
def twoTaken (q : State) : State := q.fresh.2.fresh.2

/-- The writes of a figure are owed: those into its first destination, and those into its second where they do not go together (R322, R325). -/
def figOwed (q : State) (n wid : Nat) (x : Ctx) (j : FigJob) : State :=
  let s := q.owe n wid 1 (j.dn n) (j.d % 2 ^ 24) j.v x
  if j.joint n then s else s.owe n (wid + 1) 1 (j.d2n n) (j.d2 % 2 ^ 24) j.v x

/-- The detector notes the writes of a figure. -/
def figNoted (q : State) (n : Nat) (x : Ctx) (j : FigJob) : State :=
  if j.joint n then q.will n (j.dn n) x (q.locLc n 2 0) (j.parts.1 ++ j.parts.2)
  else (q.will n (j.dn n) x (q.locLc n 2 0) j.parts.1).will n (j.d2n n) x (q.locLc n 2 0) j.parts.2

theorem figJob_twoTaken (q : State) (n : Nat) (x : Ctx) (c : Cw) (wid : Nat) : figJob (twoTaken q) n x c wid = figJob q n x c wid := by
  have caller : (twoTaken q).caller n = q.caller n := rfl
  have cluster : (twoTaken q).clus n = q.clus n := rfl
  have kept : (twoTaken q).unkept n = q.unkept n := rfl
  have sampled : (twoTaken q).sample n = q.sample n := rfl
  unfold figJob
  rw [caller, cluster, kept, sampled]

theorem pushFigure_of_accepts (h : s.accepts (.figure n c) q x) :
    let j := figJob q n x c q.uid
    q.pushFigure n x c = (figNoted (figOwed (twoTaken q) n q.uid x j) n x j).enqueueVx n x (.figure j) := by
  unfold State.pushFigure
  rw [show firstReason (figReasons q n x c) = none from accepted_reason rfl h, judge_none]
  rw [← figJob_twoTaken]
  rfl

theorem figOwed_files (q : State) (n d wid : Nat) (x : Ctx) (j : FigJob) : Files n d q (figOwed q n wid x j) :=
  .ifThen (fun _ => owe_files ..) fun _ => (owe_files ..).trans (owe_files ..)

theorem figNoted_files (q : State) (n d : Nat) (x : Ctx) (j : FigJob) : Files n d q (figNoted q n x j) :=
  .ifThen (fun _ => will_files ..) fun _ => (will_files ..).trans (will_files ..)

theorem figNoted_clus (q : State) (n : Nat) (x : Ctx) (j : FigJob) (m : Nat) : (figNoted q n x j).clus m = q.clus m := by
  unfold figNoted
  split
  · rw [will_clus]
  · rw [will_clus, will_clus]

/-- What a figure owes stands behind what its cluster owed before. -/
theorem figOwed_clus (q : State) (n : Fin 48) (wid : Nat) (x : Ctx) (j : FigJob) : ∃ more,
    (figOwed q n wid x j).clus n = { q.clus n with unacked := (q.clus n).unacked
      ++ { id := wid, engine := 1, dst := j.dn n, addr := j.d % 2 ^ 24, left := j.v } :: more } := by
  unfold figOwed
  dsimp only
  split
  · exact ⟨[], owe_clus ..⟩
  · refine ⟨[{ id := wid + 1, engine := 1, dst := j.d2n n, addr := j.d2 % 2 ^ 24, left := j.v }], ?_⟩
    rw [owe_clus, owe_clus]
    simp only [List.append_assoc, List.cons_append, List.nil_append]

/-- A value below the cluster-qualified range, a negative one too, names the own cluster (R367). -/
theorem qLc_toNat (n : Nat) (v : Int) : qLc n v.toNat = qLc n v := by
  unfold qLc
  obtain h | h := Int.le_total 0 v
  · rw [Int.toNat_of_nonneg h]
  · rw [if_pos (by omega), if_pos (by omega)]

theorem figJob_dn (q : State) (n : Nat) (x : Ctx) (c : Cw) (wid : Nat) :
    (figJob q n x c wid).dn n = qLc n (figVals (q.caller n) x.idx c).d := by
  unfold FigJob.dn figJob
  exact qLc_toNat ..

theorem figJob_v (q : State) (n : Nat) (x : Ctx) (c : Cw) (wid : Nat) : (figJob q n x c wid).v = f0 c 41 34 + 1 := by
  unfold figJob
  rfl

/-- Settles O12: each command stands last in the vector queue, a FIGURE once its writes are owed. -/
theorem vectorCommandsQueue : Obligations.VectorCommandsQueue := by
  intro s q x n c
  refine ⟨fun h => ⟨_, push_figure h, ?_⟩, fun h => ⟨_, push_ftload h, ?_⟩⟩
  · rw [pushFigure_of_accepts h]
    generalize hj : figJob q n x c q.uid = j
    have taken : Files n (q.regionOf n) q (twoTaken q) := files_of_fields rfl
    have noted := (taken.trans (figOwed_files _ n _ q.uid x j)).trans (figNoted_files _ n _ x j)
    obtain ⟨more, owed⟩ := figOwed_clus (twoTaken q) n q.uid x j
    have own : ((figNoted (figOwed (twoTaken q) n q.uid x j) n x j).enqueueVx n x (.figure j)).clus n = _ := enqueueVx_clus ..
    rw [figNoted_clus, owed] at own
    rw [own]
    refine ⟨rfl, rfl, ⟨_, List.mem_append_right _ List.mem_cons_self, ?_⟩, fun o ho => List.mem_append_left _ ho,
      (noted.trans (enqueueVx_files (noted.regionOf n) x _)).frame⟩
    subst hj
    refine ⟨rfl, rfl, ?_, ?_⟩
    · exact figJob_v q n x c q.uid
    · dsimp only
      exact figJob_dn q n x c q.uid
  · rw [pushFtload_of_accepts h, enqueueVx_clus]
    exact ⟨rfl, rfl, (enqueueVx_files rfl x _).frame⟩

end

/-! ## Deliveries that are named ahead (R194; log 99) -/

section
variable {s t : State} {n d : Nat}

/-- A cluster whose array names deliveries ahead, with what the figures that wait for them have read and keep. -/
def foreseen (ahead : List Nat) (keep : Fig → Table Bytes) (c : Cluster) : Cluster :=
  { c with vx := { c.vx with ahead, figs := c.vx.figs.map fun f => { f with xin := keep f } } }

theorem foreseen_self (c : Cluster) : foreseen c.vx.ahead Fig.xin c = c := by
  have same : c.vx.figs.map (fun f => { f with xin := f.xin }) = c.vx.figs := List.map_id _
  unfold foreseen
  rw [same]

theorem posts_files (l : List Nat) (h : s.regionOf n = d) :
    Files n d s (l.foldl (fun s l => s.post (s.regionOf n) (l - 10) phRead 2 (.vxRead n)) s) :=
  .foldl (fun t ht l => by rw [ht]; exact post_files n d t ..) l h

theorem posts_clus (l : List Nat) (s : State) (n m : Nat) :
    (l.foldl (fun s l => s.post (s.regionOf n) (l - 10) phRead 2 (.vxRead n)) s).clus m = s.clus m := by
  induction l generalizing s with
  | nil => rfl
  | cons a l ih => rw [List.foldl_cons, ih, post_clus]

theorem foreseeVx_files (stamps : List Nat) (h : s.regionOf n = d) : Files n d s (s.foreseeVx n stamps) := by
  refine .ifThen (fun _ => .refl n d s) fun _ => ?_
  have named : ∀ g, Files n d s ((s.modVx n fun v => { v with ahead := stamps }).modVx n g) := fun g => (modCl_files n d s _).trans (modCl_files n d _ _)
  have posted := fun g l => (named g).trans (posts_files l (((named g).regionOf n).trans h))
  exact (posted _ _).trans (schedVx_files (((posted _ _).regionOf n).trans h))

theorem foreseeVx_clus (s : State) (n : Fin 48) (stamps : List Nat) : ∃ ahead keep, (s.foreseeVx n stamps).clus n = foreseen ahead keep (s.clus n) := by
  unfold State.foreseeVx
  dsimp only
  split
  · exact ⟨_, _, (foreseen_self _).symm⟩
  · rw [schedVx_clus, posts_clus]
    unfold State.modVx
    rw [modCl_clus_self, modCl_clus_self]
    exact ⟨_, _, rfl⟩

theorem schedMx_files (h : s.regionOf n = d) : Files n d s (s.schedMx n) := by
  subst h
  have dropped : Files n (s.regionOf n) s (s.dropEvs (s.regionOf n) (·.k == .mxStart n)) := dropEvs_files _ _ s _ fun e he => by
    rw [beq_iff_eq] at he
    rw [he]
    rfl
  unfold State.schedMx
  dsimp only
  split
  · exact dropped.trans (foreseeVx_files _ (dropped.regionOf n))
  · next x cmd l _ =>
    have posted := dropped.trans (post_files n (s.regionOf n) _ ((s.clus n).mx.startAt x cmd) phStart n (.mxStart n) false)
    exact posted.trans (foreseeVx_files _ (posted.regionOf n))

theorem schedMx_clus (s : State) (n : Fin 48) : ∃ ahead keep, (s.schedMx n).clus n = foreseen ahead keep (s.clus n) := by
  unfold State.schedMx
  dsimp only
  split
  · exact foreseeVx_clus _ n _
  · exact foreseeVx_clus _ n _

theorem enqueueMx_files (h : s.regionOf n = d) (x : Ctx) (cmd : MxCmd) : Files n d s (s.enqueueMx n x cmd) :=
  .ifThen (fun _ => (modCl_files n _ s _).trans (schedMx_files h)) fun _ => (modCl_files n _ s _).trans (foreseeVx_files _ h)

/-- A cluster with a command as the last of its matrix queue. -/
def queuedMx (e : Ctx × MxCmd) (c : Cluster) : Cluster := { c with mx := { c.mx with q := c.mx.q ++ [e] } }

theorem enqueueMx_clus (s : State) (n : Fin 48) (x : Ctx) (cmd : MxCmd) :
    ∃ ahead keep, (s.enqueueMx n x cmd).clus n = foreseen ahead keep (queuedMx (x, cmd) (s.clus n)) := by
  have queued : (s.modMx n fun m => { m with q := m.q ++ [(x, cmd)] }).clus n = queuedMx (x, cmd) (s.clus n) := modCl_clus_self s n _
  rw [← queued]
  unfold State.enqueueMx
  dsimp only
  split
  · exact schedMx_clus _ n
  · exact foreseeVx_clus _ n _

/-- A command that enters the matrix queue of a cluster with drain registers as given. -/
theorem mxQueued_of_enqueue {q u : State} {n : Fin 48} {r : DrainRegs} (seen : Files n (q.regionOf n) q u)
    (own : u.clus n = { q.clus n with mx := { (q.clus n).mx with drainNext := r } }) (x : Ctx) (cmd : MxCmd) :
    mxQueued q (u.enqueueMx n x cmd) n x cmd ∧ ((u.enqueueMx n x cmd).clus n).mx.drainNext = r := by
  obtain ⟨ahead, keep, queued⟩ := enqueueMx_clus u n x cmd
  rw [own] at queued
  unfold mxQueued
  rw [queued]
  refine ⟨⟨rfl, rfl, ?_, (seen.trans (enqueueMx_files (seen.regionOf n) x cmd)).frame⟩, rfl⟩
  exact List.map_map

end

/-! ## TLOAD, MSTREAM, MDSET and MDRAIN (R372-R377) -/

section
variable {s q : State} {x : Ctx} {n : Fin 48} {c : Cw}

theorem pushTload_of_accepts (h : s.accepts (.tload n c) q x) : q.pushTload n x c = q.enqueueMx n x
    (.tload (f0 c 47 47) (f0 c 46 42) (f0 c 41 41 == 1) (f0 c 40 38)
      (exprVal (q.caller n) x.idx 64 (f0 c 31 0)).toNat (exprVal (q.caller n) x.idx 64 (f1 c 31 0)).toNat) := by
  unfold State.pushTload
  dsimp only
  rw [show firstReason (tloadReasons q n x c) = none from accepted_reason rfl h, judge_none]

theorem pushMdrain_of_accepts (h : s.accepts (.mdrain n c) q x) :
    q.pushMdrain n x c = (q.will n n x (q.locLc n 1 0) (drainParts (q.clus n).mx.drainNext (f0 c 30 28) (f0 c 46 39) (f0 c 38 31 + 1))).enqueueMx n x
      (.mdrain (f0 c 47 47) (f0 c 46 39) (f0 c 38 31 + 1) (f0 c 30 28)) := by
  unfold State.pushMdrain
  dsimp only
  rw [show firstReason (mdrainReasons q n x c) = none from accepted_reason rfl h, judge_none]

/-- The drain registers of an MDSET (R375). -/
def mdsetRegs (q : State) (n : Nat) (x : Ctx) (c : Cw) : DrainRegs :=
  { dest := (exprVal (q.caller n) x.idx 64 (f0 c 31 0)).toNat, sdest := (exprVal (q.caller n) x.idx 64 (f1 c 31 0)).toNat, tkt := f0 c 47 43
    osc := if f0 c 42 42 = 1 then (q.clus n).amaxCode (f0 c 41 34) (2 + f0 c 33 33) else f0 c 41 34 }

theorem pushMdset_of_accepts (h : s.accepts (.mdset n c) q x) : q.pushMdset n x c =
    (q.modMx n fun m => { m with drainNext := mdsetRegs q n x c }).enqueueMx n x (.mdset (mdsetRegs q n x c)) := by
  unfold State.pushMdset
  dsimp only
  rw [show firstReason (mdsetReasons q n x c) = none from accepted_reason rfl h, judge_none]
  simp only [mdsetRegs, beq_iff_eq]

theorem mdset_ranges (h : s.accepts (.mdset n c) q x) :
    0 ≤ exprVal (q.caller n) x.idx 64 (f0 c 31 0) ∧ 0 ≤ exprVal (q.caller n) x.idx 64 (f1 c 31 0) := by
  have ranges : (!okF (exprVal (q.caller n) x.idx 64 (f0 c 31 0)) 0 || !okF (exprVal (q.caller n) x.idx 64 (f1 c 31 0)) 0
      || (f0 c 42 42 == 1 && ((q.clus n).amaxSlot (f0 c 41 34)).isNone)) = false :=
    accepted_not_applies rfl h (r := rRange) (by simp [mdsetReasons])
  simp only [Bool.or_eq_false_iff, Bool.not_eq_false'] at ranges
  exact ⟨okF_nonneg ranges.1.1, okF_nonneg ranges.1.2⟩

/-- The job of an MSTREAM (R373, R374). -/
def msJob (q : State) (n : Nat) (x : Ctx) (c : Cw) : MsJob :=
  { msFields c with
    whdr := if f0 c 12 12 = 1 then some (exprVal (q.caller n) x.idx 64 (f3 c 31 0)).toNat else none
    scl := (exprVal (q.caller n) x.idx 64 (f1 c 63 32)).toNat, str := (exprVal (q.caller n) x.idx 64 (f1 c 31 0)).toNat
    loScl := (exprVal (q.caller n) x.idx 64 (f2 c 63 32)).toNat, loStr := (exprVal (q.caller n) x.idx 64 (f2 c 31 0)).toNat }

/-- The detector notes the deliveries of an MSTREAM with FINISH. -/
def msNoted (q : State) (n : Nat) (x : Ctx) (c : Cw) : State :=
  if f0 c 21 21 = 1 then q.will n n x (q.locLc n 1 0) (drainParts (q.clus n).mx.drainNext (f0 c 20 19) (f0 c 30 23) (f0 c 39 32 + 1)) else q

/-- The read of the first header of an MSTREAM whose anchor stands in headers (R374). -/
def hdrRead (q : State) (n : Nat) (x : Ctx) (c : Cw) : EvK :=
  .mxHdr n x.t (exprVal (q.caller n) x.idx 64 (f3 c 63 32)).toNat (exprVal (q.caller n) x.idx 64 (f3 c 31 0)).toNat none x

theorem pushMstream_of_accepts (h : s.accepts (.mstream n c) q x) : q.pushMstream n x c =
    (if f0 c 12 12 = 1 then (msNoted q n x c).post ((msNoted q n x c).regionOf n) (x.t + 4) phRead 6 (hdrRead q n x c)
      else msNoted q n x c).enqueueMx n x (.mstream (msJob q n x c)) := by
  unfold State.pushMstream
  dsimp only
  rw [show firstReason (mstreamReasons q n x c) = none from accepted_reason rfl h, judge_none]
  simp only [beq_iff_eq]
  rfl

theorem mstream_ranges (h : s.accepts (.mstream n c) q x) :
    0 ≤ exprVal (q.caller n) x.idx 64 (f1 c 63 32) ∧ 0 ≤ exprVal (q.caller n) x.idx 64 (f1 c 31 0) := by
  have scl : (!okF (exprVal (q.caller n) x.idx 64 (f1 c 63 32)) ((if f0 c 45 43 = 1 then 16 else 8) * (f0 c 39 32 + 1))) = false :=
    accepted_not_applies rfl h (r := rRange) (by simp [mstreamReasons])
  have str : (!okF (exprVal (q.caller n) x.idx 64 (f1 c 31 0)) (256 * (f0 c 39 32 + 1))) = false :=
    accepted_not_applies rfl h (r := rRange) (by simp [mstreamReasons])
  rw [Bool.not_eq_false'] at scl str
  exact ⟨okF_nonneg scl, okF_nonneg str⟩

theorem msNoted_files (q : State) (n d : Nat) (x : Ctx) (c : Cw) : Files n d q (msNoted q n x c) :=
  .ifThen (fun _ => will_files ..) fun _ => .refl ..

theorem msNoted_clus (q : State) (n : Nat) (x : Ctx) (c : Cw) (m : Nat) : (msNoted q n x c).clus m = q.clus m := by
  unfold msNoted
  split
  · exact will_clus q ..
  · rfl

theorem mem_post_evs {d : Nat} (s : State) (hd : d < 10) (t ph rank : Nat) (k : EvK) (m : Bool) :
    { t, ph, rank, mover := m, k } ∈ ((s.post d t ph rank k m).domN d).evs := by
  unfold State.post
  rw [modDom_domN, if_pos ⟨rfl, hd⟩]
  exact mem_insertEv_self ..

/-- An MSTREAM stands last in the matrix queue, and the read of its headers is on its way. -/
theorem mstream_queued (h : s.accepts (.mstream n c) q x) :
    let t := q.pushMstream n x c
    mxQueued q t n x (.mstream (msJob q n x c)) ∧ (t.clus n).mx.drainNext = (q.clus n).mx.drainNext
      ∧ (f0 c 12 12 = 1 → { t := x.t + 4, ph := phRead, rank := 6, mover := false, k := hdrRead q n x c } ∈ (t.domN (q.regionOf n)).evs) := by
  have region := (msNoted_files q n (q.regionOf n) x c).regionOf n
  have noted := msNoted_files q n (q.regionOf n) x c
  dsimp only
  rw [pushMstream_of_accepts h]
  by_cases asel : f0 c 12 12 = 1
  · rw [if_pos asel, region]
    have posted := noted.trans (post_files n (q.regionOf n) (msNoted q n x c) (x.t + 4) phRead 6 (hdrRead q n x c) false)
    obtain ⟨queued, drain⟩ := mxQueued_of_enqueue posted (msNoted_clus q n x c n) x (.mstream (msJob q n x c))
    refine ⟨queued, drain, fun _ => ?_⟩
    exact (enqueueMx_files (posted.regionOf n) x _).kept _ (mem_post_evs _ (regionOf_lt q n) ..) rfl
  · rw [if_neg asel]
    obtain ⟨queued, drain⟩ := mxQueued_of_enqueue noted (msNoted_clus q n x c n) x (.mstream (msJob q n x c))
    exact ⟨queued, drain, fun h => absurd h asel⟩

/-- Settles O11: each command stands last in the matrix queue; what else changes goes with the starts and the deliveries that are named ahead. -/
theorem matrixCommandsQueue : Obligations.MatrixCommandsQueue := by
  intro s q x n c
  refine ⟨fun h => ⟨_, push_tload h, ?_⟩, fun h => ⟨_, msJob q n x c, push_mstream h, ?_⟩, fun h => ⟨_, mdsetRegs q n x c, push_mdset h, ?_⟩,
    fun h => ⟨_, push_mdrain h, ?_⟩⟩
  · rw [pushTload_of_accepts h]
    exact mxQueued_of_enqueue (.refl ..) rfl x _
  · obtain ⟨queued, drain, header⟩ := mstream_queued h
    obtain ⟨scl, str⟩ := mstream_ranges h
    refine ⟨queued, drain, rfl, rfl, rfl, rfl, rfl, rfl, rfl, rfl, rfl, rfl, rfl, rfl, fun asel => ⟨rfl, ?_⟩, fun asel => ⟨?_, header asel⟩, rfl, rfl,
      Int.toNat_of_nonneg scl, Int.toNat_of_nonneg str⟩
    · exact if_neg (by simp [asel])
    · exact if_pos asel
  · obtain ⟨dest, sdest⟩ := mdset_ranges h
    rw [pushMdset_of_accepts h]
    obtain ⟨queued, drain⟩ := mxQueued_of_enqueue (u := q.modMx n fun m => { m with drainNext := mdsetRegs q n x c }) (modCl_files n _ q _)
      (modCl_clus_self q n _) x (.mdset (mdsetRegs q n x c))
    exact ⟨queued, drain, rfl, Int.toNat_of_nonneg dest, Int.toNat_of_nonneg sdest, rfl⟩
  · rw [pushMdrain_of_accepts h]
    exact mxQueued_of_enqueue (will_files ..) (will_clus ..) x _

end

end Sys2Proof.Proofs.EngineQueues
end

section
/-! The proof of O17: the message commands complete their push, and what the start of the head of a synchronisation queue does. -/

namespace Sys2Proof.Proofs.Messages

open Sys2Proof Sys2Proof.Machine Sys2Proof.Laws Sys2Proof.Proofs.HostService Sys2Proof.Proofs.Issue Sys2Proof.Proofs.Callers Sys2Proof.Proofs.Queues
  Sys2Proof.Proofs.EngineQueues

/-! ## A command enters a synchronisation queue (R111, R306) -/

section
variable {s t q u : State} {n : Fin 48} {d : Nat}

theorem modCaller_eq_modCl (s : State) (n : Fin 48) (f : Caller → Caller) : s.modCaller n f = s.modCl n fun c => { c with caller := f c.caller } := by
  unfold State.modCaller State.modCl
  rw [if_pos n.isLt, if_pos n.isLt]

theorem domOf_cluster (s : State) (n : Fin 48) : s.domOf n = s.regionOf n := if_pos n.isLt

theorem caller_cluster (s : State) (n : Fin 48) : s.caller n = (s.clus n).caller := if_pos n.isLt

theorem schedSy_clus (s : State) (w m : Nat) : (s.schedSy w).clus m = s.clus m := by
  unfold State.schedSy
  dsimp only
  split
  · rfl
  · split <;> rfl

theorem schedSy_files (h : s.regionOf n = d) : Files n d s (s.schedSy n) := by
  subst h
  have dropped : Files n (s.regionOf n) s (s.dropEvs (s.regionOf n) (·.k == .syStart n)) := dropEvs_files _ _ s _ fun e he => by
    rw [beq_iff_eq] at he
    rw [he]
    rfl
  unfold State.schedSy
  dsimp only
  rw [domOf_cluster]
  refine .ifThen (fun _ => dropped) fun _ => ?_
  split
  · exact dropped.trans (post_files n _ _ ..)
  · exact dropped

/-- The command at the head of an idle queue starts eight cycles after its issue at the earliest (R306). -/
theorem schedSy_starts {x : Ctx} {cmd : SyCmd} {rest : List (Ctx × SyCmd)} (idle : (s.caller n).fence = none) (head : (s.caller n).syq = (x, cmd) :: rest) :
    { t := max (x.t + 8) (s.caller n).syFree, ph := phStart, rank := 0, mover := false, k := .syStart n } ∈ ((s.schedSy n).domN (s.regionOf n)).evs := by
  unfold State.schedSy
  dsimp only
  rw [dropEvs_caller, if_neg (by simp [idle]), head, domOf_cluster]
  exact mem_post_evs _ (regionOf_lt s n) ..

/-- A caller with a command as the last of its synchronisation queue. -/
def queuedSy (e : Ctx × SyCmd) (k : Caller) : Caller := { k with syq := k.syq ++ [e] }

theorem enqueueSy_eq (s : State) (n : Nat) (x : Ctx) (cmd : SyCmd) : s.enqueueSy n x cmd =
    let t := s.modCaller n (queuedSy (x, cmd))
    if (t.caller n).syq.length = 1 then t.schedSy n else t := rfl

theorem queued_files (s : State) (n : Fin 48) (d : Nat) (f : Caller → Caller) : Files n d s (s.modCaller n f) := by
  rw [modCaller_eq_modCl]
  exact modCl_files n d s _

theorem enqueueSy_files (h : s.regionOf n = d) (x : Ctx) (cmd : SyCmd) : Files n d s (s.enqueueSy n x cmd) := by
  rw [enqueueSy_eq]
  exact .ifThen (fun _ => (queued_files s n d _).trans (schedSy_files h)) fun _ => queued_files s n d _

theorem enqueueSy_clus (s : State) (n : Fin 48) (x : Ctx) (cmd : SyCmd) :
    (s.enqueueSy n x cmd).clus n = { s.clus n with caller := queuedSy (x, cmd) (s.clus n).caller } := by
  rw [enqueueSy_eq, modCaller_eq_modCl]
  dsimp only
  split
  · rw [schedSy_clus, modCl_clus_self]
  · rw [modCl_clus_self]

theorem enqueueSy_starts (x : Ctx) (cmd : SyCmd) (empty : (s.caller n).syq = []) (idle : (s.caller n).fence = none) :
    { t := max (x.t + 8) (s.caller n).syFree, ph := phStart, rank := 0, mover := false, k := .syStart n }
      ∈ ((s.enqueueSy n x cmd).domN (s.regionOf n)).evs := by
  have caller : (s.modCaller n (queuedSy (x, cmd))).caller n = queuedSy (x, cmd) (s.caller n) := by
    rw [modCaller_caller, if_pos ⟨rfl, Nat.lt_trans n.isLt (by decide)⟩]
  have head : ((s.modCaller n (queuedSy (x, cmd))).caller n).syq = [(x, cmd)] := by
    rw [caller, queuedSy, empty]
    rfl
  rw [enqueueSy_eq]
  dsimp only
  rw [if_pos (by rw [head]; rfl)]
  have starts := schedSy_starts (s := s.modCaller n (queuedSy (x, cmd))) (by rw [caller]; exact idle) head
  rw [caller] at starts
  exact starts

/-- A command enters a synchronisation queue once the detector has seen it and its writes are owed. -/
theorem messageQueued_of_files (seen : Files n (q.regionOf n) q u) (own : ∃ owed, u.clus n = { q.clus n with unacked := owed }) (x : Ctx) (cmd : SyCmd) :
    messageQueued q (u.enqueueSy n x cmd) n x cmd := by
  obtain ⟨owed, own⟩ := own
  have files := seen.trans (enqueueSy_files (seen.regionOf n) x cmd)
  have clus : (u.enqueueSy n x cmd).clus n = _ := enqueueSy_clus u n x cmd
  have callerU : u.caller n = q.caller n := by rw [caller_cluster, caller_cluster, own]
  rw [own] at clus
  obtain ⟨others, callers, units, same⟩ := files.frame
  refine ⟨⟨?_, fun v hv => ?_, fun m => ?_, units, ?_⟩, fun empty idle => ?_⟩
  · rw [caller_cluster, clus, caller_cluster]
    rfl
  · by_cases small : v < 48
    · unfold State.caller
      rw [if_pos small, if_pos small, others v hv]
    · exact callers v (Nat.not_lt.1 small)
  · by_cases hm : m = n
    · rw [hm, clus]
    · rw [others m hm]
  · rw [domOf_cluster]
    exact same
  · rw [← callerU] at empty idle ⊢
    rw [← seen.regionOf n]
    exact enqueueSy_starts x cmd empty idle

end

/-! ## FENCE, CHSEND, CHFREE, HPUT and PUT (R396-R398) -/

section
variable {s q : State} {x : Ctx} {n : Fin 48} {c : Cw}

theorem narrowFence_files (s : State) (n : Fin 48) (engines scope : Nat) (x : Ctx) : Files n (s.regionOf n) s (s.narrowFence n engines scope x) := by
  refine .ifThen (fun _ => .refl ..) fun _ => .foldl (fun t _ e => .ifThen (fun _ => .refl ..) fun _ => ?_) _ rfl
  split
  · exact hazard_files ..
  · exact hazard_files ..

theorem narrowFence_clus (s : State) (n engines scope : Nat) (x : Ctx) (m : Nat) : (s.narrowFence n engines scope x).clus m = s.clus m := by
  unfold State.narrowFence
  split
  · rfl
  · generalize s.coveredFar n engines scope x = l
    induction l generalizing s with
    | nil => rfl
    | cons e l ih =>
      rw [List.foldl_cons, ih]
      split
      · rfl
      · split <;> rfl

theorem pushFence_of_accepts (h : s.accepts (.fence n c) q x) : q.pushFence n x c =
    (q.fresh.2.narrowFence n (f0 c 47 40) (f0 c 39 37) x).enqueueSy n x (.fence q.uid (f0 c 47 40) (f0 c 39 37) (f0 c 35 20) (f0 c 19 4)) := by
  unfold State.pushFence
  dsimp only
  rw [show firstReason (fenceReasons q n x c) = none from accepted_reason rfl h, judge_none]
  rfl

theorem pushChfree_of_accepts (h : s.accepts (.chfree n c) q x) : q.pushChfree n x c = q.enqueueSy n x (.chfree (f0 c 47 40)) := by
  unfold State.pushChfree
  dsimp only
  rw [show firstReason (chfreeReasons q n x c) = none from accepted_reason rfl h, judge_none]

theorem pushHput_of_accepts (h : s.accepts (.hput n c) q x) : q.pushHput n x c = q.enqueueSy n x (.hput (f0 c 47 42)
    (BitVec.ofNat 64 ((exprVal (q.caller n) x.idx 64 (f0 c 31 0)).toNat + bits ((q.caller n).reg (f0 c 41 37)).toNat 17 0 * 2 ^ 30))) := by
  unfold State.pushHput
  dsimp only
  rw [show firstReason (hputReasons q n x c) = none from accepted_reason rfl h, judge_none]

/-- The granules of a record are owed from its push on (R322). -/
def recordOwed (q : State) (n : Nat) (x : Ctx) (c : Cw) : State :=
  match q.fresh.2.route (f0 c 47 40) with
  | some r => q.fresh.2.owe n q.uid 2 r.dst r.ringBase (recSize (bits ((q.caller n).reg (f0 c 39 35)).toNat 11 0) / 64) x
  | none => q.fresh.2

theorem pushChsend_of_accepts (h : s.accepts (.chsend n c) q x) : q.pushChsend n x c = (recordOwed q n x c).enqueueSy n x
    (.chsend (f0 c 47 40) (bits ((q.caller n).reg (f0 c 39 35)).toNat 11 0) (BitVec.ofNat 32 (bits ((q.caller n).reg (f0 c 39 35)).toNat 47 16))
      (exprVal (q.caller n) x.idx 64 (f0 c 31 0)).toNat q.uid) := by
  unfold State.pushChsend
  dsimp only
  rw [show firstReason (chsendReasons q n x c) = none from accepted_reason rfl h, judge_none]
  rfl

theorem recordOwed_files (q : State) (n d : Nat) (x : Ctx) (c : Cw) : Files n d q (recordOwed q n x c) := by
  unfold recordOwed
  split
  · exact (fresh_files n d q).trans (owe_files ..)
  · exact fresh_files n d q

theorem recordOwed_clus (q : State) (n : Fin 48) (x : Ctx) (c : Cw) : ∃ owed, (recordOwed q n x c).clus n = { q.clus n with unacked := owed } := by
  unfold recordOwed
  split
  · exact ⟨_, owe_clus ..⟩
  · exact ⟨_, rfl⟩

/-- The write of a PUT is owed from its push on, and the detector notes it (R322, R398). -/
def putOwed (q : State) (n : Nat) (x : Ctx) (c : Cw) : State :=
  let dst := exprVal (q.caller n) x.idx 64 (f1 c 31 0)
  (q.fresh.2.owe n q.uid 0 (qLc n dst) (qAddr dst) 1 x).will n (qLc n dst) x (q.locLc n 6 0) [(0, qAddr dst, 64)]

theorem pushPut_of_accepts (h : s.accepts (.put n c) q x) : q.pushPut n x c = (putOwed q n x c).enqueueSy n x
    (.put (if f0 c 47 47 = 1 then some (f0 c 46 41, f0 c 40 29 + 1) else none) (exprVal (q.caller n) x.idx 64 (f1 c 63 32)).toNat
      (exprVal (q.caller n) x.idx 64 (f1 c 31 0)).toNat q.uid) := by
  unfold State.pushPut
  dsimp only
  rw [show firstReason (putReasons q n x c) = none from accepted_reason rfl h, judge_none]
  simp only [beq_iff_eq]
  rfl

theorem putOwed_files (q : State) (n d : Nat) (x : Ctx) (c : Cw) : Files n d q (putOwed q n x c) :=
  ((fresh_files n d q).trans (owe_files ..)).trans (will_files ..)

theorem putOwed_clus (q : State) (n : Fin 48) (x : Ctx) (c : Cw) : ∃ owed, (putOwed q n x c).clus n = { q.clus n with unacked := owed } := by
  unfold putOwed
  rw [will_clus, owe_clus]
  exact ⟨_, rfl⟩

/-- A command of a slot that is pushable is judged in the state as it stands. -/
theorem accepts_of_pushable {op : Nat} {i : Instr} {reasons : State → Ctx → List (Nat × Bool)} {p : Push} (h : pushable s n c) (hp : pushOf i = some p)
    (slot : p.pbit = 4 * n + 3) (opcode : p.op = op) (word : p.c = c) (judged : p.reasons = reasons)
    (free : firstReason (reasons s { s.ctxNow (s.regionOf n) (4 * n + 3) op with tail := c.tail }) = none) :
    s.accepts i s { s.ctxNow (s.regionOf n) (4 * n + 3) op with tail := c.tail } := by
  obtain ⟨power, offered, starts, before, off, reads⟩ := h
  have caller : slotCaller p.pbit = n := by
    rw [slot]
    unfold slotCaller
    have := n.isLt
    split <;> omega
  have domain : s.slotDom p = s.regionOf n := by
    unfold State.slotDom
    rw [caller, domOf_cluster]
  refine ⟨p, hp, ⟨power, fun _ => by rw [caller]; exact offered⟩, ?_, ?_, by rw [caller, word]; exact reads, by rw [judged]; exact free⟩
  · exact (atPush_of_quiet (by rw [domain]; exact starts) (by rw [domain]; exact before) off).symm
  · rw [issueOf_of_quiet (by rw [domain]; exact starts) (by rw [domain]; exact before), domain, slot, opcode, word]

/-- The context of a command of the CL slot that is pushed in the state as it stands. -/
def clCtx (s : State) (n : Nat) (op : Nat) (c : Cw) : Ctx := { s.ctxNow (s.regionOf n) (4 * n + 3) op with tail := c.tail }

theorem narrowFence_own (s : State) (n : Nat) (engines scope : Nat) (x : Ctx) :
    ∃ owed, (s.fresh.2.narrowFence n engines scope x).clus n = { s.clus n with unacked := owed } := by
  rw [narrowFence_clus]
  exact ⟨(s.clus n).unacked, rfl⟩

theorem fence_completes (h : pushable s n c) (free : firstReason (fenceReasons s n (clCtx s n 0x13 c) c) = none) :
    ∃ t, exec (.fence n c) s = .next (s.after t)
      ∧ messageQueued s t n (clCtx s n 0x13 c) (.fence s.uid (f0 c 47 40) (f0 c 39 37) (f0 c 35 20) (f0 c 19 4)) := by
  have ok : s.accepts (.fence n c) s (clCtx s n 0x13 c) := accepts_of_pushable h rfl rfl rfl rfl rfl free
  refine ⟨_, push_fence ok, ?_⟩
  rw [pushFence_of_accepts ok]
  exact messageQueued_of_files ((fresh_files n (s.regionOf n) s).trans (narrowFence_files s.fresh.2 n ..)) (narrowFence_own ..) ..

theorem chsend_completes (h : pushable s n c) (free : firstReason (chsendReasons s n (clCtx s n 0x14 c) c) = none) :
    ∃ t, exec (.chsend n c) s = .next (s.after t) ∧ messageQueued s t n (clCtx s n 0x14 c)
      (.chsend (f0 c 47 40) (bits ((s.caller n).reg (f0 c 39 35)).toNat 11 0) (BitVec.ofNat 32 (bits ((s.caller n).reg (f0 c 39 35)).toNat 47 16))
        (exprVal (s.caller n) (clCtx s n 0x14 c).idx 64 (f0 c 31 0)).toNat s.uid) := by
  have ok : s.accepts (.chsend n c) s (clCtx s n 0x14 c) := accepts_of_pushable h rfl rfl rfl rfl rfl free
  refine ⟨_, push_chsend ok, ?_⟩
  rw [pushChsend_of_accepts ok]
  exact messageQueued_of_files (recordOwed_files ..) (recordOwed_clus ..) ..

theorem chfree_completes (h : pushable s n c) (free : firstReason (chfreeReasons s n (clCtx s n 0x15 c) c) = none) :
    ∃ t, exec (.chfree n c) s = .next (s.after t) ∧ messageQueued s t n (clCtx s n 0x15 c) (.chfree (f0 c 47 40)) := by
  have ok : s.accepts (.chfree n c) s (clCtx s n 0x15 c) := accepts_of_pushable h rfl rfl rfl rfl rfl free
  refine ⟨_, push_chfree ok, ?_⟩
  rw [pushChfree_of_accepts ok]
  exact messageQueued_of_files (.refl ..) ⟨(s.clus n).unacked, rfl⟩ ..

theorem hput_completes (h : pushable s n c) (free : firstReason (hputReasons s n (clCtx s n 0x16 c) c) = none) :
    ∃ t, exec (.hput n c) s = .next (s.after t) ∧ messageQueued s t n (clCtx s n 0x16 c) (.hput (f0 c 47 42)
      (BitVec.ofNat 64 ((exprVal (s.caller n) (clCtx s n 0x16 c).idx 64 (f0 c 31 0)).toNat
        + bits ((s.caller n).reg (f0 c 41 37)).toNat 17 0 * 2 ^ 30))) := by
  have ok : s.accepts (.hput n c) s (clCtx s n 0x16 c) := accepts_of_pushable h rfl rfl rfl rfl rfl free
  refine ⟨_, push_hput ok, ?_⟩
  rw [pushHput_of_accepts ok]
  exact messageQueued_of_files (.refl ..) ⟨(s.clus n).unacked, rfl⟩ ..

theorem put_completes (h : pushable s n c) (free : firstReason (putReasons s n (clCtx s n 0x17 c) c) = none) :
    ∃ t, exec (.put n c) s = .next (s.after t) ∧ messageQueued s t n (clCtx s n 0x17 c)
      (.put (if f0 c 47 47 = 1 then some (f0 c 46 41, f0 c 40 29 + 1) else none)
        (exprVal (s.caller n) (clCtx s n 0x17 c).idx 64 (f1 c 63 32)).toNat (exprVal (s.caller n) (clCtx s n 0x17 c).idx 64 (f1 c 31 0)).toNat s.uid) := by
  have ok : s.accepts (.put n c) s (clCtx s n 0x17 c) := accepts_of_pushable h rfl rfl rfl rfl rfl free
  refine ⟨_, push_put ok, ?_⟩
  rw [pushPut_of_accepts ok]
  exact messageQueued_of_files (putOwed_files ..) (putOwed_clus ..) ..

end

/-! ## What the steps of a start leave of the synchronisation queues and of the channels -/

/-- From `s` to `t` no synchronisation queue and no channel changes. -/
structure Aside (s t : State) : Prop where
  syq : ∀ w, (t.caller w).syq = (s.caller w).syq
  chan : ∀ h, t.chan h = s.chan h

section
variable {s t u : State}

theorem Aside.refl (s : State) : Aside s s := ⟨fun _ => rfl, fun _ => rfl⟩

theorem Aside.trans (h : Aside s t) (k : Aside t u) : Aside s u :=
  ⟨fun w => (k.syq w).trans (h.syq w), fun c => (k.chan c).trans (h.chan c)⟩

theorem Aside.ifThen {c : Prop} [Decidable c] (h : Aside s t) (k : Aside s u) : Aside s (if c then t else u) := by
  split
  · exact h
  · exact k

/-- A further step that is taken where a condition holds. -/
theorem Aside.thenIf {c : Prop} [Decidable c] (h : Aside s t) (k : Aside t u) : Aside s (if c then u else t) := .ifThen (h.trans k) h

theorem Aside.foldl {α : Type} {f : State → α → State} (hf : ∀ t a, Aside t (f t a)) (l : List α) (s : State) : Aside s (l.foldl f s) := by
  induction l generalizing s with
  | nil => exact .refl s
  | cons a l ih => exact (hf s a).trans (ih _)

/-- What does not reach the callers and the channels. -/
theorem aside_of_fields (cl : t.cl = s.cl) (seqs : t.seqs = s.seqs) (chans : t.chans = s.chans) : Aside s t := by
  constructor
  · intro w
    unfold State.caller State.clus
    rw [cl, seqs]
  · intro h
    unfold State.chan
    rw [chans]

/-- A change of a caller that leaves its synchronisation queue. -/
theorem modCaller_aside (s : State) (w : Nat) (f : Caller → Caller) (hf : ∀ k, (f k).syq = k.syq) : Aside s (s.modCaller w f) := by
  refine ⟨fun v => ?_, fun _ => rfl⟩
  rw [modCaller_caller]
  split
  · exact hf _
  · rfl

/-- A change of a cluster that leaves its caller. -/
theorem modCl_aside (s : State) (n : Nat) (f : Cluster → Cluster) (hf : ∀ c, (f c).caller = c.caller) : Aside s (s.modCl n f) := by
  refine ⟨fun w => ?_, fun _ => rfl⟩
  unfold State.caller
  rw [modCl_clus]
  split
  · split
    · next h => rw [hf, h.1]
    · rfl
  · rfl

theorem modChan_chan (s : State) (h : Nat) (f : Chan → Chan) : (s.modChan h f).chan h = f (s.chan h) := by
  unfold State.modChan State.chan
  dsimp only
  rw [tGet_tPut, if_pos rfl]
  rfl

theorem modChan_syq (s : State) (h : Nat) (f : Chan → Chan) (w : Nat) : ((s.modChan h f).caller w).syq = (s.caller w).syq := rfl

theorem post_aside (s : State) (d t ph rank : Nat) (k : EvK) : Aside s (s.post d t ph rank k) := aside_of_fields rfl rfl rfl

theorem schedSy_aside (s : State) (w : Nat) : Aside s (s.schedSy w) := by
  unfold State.schedSy
  refine .ifThen (aside_of_fields rfl rfl rfl) ?_
  split
  · exact aside_of_fields rfl rfl rfl
  · exact aside_of_fields rfl rfl rfl

theorem hostEvent_aside (s : State) (f kind source d0 d1 : Nat) : Aside s (s.hostEvent f kind source d0 d1) :=
  .ifThen (.refl s) (.ifThen (.refl s) (.ifThen (aside_of_fields rfl rfl rfl) (aside_of_fields rfl rfl rfl)))

theorem errLog_aside (s : State) (cls cause loc : Nat) (x : Ctx) (other : Nat) (detail : Bytes) : Aside s (s.errLog cls cause loc x other detail) := by
  unfold State.errLog
  exact .thenIf (aside_of_fields rfl rfl rfl) (hostEvent_aside ..)

/-- A channel fault sets SPILLED of its channel, and is counted and recorded (R351). -/
theorem channelFault_aside (s : State) (n t ch : Nat) (x : Ctx) (dropped : Bool) :
    Aside (s.modChan ch fun c => { c with spilled := true, spillFull := c.spillFull || dropped }) (s.channelFault n t ch x dropped) := by
  unfold State.channelFault
  refine .trans (.trans ?_ (errLog_aside ..)) (aside_of_fields rfl rfl rfl)
  exact .thenIf (aside_of_fields rfl rfl rfl) (aside_of_fields rfl rfl rfl)

theorem crosses_aside (s : State) (own d t : Nat) (x : Ctx) (loc : Nat) : Aside s (s.crosses own d t x loc).2 := by
  unfold State.crosses
  split
  · exact aside_of_fields rfl rfl rfl
  · dsimp only
    split
    · exact aside_of_fields rfl rfl rfl
    · exact aside_of_fields rfl rfl rfl

theorem postSig_aside (s : State) (own d t0 t : Nat) (g : Sig) (x : Ctx) : Aside s (s.postSig own d t0 t g x) := by
  have crossed := crosses_aside s own d t0 x g.last.loc
  unfold State.postSig
  split
  · next u hu =>
    rw [hu] at crossed
    refine crossed.trans ?_
    dsimp only
    split
    · exact aside_of_fields rfl rfl rfl
    · exact aside_of_fields rfl rfl rfl
  · next u hu =>
    rw [hu] at crossed
    refine crossed.trans ?_
    dsimp only
    split
    · exact aside_of_fields rfl rfl rfl
    · exact aside_of_fields rfl rfl rfl

theorem sendSig_aside (s : State) (w t : Nat) (x : Ctx) (g : Sig) (tmod link : Nat) : Aside s (s.sendSig w t x g tmod link) := by
  unfold State.sendSig
  dsimp only
  refine .ifThen (.ifThen (aside_of_fields rfl rfl rfl) (aside_of_fields rfl rfl rfl)) ?_
  split
  · exact postSig_aside ..
  · exact .foldl (fun t d => postSig_aside t ..) _ s

theorem unowe_aside (s : State) (n id : Nat) : Aside s (s.unowe n id) :=
  (modCl_aside s n (fun c => { c with unacked := c.unacked.filter (·.id != id) }) fun _ => rfl).trans (aside_of_fields rfl rfl rfl)

theorem will_aside (s : State) (n dst : Nat) (x : Ctx) (loc : Nat) (parts : List (Nat × Nat × Nat)) : Aside s (s.will n dst x loc parts) :=
  .ifThen (.refl s) (aside_of_fields rfl rfl rfl)

theorem expectCh_aside (s : State) (n : Nat) (r : Route) (t id : Nat) : Aside s (s.expectCh n r t id) :=
  .ifThen (.refl s) (aside_of_fields rfl rfl rfl)

theorem expect_aside (s : State) (n dst t id : Nat) : Aside s (s.expect n dst t id) := .ifThen (.refl s) (aside_of_fields rfl rfl rfl)

end

/-! ## The start of a CHSEND (R350-R353) -/

section
variable (s : State) (n t : Nat) (x : Ctx) (ch len : Nat) (tag : BitVec 32) (src id : Nat) (r : Route)

/-- Whether FREE and SLOTS suffice for a record of a CHSEND, with its padding (R350). -/
def chFits (c : Chan) : Bool :=
  recSize len + (if r.ring < c.wptr.toNat + recSize len then r.ring - c.wptr.toNat else 0) ≤ c.free.toNat && 1 ≤ c.slots.toNat

/-- The stamp at which the first word of the record leaves (R352). -/
def chSendAt (c : Chan) : Nat := t + 10 + b2n (chFits len r c && decide (r.ring < c.wptr.toNat + recSize len))

/-- The record that a CHSEND sends or spills. -/
def chRecord (c : Chan) : ChOut :=
  { ctx := x, id, len, tag, alive := c.sendAlive + 1, spill := !chFits len r c, send := chSendAt t len r c, src
    off := if chFits len r c then some (if r.ring < c.wptr.toNat + recSize len then 0 else c.wptr.toNat)
      else if c.spillWptr.toNat + recSize len ≤ r.spill then some c.spillWptr.toNat else none
    pad := if chFits len r c && decide (r.ring < c.wptr.toNat + recSize len) then some c.wptr.toNat else none }

/-- The channel holds the record, and the detector notes its writes. -/
def chPrepared : State :=
  let c := s.chan ch
  let u := s.modChan ch fun k => { k with sendAlive := c.sendAlive + 1, out := some (chRecord t x len tag src id r c) }
  match (chRecord t x len tag src id r c).off with
  | some off => u.will n (if chFits len r c then r.dst else n) x (u.locLc n 6 0)
      (((List.range (recSize len / 64)).map fun j => (j, (if chFits len r c then r.ringBase else r.spillBase) + off + 64 * j, 64))
        ++ if chFits len r c && decide (r.ring < c.wptr.toNat + recSize len) then [(recSize len / 64, r.ringBase + c.wptr.toNat, 64)] else [])
  | none => u

/-- The channel gives a record that fits its bytes and its slot, and the receiver awaits the granules (R30, R350). -/
def chTaken (c : Chan) (u : State) : State :=
  let u := u.modChan ch fun k =>
    { k with free := k.free - BitVec.ofNat 21 (recSize len + if r.ring < c.wptr.toNat + recSize len then r.ring - c.wptr.toNat else 0), slots := k.slots - 1
             wptr := BitVec.ofNat 20 ((if r.ring < c.wptr.toNat + recSize len then recSize len else c.wptr.toNat + recSize len) % r.ring) }
  let u := (List.range (recSize len / 64)).foldl (fun (v : State) j => v.expectCh n r (chSendAt t len r c + j) id) u
  if r.ring < c.wptr.toNat + recSize len then
    ((u.modCl n fun k => { k with unacked := k.unacked.map fun o => if o.id = id then { o with left := o.left + 1 } else o }).expectCh
      n r (t + 10) id).post (s.regionOf n) (t + 10) phEnd 6 (.chPad n ch)
  else u

/-- A record that does not fit goes to the spill area or is dropped (R351). -/
def chSpilled (c : Chan) (u : State) : State :=
  (if c.spillWptr.toNat + recSize len ≤ r.spill then u.modChan ch fun k => { k with spillWptr := k.spillWptr + BitVec.ofNat 21 (recSize len) }
    else u.unowe n id).channelFault n t ch x (!decide (c.spillWptr.toNat + recSize len ≤ r.spill))

/-- The words of a record are on their way: its source is read, its first word leaves at its stamp (R352). -/
def chOnItsWay (c : Chan) (u : State) : State :=
  let u := if len = 0 then u else u.post (s.regionOf n) t phRead 6 (.chRead n ch 0)
  (u.post (s.regionOf n) (chSendAt t len r c) phGw 6 (.chSend n ch 0)).modCaller n fun k => { k with syFree := chSendAt t len r c + recSize len / 64 }

theorem chsendStart_eq (h : s.route ch = some r) : s.chsendStart n t x ch len tag src id =
    chOnItsWay s n t ch len r (s.chan ch) (if chFits len r (s.chan ch) then chTaken s n t ch len id r (s.chan ch) (chPrepared s n t x ch len tag src id r)
      else chSpilled n t x ch len id r (s.chan ch) (chPrepared s n t x ch len tag src id r)) := by
  unfold State.chsendStart
  rw [h]
  rfl

theorem chOnItsWay_aside (c : Chan) (u : State) : Aside u (chOnItsWay s n t ch len r c u) := by
  have read : Aside u (if len = 0 then u else u.post (s.regionOf n) t phRead 6 (.chRead n ch 0)) := .ifThen (.refl u) (post_aside ..)
  unfold chOnItsWay
  exact (read.trans (post_aside ..)).trans (modCaller_aside _ n _ fun _ => rfl)

theorem chOnItsWay_sends (c : Chan) (u : State) : { t := chSendAt t len r c, ph := phGw, rank := 6, mover := false, k := .chSend n ch 0 }
    ∈ ((chOnItsWay s n t ch len r c u).domN (s.regionOf n)).evs := mem_post_evs _ (regionOf_lt s n) ..

theorem chPrepared_syq (w : Nat) : ((chPrepared s n t x ch len tag src id r).caller w).syq = (s.caller w).syq := by
  unfold chPrepared
  dsimp only
  split
  · rw [(will_aside ..).syq, modChan_syq]
  · rw [modChan_syq]

theorem chPrepared_chan : (chPrepared s n t x ch len tag src id r).chan ch
    = { s.chan ch with sendAlive := (s.chan ch).sendAlive + 1, out := some (chRecord t x len tag src id r (s.chan ch)) } := by
  unfold chPrepared
  dsimp only
  split
  · rw [(will_aside ..).chan, modChan_chan]
  · rw [modChan_chan]

/-- What a record that fits takes from its channel (R350). -/
def takenFrom (c k : Chan) : Chan :=
  { k with free := k.free - BitVec.ofNat 21 (recSize len + if r.ring < c.wptr.toNat + recSize len then r.ring - c.wptr.toNat else 0), slots := k.slots - 1
           wptr := BitVec.ofNat 20 ((if r.ring < c.wptr.toNat + recSize len then recSize len else c.wptr.toNat + recSize len) % r.ring) }

theorem chTaken_aside (c : Chan) (u : State) : Aside (u.modChan ch (takenFrom len r c)) (chTaken s n t ch len id r c u) := by
  have awaited := Aside.foldl (f := fun v j => v.expectCh n r (chSendAt t len r c + j) id) (fun v j => expectCh_aside v ..) (List.range (recSize len / 64))
    (u.modChan ch (takenFrom len r c))
  refine .thenIf awaited (.trans (.trans (modCl_aside _ n _ (by intro; rfl)) (expectCh_aside ..)) (post_aside ..))

/-- The spill area takes a record that has room there; otherwise its writes are forgotten (R351). -/
theorem spilled_spec (c : Chan) (u : State) :
    let v := if c.spillWptr.toNat + recSize len ≤ r.spill then u.modChan ch fun k => { k with spillWptr := k.spillWptr + BitVec.ofNat 21 (recSize len) }
      else u.unowe n id
    (∀ w, (v.caller w).syq = (u.caller w).syq) ∧ (v.chan ch).sendAlive = (u.chan ch).sendAlive ∧ (v.chan ch).free = (u.chan ch).free := by
  intro v
  by_cases room : c.spillWptr.toNat + recSize len ≤ r.spill
  · have hv : v = _ := if_pos room
    rw [hv, modChan_chan]
    exact ⟨fun _ => rfl, rfl, rfl⟩
  · have hv : v = _ := if_neg room
    rw [hv, (unowe_aside ..).chan]
    exact ⟨(unowe_aside ..).syq, rfl, rfl⟩

theorem chSpilled_syq (c : Chan) (u : State) (w : Nat) : ((chSpilled n t x ch len id r c u).caller w).syq = (u.caller w).syq := by
  unfold chSpilled
  rw [(channelFault_aside ..).syq, modChan_syq, (spilled_spec ..).1]

theorem chSpilled_chan (c : Chan) (u : State) : ((chSpilled n t x ch len id r c u).chan ch).sendAlive = (u.chan ch).sendAlive
    ∧ ((chSpilled n t x ch len id r c u).chan ch).free = (u.chan ch).free ∧ ((chSpilled n t x ch len id r c u).chan ch).spilled = true := by
  obtain ⟨-, alive, free⟩ := spilled_spec n ch len id r c u
  unfold chSpilled
  rw [(channelFault_aside ..).chan, modChan_chan]
  exact ⟨alive, free, rfl⟩

/-- What the start of a CHSEND makes of its channel, and the word that it sends (R350-R352). -/
theorem chsendStart_spec (h : s.route ch = some r) :
    let u := s.chsendStart n t x ch len tag src id
    (∀ w, (u.caller w).syq = (s.caller w).syq) ∧ (u.chan ch).sendAlive = (s.chan ch).sendAlive + 1
      ∧ (chFits len r (s.chan ch) = true → (u.chan ch).free = (takenFrom len r (s.chan ch) (s.chan ch)).free
        ∧ (u.chan ch).slots = (s.chan ch).slots - 1 ∧ (u.chan ch).spilled = (s.chan ch).spilled)
      ∧ (chFits len r (s.chan ch) = false → (u.chan ch).spilled = true ∧ (u.chan ch).free = (s.chan ch).free)
      ∧ { t := chSendAt t len r (s.chan ch), ph := phGw, rank := 6, mover := false, k := .chSend n ch 0 } ∈ (u.domN (s.regionOf n)).evs := by
  dsimp only
  rw [chsendStart_eq s n t x ch len tag src id r h, (chOnItsWay_aside ..).chan]
  cases fits : chFits len r (s.chan ch) with
  | true =>
    rw [if_pos rfl, (chTaken_aside ..).chan, modChan_chan, chPrepared_chan]
    refine ⟨fun w => ?_, rfl, fun _ => ⟨rfl, rfl, rfl⟩, fun no => absurd no (by decide), chOnItsWay_sends ..⟩
    rw [(chOnItsWay_aside ..).syq, (chTaken_aside ..).syq, modChan_syq, chPrepared_syq]
  | false =>
    obtain ⟨alive, free, spilled⟩ := chSpilled_chan n t x ch len id r (s.chan ch) (chPrepared s n t x ch len tag src id r)
    rw [if_neg (by decide)]
    rw [chPrepared_chan] at alive free
    refine ⟨fun w => ?_, alive, fun no => absurd no (by decide), fun _ => ⟨spilled, free⟩, chOnItsWay_sends ..⟩
    rw [(chOnItsWay_aside ..).syq, chSpilled_syq, chPrepared_syq]

end

/-! ## The start of the head of a synchronisation queue -/

section
variable {s : State} {n : Fin 48} {t : Nat} {x : Ctx} {cmd : SyCmd} {rest : List (Ctx × SyCmd)}

/-- The head of the queue has been taken. -/
def syTaken (s : State) (n t : Nat) (rest : List (Ctx × SyCmd)) : State := s.modCaller n fun k => { k with syq := rest, syFree := t + 1 }

/-- The command of the head takes effect (R290, R306, R323, R352, R357, R398). -/
def syActs (s : State) (n t : Nat) (x : Ctx) : SyCmd → State
  | .sig g tmod link => s.sendSig n t x g tmod link
  | .fence id engines scope plan deadline => s.modCaller n fun k => { k with fence := some { ctx := x, id, engines, scope, r := t + plan, deadline } }
  | .chsend ch len tag src id => s.chsendStart n t x ch len tag src id
  | .chfree ch => s.chfreeStart n t ch
  | .hput hq h => s.post (s.domOf n) (t + 8) phSig (n + 1) (.hput n hq h x)
  | .put final src dst id => s.putStart n t x final src dst id

theorem syStart_cons (n : Nat) (h : (s.caller n).syq = (x, cmd) :: rest) : s.syStart n t = (syActs (syTaken s n t rest) n t x cmd).schedSy n := by
  unfold State.syStart
  rw [h]
  cases cmd <;> rfl

theorem syTaken_syq (s : State) (n : Fin 48) (t : Nat) (rest : List (Ctx × SyCmd)) : ((syTaken s n t rest).caller n).syq = rest := by
  unfold syTaken
  rw [modCaller_caller, if_pos ⟨rfl, Nat.lt_trans n.isLt (by decide)⟩]

theorem schedSy_caller (s : State) (w v : Nat) : (s.schedSy w).caller v = s.caller v := by
  unfold State.schedSy
  dsimp only
  split
  · rfl
  · split <;> rfl

theorem schedSy_counters (s : State) (w : Nat) : (s.schedSy w).counters = s.counters := by
  unfold State.schedSy
  dsimp only
  split
  · rfl
  · split <;> rfl

/-- An effect that is no start stays where the queue is scheduled anew. -/
theorem schedSy_keeps (s : State) (n : Fin 48) {d : Nat} {e : Ev} (h : e ∈ (s.domN d).evs) (other : isStart e.k = false) :
    e ∈ ((s.schedSy n).domN d).evs := by
  have files := schedSy_files (s := s) (n := n) rfl
  by_cases hd : d = s.regionOf n
  · subst hd
    exact files.kept e h other
  · rw [files.dom, if_neg hd]
    exact h

theorem chfreeStart_syq (s : State) (n t ch w : Nat) : ((s.chfreeStart n t ch).caller w).syq = (s.caller w).syq := by
  have freed := modCaller_aside s n (fun k => { k with syFree := t + 1 }) fun _ => rfl
  unfold State.chfreeStart
  dsimp only
  split
  · exact freed.syq w
  · exact freed.syq w

theorem putStart_aside (s : State) (n t : Nat) (x : Ctx) (final : Option (Nat × Nat)) (src dst id : Nat) : Aside s (s.putStart n t x final src dst id) := by
  refine .trans (.trans ?_ (modCaller_aside _ n _ (by intro; rfl))) (post_aside ..)
  exact .ifThen (.refl s) (expect_aside ..)

theorem chsendStart_syq (s : State) (n t : Nat) (x : Ctx) (ch len : Nat) (tag : BitVec 32) (src id w : Nat) :
    ((s.chsendStart n t x ch len tag src id).caller w).syq = (s.caller w).syq := by
  cases h : s.route ch with
  | none =>
    unfold State.chsendStart
    rw [h]
    exact (unowe_aside ..).syq w
  | some r => exact (chsendStart_spec s n t x ch len tag src id r h).1 w

/-- No command of the queue changes the queue at its start. -/
theorem syActs_syq (s : State) (n t : Nat) (x : Ctx) (cmd : SyCmd) : ((syActs s n t x cmd).caller n).syq = (s.caller n).syq := by
  cases cmd with
  | sig g tmod link => exact (sendSig_aside ..).syq n
  | fence id engines scope plan deadline => exact (modCaller_aside s n _ (by intro; rfl)).syq n
  | chsend ch len tag src id => exact chsendStart_syq ..
  | chfree ch => exact chfreeStart_syq ..
  | hput hq h => rfl
  | put final src dst id => exact (putStart_aside ..).syq n

theorem syStart_syq (h : (s.caller n).syq = (x, cmd) :: rest) : ((s.syStart n t).caller n).syq = rest := by
  rw [syStart_cons n h, (schedSy_aside ..).syq, syActs_syq, syTaken_syq]

theorem syStart_fence {id engines scope plan deadline : Nat} (h : (s.caller n).syq = (x, .fence id engines scope plan deadline) :: rest) :
    ((s.syStart n t).caller n).fence = some { ctx := x, id, engines, scope, r := t + plan, deadline } := by
  rw [syStart_cons n h, schedSy_caller]
  unfold syActs
  rw [modCaller_caller, if_pos ⟨rfl, Nat.lt_trans n.isLt (by decide)⟩]

theorem syStart_hput {hq : Nat} {v : BitVec 64} (h : (s.caller n).syq = (x, .hput hq v) :: rest) :
    { t := t + 8, ph := phSig, rank := n + 1, mover := false, k := .hput n hq v x } ∈ ((s.syStart n t).domN (s.regionOf n)).evs := by
  rw [syStart_cons n h]
  refine schedSy_keeps _ n ?_ rfl
  unfold syActs
  rw [domOf_cluster]
  exact mem_post_evs _ (regionOf_lt s n) ..

theorem syStart_put {final : Option (Nat × Nat)} {src dst id : Nat} (h : (s.caller n).syq = (x, .put final src dst id) :: rest) :
    { t, ph := phRead, rank := 6, mover := false, k := .putRead n src dst final id x } ∈ ((s.syStart n t).domN (s.regionOf n)).evs := by
  have region : State.regionOf (if qLc n dst = n then syTaken s n t rest else (syTaken s n t rest).expect n (qLc n dst) (t + 10) id) n = s.regionOf n := by
    unfold State.expect
    split
    · rfl
    · split <;> rfl
  rw [syStart_cons n h]
  refine schedSy_keeps _ n ?_ rfl
  unfold syActs State.putStart
  dsimp only
  rw [region]
  exact mem_post_evs _ (regionOf_lt s n) ..

/-- A CHFREE with no record taken is counted (R357). -/
theorem syStart_chfree_nil {ch : Nat} (h : (s.caller n).syq = (x, .chfree ch) :: rest) (taken : (s.chan ch).taken = []) :
    (tGet (s.syStart n t).counters (0x9005 * 256 + 4)).getD 0
      = BitVec.ofNat 64 (min (((tGet s.counters (0x9005 * 256 + 4)).getD 0).toNat + 1) (2 ^ 64 - 1)) := by
  have none : (((syTaken s n t rest).modCaller n fun k => { k with syFree := t + 1 }).chan ch).taken = [] := taken
  rw [syStart_cons n h, schedSy_counters]
  unfold syActs State.chfreeStart
  dsimp only
  rw [none]
  exact counter_count _ 0x9005 4 1

/-- A CHFREE frees the oldest record that was taken and sends its credit (R357). -/
theorem syStart_chfree_cons {ch k : Nat} {l : List Nat} {q : Route} (h : (s.caller n).syq = (x, .chfree ch) :: rest) (route : s.route ch = some q)
    (taken : (s.chan ch).taken = k :: l) :
    (s.syStart n t).chan ch = { s.chan ch with taken := l, rptr := BitVec.ofNat 20 k }
      ∧ ∃ bytes, { t := t + q.lat, ph := phSig, rank := n + 1, mover := false, k := .credit ch bytes }
          ∈ ((s.syStart n t).domN (s.regionOf q.src)).evs := by
  let u := (syTaken s n t rest).modCaller n fun k => { k with syFree := t + 1 }
  have oldest : (u.chan ch).taken = k :: l := taken
  have channel : u.route ch = some q := route
  have acts : ∃ bytes, syActs (syTaken s n t rest) n t x (.chfree ch)
      = (u.modChan ch fun c => { c with taken := l, rptr := BitVec.ofNat 20 k }).post (s.regionOf q.src) (t + q.lat) phSig (n + 1) (.credit ch bytes) := by
    unfold syActs State.chfreeStart
    dsimp only
    rw [oldest, channel]
    exact ⟨_, rfl⟩
  obtain ⟨bytes, acts⟩ := acts
  rw [syStart_cons n h, acts]
  refine ⟨?_, bytes, schedSy_keeps _ n (mem_post_evs _ (regionOf_lt s q.src) ..) rfl⟩
  rw [(schedSy_aside ..).chan, (post_aside ..).chan, modChan_chan]
  rfl

/-- A CHSEND advances the sender's ALIVE; with room it takes its bytes and a slot, without it is spilled (R350-R352). -/
theorem syStart_chsend {ch len : Nat} {tag : BitVec 32} {src id : Nat} {q : Route} (h : (s.caller n).syq = (x, .chsend ch len tag src id) :: rest)
    (route : s.route ch = some q) :
    let r := s.syStart n t
    (r.chan ch).sendAlive = (s.chan ch).sendAlive + 1
    ∧ (recSize len ≤ (s.chan ch).free.toNat → 1 ≤ (s.chan ch).slots.toNat → (s.chan ch).wptr.toNat + recSize len ≤ q.ring →
        (r.chan ch).free = (s.chan ch).free - BitVec.ofNat 21 (recSize len) ∧ (r.chan ch).slots = (s.chan ch).slots - 1
          ∧ (r.chan ch).spilled = (s.chan ch).spilled
          ∧ { t := t + 10, ph := phGw, rank := 6, mover := false, k := .chSend n ch 0 } ∈ (r.domN (s.regionOf n)).evs)
    ∧ ((s.chan ch).free.toNat < recSize len ∨ (s.chan ch).slots = 0 → (r.chan ch).spilled = true ∧ (r.chan ch).free = (s.chan ch).free) := by
  have channel : (syTaken s n t rest).route ch = some q := route
  obtain ⟨-, alive, taken, spilled, sends⟩ := chsendStart_spec (syTaken s n t rest) n t x ch len tag src id q channel
  have same : (syTaken s n t rest).chan ch = s.chan ch := rfl
  rw [same] at alive taken spilled sends
  dsimp only
  rw [syStart_cons n h, (schedSy_aside ..).chan]
  refine ⟨alive, fun room slot inRing => ?_, fun short => ?_⟩
  · have straight : ¬ q.ring < (s.chan ch).wptr.toNat + recSize len := Nat.not_lt.2 inRing
    have fits : chFits len q (s.chan ch) = true := by
      unfold chFits
      rw [if_neg straight]
      simp only [Nat.add_zero, Bool.and_eq_true, decide_eq_true_eq]
      exact ⟨room, slot⟩
    obtain ⟨free, slots, kept⟩ := taken fits
    have at10 : chSendAt t len q (s.chan ch) = t + 10 := by
      unfold chSendAt
      rw [decide_eq_false straight, Bool.and_false]
      rfl
    rw [at10] at sends
    refine ⟨free.trans ?_, slots, kept, schedSy_keeps _ n sends rfl⟩
    unfold takenFrom
    rw [if_neg straight, Nat.add_zero]
  · refine spilled (Bool.eq_false_iff.2 fun fits => ?_)
    simp only [chFits, Bool.and_eq_true, decide_eq_true_eq] at fits
    obtain ⟨room, slot⟩ := fits
    obtain short | empty := short
    · omega
    · rw [empty] at slot
      exact absurd slot (by decide)

/-- Settles O17: the five pushes, and the starts form by form. -/
theorem messageCommandsComplete : Obligations.MessageCommandsComplete := by
  refine ⟨fun s n c h => ⟨fence_completes h, chsend_completes h, chfree_completes h, hput_completes h, put_completes h⟩,
    fun s n t x cmd rest _ h => ⟨syStart_syq h, ?_, ?_, ?_, ?_, ?_⟩⟩
  · rintro id engines scope plan deadline rfl
    exact syStart_fence h
  · rintro hq v rfl
    exact syStart_hput h
  · rintro ch q rfl route
    refine ⟨syStart_chfree_nil h, fun k l taken => ?_⟩
    obtain ⟨chan, credit⟩ := syStart_chfree_cons h route taken
    exact ⟨chan, fun _ => credit⟩
  · rintro ch len tag src id q rfl route
    exact syStart_chsend h route
  · rintro final src dst id rfl
    exact syStart_put h

end

end Sys2Proof.Proofs.Messages
end

section
/-! The proof of O23: what sampling leaves of the state, and the completion of one due wait, form by form. -/

namespace Sys2Proof.Proofs.Waits

open Sys2Proof Sys2Proof.Machine Sys2Proof.Laws Sys2Proof.Proofs.HostService Sys2Proof.Proofs.Issue Sys2Proof.Proofs.Callers Sys2Proof.Proofs.Queues
  Sys2Proof.Proofs.EngineQueues

/-! ## Predicates are sampled (R109) -/

/-- From `s` to `t` the commands that a domain holds change, and the hazard detector reports what it sees. -/
structure Sampled (d : Nat) (s t : State) : Prop where
  eq : t = { s with dom := t.dom, hazards := t.hazards, counters := t.counters }
  dom : ∀ e, t.domN e = { s.domN e with handed := if e = d then (t.domN e).handed else (s.domN e).handed }

section
variable {s t u : State} {d : Nat}

theorem samples_fields (s : State) (w p : Nat) (x : Ctx) :
    s.samples w p x = { s with hazards := (s.samples w p x).hazards, counters := (s.samples w p x).counters } := by
  unfold State.samples
  dsimp only
  split
  · rfl
  · rfl

/-- Steps that reach the detector's reports alone. -/
theorem foldl_reports {α : Type} {f : State → α → State} (hf : ∀ t a, f t a = { t with hazards := (f t a).hazards, counters := (f t a).counters })
    (l : List α) (s : State) : l.foldl f s = { s with hazards := (l.foldl f s).hazards, counters := (l.foldl f s).counters } := by
  induction l generalizing s with
  | nil => rfl
  | cons a l ih =>
    rw [List.foldl_cons, ih, hf s a]

theorem sampleDue_sampled (s : State) (d c : Nat) : Sampled d s (s.sampleDue d c) := by
  unfold State.sampleDue
  dsimp only
  generalize hu : List.foldl _ s _ = u
  have reported : u = { s with hazards := u.hazards, counters := u.counters } := by
    rw [← hu]
    exact foldl_reports (fun t h => samples_fields ..) _ s
  clear hu
  constructor
  · rw [reported]
    rfl
  · intro e
    have same : u.domN e = s.domN e := by rw [reported]; rfl
    rw [modDom_domN]
    by_cases he : e = d
    · subst he
      rw [if_pos rfl]
      split
      · rw [same]
      · rw [same]
    · rw [if_neg fun h => he h.1, if_neg he, same]

theorem Sampled.clus (h : Sampled d s t) (n : Nat) : t.clus n = s.clus n := by rw [h.eq]; rfl
theorem Sampled.caller (h : Sampled d s t) (w : Nat) : t.caller w = s.caller w := by rw [h.eq]; rfl
theorem Sampled.domOf (h : Sampled d s t) (w : Nat) : t.domOf w = s.domOf w := by rw [h.eq]; rfl
theorem Sampled.regionOf (h : Sampled d s t) (n : Nat) : t.regionOf n = s.regionOf n := by rw [h.eq]; rfl
theorem Sampled.nt (h : Sampled d s t) (e : Nat) : (t.domN e).nt = (s.domN e).nt := by rw [h.dom]
theorem Sampled.mcueOf (h : Sampled d s t) (w num : Nat) : t.mcueOf w num = s.mcueOf w num := by
  unfold State.mcueOf
  rw [h.domOf, h.dom]
theorem Sampled.roundOf (h : Sampled d s t) (w q : Nat) : t.roundOf w q = s.roundOf w q := by
  unfold State.roundOf
  rw [h.domOf, h.dom]

theorem Sampled.waitReady (h : Sampled d s t) (w : Nat) (f : WaitForm) : t.waitReady w f = s.waitReady w f := by
  cases f <;> simp only [State.waitReady, h.clus, h.mcueOf, h.roundOf]

theorem Sampled.dueWaits (h : Sampled d s t) (ws : List Nat) (c : Nat) : t.dueWaits ws c = s.dueWaits ws c := by
  unfold State.dueWaits
  simp only [h.caller]

end

/-! ## One wait is due (R284, R314) -/

section
variable {s : State} {forms : WaitForm → Bool} {ws : List Nat} {c w : Nat} {q : Wait}

theorem completeSome_ready (due : s.dueWaits ws c = [(w, q)]) (form : forms q.form = true) (ready : s.waitReady w q.form = true) :
    s.completeSome forms ws c = s.completeWait w q := by
  unfold State.completeSome
  rw [due]
  simp [form, ready]

theorem completeSome_unready (due : s.dueWaits ws c = [(w, q)]) (form : forms q.form = true) (unready : s.waitReady w q.form = false) :
    s.completeSome forms ws c = s := by
  unfold State.completeSome
  rw [due]
  simp [form, unready]

end

/-! ## The steps of a completion (R284, R315, R317) -/

/-- From `s` to `t` granules that go back and what the completion notes change: no object, no placement, no floor and no domain does. -/
structure Discards (s t : State) : Prop where
  eq : t = { s with cl := t.cl, uid := t.uid, beat := t.beat }
  clus : ∀ m, t.clus m = { s.clus m with staging := (t.clus m).staging, movers := (t.clus m).movers }

section
variable {s t u : State}

theorem Discards.refl (s : State) : Discards s s := ⟨rfl, fun _ => rfl⟩

theorem Discards.trans (h : Discards s t) (k : Discards t u) : Discards s u where
  eq := k.eq.trans (by rw [h.eq])
  clus m := by rw [k.clus m, h.clus m]

theorem Discards.foldl {α : Type} {f : State → α → State} (hf : ∀ t a, Discards t (f t a)) (l : List α) (s : State) : Discards s (l.foldl f s) := by
  induction l generalizing s with
  | nil => exact .refl s
  | cons a l ih => exact (hf s a).trans (ih _)

theorem modCl_discards (s : State) (n : Nat) (f : Cluster → Cluster) (hf : ∀ c, f c = { c with staging := (f c).staging, movers := (f c).movers }) :
    Discards s (s.modCl n f) := by
  refine ⟨rfl, fun m => ?_⟩
  rw [modCl_clus]
  split
  · next h => rw [h.1]; exact hf _
  · rfl

theorem discardGuard_discards (s : State) (n g : Nat) : Discards s (s.discardGuard n g) := by
  unfold State.discardGuard
  split
  · exact .refl s
  · refine .foldl (fun t m => ?_) _ s
    have numbered : ∀ u, Discards t { t with uid := u } := fun u => ⟨rfl, fun _ => rfl⟩
    exact ((numbered _).trans (modCl_discards _ n _ fun _ => rfl)).trans (modCl_discards _ n _ fun _ => rfl)

theorem settleWait_discards (s : State) (w : Nat) : Discards s (s.settleWait w) := by
  unfold State.settleWait
  split
  · exact .refl s
  · exact ⟨rfl, fun _ => rfl⟩

theorem Discards.domN (h : Discards s t) (d : Nat) : t.domN d = s.domN d := by rw [h.eq]; rfl
theorem Discards.domOf (h : Discards s t) (w : Nat) : t.domOf w = s.domOf w := by rw [h.eq]; rfl

theorem Discards.caller (h : Discards s t) (w : Nat) : t.caller w = s.caller w := by
  unfold State.caller
  rw [h.clus, h.eq]

end

/-- The wait has left the queue, and the detector has noted the acquire (R316). -/
def waitTaken (s : State) (w : Nat) (q : Wait) : State := (s.acquireForm w q.form).modCaller w fun k => { k with waits := k.waits.erase q }

/-- The effect of the form of a wait (R284, R315). -/
def waitActs (s : State) (w : Nat) (q : Wait) : State :=
  match q.form with
  | .stream st first count faddr tkt => s.releaseStream w q.r st first count faddr tkt q.deadline q.ctx
  | .cue num keep =>
    if keep then s
    else (s.modCl w fun c => { c with cues := tMod c.cues num {} fun u => { u with set := false } }).detApply (s.domOf w)
      { obj := .cue w num, op := .clear, scope := 1, src := 0, last := {} }
  | .mcue num keep => if keep then s else s.clearMcues (s.domOf w) q.r num
  | .tally num n take =>
    if take then
      s.modCl w fun c => { c with tallies := tMod c.tallies num {} fun u => { u with count := u.count - BitVec.ofNat 16 n } }
    else s
  | .round .. => s

section
variable (s : State) (w : Nat) (q : Wait)

theorem completeWait_eq : s.completeWait w q =
    (if w < 48 then (waitActs (waitTaken s w q) w q).discardGuard w q.guard else waitActs (waitTaken s w q) w q).settleWait w := rfl

theorem completeWait_discards : Discards (waitActs (waitTaken s w q) w q) (s.completeWait w q) := by
  rw [completeWait_eq]
  refine .trans ?_ (settleWait_discards ..)
  split
  · exact discardGuard_discards ..
  · exact .refl _

theorem acquireForm_fields (f : WaitForm) : s.acquireForm w f = { s with det := (s.acquireForm w f).det } := by cases f <;> rfl

theorem waitTaken_fields : waitTaken s w q = { s with det := (waitTaken s w q).det, cl := (waitTaken s w q).cl, seqs := (waitTaken s w q).seqs } := by
  unfold waitTaken
  rw [acquireForm_fields]
  rfl

theorem waitTaken_waits (hw : w < 50) : ((waitTaken s w q).caller w).waits = (s.caller w).waits.erase q := by
  unfold waitTaken
  rw [modCaller_caller, if_pos ⟨rfl, hw⟩, acquireForm_fields]
  rfl

theorem waitTaken_clus (m : Nat) : (waitTaken s w q).clus m = { s.clus m with caller := ((waitTaken s w q).clus m).caller } := by
  unfold waitTaken
  rw [modCaller_clus, acquireForm_fields]
  split
  · rfl
  · rfl

theorem waitTaken_domN (d : Nat) : (waitTaken s w q).domN d = s.domN d := by rw [waitTaken_fields]; rfl
theorem waitTaken_domOf (v : Nat) : (waitTaken s w q).domOf v = s.domOf v := by rw [waitTaken_fields]; rfl

end

/-! ## The clearing of a module cue (R309, R315) -/

/-- From `s` to `t` domains change, none in the cycles that it has issued, and the detector notes what it sees. -/
structure Spreads (s t : State) : Prop where
  eq : t = { s with dom := t.dom, det := t.det }
  nt : ∀ e, (t.domN e).nt = (s.domN e).nt

section
variable {s t u : State} {own r num : Nat}

theorem Spreads.refl (s : State) : Spreads s s := ⟨rfl, fun _ => rfl⟩

theorem Spreads.trans (h : Spreads s t) (k : Spreads t u) : Spreads s u := ⟨k.eq.trans (by rw [h.eq]), fun e => (k.nt e).trans (h.nt e)⟩

/-- Whether the replica of a module cue in a domain is clear. -/
def clearIn (s : State) (d num : Nat) : Prop := ((tGet (s.domN d).mcues num).getD {}).set = false

/-- The clearing of a module cue in one domain: at once in the domain of the caller, by an effect in the others. -/
def clearStep (own r num : Nat) (s : State) (d : Nat) : State :=
  if d = own then s.clearMcue d num
  else if r < (s.domN d).nt then ((s.signals d ((s.domN d).nt - 1) ((s.domN d).nt - 1)).clearMcue d num).count 0x9004 1 1
  else s.post d r phSig 64 (.mcueClear num)

theorem clearMcues_eq (s : State) (own r num : Nat) : s.clearMcues own r num = (List.range 10).foldl (clearStep own r num) s := rfl

theorem modDom_spreads (s : State) (d : Nat) (f : Dom → Dom) (hf : ∀ x, (f x).nt = x.nt) : Spreads s (s.modDom d f) := by
  refine ⟨rfl, fun e => ?_⟩
  rw [modDom_domN]
  split
  · next h => rw [hf, h.1]
  · rfl

theorem clearMcue_spreads (s : State) (d num : Nat) : Spreads s (s.clearMcue d num) := by
  have noted : ∀ g : Sig, Spreads s (s.detApply d g) := fun g => ⟨rfl, fun _ => rfl⟩
  exact (noted _).trans (modDom_spreads _ d _ fun _ => rfl)

theorem clearStep_spreads (s : State) (d : Nat) (ahead : d ≠ own → (s.domN d).nt ≤ r) : Spreads s (clearStep own r num s d) := by
  unfold clearStep
  by_cases hd : d = own
  · rw [if_pos hd]
    exact clearMcue_spreads ..
  · rw [if_neg hd, if_neg (Nat.not_lt.2 (ahead hd))]
    exact modDom_spreads s d _ fun _ => rfl

theorem clearMcue_clear (s : State) {d : Nat} (hd : d < 10) (num : Nat) : clearIn (s.clearMcue d num) d num := by
  unfold clearIn State.clearMcue
  rw [modDom_domN, if_pos ⟨rfl, hd⟩]
  simp only [tMod, tGet_tPut, ↓reduceIte, Option.getD_some]

theorem clearStep_clear (s : State) (d : Nat) (hown : own < 10) (ahead : d ≠ own → (s.domN d).nt ≤ r) (h : d = own ∨ clearIn s own num) :
    clearIn (clearStep own r num s d) own num := by
  unfold clearStep
  by_cases hd : d = own
  · subst hd
    rw [if_pos rfl]
    exact clearMcue_clear s hown num
  · rw [if_neg hd, if_neg (Nat.not_lt.2 (ahead hd))]
    unfold clearIn State.post
    rw [modDom_domN, if_neg fun k => hd k.1.symm]
    exact h.resolve_left hd

/-- Where no other replica has passed the release, the cue is clear in the domain of the caller, and domains alone have changed. -/
theorem foldl_clearStep (l : List Nat) (s : State) (hown : own < 10) (ahead : ∀ d ∈ l, d ≠ own → (s.domN d).nt ≤ r) :
    Spreads s (l.foldl (clearStep own r num) s) ∧ (own ∈ l ∨ clearIn s own num → clearIn (l.foldl (clearStep own r num) s) own num) := by
  induction l generalizing s with
  | nil => exact ⟨.refl s, fun h => h.resolve_left List.not_mem_nil⟩
  | cons d l ih =>
    have first := clearStep_spreads (num := num) s d (ahead d List.mem_cons_self)
    obtain ⟨spreads, clear⟩ := ih (clearStep own r num s d) fun e he hne => by
      rw [first.nt]
      exact ahead e (List.mem_cons_of_mem _ he) hne
    refine ⟨first.trans spreads, fun h => clear ?_⟩
    by_cases hd : d = own
    · exact .inr (clearStep_clear s d hown (ahead d List.mem_cons_self) (.inl hd))
    · obtain h | h := h
      · exact .inl ((List.mem_cons.1 h).resolve_left fun e => hd e.symm)
      · exact .inr (clearStep_clear s d hown (ahead d List.mem_cons_self) (.inr h))

theorem clearMcues_spec (s : State) (hown : own < 10) (ahead : ∀ d, d < 10 → d ≠ own → (s.domN d).nt ≤ r) :
    Spreads s (s.clearMcues own r num) ∧ clearIn (s.clearMcues own r num) own num := by
  rw [clearMcues_eq]
  obtain ⟨spreads, clear⟩ := foldl_clearStep (num := num) (List.range 10) s hown fun d hd => ahead d (List.mem_range.1 hd)
  exact ⟨spreads, clear (.inl (List.mem_range.2 hown))⟩

end

/-! ## The effect of each form -/

/-- From `s` to `t` no caller, and nothing of the routine, of bank memory and of the links changes. -/
structure Effects (s t : State) : Prop where
  caller : ∀ v, (t.caller v).waits = (s.caller v).waits
  rt : t.rt = s.rt
  bank : t.bank = s.bank
  links : t.links = s.links

section
variable {s : State} {w : Nat} {q : Wait}

theorem effects_refl (s : State) : Effects s s := ⟨fun _ => rfl, rfl, rfl, rfl⟩

theorem effects_of_modCl {t : State} (n : Nat) (f : Cluster → Cluster) (hf : ∀ c, (f c).caller = c.caller)
    (h : t = { s.modCl n f with dom := t.dom, uid := t.uid, det := t.det }) : Effects s t := by
  refine ⟨fun v => ?_, by rw [h]; rfl, by rw [h]; rfl, by rw [h]; rfl⟩
  rw [h]
  show (State.caller (s.modCl n f) v).waits = _
  unfold State.caller
  rw [modCl_clus]
  split
  · split
    · next hv => rw [hf, hv.1]
    · rfl
  · rfl

/-- A cluster with a cue cleared. -/
def cueCleared (num : Nat) (c : Cluster) : Cluster := { c with cues := tMod c.cues num {} fun u => { u with set := false } }

/-- A cluster with a tally that has given up what a wait takes. -/
def tallyTaken (num n : Nat) (c : Cluster) : Cluster :=
  { c with tallies := tMod c.tallies num {} fun u => { u with count := u.count - BitVec.ofNat 16 n } }

/-- The placement of a stream WAIT. -/
def placementOf (s : State) (q : Wait) (st first count faddr tkt : Nat) : Placing :=
  { id := s.uid, r := q.r, st, first, count, faddr, tkt, ctx := q.ctx, deadline := q.deadline }

/-- A cluster with a placement more. -/
def placed (p : Placing) (c : Cluster) : Cluster := { c with placing := c.placing ++ [p] }

theorem waitActs_cue {num : Nat} {keep : Bool} (h : q.form = .cue num keep) : waitActs s w q = if keep then s
    else (s.modCl w (cueCleared num)).detApply (s.domOf w) { obj := .cue w num, op := .clear, scope := 1, src := 0, last := {} } := by
  unfold waitActs
  rw [h]
  rfl

theorem waitActs_mcue {num : Nat} {keep : Bool} (h : q.form = .mcue num keep) :
    waitActs s w q = if keep then s else s.clearMcues (s.domOf w) q.r num := by
  unfold waitActs
  rw [h]

theorem waitActs_tally {num n : Nat} {take : Bool} (h : q.form = .tally num n take) :
    waitActs s w q = if take then s.modCl w (tallyTaken num n) else s := by
  unfold waitActs
  rw [h]
  rfl

theorem waitActs_round {num g : Nat} (h : q.form = .round num g) : waitActs s w q = s := by
  unfold waitActs
  rw [h]

theorem waitActs_stream {st first count faddr tkt : Nat} (h : q.form = .stream st first count faddr tkt) : ∃ before, waitActs s w q =
    (s.fresh.2.modCl w (placed (placementOf s q st first count faddr tkt))).postM (s.regionOf w) q.r phGw 6 (.place w (2 + before) s.uid) := by
  unfold waitActs
  rw [h]
  exact ⟨_, rfl⟩

theorem domOf_lt (s : State) (hw : w < 50) : s.domOf w < 10 := by
  unfold State.domOf
  split
  · exact regionOf_lt s w
  · omega

theorem waitActs_effects (hw : w < 50) (ahead : ∀ num, q.form = .mcue num false → ∀ e, e < 10 → e ≠ s.domOf w → (s.domN e).nt ≤ q.r) :
    Effects s (waitActs s w q) := by
  cases form : q.form with
  | stream st first count faddr tkt =>
    obtain ⟨before, acts⟩ := waitActs_stream (s := s) (w := w) form
    rw [acts]
    exact effects_of_modCl w (placed (placementOf s q st first count faddr tkt)) (fun _ => rfl) rfl
  | cue num keep =>
    rw [waitActs_cue form]
    split
    · exact effects_refl s
    · exact effects_of_modCl w (cueCleared num) (fun _ => rfl) rfl
  | mcue num keep =>
    rw [waitActs_mcue form]
    split
    · exact effects_refl s
    · next clears =>
      rw [Bool.not_eq_true] at clears
      rw [clears] at form
      rw [(clearMcues_spec s (domOf_lt s hw) (ahead num form)).1.eq]
      exact ⟨fun _ => rfl, rfl, rfl, rfl⟩
  | tally num n take =>
    rw [waitActs_tally form]
    split
    · exact effects_of_modCl w (tallyTaken num n) (fun _ => rfl) rfl
    · exact effects_refl s
  | round num g =>
    rw [waitActs_round form]
    exact effects_refl s

end

/-! ## A completed wait -/

section
variable {s : State} {w : Nat} {q : Wait}

theorem completeWait_domN (d : Nat) : (s.completeWait w q).domN d = (waitActs (waitTaken s w q) w q).domN d := (completeWait_discards s w q).domN d

theorem completeWait_domOf (v : Nat) : (s.completeWait w q).domOf v = (waitActs (waitTaken s w q) w q).domOf v := (completeWait_discards s w q).domOf v

/-- The wait leaves the queue, and nothing of the routine, of bank memory and of the links changes. -/
theorem completeWait_spec (hw : w < 50) (ahead : ∀ num, q.form = .mcue num false → ∀ e, e < 10 → e ≠ s.domOf w → (s.domN e).nt ≤ q.r) :
    let t := s.completeWait w q
    (t.caller w).waits = (s.caller w).waits.erase q ∧ t.rt = s.rt ∧ t.bank = s.bank ∧ t.links = s.links := by
  have effects := waitActs_effects (s := waitTaken s w q) (q := q) hw (by simpa only [waitTaken_domN, waitTaken_domOf] using ahead)
  have discards := completeWait_discards s w q
  have taken := waitTaken_fields s w q
  refine ⟨?_, ?_, ?_, ?_⟩
  · rw [discards.caller, effects.caller, waitTaken_waits s w q hw]
  · rw [discards.eq]
    exact effects.rt.trans (by rw [taken])
  · rw [discards.eq]
    exact effects.bank.trans (by rw [taken])
  · rw [discards.eq]
    exact effects.links.trans (by rw [taken])

theorem clus_of_large (s : State) {n : Nat} (h : ¬ n < 48) : s.clus n = {} := dif_neg h

/-- A cue stays set exactly where its wait keeps it (R315). -/
theorem completeWait_cue {num : Nat} {keep : Bool} (form : q.form = .cue num keep) (ready : s.waitReady w q.form = true) :
    ((tGet ((s.completeWait w q).clus w).cues num).getD {}).set = keep := by
  rw [form] at ready
  have hw : w < 48 := by
    refine Decidable.byContradiction fun h => ?_
    rw [State.waitReady, clus_of_large s h] at ready
    exact Bool.false_ne_true ready
  rw [(completeWait_discards s w q).clus, waitActs_cue form]
  cases keep with
  | true =>
    rw [if_pos rfl, waitTaken_clus]
    exact ready
  | false =>
    rw [if_neg (by decide)]
    show ((tGet (((waitTaken s w q).modCl w (cueCleared num)).clus w).cues num).getD {}).set = false
    rw [modCl_clus, if_pos ⟨rfl, hw⟩]
    simp only [cueCleared, tMod, tGet_tPut, ↓reduceIte, Option.getD_some]

/-- A module cue stays set in the caller's own replica exactly where its wait keeps it (R315). -/
theorem completeWait_mcue {num : Nat} {keep : Bool} (hw : w < 50) (form : q.form = .mcue num keep) (ready : s.waitReady w q.form = true)
    (ahead : ∀ num, q.form = .mcue num false → ∀ e, e < 10 → e ≠ s.domOf w → (s.domN e).nt ≤ q.r) :
    ((s.completeWait w q).mcueOf w num).set = keep := by
  rw [form] at ready
  unfold State.mcueOf
  rw [completeWait_domN, completeWait_domOf, waitActs_mcue form]
  cases keep with
  | true =>
    rw [if_pos rfl, waitTaken_domN, waitTaken_domOf]
    exact ready
  | false =>
    have ahead : ∀ e, e < 10 → e ≠ (waitTaken s w q).domOf w → ((waitTaken s w q).domN e).nt ≤ q.r := by
      simpa only [waitTaken_domN, waitTaken_domOf] using ahead num form
    obtain ⟨spreads, clear⟩ := clearMcues_spec (num := num) (waitTaken s w q) (domOf_lt _ hw) ahead
    rw [if_neg (by decide)]
    have domOf : ((waitTaken s w q).clearMcues ((waitTaken s w q).domOf w) q.r num).domOf w = (waitTaken s w q).domOf w := by
      rw [spreads.eq]
      rfl
    rw [domOf]
    exact clear

/-- A tally gives up what the wait takes (R315). -/
theorem completeWait_tally {num k : Nat} {take : Bool} (hw : w < 48) (form : q.form = .tally num k take) (ready : s.waitReady w q.form = true) :
    ((tGet ((s.completeWait w q).clus w).tallies num).getD {}).count.toNat
      = ((tGet (s.clus w).tallies num).getD {}).count.toNat - (if take then k else 0) := by
  rw [form] at ready
  have held : k ≤ ((tGet (s.clus w).tallies num).getD {}).count.toNat := of_decide_eq_true ready
  rw [(completeWait_discards s w q).clus, waitActs_tally form]
  cases take with
  | false =>
    rw [if_neg (by decide), if_neg (by decide), waitTaken_clus]
    rfl
  | true =>
    rw [if_pos rfl, if_pos rfl, modCl_clus, if_pos ⟨rfl, hw⟩, waitTaken_clus]
    simp only [tallyTaken, tMod, tGet_tPut, ↓reduceIte, Option.getD_some]
    bv_omega

theorem completeWait_round {num k : Nat} (form : q.form = .round num k) (v m : Nat) : (s.completeWait w q).roundOf v m = s.roundOf v m := by
  unfold State.roundOf
  rw [completeWait_domN, completeWait_domOf, waitActs_round form, waitTaken_domN, waitTaken_domOf]

/-- The granules of a stream WAIT get their placement, which begins two mover cycles after the release at the earliest (R284). -/
theorem completeWait_stream {n : Fin 48} {st first count faddr tkt : Nat} (form : q.form = .stream st first count faddr tkt) :
    let t := s.completeWait n q
    (q.guard = 0 → (t.clus n).staging = (s.clus n).staging)
      ∧ (∃ p ∈ (t.clus n).placing, p.st = st ∧ p.first = first ∧ p.count = count ∧ p.faddr = faddr ∧ p.tkt = tkt ∧ p.r = q.r
        ∧ p.deadline = q.deadline ∧ p.held = none
        ∧ ∃ e ∈ (t.domN (s.regionOf n)).evs, e.t = q.r ∧ e.mover = true ∧ ∃ left, e.k = .place n left p.id ∧ 2 ≤ left)
      ∧ (t.clus n).floor = (s.clus n).floor := by
  obtain ⟨before, acts⟩ := waitActs_stream (s := waitTaken s n q) (w := n) form
  have region : (waitTaken s n q).regionOf n = s.regionOf n := by rw [waitTaken_fields]; rfl
  have own : (waitActs (waitTaken s n q) n q).clus n = placed (placementOf (waitTaken s n q) q st first count faddr tkt) ((waitTaken s n q).clus n) := by
    rw [acts]
    show ((waitTaken s n q).fresh.2.modCl n _).clus n = _
    rw [modCl_clus_self]
    rfl
  have clus := (completeWait_discards s n q).clus n
  rw [own] at clus
  refine ⟨fun unguarded => ?_, ?_, ?_⟩
  · rw [completeWait_eq, if_pos n.isLt, unguarded]
    have settled : ∀ u : State, ((u.settleWait n).clus n).staging = (u.clus n).staging := fun u => by
      unfold State.settleWait
      split
      · rfl
      · rfl
    have unchanged : (waitActs (waitTaken s n q) n q).discardGuard n 0 = waitActs (waitTaken s n q) n q := if_pos rfl
    rw [settled, unchanged, own, waitTaken_clus]
    rfl
  · rw [clus]
    refine ⟨_, List.mem_append_right _ (List.mem_singleton.2 rfl), rfl, rfl, rfl, rfl, rfl, rfl, rfl, rfl, ?_⟩
    rw [completeWait_domN, acts, region]
    exact ⟨_, mem_post_evs _ (regionOf_lt s n) .., rfl, rfl, _, rfl, Nat.le_add_right 2 before⟩
  · rw [clus, waitTaken_clus]
    rfl

end

/-! ## The commands (R284, R314) -/

section
variable {s : State} {w : Site} {q : Wait}

theorem exec_waitComplete_quiet (quiet : s.quiet (s.domOf (siteNum w))) : exec (.waitComplete w) s =
    .next (s.after ((s.sampleDue (s.domOf (siteNum w)) (s.domN (s.domOf (siteNum w))).nt).completeWaits [siteNum w]
      (s.domN (s.domOf (siteNum w))).nt)) := by
  show execWaitComplete w s = _
  unfold execWaitComplete
  dsimp only
  rw [flush_quiet s _ quiet, commit_eq]

theorem exec_waitRelease_quiet {n : Fin 48} (offered : n.val < s.lcMax) (quiet : s.quiet (s.regionOf n)) : exec (.waitRelease n) s =
    .next (s.after ((s.sampleDue (s.regionOf n) (s.domN (s.regionOf n)).nt).completeSome (·.isStream) [n.val] (s.domN (s.regionOf n)).nt)) := by
  show execWaitRelease n s = _
  unfold execWaitRelease
  dsimp only
  rw [flush_quiet s _ quiet, if_neg (Nat.not_le.2 offered), commit_eq]

end

/-- Settles O23: with one due wait the command is its completion, in the state in which the predicates have been sampled. -/
theorem waitsComplete : Obligations.WaitsComplete := by
  intro s w q v d sampled quiet due
  have hv : v < 50 := siteNum_lt w
  have samples : Sampled d s sampled := sampleDue_sampled ..
  have due : sampled.dueWaits [v] (s.domN d).nt = [(v, q)] := by rw [samples.dueWaits]; exact due
  refine ⟨⟨samples.eq, samples.dom⟩, fun unready => ?_, fun ready => ?_⟩
  · rw [exec_waitComplete_quiet quiet]
    exact congrArg _ (congrArg _ (completeSome_unready due rfl (by rw [samples.waitReady]; exact unready)))
  have ready : sampled.waitReady v q.form = true := by rw [samples.waitReady]; exact ready
  refine ⟨fun ahead => ?_, fun n st first count faddr tkt site form offered => ?_⟩
  · have ahead : ∀ num, q.form = .mcue num false → ∀ e, e < 10 → e ≠ sampled.domOf v → (sampled.domN e).nt ≤ q.r := by
      simpa only [samples.domOf, samples.nt] using ahead
    obtain ⟨waits, rt, bank, links⟩ := completeWait_spec hv ahead
    refine ⟨sampled.completeWait v q, ?_, ?_, fun num keep form => completeWait_cue form ready, fun num keep form => completeWait_mcue hv form ready ahead,
      fun num k take form hv => ?_, fun num k form => ?_, ?_, ?_, ?_⟩
    · rw [exec_waitComplete_quiet quiet]
      exact congrArg _ (congrArg _ (completeSome_ready due rfl ready))
    · rw [waits, samples.caller]
    · rw [completeWait_tally hv form ready, samples.clus]
    · rw [completeWait_round form, samples.roundOf]
    · rw [rt, samples.eq]
    · rw [bank, samples.eq]
    · rw [links, samples.eq]
  · subst site
    have region : d = s.regionOf n := if_pos n.isLt
    obtain ⟨waits, -⟩ := completeWait_spec (s := sampled) (q := q) hv fun num h => by rw [form] at h; exact absurd h (by simp)
    obtain ⟨staging, placing, floor⟩ := completeWait_stream (s := sampled) (n := n) form
    refine ⟨sampled.completeWait n q, ?_, ?_, ?_, ?_, ?_⟩
    · rw [exec_waitRelease_quiet offered (region ▸ quiet), ← region]
      exact congrArg _ (congrArg _ (completeSome_ready due (by rw [form]; rfl) ready))
    · rw [← samples.caller]
      exact waits
    · rw [← samples.clus]
      exact staging
    · rw [← samples.regionOf]
      exact placing
    · rw [← samples.clus]
      exact floor

end Sys2Proof.Proofs.Waits
end

section
/-! The proof of O43: reads of bank memory without wrong bursts, and what BEAT, OPEN and CLOSE records leave of their domain and of all else. -/

namespace Sys2Proof.Proofs.BeatRecords

open Sys2Proof Sys2Proof.Machine Sys2Proof.Laws Sys2Proof.Proofs.HostService Sys2Proof.Proofs.Issue Sys2Proof.Proofs.Callers

/-! ## Reads of bank memory in which no burst is wrong (R440, R443) -/

/-- From `s` to `t` bursts have been served and counted. -/
structure Served (s t : State) : Prop where
  eq : t = { s with bankUse := t.bankUse, counters := t.counters }

section
variable {s t u : State}

theorem Served.refl (s : State) : Served s s := ⟨rfl⟩
theorem Served.trans (h : Served s t) (k : Served t u) : Served s u := ⟨k.eq.trans (by rw [h.eq])⟩
theorem Served.bankErr (h : Served s t) : t.bankErr = s.bankErr := by rw [h.eq]
theorem Served.bank (h : Served s t) : t.bank = s.bank := by rw [h.eq]
theorem Served.domN (h : Served s t) (d : Nat) : t.domN d = s.domN d := by rw [h.eq]; rfl

theorem useBurst_served (s : State) (sc share : Nat) : Served s (s.useBurst sc share) := by
  unfold State.useBurst
  dsimp only
  split
  · exact ⟨rfl⟩
  · exact ⟨rfl⟩

/-- A read of a burst delivers what is stored (R443). -/
theorem burstRead_clean (h : s.bankErr = []) (b share : Nat) :
    s.burstRead b share = (some (readMem s.bank (32 * b) 32, false), s.useBurst (burstSc b) share) := by
  have clean : (s.useBurst (burstSc b) share).burstWrong b = (0, s.useBurst (burstSc b) share) := by
    unfold State.burstWrong
    rw [(useBurst_served ..).bankErr, h]
    rfl
  have right : wrongCount 0 = 0 := by decide
  unfold State.burstRead
  rw [clean]
  dsimp only
  rw [right, if_pos rfl]
  unfold State.burstStored
  rw [(useBurst_served s _ _).bank]

/-- The plaintext of a granule as it is stored (R440, R441). -/
def granulePlain (s : State) (a : Nat) : Bytes :=
  s.pageCrypt false (a / 64 * 64) (readMem s.bank (32 * (a / 64 * 2)) 32 ++ readMem s.bank (32 * (a / 64 * 2 + 1)) 32)

theorem Served.pageCrypt (h : Served s t) (enc : Bool) (a : Nat) (m : Bytes) : t.pageCrypt enc a m = s.pageCrypt enc a m := by
  rw [h.eq]
  rfl

theorem Served.granulePlain (h : Served s t) (a : Nat) : granulePlain t a = granulePlain s a := by
  unfold BeatRecords.granulePlain
  rw [h.pageCrypt, h.bank]

theorem granuleGet_clean (h : s.bankErr = []) (a loc : Nat) :
    ∃ t, Served s t ∧ s.granuleGet a loc = (.ok (granulePlain s a), t) := by
  have first := burstRead_clean h (a / 64 * 2) (shareOf loc)
  have served := useBurst_served s (burstSc (a / 64 * 2)) (shareOf loc)
  have second := burstRead_clean (served.bankErr.trans h) (a / 64 * 2 + 1) (shareOf loc)
  refine ⟨_, served.trans (useBurst_served _ (burstSc (a / 64 * 2 + 1)) (shareOf loc)), ?_⟩
  unfold State.granuleGet State.granuleOnce
  dsimp only
  rw [first]
  dsimp only
  rw [second]
  unfold State.granuleOf
  dsimp only
  rw [if_neg (by decide), (served.trans (useBurst_served ..)).pageCrypt, served.bank]
  rfl

theorem bankGet_clean (h : s.bankErr = []) (a loc : Nat) (x : Ctx) : ∃ t, Served s t ∧ s.bankGet a loc x = (some (granulePlain s a), t) := by
  obtain ⟨t, served, read⟩ := granuleGet_clean h a loc
  refine ⟨t, served, ?_⟩
  unfold State.bankGet
  rw [read]

end

/-! ## The sequencer of a die fetches the records of its next beat (R96, R97) -/

section
variable {s t u : State} {d : Nat}

/-- From `s` to `t` the buffer of a die's sequencer changes, and bursts are served. -/
structure Fetches (d : Nat) (s t : State) : Prop where
  eq : t = { s with dom := t.dom, bankUse := t.bankUse, counters := t.counters }
  own : t.domN d = { s.domN d with buffer := (t.domN d).buffer }
  others : ∀ e, e ≠ d → t.domN e = s.domN e

/-- Reads of granules in which no burst is wrong. -/
theorem foldl_bankGet_served (l : List Nat) (a : Nat → Nat) (loc : Nat) (x : State → Ctx) (h : s.bankErr = []) :
    Served s (l.foldl (fun (s : State) g => (s.bankGet (a g) loc (x s)).2) s) := by
  induction l generalizing s with
  | nil => exact .refl s
  | cons g l ih =>
    obtain ⟨t, served, read⟩ := bankGet_clean h (a g) loc (x s)
    rw [List.foldl_cons, read]
    exact served.trans (ih (served.bankErr.trans h))

theorem fetchBeat_fetches (h : s.bankErr = []) (e : Nat) : Fetches (8 + e) s (s.fetchBeat e) := by
  unfold State.fetchBeat
  dsimp only
  generalize hu : List.foldl _ s _ = u
  have served : Served s u := by
    rw [← hu]
    exact foldl_bankGet_served _ (fun g => routineAddr e (64 * g)) _ (fun s => s.ctxNow (8 + e) 0 0) h
  clear hu
  refine ⟨?_, ?_, fun f hf => ?_⟩
  · rw [served.eq]
    rfl
  · rw [modDom_domN]
    split
    · rw [served.domN]
    · rw [served.domN]
  · rw [modDom_domN_ne hf, served.domN]

end

/-! ## A BEAT record (R84, R86, R91, R92, R94) -/

/-- From `s` to `t` a domain moves to a place, up to the buffer of a die's sequencer, and the routine may note how it ends. -/
structure MovesTo (s : State) (d : Fin 10) (t : State) (y : Dom) : Prop where
  own : t.domN d = { y with buffer := (t.domN d).buffer }
  kept : d.val < 8 → (t.domN d).buffer = (s.domN d).buffer
  others : ∀ e, e ≠ d.val → t.domN e = s.domN e
  eq : t = { s with dom := t.dom, rt := t.rt, bankUse := t.bankUse, counters := t.counters }
  unserved : d.val < 8 → t.bankUse = s.bankUse ∧ t.counters = s.counters

/-- A place past the BEAT record at which it stands. -/
def pastBeat (c : Cursor) : Cursor := { c with pc := c.pc + 1, beats := c.beats + 1 }

section
variable {s u : State} {d : Fin 10} {c : Cursor}

/-- What the end of the step words makes of a domain, the fetch of the next beat apart. -/
theorem endWords_movesTo {y : Dom} (clean : 8 ≤ d.val → s.bankErr = [] ∧ ∀ l, (s.link l).sending = []) (own : (s.passBeat d).domN d = y)
    (buffer : y.buffer = (s.domN d).buffer) (others : ∀ e, e ≠ d.val → (s.passBeat d).domN e = s.domN e)
    (eq : s.passBeat d = { s with dom := (s.passBeat d).dom, rt := (s.passBeat d).rt }) :
    MovesTo s d (s.endWords d) y ∧ (s.endWords d).rt = (s.passBeat d).rt := by
  unfold State.endWords
  by_cases h8 : 8 ≤ d.val
  · obtain ⟨right, idle⟩ := clean h8
    have die : 8 + (d.val - 8) = d := by omega
    rw [if_pos h8, loadLinks_idle _ _ idle, if_pos h8]
    have fetches := fetchBeat_fetches (s := s.passBeat d) (by rw [eq]; exact right) (d - 8)
    rw [die] at fetches
    refine ⟨⟨?_, fun h => absurd h (by omega), fun e he => ?_, ?_, fun h => absurd h (by omega)⟩, ?_⟩
    · rw [fetches.own, own]
    · rw [fetches.others e he, others e he]
    · rw [fetches.eq, eq]
    · rw [fetches.eq]
  · rw [if_neg h8, if_neg h8]
    refine ⟨⟨by rw [own], fun _ => by rw [own, buffer], others, ?_, fun _ => ?_⟩, rfl⟩
    · rw [eq]
    · rw [eq]
      exact ⟨rfl, rfl⟩

variable (words : (s.domN d).words = true) (last : (s.domN d).last = false) (tailc : (s.domN d).tailc = none) (head : (s.domN d).head = some c)

/-- A domain whose step words of a beat have ended. -/
def wordsEnded (c : Cursor) (x : Dom) : Dom := { x with words := false, head := some (pastBeat c) }

/-- Where the run of the domain ends, with or without a following run. -/
def runEnded (s : State) (d : Nat) : State := if ((s.endRun d).domN d).last then (s.endRun d).noteLast d else s.endRun d

include last tailc head in
theorem passBeat_eq : s.passBeat d =
    if (pastBeat c).beats = 64 * (s.segN (s.domN d).seg).bars then runEnded (s.modDom d (wordsEnded c)) d else s.modDom d (wordsEnded c) := by
  have own : (s.modDom d (wordsEnded c)).domN d = wordsEnded c (s.domN d) := by rw [modDom_domN, if_pos ⟨rfl, d.isLt⟩]
  have first : s.modDom d (fun x =>
      let t := x.tailc.map pastBeat
      let done := t.any fun c => s.rt.hdr.overlap ≤ c.beats
      { x with words := false, head := x.head.map pastBeat, tailc := if done then none else t, last := x.last || (done && x.head.isNone) })
      = s.modDom d (wordsEnded c) := by
    refine modDom_congr ?_
    simp only [tailc, head, last, wordsEnded, Option.map_none, Option.map_some, Option.any_none, Bool.false_and, Bool.or_false, Bool.false_eq_true,
      ↓reduceIte]
  have stays : ((s.modDom d (wordsEnded c)).domN d).last = false := by rw [own]; exact last
  have place : ((s.modDom d (wordsEnded c)).domN d).head = some (pastBeat c) := by rw [own]; rfl
  have seg : ((s.modDom d (wordsEnded c)).domN d).seg = (s.domN d).seg := by rw [own]; rfl
  unfold State.passBeat
  dsimp only
  unfold pastBeat at first
  rw [first, if_neg (by rw [stays]; decide), place, seg]
  rfl

/-- The tail of a run that ends, to be merged into what follows (R92). -/
def tailOf (s : State) (seg : Nat) : Option Cursor := if s.rt.hdr.overlap = 0 then none else some (startAt (s.segN seg).tail)

/-- A domain whose next run begins (R91, R92). -/
def inRun (s : State) (g r l : Nat) (x : Dom) : Dom :=
  { x with head := some (startAt (s.segN g).body), tailc := tailOf s x.seg, tseg := x.seg, trun := x.run
           runNo := x.runNo + 1, seg := g, segRun := r, loops := l, run := s.runOf g r l }

/-- A domain whose last run has ended (R92, R94). -/
def pastRuns (s : State) (x : Dom) : Dom :=
  { x with head := none, tailc := tailOf s x.seg, tseg := x.seg, trun := x.run, runNo := x.runNo + 1, last := s.rt.hdr.overlap == 0 }

/-- Whether a STOP ends the routine with the run that ends (R95). -/
def stopsHere (s : State) (d : Nat) : Bool := s.rt.stopping && s.rt.stopAt ≤ (s.domN d).runNo

theorem endRun_next {g r l : Nat} (go : stopsHere s d = false) (next : s.nextRun (s.domN d).seg (s.domN d).segRun (s.domN d).loops = some (g, r, l)) :
    s.endRun d = s.modDom d (inRun s g r l) := by
  unfold State.endRun
  dsimp only
  rw [show (s.rt.stopping && decide (s.rt.stopAt ≤ (s.domN d).runNo)) = false from go, next, if_neg (by decide)]
  dsimp only
  rw [modDom_modDom]
  exact modDom_congr rfl

/-- The run to go on from, where the routine ends (R91, R655). -/
def resumeFrom (s : State) (d : Nat) : Nat × Nat :=
  match s.nextRun (s.domN d).seg (s.domN d).segRun (s.domN d).loops with
  | some (g, r, l) => if stopsHere s d then (g, s.runOf g r l) else (0, 0)
  | none => (0, 0)

theorem endRun_last (ends : stopsHere s d = true ∨ s.nextRun (s.domN d).seg (s.domN d).segRun (s.domN d).loops = none) :
    s.endRun d = { s.modDom d (pastRuns s) with rt := { s.rt with resumeAt := resumeFrom s d } } := by
  have none : (if stopsHere s d then none else s.nextRun (s.domN d).seg (s.domN d).segRun (s.domN d).loops) = none := by
    split
    · rfl
    · next go => exact ends.resolve_left go
  have moved : (s.modDom d fun x => { x with tailc := tailOf s (s.domN d).seg, tseg := x.seg, trun := x.run, runNo := x.runNo + 1 }).modDom d
      (fun x => { x with head := .none, last := s.rt.hdr.overlap == 0 }) = s.modDom d (pastRuns s) := by
    rw [modDom_modDom]
    exact modDom_congr rfl
  unfold State.endRun
  dsimp only
  unfold stopsHere at none
  rw [none, ← moved]
  rfl

theorem runEnded_next {g r l : Nat} (last : (s.domN d).last = false) (go : stopsHere s d = false)
    (next : s.nextRun (s.domN d).seg (s.domN d).segRun (s.domN d).loops = some (g, r, l)) : runEnded s d = s.modDom d (inRun s g r l) := by
  have stays : ((s.modDom d (inRun s g r l)).domN d).last = false := by
    rw [modDom_domN, if_pos ⟨rfl, d.isLt⟩]
    exact last
  unfold runEnded
  rw [endRun_next go next, if_neg (by rw [stays]; decide)]

/-- The routine after its last run: where it would go on, and the bar of its last step where no tail follows (R94, R655). -/
def rtPastRuns (s : State) (d : Nat) : Routine :=
  { s.rt with resumeAt := resumeFrom s d
              lastBar := if s.rt.hdr.overlap = 0 then some (s.rt.lastBar.getD (s.domN d).bar) else s.rt.lastBar }

theorem runEnded_last (ends : stopsHere s d = true ∨ s.nextRun (s.domN d).seg (s.domN d).segRun (s.domN d).loops = none) :
    runEnded s d = { s.modDom d (pastRuns s) with rt := rtPastRuns s d } := by
  have own : ({ s.modDom d (pastRuns s) with rt := { s.rt with resumeAt := resumeFrom s d } } : State).domN d = pastRuns s (s.domN d) := by
    show (s.modDom d (pastRuns s)).domN d = _
    rw [modDom_domN, if_pos ⟨rfl, d.isLt⟩]
  unfold runEnded
  rw [endRun_last ends]
  by_cases overlap : s.rt.hdr.overlap = 0
  · rw [if_pos (by rw [own]; simp [pastRuns, overlap])]
    unfold State.noteLast
    rw [own]
    unfold rtPastRuns
    rw [if_pos overlap]
    dsimp only
    rw [if_pos overlap]
    rfl
  · rw [if_neg (by rw [own]; simp [pastRuns, overlap])]
    unfold rtPastRuns
    rw [if_neg overlap]

/-- A BEAT record whose effect, the fetch apart, is a change of the domain and of what the routine notes. -/
theorem endWords_of_passBeat {f : Dom → Dom} {rt : Routine} (clean : 8 ≤ d.val → s.bankErr = [] ∧ ∀ l, (s.link l).sending = [])
    (passed : s.passBeat d = { s.modDom d f with rt }) (buffer : (f (s.domN d)).buffer = (s.domN d).buffer) :
    MovesTo s d (s.endWords d) (f (s.domN d)) ∧ (s.endWords d).rt = rt := by
  have domN : ∀ e, (s.passBeat d).domN e = (s.modDom d f).domN e := fun e => by rw [passed]; rfl
  have own : (s.passBeat d).domN d = f (s.domN d) := by rw [domN, modDom_domN, if_pos ⟨rfl, d.isLt⟩]
  have others : ∀ e, e ≠ d.val → (s.passBeat d).domN e = s.domN e := fun e he => by rw [domN, modDom_domN_ne he]
  obtain ⟨moves, ends⟩ := endWords_movesTo clean own buffer others (by rw [passed]; rfl)
  exact ⟨moves, ends.trans (by rw [passed])⟩

theorem wordsEnded_own (s : State) (d : Fin 10) (c : Cursor) : (s.modDom d (wordsEnded c)).domN d = wordsEnded c (s.domN d) := by
  rw [modDom_domN, if_pos ⟨rfl, d.isLt⟩]

section
variable (last : (s.domN d).last = false) (tailc : (s.domN d).tailc = none) (head : (s.domN d).head = some c)
include last tailc head

theorem passBeat_within (more : (pastBeat c).beats ≠ 64 * (s.segN (s.domN d).seg).bars) :
    s.passBeat d = { s.modDom d (wordsEnded c) with rt := s.rt } := by
  rw [passBeat_eq last tailc head, if_neg more]
  rfl

theorem passBeat_next {g r l : Nat} (ends : (pastBeat c).beats = 64 * (s.segN (s.domN d).seg).bars) (go : stopsHere s d = false)
    (next : s.nextRun (s.domN d).seg (s.domN d).segRun (s.domN d).loops = some (g, r, l)) :
    s.passBeat d = { s.modDom d (fun x => inRun s g r l (wordsEnded c x)) with rt := s.rt } := by
  have own := wordsEnded_own s d c
  rw [passBeat_eq last tailc head, if_pos ends, runEnded_next (g := g) (r := r) (l := l) (by rw [own]; exact last)
    (by unfold stopsHere; rw [own]; exact go) (by rw [own]; exact next), modDom_modDom]
  rfl

theorem passBeat_last (ends : (pastBeat c).beats = 64 * (s.segN (s.domN d).seg).bars)
    (stops : stopsHere s d = true ∨ s.nextRun (s.domN d).seg (s.domN d).segRun (s.domN d).loops = none) :
    s.passBeat d = { s.modDom d (fun x => pastRuns s (wordsEnded c x)) with rt := rtPastRuns s d } := by
  have own := wordsEnded_own s d c
  have stopsHere_eq : stopsHere (s.modDom d (wordsEnded c)) d = stopsHere s d := by
    unfold stopsHere
    rw [own]
    rfl
  have resumes : resumeFrom (s.modDom d (wordsEnded c)) d = resumeFrom s d := by
    unfold resumeFrom
    rw [own, stopsHere_eq]
    rfl
  have notes : rtPastRuns (s.modDom d (wordsEnded c)) d = rtPastRuns s d := by
    unfold rtPastRuns
    rw [own, resumes]
    rfl
  rw [passBeat_eq last tailc head, if_pos ends, runEnded_last (by rw [stopsHere_eq, own]; exact stops), notes, modDom_modDom]
  rfl

end

theorem exec_beatRecord (s : State) (d : Fin 10) : exec (.beatRecord d) s = .next (s.after (if s.running && s.atBeat d then s.endWords d else s)) := rfl

theorem atBeat_of_head (clean : 8 ≤ d.val → s.bankErr = [] ∧ ∀ l, (s.link l).sending = []) (words : (s.domN d).words = true)
    (last : (s.domN d).last = false) (tailc : (s.domN d).tailc = none) (head : (s.domN d).head = some c) (kind : s.kindAt c = 3) : s.atBeat d = true := by
  have free : (decide (8 ≤ d.val) && s.replayFull (d - 8) dataSlots) = false := by
    by_cases h8 : 8 ≤ d.val
    · rw [replayFull_idle _ _ (clean h8).2, Bool.and_false]
    · rw [decide_eq_false h8, Bool.false_and]
  unfold State.atBeat
  dsimp only
  rw [free, words, last]
  unfold Dom.active
  rw [head, tailc]
  simp [kind]

/-! ## OPEN and CLOSE records (R87) -/

theorem openMark_head (head : (s.domN d).head = some c) (kind : s.kindAt c = 4) : s.openMark d = s.modDom d fun x => { x with head := some (s.openAt c) } := by
  refine modDom_congr ?_
  rw [if_pos (by rw [head]; simp [kind]), head]
  rfl

theorem closeMark_head (head : (s.domN d).head = some c) (kind : s.kindAt c = 5) : s.closeMark d = s.modDom d fun x => { x with head := some c.close } := by
  refine modDom_congr ?_
  rw [if_pos (by rw [head]; simp [kind]), head]
  rfl

theorem openMark_elsewhere (head : (s.domN d).head.any (fun c => s.kindAt c == 4) = false) (tailc : (s.domN d).tailc.any (fun c => s.kindAt c == 4) = false) :
    s.openMark d = s := by
  refine modDom_self s d _ ?_
  rw [if_neg (by rw [head]; decide), if_neg (by rw [tailc]; decide)]

theorem closeMark_elsewhere (head : (s.domN d).head.any (fun c => s.kindAt c == 5) = false) (tailc : (s.domN d).tailc.any (fun c => s.kindAt c == 5) = false) :
    s.closeMark d = s := by
  refine modDom_self s d _ ?_
  rw [if_neg (by rw [head]; decide), if_neg (by rw [tailc]; decide)]

theorem exec_openRecord (s : State) (d : Fin 10) :
    exec (.openRecord d) s = .next (s.after (if s.running && (s.domN d).words then s.openMark d else s)) := rfl
theorem exec_closeRecord (s : State) (d : Fin 10) :
    exec (.closeRecord d) s = .next (s.after (if s.running && (s.domN d).words then s.closeMark d else s)) := rfl

/-- What a record that moves the place of the body leaves. -/
theorem head_moved (s : State) (d : Fin 10) (h : Cursor) :
    let t := s.modDom d fun x => { x with head := some h }
    t.domN d = { s.domN d with head := some h } ∧ (∀ e, e ≠ d.val → t.domN e = s.domN e) ∧ t = { s with dom := t.dom } := by
  refine ⟨?_, fun e he => modDom_domN_ne he _, rfl⟩
  rw [modDom_domN, if_pos ⟨rfl, d.isLt⟩]

end

/-- Settles O43: a BEAT record passes its beat and fetches the next, by the three ways a run goes on; OPEN and CLOSE move the place of the body. -/
theorem beatsAndRepeats : Obligations.BeatsAndRepeats := by
  intro s d x only
  refine ⟨fun none => ?_, ?_, fun i k record => ⟨fun none => ?_, fun c running words head kind => ?_⟩⟩
  · rw [exec_beatRecord, if_neg (by
      obtain h | h := none
      · simp [h]
      · simp [h])]
    rfl
  · intro c running words last tailc head kind clean h tail
    have acts : exec (.beatRecord d) s = .next (s.after (s.endWords d)) := by
      rw [exec_beatRecord, if_pos (by rw [running, atBeat_of_head clean words last tailc head kind]; rfl)]
    have only_of : ∀ {y}, MovesTo s d (s.endWords d) y → only (s.endWords d) y := fun h => ⟨h.own, h.kept, h.others, h.eq, h.unserved⟩
    refine ⟨fun more => ?_, fun ends go => ⟨fun g r l next => ?_, fun next => ?_⟩, fun ends stopping stopAt => ?_⟩
    · obtain ⟨moves, rt⟩ := endWords_of_passBeat clean (passBeat_within last tailc head more) rfl
      exact ⟨_, acts, only_of moves, rt⟩
    · have go : stopsHere s d = false := by
        unfold stopsHere
        obtain h | h := go
        · rw [h, Bool.false_and]
        · rw [decide_eq_false (Nat.not_le.2 h), Bool.and_false]
      obtain ⟨moves, rt⟩ := endWords_of_passBeat clean (passBeat_next last tailc head ends go next) rfl
      exact ⟨_, acts, only_of moves, rt⟩
    · obtain ⟨moves, rt⟩ := endWords_of_passBeat clean (passBeat_last last tailc head ends (.inr next)) rfl
      refine ⟨_, acts, only_of moves, rt.trans ?_⟩
      have from_start : resumeFrom s d = (0, 0) := by
        unfold resumeFrom
        rw [next]
      unfold rtPastRuns
      rw [from_start]
    · have stops : stopsHere s d = true := by
        unfold stopsHere
        rw [stopping, decide_eq_true stopAt]
        rfl
      obtain ⟨moves, rt⟩ := endWords_of_passBeat clean (passBeat_last last tailc head ends (.inl stops)) rfl
      refine ⟨_, acts, only_of moves, rt.trans ?_⟩
      unfold rtPastRuns resumeFrom
      rw [stops]
      rfl
  · obtain ⟨rfl, rfl⟩ | ⟨rfl, rfl⟩ := record
    · rw [exec_openRecord]
      obtain h | h | ⟨head, tailc⟩ := none
      · rw [if_neg (by simp [h])]; rfl
      · rw [if_neg (by simp [show (s.domN d).words = false from h])]; rfl
      · rw [openMark_elsewhere head tailc, ite_self]; rfl
    · rw [exec_closeRecord]
      obtain h | h | ⟨head, tailc⟩ := none
      · rw [if_neg (by simp [h])]; rfl
      · rw [if_neg (by simp [show (s.domN d).words = false from h])]; rfl
      · rw [closeMark_elsewhere head tailc, ite_self]; rfl
  · have acts : (s.running && (s.domN d).words) = true := by rw [running, words]; rfl
    obtain ⟨rfl, rfl⟩ | ⟨rfl, rfl⟩ := record
    · obtain ⟨own, others, eq⟩ := head_moved s d (s.openAt c)
      refine ⟨_, s.openAt c, ?_, own, others, eq, fun _ => rfl, fun h => absurd h (by decide)⟩
      rw [exec_openRecord, if_pos acts, openMark_head head kind]
    · obtain ⟨own, others, eq⟩ := head_moved s d c.close
      refine ⟨_, c.close, ?_, own, others, eq, fun h => absurd h (by decide), fun _ r rest reps => ?_⟩
      · rw [exec_closeRecord, if_pos acts, closeMark_head head kind]
      · unfold Cursor.close
        rw [reps]
        exact ⟨fun h => if_pos h, fun h => if_neg h⟩

end Sys2Proof.Proofs.BeatRecords
end

section
/-! The proof of O44: the beginning of an invocation, whose first beats open domain by domain, and its end, up to the record of each open bar. -/

namespace Sys2Proof.Proofs.Invocations

open Sys2Proof Sys2Proof.Machine Sys2Proof.Laws Sys2Proof.Proofs.HostService Sys2Proof.Proofs.Books Sys2Proof.Proofs.Holds Sys2Proof.Proofs.Issue
  Sys2Proof.Proofs.BeatRecords

/-! ## Writes of bank memory in which no burst is wrong (R440, R444) -/

section
variable {s t : State}

theorem granulePut_clean (h : s.bankErr = []) (a loc : Nat) (plain : Bytes) : (s.granulePut a loc plain).bankErr = [] := by
  have none_healed : ∀ l : List Nat, l.foldl healed [] = [] := fun l => by
    induction l with
    | nil => rfl
    | cons b l ih => exact ih
  have served := (useBurst_served s (burstSc (a / 64 * 2)) (shareOf loc)).trans (useBurst_served _ (burstSc (a / 64 * 2 + 1)) (shareOf loc))
  unfold State.granulePut
  dsimp only
  rw [served.bankErr, h]
  exact none_healed _

/-- A write of bytes meets no burst that a read does not decode. -/
theorem bankStore_clean (h : s.bankErr = []) (a loc : Nat) (bs : Bytes) (k : Nat) :
    (s.bankStore a loc bs k).1 = none ∧ (s.bankStore a loc bs k).2.bankErr = [] := by
  induction k generalizing s a bs with
  | zero => exact ⟨rfl, h⟩
  | succ k ih =>
    unfold State.bankStore
    dsimp only
    split
    · exact ih (granulePut_clean h ..) ..
    · obtain ⟨t, served, read⟩ := granuleGet_clean h a loc
      rw [read]
      exact ih (granulePut_clean (served.bankErr.trans h) ..) ..

/-- The record of a bar is written where no burst is wrong (R644). -/
theorem barRecord_clean (h : s.bankErr = []) (bar : Nat) (aborted : Bool) :
    (s.barRecord bar aborted).2 = false ∧ (s.barRecord bar aborted).1.bankErr = [] := by
  unfold State.barRecord
  dsimp only
  split
  · split
    · next u hu => exact ⟨rfl, (congrArg (·.2.bankErr) hu).symm.trans (bankStore_clean h ..).2⟩
    · next b u hu =>
      have written : some b = none := (congrArg Prod.fst hu).symm.trans (bankStore_clean h ..).1
      exact absurd written (by simp)
  · exact ⟨rfl, h⟩

/-! ## The bars that are still open close (R644) -/

/-- A bar closes as a store, or, where the read of its record is lost, the invocation ends at once (R445, R636). -/
theorem closeNext_cases (s : State) : Stores s s.closeNext ∨ ∃ v bar loc, Stores s v ∧ s.closeNext = v.abort 4 bar loc := by
  have stored : Stores s (s.barRecord (s.rt.firstBar + s.closed) false).1 := closeBar_stores s _ false
  unfold State.closeNext
  split
  next t lost h =>
  rw [h] at stored
  split
  · exact .inr ⟨t, _, _, stored, rfl⟩
  · exact .inl stored

theorem closeNext_clean (h : s.bankErr = []) : Stores s s.closeNext ∧ s.closeNext.bankErr = [] := by
  have stored : Stores s (s.barRecord (s.rt.firstBar + s.closed) false).1 := closeBar_stores s _ false
  obtain ⟨kept, clean⟩ := barRecord_clean h (s.rt.firstBar + s.closed) false
  have closed : s.closeNext = (s.barRecord (s.rt.firstBar + s.closed) false).1 := by
    unfold State.closeNext
    split
    next t lost h =>
    rw [h] at kept ⊢
    obtain rfl : lost = false := kept
    rfl
  rw [closed]
  exact ⟨stored, clean⟩

theorem closeUpTo_ended (h : s.running = false) (bar fuel : Nat) : s.closeUpTo bar fuel = s := by
  cases fuel with
  | zero => rfl
  | succ fuel =>
    unfold State.closeUpTo
    rw [h, Bool.false_and, if_neg (by decide)]

theorem abort_running (s : State) (cls bar loc : Nat) : (s.abort cls bar loc).running = false := by
  unfold State.running
  rw [(abort_spec s cls bar loc).1]
  rfl

theorem closeUpTo_cases (s : State) (bar fuel : Nat) :
    Stores s (s.closeUpTo bar fuel) ∨ ∃ v k loc, Stores s v ∧ s.closeUpTo bar fuel = v.abort 4 k loc := by
  induction fuel generalizing s with
  | zero => exact .inl (.refl s)
  | succ fuel ih =>
    unfold State.closeUpTo
    split
    · obtain stored | ⟨v, k, loc, stored, lost⟩ := closeNext_cases s
      · obtain more | ⟨v, k, loc, more, lost⟩ := ih s.closeNext
        · exact .inl (stored.trans more)
        · exact .inr ⟨v, k, loc, stored.trans more, lost⟩
      · refine .inr ⟨v, k, loc, stored, ?_⟩
        rw [lost, closeUpTo_ended (abort_running ..)]
    · exact .inl (.refl s)

theorem closeUpTo_clean (h : s.bankErr = []) (bar fuel : Nat) : Stores s (s.closeUpTo bar fuel) := by
  induction fuel generalizing s with
  | zero => exact .refl s
  | succ fuel ih =>
    unfold State.closeUpTo
    split
    · obtain ⟨stored, clean⟩ := closeNext_clean h
      exact stored.trans (ih clean)
    · exact .refl s

/-! ## The end of an invocation (R94, R617, R655) -/

/-- Nothing of an invocation is left: no acknowledgement, no transfer, no move, and in no cluster a wait, an owed write or a staged granule; the floors stay. -/
structure NothingLeft (s t : State) : Prop where
  running : t.running = false
  acks : t.acks = []
  bulks : t.bulks = []
  busy : t.isu.busy = none
  cl : t.cl = s.cl.map Cluster.discard

theorem abort_nothingLeft (s : State) (cls bar loc : Nat) : NothingLeft s (s.abort cls bar loc) := by
  obtain ⟨-, -, cl, acks, bulks, -, -⟩ := abort_spec s cls bar loc
  refine ⟨abort_running .., acks, bulks, ?_, cl⟩
  have idle : (discarded s cls).isu.busy = none := by
    unfold discarded
    split
    · rfl
    · rfl
  rw [(abort_records s cls bar loc).eq]
  unfold aborted
  rw [reportFault_eq, (closeBar_stores (discarded s cls) bar true).eq]
  exact idle

theorem NothingLeft.clus {t : State} (h : NothingLeft s t) {n : Nat} (hn : n < 48) : t.clus n = (s.clus n).discard := by
  unfold State.clus
  rw [dif_pos hn, dif_pos hn, h.cl, Vector.getElem_map]

/-- The end of the invocation as it is reported (R94, R529, R655). -/
def ended (s : State) : State :=
  let t := s.endInvocation
  let t : State := { t with rt := { t.rt with runState := 4 } }
  (((t.setBase 0x1320 1 t.rt.resumeAt.1).setBase 0x1320 2 t.rt.resumeAt.2).hostEvent 0 3 0 0 0).discrepancies1

theorem ended_records (s : State) : ∃ v : State, Records v (ended s) ∧ v.rt = { s.endInvocation.rt with runState := 4 } ∧ v.acks = [] ∧ v.bulks = []
    ∧ v.isu.busy = none ∧ v.cl = s.cl.map Cluster.discard ∧ v.base 0x1320 1 0 = s.rt.resumeAt.1 ∧ v.base 0x1320 2 0 = s.rt.resumeAt.2 := by
  refine ⟨_, (hostEvent_records _ 0 3 0 0 0).trans (discrepancies1_records _), rfl, rfl, rfl, rfl, rfl, ?_, base_setBase ..⟩
  simp only [State.base, State.setBase, tGet_tPut]
  rfl

theorem ended_spec (s : State) : NothingLeft s (ended s) ∧ (ended s).rt.runState = 4 ∧ (ended s).base 0x1320 1 0 = s.rt.resumeAt.1
    ∧ (ended s).base 0x1320 2 0 = s.rt.resumeAt.2 := by
  obtain ⟨v, records, rt, acks, bulks, busy, cl, seg, run⟩ := ended_records s
  have rtEnded : (ended s).rt = v.rt := by rw [records.eq]
  have base : ∀ i sub d, (ended s).base i sub d = v.base i sub d := fun i sub d => by rw [records.eq]; rfl
  have done : (ended s).rt.runState = 4 := by rw [rtEnded, rt]
  refine ⟨⟨?_, ?_, ?_, ?_, ?_⟩, done, ?_, ?_⟩
  · unfold State.running
    rw [done]
    rfl
  · rw [records.eq]; exact acks
  · rw [records.eq]; exact bulks
  · rw [records.eq]; exact busy
  · rw [records.eq]; exact cl
  · rw [base]; exact seg
  · rw [base]; exact run

theorem NothingLeft.of_stores {u t : State} (h : Stores s u) (k : NothingLeft u t) : NothingLeft s t :=
  ⟨k.running, k.acks, k.bulks, k.busy, by rw [k.cl, h.cl]⟩

/-- The bar up to which an ending routine closes. -/
def lastClosed (s : State) : State := s.closeUpTo (s.rt.lastBar.getD s.beat.bar.toNat) 64

theorem flush_all_quiet (h : ∀ d, d < 10 → s.quiet d) : (List.range 10).foldl (fun (s : State) d => s.flush d) s = s :=
  foldl_unchanged _ fun d hd => flush_quiet s d (h d (List.mem_range.1 hd))

theorem exec_routineEnd_quiet (running : s.running = true) (quiet : ∀ d, d < 10 → s.quiet d) : exec .routineEnd s =
    .next (s.after (if s.effectsPending then s else if (lastClosed s).running then ended (lastClosed s) else lastClosed s)) := by
  show execRoutineEnd s = _
  unfold execRoutineEnd
  dsimp only
  rw [flush_all_quiet quiet, running]
  unfold lastClosed ended
  cases s.effectsPending <;> cases (s.closeUpTo (s.rt.lastBar.getD s.beat.bar.toNat) 64).running <;> rfl

/-- What a routine leaves that ends, whether its last bars have closed or the read of a record was lost. -/
theorem routine_ends (running : s.running = true) :
    let t := if (lastClosed s).running then ended (lastClosed s) else lastClosed s
    NothingLeft s t ∧ (s.bankErr = [] → t.rt.runState = 4 ∧ t.base 0x1320 1 0 = s.rt.resumeAt.1 ∧ t.base 0x1320 2 0 = s.rt.resumeAt.2) := by
  have closes : Stores s (lastClosed s) → NothingLeft s (ended (lastClosed s)) ∧ (lastClosed s).running = true
      ∧ (ended (lastClosed s)).rt.runState = 4 ∧ (ended (lastClosed s)).base 0x1320 1 0 = s.rt.resumeAt.1
      ∧ (ended (lastClosed s)).base 0x1320 2 0 = s.rt.resumeAt.2 := fun stored => by
    obtain ⟨left, done, seg, run⟩ := ended_spec (lastClosed s)
    rw [stored.rt] at seg run
    refine ⟨left.of_stores stored, ?_, done, seg, run⟩
    unfold State.running at running ⊢
    rw [stored.rt]
    exact running
  dsimp only
  constructor
  · obtain stored | ⟨v, bar, loc, stored, lost⟩ := closeUpTo_cases s (s.rt.lastBar.getD s.beat.bar.toNat) 64
    · obtain ⟨left, goes, -⟩ := closes stored
      rw [if_pos goes]
      exact left
    · have aborted : lastClosed s = v.abort 4 bar loc := lost
      rw [aborted, if_neg (by rw [abort_running]; decide)]
      exact (abort_nothingLeft v 4 bar loc).of_stores stored
  · intro clean
    obtain ⟨-, goes, reported⟩ := closes (closeUpTo_clean clean _ 64)
    rw [if_pos goes]
    exact reported

end


/-! ## A working beat opens in a domain (R49, R266, R461) -/

/-- From `s` to `t` the scrubbers of clusters write back, slot engines begin their beat anew, and domains change. -/
structure Plans (s t : State) : Prop where
  eq : t = { s with cl := t.cl, dom := t.dom, links := t.links }
  clus : ∀ m, t.clus m = { s.clus m with floor := (t.clus m).floor, scrub := (t.clus m).scrub, upsets := (t.clus m).upsets }
  clean : ∀ m, (s.clus m).scrub = [] → t.clus m = s.clus m
  link : ∀ l, t.link l = { s.link l with slotsDone := (t.link l).slotsDone, begun := (t.link l).begun }

section
variable {s t u : State} {d : Nat}

theorem Plans.refl (s : State) : Plans s s := ⟨rfl, fun _ => rfl, fun _ _ => rfl, fun _ => rfl⟩

theorem Plans.trans (h : Plans s t) (k : Plans t u) : Plans s u where
  eq := k.eq.trans (by rw [h.eq])
  clus m := by rw [k.clus m, h.clus m]
  clean m hm := by rw [k.clean m (by rw [h.clean m hm]; exact hm), h.clean m hm]
  link l := by rw [k.link l, h.link l]

theorem modDom_plans (s : State) (d : Nat) (f : Dom → Dom) : Plans s (s.modDom d f) := ⟨rfl, fun _ => rfl, fun _ _ => rfl, fun _ => rfl⟩

theorem modLink_plans (s : State) (l : Nat) : Plans s (s.modLink l fun k => { k with slotsDone := 0, begun := 0 }) := by
  refine ⟨rfl, fun _ => rfl, fun _ _ => rfl, fun m => ?_⟩
  rw [modLink_link]
  split
  · next h => rw [h.1]
  · rfl

theorem newSlots_plans (s : State) (e : Nat) : Plans s (s.newSlots e) ∧ ∀ d, (s.newSlots e).domN d = s.domN d := by
  unfold State.newSlots
  generalize linksOf e = l
  induction l generalizing s with
  | nil => exact ⟨.refl s, fun _ => rfl⟩
  | cons k l ih =>
    obtain ⟨plans, dom⟩ := ih (s.modLink k fun k => { k with slotsDone := 0, begun := 0 })
    exact ⟨(modLink_plans s k).trans plans, dom⟩

/-- The scrubber of a cluster writes back what waits, and its next reads and writes are planned (R266). -/
def planOne (d t : Nat) (s : State) (n : Nat) : State :=
  ((if (s.clus n).scrub.isEmpty then s else s.scrubWrite n none).post d t phRead 0 (.scrubRead n)).post d (t + 10) phGw 0 (.scrubWrite n)

theorem scrubWrite_plans (s : State) (n : Nat) (waits : (s.clus n).scrub ≠ []) :
    Plans s (s.scrubWrite n none) ∧ ∀ d, (s.scrubWrite n none).domN d = s.domN d := by
  unfold State.scrubWrite
  refine ⟨⟨rfl, fun m => ?_, fun m hm => ?_, fun _ => rfl⟩, fun _ => rfl⟩
  · rw [modCl_clus]
    split
    · next h => rw [h.1]
    · rfl
  · rw [modCl_clus]
    split
    · next h => exact absurd (h.1 ▸ hm) waits
    · rfl

/-- From `s` to `t` effects of one domain are planned, and no other domain changes. -/
structure PlansIn (d : Nat) (s t : State) : Prop extends Plans s t where
  own : t.domN d = { s.domN d with evs := (t.domN d).evs }
  others : ∀ e, e ≠ d → t.domN e = s.domN e

theorem PlansIn.trans (h : PlansIn d s t) (k : PlansIn d t u) : PlansIn d s u where
  toPlans := h.toPlans.trans k.toPlans
  own := by rw [k.own, h.own]
  others e he := (k.others e he).trans (h.others e he)

theorem post_plansIn (s : State) (d t ph rank : Nat) (k : EvK) : PlansIn d s (s.post d t ph rank k) where
  toPlans := modDom_plans s d _
  own := by
    unfold State.post
    rw [modDom_domN]
    split
    · rfl
    · rfl
  others e he := modDom_domN_ne he _

theorem planOne_plansIn (d t : Nat) (s : State) (n : Nat) : PlansIn d s (planOne d t s n) := by
  refine .trans (.trans ?_ (post_plansIn ..)) (post_plansIn ..)
  split
  · exact ⟨.refl s, rfl, fun _ _ => rfl⟩
  · next waits =>
    obtain ⟨plans, dom⟩ := scrubWrite_plans s n (by simpa using waits)
    exact ⟨plans, by rw [dom], fun e _ => dom e⟩

theorem planScrub_plansIn (s : State) (d : Nat) : PlansIn d s (s.planScrub d) := by
  unfold State.planScrub
  split
  · exact ⟨.refl s, rfl, fun _ _ => rfl⟩
  · show PlansIn d s ((s.ofRegion d).foldl (planOne d (s.domN d).nt) s)
    generalize (s.domN d).nt = t
    generalize s.ofRegion d = l
    induction l generalizing s with
    | nil => exact ⟨.refl s, rfl, fun _ _ => rfl⟩
    | cons n l ih => exact (planOne_plansIn d t s n).trans (ih _)

/-- A domain in which a working beat of an invocation that has just begun opens. -/
def firstBeat (bar cycles : Nat) (x : Dom) : Dom :=
  { x with bar, beat := 0, cyc := 0, left := cycles, stalls := 0, stretched := 0, marks := [(x.nt, bar, 0)], words := true }

/-- A domain as it stands before its first beat (R94). -/
structure Fresh (x : Dom) : Prop where
  words : x.words = false
  stopped : x.stopped = false
  marks : x.marks = []
  last : x.last = false

theorem openBeat_fresh (running : s.running = true) (fresh : Fresh (s.domN d)) (hd : d < 10) (bar cycles : Nat) :
    Plans s (s.openBeat d bar 0 cycles) ∧ (∀ e, e ≠ d → (s.openBeat d bar 0 cycles).domN e = s.domN e)
      ∧ (s.openBeat d bar 0 cycles).domN d = { firstBeat bar cycles (s.domN d) with evs := ((s.openBeat d bar 0 cycles).domN d).evs } := by
  obtain ⟨words, stopped, marks, last⟩ := fresh
  have opens : s.openBeat d bar 0 cycles =
      ((if 8 ≤ d then s.newSlots (d - 8) else s).modDom d (firstBeat bar cycles)).planScrub d := by
    have same : (if 8 ≤ d then s.newSlots (d - 8) else s).domN d = s.domN d := by
      split
      · exact (newSlots_plans s _).2 d
      · rfl
    unfold State.openBeat
    dsimp only
    rw [running, stopped, words, marks, if_neg (by decide), if_neg (by decide), if_neg (by simp)]
    refine congrArg (fun u => State.planScrub u d) (modDom_congr ?_)
    rw [same]
    simp only [last, marks, firstBeat, List.take_nil, Bool.false_eq_true, ↓reduceIte]
  have slots : Plans s (if 8 ≤ d then s.newSlots (d - 8) else s) ∧ ∀ e, (if 8 ≤ d then s.newSlots (d - 8) else s).domN e = s.domN e := by
    split
    · exact newSlots_plans s _
    · exact ⟨.refl s, fun _ => rfl⟩
  obtain ⟨slots, dom⟩ := slots
  rw [opens]
  generalize (if 8 ≤ d then s.newSlots (d - 8) else s) = u at slots dom
  have planned := planScrub_plansIn (u.modDom d (firstBeat bar cycles)) d
  refine ⟨(slots.trans (modDom_plans u d _)).trans planned.toPlans, fun e he => ?_, ?_⟩
  · rw [planned.others e he, modDom_domN_ne he, dom]
  · rw [planned.own, modDom_domN, if_pos ⟨rfl, hd⟩, dom]

/-- The first beat of an invocation opens in a domain, with the nominal cycles of the setting (R47; log 101). -/
def openFirst (s : State) (d : Nat) : State := s.openBeat d s.beat.bar.toNat 0 (nominal s.beat.setting.toNat)

/-- The first beat opens in the domains below a number, one after another. -/
theorem openFirst_below (running : s.running = true) (fresh : ∀ d, d < 10 → Fresh (s.domN d)) (k : Nat) (hk : k ≤ 10) :
    let t := (List.range k).foldl openFirst s
    Plans s t ∧ (∀ e, k ≤ e → t.domN e = s.domN e)
      ∧ ∀ e, e < k → t.domN e = { firstBeat s.beat.bar.toNat (nominal s.beat.setting.toNat) (s.domN e) with evs := (t.domN e).evs } := by
  induction k with
  | zero => exact ⟨.refl s, fun _ _ => rfl, fun e he => absurd he (Nat.not_lt_zero e)⟩
  | succ k ih =>
    obtain ⟨plans, ahead, done⟩ := ih (Nat.le_of_succ_le hk)
    rw [List.range_succ, List.foldl_append, List.foldl_cons, List.foldl_nil]
    generalize (List.range k).foldl openFirst s = u at plans ahead done
    have beat : u.beat = s.beat := by rw [plans.eq]
    have goes : u.running = true := by
      unfold State.running at running ⊢
      rw [plans.eq]
      exact running
    obtain ⟨more, others, own⟩ := openBeat_fresh goes (by rw [ahead k (Nat.le_refl k)]; exact fresh k hk) hk u.beat.bar.toNat (nominal u.beat.setting.toNat)
    rw [beat, ahead k (Nat.le_refl k)] at own
    unfold openFirst
    rw [beat] at more others ⊢
    refine ⟨plans.trans more, fun e he => ?_, fun e he => ?_⟩
    · exact (others e (by omega)).trans (ahead e (by omega))
    · by_cases last : e = k
      · rw [last]
        exact own
      · rw [others e last]
        exact done e (by omega)

end

/-! ## The beginning of an invocation (R94, R251, R574, R655) -/

section
variable {s : State}

/-- The sequencers of both dies fetch the records of the first beat (R96). -/
theorem fetchBeats_fetch (h : s.bankErr = []) :
    let t := (s.fetchBeat 0).fetchBeat 1
    t = { s with dom := t.dom, bankUse := t.bankUse, counters := t.counters } ∧ ∀ e, t.domN e = { s.domN e with buffer := (t.domN e).buffer } := by
  have first := fetchBeat_fetches h 0
  have clean : (s.fetchBeat 0).bankErr = [] := by
    rw [first.eq]
    exact h
  have second := fetchBeat_fetches clean 1
  refine ⟨second.eq.trans (by rw [first.eq]), fun e => ?_⟩
  dsimp only
  by_cases die1 : e = 8 + 1
  · rw [die1, second.own, first.others _ (by decide)]
  · rw [second.others e die1]
    by_cases die0 : e = 8 + 0
    · rw [die0]
      exact first.own
    · rw [first.others e die0]

/-- The invocation has begun, and the sequencers have fetched the records of the first beat. -/
@[irreducible] def begun (s : State) : State := (s.beginInvocation.fetchBeat 0).fetchBeat 1

theorem begun_spec (h : s.bankErr = []) :
    (begun s = { s.beginInvocation with dom := (begun s).dom, bankUse := (begun s).bankUse, counters := (begun s).counters })
    ∧ ∀ e, (begun s).domN e = { s.beginInvocation.domN e with buffer := ((begun s).domN e).buffer } := by
  unfold begun
  exact fetchBeats_fetch (s := s.beginInvocation) h

theorem beginInvocation_domN (s : State) {d : Nat} (hd : d < 10) : s.beginInvocation.domN d = s.freshDom s.beat.bar.toNat (s.domN d) := by
  unfold State.domN State.beginInvocation
  rw [dif_pos hd, dif_pos hd, Vector.getElem_map]

theorem beginInvocation_clus (s : State) {n : Nat} (hn : n < 48) : s.beginInvocation.clus n = s.freshCluster n (s.clus n) := by
  unfold State.clus State.beginInvocation
  rw [dif_pos hn, dif_pos hn, Vector.getElem_ofFn]
  rfl

theorem beginInvocation_link (s : State) {l : Nat} (hl : l < 16) : s.beginInvocation.link l = (s.link l).fresh := by
  unfold State.link State.beginInvocation
  rw [dif_pos hl, dif_pos hl, Vector.getElem_map]

/-- A domain as the invocation begins, before its first beat (R91, R94, R655). -/
theorem begun_domN (h : s.bankErr = []) {d : Nat} (hd : d < 10) : (begun s).domN d
    = { s.freshDom s.beat.bar.toNat (s.domN d) with buffer := ((begun s).domN d).buffer } := by
  rw [(begun_spec h).2, beginInvocation_domN s hd]

theorem begun_fresh (h : s.bankErr = []) {d : Nat} (hd : d < 10) : Fresh ((begun s).domN d) := by
  rw [begun_domN h hd]
  exact ⟨rfl, rfl, rfl, rfl⟩

/-- The first beats are open. -/
@[irreducible] def opened (s : State) : State := (List.range 10).foldl openFirst (begun s)

theorem opened_spec (h : s.bankErr = []) : Plans (begun s) (opened s) ∧ ∀ d, d < 10 → ∃ buffer evs, (opened s).domN d
    = { firstBeat s.beat.bar.toNat (nominal s.beat.setting.toNat) (s.freshDom s.beat.bar.toNat (s.domN d)) with buffer, evs } := by
  have running : (begun s).running = true := by
    unfold State.running
    rw [(begun_spec h).1]
    rfl
  have beat : (begun s).beat = s.beat := by
    rw [(begun_spec h).1]
    rfl
  obtain ⟨plans, -, own⟩ := openFirst_below running (fun d hd => begun_fresh h hd) 10 (Nat.le_refl 10)
  have all : opened s = (List.range 10).foldl openFirst (begun s) := by unfold opened; rfl
  rw [← all] at plans own
  refine ⟨plans, fun d hd => ⟨((begun s).domN d).buffer, ((opened s).domN d).evs, ?_⟩⟩
  have opens := own d hd
  rw [beat, begun_domN h hd] at opens
  exact opens

/-- A hold that has not ended stops the domains at once (R61, R64). -/
def heldBack (t : State) : State := if t.beat.holdReq && t.beat.inHold then t.modDoms fun x => { x with stopPend := true } else t

theorem heldBack_fields (t : State) : heldBack t = { t with dom := (heldBack t).dom } := by
  unfold heldBack
  split
  · rfl
  · rfl

theorem heldBack_domN (t : State) (d : Nat) : (heldBack t).domN d = { t.domN d with stopPend := ((heldBack t).domN d).stopPend } := by
  unfold heldBack
  split
  · unfold State.domN State.modDoms
    by_cases hd : d < 10
    · simp only [hd, ↓reduceDIte, Vector.getElem_map]
    · simp only [hd, ↓reduceDIte]
  · rfl

/-- Whether an armed routine begins at the present boundary (R574). -/
def begins (s : State) : Bool := s.rt.runState == 1 && s.beat.locked && s.beat.order == 0 && s.beat.beat == 0 && s.beat.bar.toNat == s.rt.armedBar

theorem exec_routineBegin (s : State) : exec .routineBegin s = .next (s.after (if begins s then heldBack (opened s) else s)) := by
  have opens : openFirst = fun s d => s.openBeat d s.beat.bar.toNat 0 (nominal s.beat.setting.toNat) := rfl
  show execRoutineBegin s = _
  unfold execRoutineBegin heldBack opened begun
  rw [commit_eq, opens]
  unfold begins
  split
  · rfl
  · rfl

/-- From `s` to `t` domains, clusters, links and the books of bank memory change. -/
structure Starts (s t : State) : Prop where
  eq : t = { s with dom := t.dom, cl := t.cl, links := t.links, bankUse := t.bankUse, counters := t.counters }

theorem Starts.trans {s t u : State} (h : Starts s t) (k : Starts t u) : Starts s u := ⟨k.eq.trans (by rw [h.eq])⟩

/-- The state after the beginning, apart from domains, clusters and links. -/
theorem begins_fields (h : s.bankErr = []) : Starts s.beginInvocation (heldBack (opened s)) := by
  have fetched : Starts s.beginInvocation (begun s) := ⟨(begun_spec h).1.trans (by rw [(begun_spec h).1])⟩
  have planned : Starts (begun s) (opened s) := ⟨(opened_spec h).1.eq.trans (by rw [(opened_spec h).1.eq])⟩
  have held : Starts (opened s) (heldBack (opened s)) := ⟨(heldBack_fields _).trans (by rw [heldBack_fields (opened s)])⟩
  exact (fetched.trans planned).trans held

theorem begins_clus (h : s.bankErr = []) {n : Nat} (hn : n < 48) :
    let c := (heldBack (opened s)).clus n
    c = { s.freshCluster n (s.clus n) with floor := c.floor, scrub := c.scrub, upsets := c.upsets }
      ∧ ((s.clus n).scrub = [] → c = s.freshCluster n (s.clus n)) := by
  have own : (heldBack (opened s)).clus n = (opened s).clus n := by rw [heldBack_fields]; rfl
  have from_ : (begun s).clus n = s.freshCluster n (s.clus n) := by
    rw [← beginInvocation_clus s hn, (begun_spec h).1]
    rfl
  have plans := (opened_spec h).1
  dsimp only
  rw [own]
  refine ⟨(plans.clus n).trans (by rw [from_]), fun idle => ?_⟩
  rw [plans.clean n, from_]
  rw [from_]
  unfold State.freshCluster
  dsimp only
  rw [idle]
  rfl

theorem begins_link (h : s.bankErr = []) {l : Nat} (hl : l < 16) :
    let k := (heldBack (opened s)).link l
    k = { (s.link l).fresh with slotsDone := k.slotsDone, begun := k.begun } := by
  have own : (heldBack (opened s)).link l = (opened s).link l := by rw [heldBack_fields]; rfl
  have from_ : (begun s).link l = (s.link l).fresh := by
    rw [← beginInvocation_link s hl, (begun_spec h).1]
    rfl
  dsimp only
  rw [own]
  exact ((opened_spec h).1.link l).trans (by rw [from_])

theorem begins_caller (h : s.bankErr = []) (w : Nat) : (heldBack (opened s)).caller w = {} := by
  have eq := (begins_fields h).eq
  unfold State.caller
  split
  · next hw =>
    rw [(begins_clus h hw).1]
    rfl
  · rw [eq]
    unfold State.beginInvocation
    split
    · next hw => exact Vector.getElem_replicate hw
    · rfl

/-- Settles O44: at the beginning the fresh state and the first beats, at the end what closing the last bars leaves. -/
theorem routineBeginsAndEnds : Obligations.RoutineBeginsAndEnds := by
  refine ⟨fun s => ⟨fun waits => ?_, fun armed locked order beat bar clean => ?_⟩,
    fun s => ⟨fun idle => ?_, fun running quiet => ⟨fun pending => ?_, fun done => ?_⟩⟩⟩
  · have not_yet : begins s = false := by
      unfold begins
      refine Bool.eq_false_iff.2 fun all => ?_
      simp only [Bool.and_eq_true, beq_iff_eq] at all
      obtain ⟨⟨⟨⟨armed, locked⟩, order⟩, beat⟩, bar⟩ := all
      obtain h | h | h | h | h := waits
      · exact h armed
      · exact absurd locked (by simp [h])
      · exact h order
      · exact h beat
      · exact h bar
    rw [exec_routineBegin, not_yet]
    rfl
  · have now : begins s = true := by
      unfold begins
      simp [armed, locked, order, beat, bar]
    have eq := (begins_fields clean).eq
    refine ⟨heldBack (opened s), by rw [exec_routineBegin, now]; rfl, ?_, ?_, ?_, ?_, ?_, ?_, ?_, ?_, begins_caller clean, fun n hn => ?_, fun d hd => ?_,
      fun l hl => ?_⟩
    · rw [eq]; rfl
    · rw [eq]; rfl
    · rw [eq]; exact bar
    · rw [eq]; rfl
    · rw [eq]; rfl
    · rw [eq]; rfl
    · rw [eq]; rfl
    · rw [eq]; rfl
    · obtain ⟨own, floor⟩ := begins_clus clean hn
      refine ⟨?_, ?_, ?_, ?_, ?_, ?_, ?_, fun idle a => ?_⟩
      · rw [own]; rfl
      · rw [own]; rfl
      · rw [own]; rfl
      · rw [own]; rfl
      · rw [own]; rfl
      · rw [own]; rfl
      · rw [own]; rfl
      · rw [floor idle]
        exact readByte_filter (fun k => s.keepsByte n k) _ a
    · obtain ⟨buffer, evs, own⟩ := (opened_spec clean).2 d hd
      rw [heldBack_domN, own, ← bar]
      exact ⟨rfl, rfl, rfl, rfl, rfl, rfl, rfl, rfl, rfl⟩
    · rw [begins_link clean hl]
      exact ⟨rfl, rfl, rfl, rfl⟩
  · show execRoutineEnd s = _
    unfold execRoutineEnd
    rw [idle]
    rfl
  · rw [exec_routineEnd_quiet running quiet, if_pos pending]
    rfl
  · obtain ⟨left, reported⟩ := routine_ends running
    refine ⟨_, by rw [exec_routineEnd_quiet running quiet, if_neg (by rw [done]; decide)], left.running, reported, left.acks,
      left.bulks, left.busy, fun n hn => ?_⟩
    rw [left.clus hn]
    exact ⟨rfl, rfl, rfl, rfl⟩

end

end Sys2Proof.Proofs.Invocations
end

section
/-! The refutation of O57: a LOAD whose image cannot be read stops a snapshot that is in progress. -/

namespace Sys2Proof.Proofs.Loads

open Sys2Proof Sys2Proof.Machine Sys2Proof.Laws

/-- A module at rest in whose snapshot chunks are still to write, and whose first burst of bank memory, where a LOAD looks for its image, holds two wrong
symbols: no read decodes it (R443, R650). -/
def unreadableImage : State :=
  { State.reset with
    pow := { State.reset.pow with bringup := 7 }
    beat := { State.reset.beat with locked := true, valid := 8, order := 0 }
    snap := { State.reset.snap with status := 1, action := 1 }
    bankErr := [(0, { stored := 3 })] }

/-- The LOAD is accepted: it meets neither a routine nor another load (R114, R573). -/
theorem unreadableImage_accepts_load :
    unreadableImage.pow.on = true ∧ unreadableImage.loadOk = true ∧ unreadableImage.loadBusy = false ∧ unreadableImage.snap.action = 1 := by decide

theorem exec_load_accepted {s : State} (on : s.pow.on = true) (ok : s.loadOk = true) : exec (.load 0) s = .next (s.after s.loadCmd) := by
  have accepted : (s.pow.on && decide ((0 : BitVec 32) = 0) && s.loadOk) = true := by simp [on, ok]
  show execLoad 0 s = _
  unfold execLoad
  rw [if_pos accepted, commit_eq]

/-- The read of the image raises a module fault (R445), which stops the snapshot (R639): it is INTERRUPTED, and nothing of it is in progress. -/
theorem loadCmd_stops_snapshot : unreadableImage.loadCmd.snap.status = 3 ∧ unreadableImage.loadCmd.snap.action = 0 := by decide

/-- What O57 says of an accepted LOAD while no routine runs: of the snapshot it makes void what could be resumed, and no more. -/
theorem loadCmd_snap_of_obligation (h : Obligations.LoadsFaultsAndSnapshots) {s : State} (on : s.pow.on = true) (ok : s.loadOk = true)
    (idle : s.loadBusy = false) : s.loadCmd.snap = { s.snap with resumable := false, stopped := false } := by
  obtain ⟨-, load, -⟩ := h s 0 { slot := 0, off := 0, data := [] }
  obtain ⟨t, j, loads, -, -, -, -, -, voided, -⟩ := (load on rfl ok).2 idle
  rw [exec_load_accepted on ok] at loads
  exact (congrArg State.snap (Host.Outcome.next.inj loads)).trans voided

/-- Refutes O57: an accepted LOAD does more to the snapshot than to make it void, where the granules of the image cannot be read: the module fault of
that read ends the snapshot in progress, of which the statement says that it goes on. -/
theorem not_loadsFaultsAndSnapshots : ¬ Obligations.LoadsFaultsAndSnapshots := by
  intro h
  obtain ⟨on, ok, idle, writes⟩ := unreadableImage_accepts_load
  have goes_on : unreadableImage.loadCmd.snap.action = 1 := by
    rw [loadCmd_snap_of_obligation h on ok idle]
    exact writes
  exact absurd (goes_on.symm.trans loadCmd_stops_snapshot.2) (by decide)

end Sys2Proof.Proofs.Loads
end

section
/-! The proof of O7: TICKET clears operand tickets of its cluster, STEP moves the entries of its amax store. -/

namespace Sys2Proof.Proofs.Tickets

open Sys2Proof Sys2Proof.Machine Sys2Proof.Laws Sys2Proof.Proofs.Callers Sys2Proof.Proofs.Queues

/-! ## Operand tickets (R143, R144) -/

section
variable {s t u : State} {n : Fin 48}

theorem getLsbD_one_shiftLeft (t i : Nat) : ((1 : BitVec 32) <<< t).getLsbD i = decide (i < 32 ∧ i = t) := by
  rw [BitVec.getLsbD_shiftLeft, BitVec.ofNat_eq_ofNat, BitVec.getLsbD_one, Bool.eq_iff_iff]
  simp only [Bool.and_eq_true, decide_eq_true_eq, Bool.not_eq_true', decide_eq_false_iff_not]
  omega

/-- A ticket that is set reads set. -/
theorem setTicket_ticket (s : State) (n : Fin 48) {k : Nat} (hk : k < 32) : ((s.setTicket n k).clus n).ticket k = true := by
  unfold State.setTicket Cluster.ticket
  rw [modCl_clus_self, BitVec.getLsbD_or, BitVec.natCast_eq_ofNat, BitVec.getLsbD_ofNat, Nat.one_shiftLeft, Nat.testBit_two_pow_self,
    decide_eq_true hk, Bool.true_and, Bool.or_true, Bool.or_true]

/-- A clear reaches its own ticket, and never T0. -/
theorem clearTicket_ticket (s : State) (n : Fin 48) (k i : Nat) :
    ((s.clearTicket n k).clus n).ticket i = ((s.clus n).ticket i && !(i == k && i != 0)) := by
  unfold State.clearTicket Cluster.ticket
  rw [modCl_clus_self]
  by_cases zero : i = 0
  · simp [zero]
  · have one : (1 : BitVec 32).getLsbD i = false := by
      rw [BitVec.ofNat_eq_ofNat, BitVec.getLsbD_one, decide_eq_false zero, Bool.and_false]
    rw [BitVec.getLsbD_or, BitVec.getLsbD_and, BitVec.getLsbD_not, getLsbD_one_shiftLeft, one, Bool.eq_iff_iff]
    have small : (s.clus n).tickets.getLsbD i = true → i < 32 := BitVec.lt_of_getLsbD
    simp only [Bool.or_eq_true, Bool.and_eq_true, beq_iff_eq, zero]
    grind

/-- From `s` to `t` the tickets of one cluster change. -/
structure TicketsOnly (n : Nat) (s t : State) : Prop where
  own : t.clus n = { s.clus n with tickets := (t.clus n).tickets }
  rest : s.sameButCluster t n

theorem TicketsOnly.refl (n : Nat) (s : State) : TicketsOnly n s s := ⟨rfl, rfl, fun _ _ => rfl⟩

theorem TicketsOnly.trans (h : TicketsOnly n s t) (k : TicketsOnly n t u) : TicketsOnly n s u where
  own := k.own.trans (by rw [h.own])
  rest := ⟨k.rest.1.trans (by rw [h.rest.1]), fun m hm => (k.rest.2 m hm).trans (h.rest.2 m hm)⟩

theorem clearTicket_only (s : State) (n : Fin 48) (k : Nat) : TicketsOnly n s (s.clearTicket n k) where
  own := by
    unfold State.clearTicket
    rw [modCl_clus_self]
  rest := modCl_same s n _

/-- Clears the tickets of a list that a mask names. -/
def clearNamed (n mask : Nat) (l : List Nat) (s : State) : State :=
  l.foldl (fun (s : State) k => if mask.testBit k then s.clearTicket n k else s) s

theorem clearNamed_cons (n mask k : Nat) (l : List Nat) (s : State) :
    clearNamed n mask (k :: l) s = clearNamed n mask l (if mask.testBit k then s.clearTicket n k else s) := rfl

theorem clearNamed_only (n : Fin 48) (mask : Nat) (l : List Nat) (s : State) : TicketsOnly n s (clearNamed n mask l s) := by
  induction l generalizing s with
  | nil => exact .refl n s
  | cons k l ih =>
    rw [clearNamed_cons]
    refine .trans ?_ (ih _)
    split
    · exact clearTicket_only s n k
    · exact .refl n s

theorem clearNamed_ticket (n : Fin 48) (mask : Nat) (l : List Nat) (s : State) (i : Nat) :
    ((clearNamed n mask l s).clus n).ticket i = ((s.clus n).ticket i && !(l.contains i && mask.testBit i && i != 0)) := by
  induction l generalizing s with
  | nil => simp [clearNamed]
  | cons k l ih =>
    rw [clearNamed_cons, ih, List.contains_cons]
    by_cases named : mask.testBit k = true
    · rw [if_pos named, clearTicket_ticket]
      grind
    · rw [if_neg named]
      grind

/-- The cluster has 32 tickets. -/
theorem ticket_lt {c : Cluster} {i : Nat} (h : c.ticket i = true) : i < 32 := by
  unfold Cluster.ticket at h
  obtain h | h := Bool.or_eq_true_iff.1 h
  · rw [beq_iff_eq] at h
    omega
  · exact BitVec.lt_of_getLsbD h

end

/-! ## STEP (R227, R231) -/

/-- An amax slot whose current entry has moved into a history entry. -/
def movedOn (m : Nat) (a : AmaxSlot) : AmaxSlot := { a with cur := 0, hist := if h : m < 16 then a.hist.set m a.cur else a.hist }

theorem entry_movedOn (a : AmaxSlot) {m h : Nat} (hm : m < 16) (hh : h < 16) :
    (movedOn m a).entry h = if h = m then a.cur else a.entry h := by
  have place : h % 16 = h := Nat.mod_eq_of_lt hh
  unfold AmaxSlot.entry movedOn
  simp only [place, hh, hm, ↓reduceDIte, Vector.getElem_set, eq_comm]

theorem setStep_same {c : Cluster} {v : BitVec 32} (h : v = c.stepReg) : c.setStep v = c := if_pos h

theorem setStep_changed {c : Cluster} {v : BitVec 32} (h : v ≠ c.stepReg) :
    c.setStep v = { c with stepReg := v, amax := c.amax.map (Option.map (movedOn (c.stepReg.toNat % 16))) } := if_neg h

theorem setStep_fields (c : Cluster) (v : BitVec 32) :
    (c.setStep v).stepReg = v ∧ c.setStep v = { c with stepReg := v, amax := (c.setStep v).amax } := by
  by_cases h : v = c.stepReg
  · rw [setStep_same h, h]
    exact ⟨rfl, rfl⟩
  · rw [setStep_changed h]
    exact ⟨rfl, rfl⟩

theorem amaxSlot_map (c : Cluster) (g : AmaxSlot → AmaxSlot) (v : BitVec 32) (k : Nat) :
    Cluster.amaxSlot { c with stepReg := v, amax := c.amax.map (Option.map g) } k = (c.amaxSlot k).map g := by
  unfold Cluster.amaxSlot
  split
  · rw [Vector.getElem_map]
  · rfl

/-! ## TICKET and STEP (R144, R227, R390, R391) -/

section
variable {s q : State} {x : Ctx} {n : Fin 48} {c : Cw}

theorem pushTicket_of_accepts (h : s.accepts (.ticket n c) q x) : q.pushTicket n x c = clearNamed n (f0 c 31 0) (List.range 32) q := by
  unfold State.pushTicket
  dsimp only
  rw [show firstReason (ticketReasons q n x c) = none from accepted_reason rfl h, judge_none]
  rfl

/-- The mask of a TICKET that is not skipped leaves T0 out (R143, R390). -/
theorem ticket_mask_even (h : s.accepts (.ticket n c) q x) : (f0 c 31 0).testBit 0 = false := by
  have fields : (f0 c 47 32 != 0 || f0 c 31 0 % 2 != 0) = false := accepted_not_applies rfl h (r := rField) (by simp [ticketReasons])
  simpa [Nat.testBit_zero] using (Bool.or_eq_false_iff.1 fields).2

theorem pushTicket_ticket (h : s.accepts (.ticket n c) q x) (i : Nat) :
    ((q.pushTicket n x c).clus n).ticket i = ((q.clus n).ticket i && !(f0 c 31 0).testBit i) := by
  rw [pushTicket_of_accepts h, clearNamed_ticket]
  cases set : (q.clus n).ticket i with
  | false => rfl
  | true =>
    have listed : (List.range 32).contains i = true := by simpa using ticket_lt set
    rw [listed, Bool.true_and]
    by_cases zero : i = 0
    · simp [zero, ticket_mask_even h]
    · simp [zero]

theorem pushStep_of_accepts (h : s.accepts (.stepCmd n c) q x) : q.pushStep n x c = q.modCl n fun k =>
    k.setStep (if f0 c 47 47 = 1 then k.stepReg + 1 else BitVec.ofNat 32 (f1 c 31 0)) := by
  unfold State.pushStep
  dsimp only
  rw [show firstReason (stepReasons q n x c) = none from accepted_reason rfl h, judge_none]
  simp only [beq_iff_eq]

end

/-- Settles O7: TICKET is a fold of clears, of which none names T0; STEP is a change of the STEP register, with which the bound slots move on. -/
theorem ticketAndStepCommands : Obligations.TicketAndStepCommands := by
  intro s q x n c
  refine ⟨fun h => ⟨_, push_ticket h, pushTicket_ticket h, ?_, ?_⟩, fun h => ⟨_, push_stepCmd h, ?_⟩⟩
  · rw [pushTicket_ticket h, ticket_mask_even h, Bool.not_false, Bool.and_true]
  · rw [pushTicket_of_accepts h]
    obtain ⟨own, rest⟩ := clearNamed_only n (f0 c 31 0) (List.range 32) q
    exact ⟨own, rest⟩
  · rw [pushStep_of_accepts h, modCl_clus_self]
    generalize (if f0 c 47 47 = 1 then (q.clus n).stepReg + 1 else BitVec.ofNat 32 (f1 c 31 0)) = v
    obtain ⟨value, frame⟩ := setStep_fields (q.clus n) v
    refine ⟨value, fun same => ?_, fun changed k a bound => ?_, ?_, modCl_same ..⟩
    · rw [setStep_same (value.symm.trans same)]
    · rw [value] at changed
      have place : (q.clus n).stepReg.toNat % 16 < 16 := Nat.mod_lt _ (by decide)
      refine ⟨movedOn ((q.clus n).stepReg.toNat % 16) a, ?_, rfl, ?_, fun h hh other => ?_, rfl, rfl, rfl⟩
      · rw [setStep_changed changed, amaxSlot_map, bound, Option.map_some]
      · rw [entry_movedOn a place place, if_pos rfl]
      · rw [entry_movedOn a place hh, if_neg other]
    · rw [value]
      exact frame

end Sys2Proof.Proofs.Tickets
end

section
/-! The proof of O33: what the effects of the drain, the vector engine, the amax store, COUNT, the arrivals and ROTATE leave. -/

namespace Sys2Proof.Proofs.EngineEffects

open Sys2Proof Sys2Proof.Machine Sys2Proof.Laws Sys2Proof.Proofs.HostService Sys2Proof.Proofs.EventRows Sys2Proof.Proofs.Issue
  Sys2Proof.Proofs.Callers Sys2Proof.Proofs.Queues Sys2Proof.Proofs.EngineQueues Sys2Proof.Proofs.Tickets

/-! ## An effect that is due takes place (R63; log 2) -/

section
variable {s : State} {n : Fin 48} {e : Ev}

/-- The state in which the next effect of a cluster's region acts. -/
abbrev taken (s : State) (n : Fin 48) : State := s.takeNext (s.regionOf n)

/-- The row of an effect of a cluster lets it take place where it is the next one due in its region. -/
theorem exec_nextDue {i : Instr} {r : EventRow} {k : EvK} (row : eventRowOf i = some r) (region : r.dom s = s.regionOf n)
    (cluster : r.lc = some n.val) (runs : r.runs s = true) (offered : n.val < s.lcMax) (next : s.nextDue (s.regionOf n) e) (kind : e.k = k)
    (own : r.own s k = true) (done : r.done s k = true) : exec i s = .next (s.after ((taken s n).runEv (s.regionOf n) e.t k)) := by
  subst kind
  have offers : s.offersRow r := fun m hm => by
    rw [cluster] at hm
    cases hm
    exact offered
  rw [← region] at next ⊢
  have acts := ((eventRowsHappen.1 s i r row).2 offers runs).2 e next own done
  rw [acts, region]

/-- Where the next effect due is an arrival, it takes place, in step time or in a stop (R63). -/
theorem exec_granuleArrival_next {k : Nat} (offered : n.val < s.lcMax) (next : s.nextDue (s.regionOf n) e) {a : EvK} (kind : e.k = a)
    (own : arrivalAt n a = true) : exec (.granuleArrival n true k) s = .next (s.after ((taken s n).runEv (s.regionOf n) e.t a)) := by
  subst kind
  cases stopped : (s.domN (s.regionOf n)).stopped with
  | false => exact exec_nextDue (i := .granuleArrival n true k) rfl rfl rfl (by simp [stopped]) offered next rfl own own
  | true =>
    obtain ⟨head, -⟩ := due_head next.1
    have found : (s.domN (s.regionOf n)).evs.find? (fun e => arrivalAt n e.k) = some e := by
      rw [head, List.find?_cons_of_pos (p := fun e : Ev => arrivalAt n e.k) own]
    rw [(eventRowsHappen.2 s n k offered stopped).2 e found]
    have erased : s.modDom (s.regionOf n) (fun d => { d with evs := d.evs.erase e }) = taken s n := modDom_congr (by
      rw [head, List.erase_cons_head, List.tail_cons])
    rw [erased]

end

/-! ## Drain deliveries and bands (R140, R144, R191) -/

section
variable {s : State} {n : Fin 48}

theorem ticket_zero (c : Cluster) : c.ticket 0 = true := rfl

/-- The end of a command that names a ticket: T0, which always reads set, or a ticket that is set now. -/
theorem ticket_at_end (s : State) (n : Fin 48) {k : Nat} (hk : k < 32) : ((if k = 0 then s else s.setTicket n k).clus n).ticket k = true := by
  split
  · next zero => rw [zero, ticket_zero]
  · exact setTicket_ticket s n hk

theorem deliver_ticket {d : Delivery} (t : Nat) (last : d.final = true) (hk : d.dr.tkt < 32) :
    ((s.deliver n t d).clus n).ticket d.dr.tkt = true := by
  unfold State.deliver
  obtain ⟨⟨a, b⟩, sa, sb⟩ := d.parts
  dsimp only
  rw [last, Bool.true_and]
  split
  · exact setTicket_ticket _ n hk
  · next zero =>
    rw [bne_iff_ne, not_not] at zero
    rw [zero, ticket_zero]

theorem bandOut_ticket {o : BandOut} (t : Nat) (hk : o.tkt < 32) : ((s.bandOut n t o).clus n).ticket o.tkt = true := ticket_at_end _ n hk

theorem cntLand_ticket {j : CountJob} (t c : Nat) (hk : j.tkt < 32) : ((s.cntLand n t j c 0).clus n).ticket j.tkt = true := by
  unfold State.cntLand
  rw [if_neg (by simp)]
  exact ticket_at_end _ n hk

end

/-! ## Figures and FTLOAD (R180, R194) -/

section
variable {s : State} {n : Fin 48}

theorem endFigure_figs (t : Nat) (f : Fig) (deps : List (Nat × Bool)) (amax : BitVec 16) :
    ∀ g ∈ ((s.endFigure n t f deps amax).clus n).vx.figs, g.id ≠ f.id := by
  unfold State.endFigure State.modVx
  dsimp only
  rw [modCl_clus_self]
  intro g hg
  simpa using (List.mem_filter.1 hg).2

/-- The last vector of a MERGE figure ends it. -/
theorem landMerge_last {f : Fig} {v : Nat} (t : Nat) (segs : List Bytes) (last : v + 1 = f.job.v) :
    ∃ u : State, s.landMerge n t f v segs = u.endFigure n t f [] 0 := by
  unfold State.landMerge
  generalize mergeVec (segs.getD 0 []) (segs.getD 1 []) (if (v + 1 == f.job.v) = true then f.job.lastN else 64) = merged
  obtain ⟨ws, flags⟩ := merged
  dsimp only
  rw [if_pos (beq_iff_eq.2 last)]
  exact ⟨_, rfl⟩

/-- The last vector of a figure ends it. -/
theorem figLand_last {id v : Nat} {f : Fig} (t : Nat) (found : (s.clus n).vx.figs.find? (·.id == id) = some f) (last : v + 1 = f.job.v) :
    ∃ (u : State) (deps : List (Nat × Bool)) (amax : BitVec 16), s.figLand n t id v = u.endFigure n t f deps amax := by
  unfold State.figLand
  rw [found]
  by_cases merge : f.job.xmode = 2
  · obtain ⟨u, ends⟩ := landMerge_last (s := s) (n := n) t (segBytes (f.segs v) ((tGet f.xin v).getD [])) last
    exact ⟨u, [], 0, (if_pos merge).trans ends⟩
  · exact ⟨_, _, _, (if_neg merge).trans (if_pos (beq_iff_eq.2 last))⟩

theorem figLand_last_figs {id v : Nat} {f : Fig} (t : Nat) (found : (s.clus n).vx.figs.find? (·.id == id) = some f) (last : v + 1 = f.job.v) :
    ∀ g ∈ ((s.figLand n t id v).clus n).vx.figs, g.id ≠ id := by
  have named : f.id = id := by simpa using List.find?_some found
  obtain ⟨u, deps, amax, ends⟩ := figLand_last (s := s) (n := n) t found last
  rw [ends, ← named]
  exact endFigure_figs t f deps amax

/-- A vector engine whose queue has given its head to an FTLOAD of `m` entries at a stamp. -/
def ftloading (t m : Nat) (rest : List (Ctx × VxCmd)) (c : Cluster) : Cluster := { c with vx := { c.vx with q := rest, free := t + (m + 15) / 16 } }

/-- An FTLOAD that starts leaves the queue and reads its first entries at its start. -/
theorem figStart_ftload {x : Ctx} {first m src st t : Nat} {rest : List (Ctx × VxCmd)} (head : (s.clus n).vx.q = (x, .ftload first m src) :: rest)
    (start : (s.clus n).vx.startAt x = some st) (reached : st ≤ t) :
    (s.figStart n t).clus n = ftloading t m rest (s.clus n)
      ∧ { t, ph := phRead, rank := 1, mover := false, k := .ftRead n first m src x } ∈ ((s.figStart n t).domN (s.regionOf n)).evs := by
  have starts : s.figStart n t = (((s.modVx n fun v => { v with q := rest }).modVx n fun v => { v with free := t + (m + 15) / 16 }).post
      (s.regionOf n) t phRead 1 (.ftRead n first m src x)).schedVx n := by
    unfold State.figStart
    dsimp only
    rw [head]
    dsimp only
    rw [start]
    dsimp only
    rw [if_neg (Nat.not_lt.2 reached)]
    rfl
  rw [starts]
  constructor
  · rw [schedVx_clus, post_clus]
    unfold State.modVx
    rw [modCl_clus_self, modCl_clus_self]
    rfl
  · exact (schedVx_files rfl).kept _ (mem_post_evs _ (regionOf_lt s n) ..) rfl

end

/-! ## Records of the amax store (R229, R230) -/

section
variable {s : State} {n : Fin 48} {k : Nat} {a : AmaxSlot} {r : Bytes} {x : Ctx}

theorem leNat_lt (bs : Bytes) : leNat bs < 256 ^ bs.length := by
  induction bs with
  | nil => exact Nat.one_pos
  | cons b bs ih =>
    have byte := b.isLt
    rw [leNat, List.length_cons, Nat.pow_succ]
    omega

theorem recField_lt (r : Bytes) (off n : Nat) : recField r off n < 256 ^ n :=
  Nat.lt_of_lt_of_le (leNat_lt _) (Nat.pow_le_pow_right (by decide) (List.length_take_le ..))

/-- The tensor that a record names is the one of a slot. -/
theorem recTensor_eq_iff (r : Bytes) (a : AmaxSlot) : BitVec.ofNat 32 (recField r 0 4) = a.tensor ↔ a.tensor.toNat = recField r 0 4 := by
  have small : recField r 0 4 < 2 ^ 32 := recField_lt r 0 4
  rw [← BitVec.toNat_inj, BitVec.toNat_ofNat, Nat.mod_eq_of_lt small, eq_comm]

theorem amaxSlot_lt {c : Cluster} (bound : c.amaxSlot k = some a) : k < 32 := by
  by_contra large
  unfold Cluster.amaxSlot at bound
  rw [dif_neg large] at bound
  cases bound

theorem amaxSlot_setAmax (c : Cluster) (hk : k < 32) (v : Option AmaxSlot) : (c.setAmax k v).amaxSlot k = v := by
  unfold Cluster.amaxSlot Cluster.setAmax
  rw [dif_pos hk, vmod_get _ _ _ _ hk, if_pos rfl]

theorem entry_merge (a b : AmaxSlot) (h : Nat) : (a.merge b).entry h = max16 (a.entry h) (b.entry h) := by
  have place : h % 16 < 16 := Nat.mod_lt _ (by decide)
  unfold AmaxSlot.merge AmaxSlot.entry
  rw [dif_pos place, dif_pos place, dif_pos place, Vector.getElem_zipWith]

theorem amaxTake_merge_same (bound : (s.clus n).amaxSlot k = some a) (tensor : a.tensor.toNat = recField r 0 4) :
    s.amaxTake n k true r x = s.modCl n fun c => c.setAmax k (some (a.merge (amaxOf r))) := by
  unfold State.amaxTake
  rw [if_pos rfl, bound]
  exact if_pos ((recTensor_eq_iff r a).2 tensor)

theorem amaxTake_merge_other (bound : (s.clus n).amaxSlot k = some a) (tensor : a.tensor.toNat ≠ recField r 0 4) :
    s.amaxTake n k true r x = s.count 0x9002 1 1 := by
  unfold State.amaxTake
  rw [if_pos rfl, bound]
  exact if_neg fun same => tensor ((recTensor_eq_iff r a).1 same)

theorem amaxTake_merge_unbound (free : (s.clus n).amaxSlot k = none) : s.amaxTake n k true r x = s := by
  unfold State.amaxTake
  rw [if_pos rfl, free]

theorem amaxTake_load (ok : amaxOk r = true) : s.amaxTake n k false r x = s.modCl n fun c => c.setAmax k (some (amaxOf r)) := if_pos ok

theorem amaxTake_refused (bad : amaxOk r = false) : s.amaxTake n k false r x = s.skipLog x rRange (s.locLc n 0 0) := by
  unfold State.amaxTake
  rw [if_neg Bool.false_ne_true, bad, if_neg Bool.false_ne_true]

theorem exec_amaxRecordArrival {e : Ev} {merge : Bool} {addr : Nat} (offered : n.val < s.lcMax) (next : s.nextDue (s.regionOf n) e)
    (kind : e.k = .amaxGot n k merge addr (some r) x) :
    exec (.amaxRecordArrival n) s = .next (s.after ((taken s n).amaxTake n k merge r x)) :=
  exec_nextDue rfl rfl rfl rfl offered next kind (by simp [clusterRow]) (by simp [clusterRow])

theorem skipLog_skips_le (s : State) (x : Ctx) (reason loc : Nat) : (s.skipLog x reason loc).skips.length ≤ s.skips.length + 1 := by
  unfold State.skipLog
  dsimp only
  split
  · exact Nat.le_refl _
  · exact Nat.le_succ _

end

/-! ## Arrivals and placements (R282, R293) -/

section
variable {s : State} {n : Fin 48} {g : Staged} {t word id : Nat}

theorem settleWait_fields (s : State) (w : Nat) : (s.settleWait w).acks = s.acks ∧ (s.settleWait w).cl = s.cl := by
  unfold State.settleWait
  split
  · exact ⟨rfl, rfl⟩
  · exact ⟨rfl, rfl⟩

theorem settleWait_clus (s : State) (w m : Nat) : (s.settleWait w).clus m = s.clus m := by
  unfold State.clus
  rw [(settleWait_fields s w).2]

theorem easeHolds_spec (s : State) (n : Fin 48) : (s.easeHolds n).acks = s.acks ∧ ((s.easeHolds n).clus n).staging = (s.clus n).staging := by
  unfold State.easeHolds
  dsimp only
  split
  · rw [settleWait_clus, modCl_clus_self, (settleWait_fields _ _).1]
    exact ⟨rfl, rfl⟩
  · exact ⟨rfl, rfl⟩

/-- A hazard is counted under its kind alone (R422). -/
theorem hazard_counter_ne (s : State) (x : Ctx) (kind sub loc other resource : Nat) {k : Nat} (h : k ≠ 0x9006 * 256 + kind) :
    tGet (s.hazard x kind sub loc other resource).counters k = tGet s.counters k := by
  unfold State.hazard
  dsimp only
  split
  · rfl
  · exact counter_count_ne s 0x9006 kind 1 h

/-- Staging takes no granule with this index: it is known, or the half for inbound streams is full (R278, R282). -/
def staysOut (c : Cluster) (g : Staged) : Bool := c.seen g.stream g.index || 2048 ≤ c.used true

theorem arrive_enters (whole : s.isVoid word = false) (room : staysOut (s.clus n) g = false) :
    (s.arrive n t g word id).acks = s.acks ++ [.bulk id n none]
      ∧ ((s.arrive n t g word id).clus n).staging = (s.clus n).staging ++ [g] := by
  have enters : s.arrive n t g word id =
      (State.modCl { s with acks := s.acks ++ [.bulk id n none] } n fun c => { c with staging := c.staging ++ [g] }).easeHolds n := by
    unfold State.arrive
    rw [whole, if_neg Bool.false_ne_true]
    exact if_neg (by rw [show (_ || _) = false from room]; exact Bool.false_ne_true)
  obtain ⟨acks, staging⟩ := easeHolds_spec
    (State.modCl { s with acks := s.acks ++ [.bulk id n none] } n fun c => { c with staging := c.staging ++ [g] }) n
  rw [enters, acks, staging, modCl_clus_self]
  exact ⟨rfl, rfl⟩

theorem arrive_dropped (whole : s.isVoid word = false) (out : staysOut (s.clus n) g = true) :
    (s.arrive n t g word id).acks = s.acks ++ [.bulk id n none]
      ∧ ((s.arrive n t g word id).clus n).staging = (s.clus n).staging
      ∧ (tGet (s.arrive n t g word id).counters (0x9003 * 256 + 4)).getD 0
          = BitVec.ofNat 64 (min (((tGet s.counters (0x9003 * 256 + 4)).getD 0).toNat + 1) (2 ^ 64 - 1)) := by
  have dropped : ∃ x loc other resource, s.arrive n t g word id =
      (State.count { s with acks := s.acks ++ [.bulk id n none] } 0x9003 4 1).hazard x 6 1 loc other resource := by
    unfold State.arrive
    rw [whole, if_neg Bool.false_ne_true]
    exact ⟨_, _, _, _, if_pos out⟩
  obtain ⟨x, loc, other, resource, dropped⟩ := dropped
  rw [dropped]
  refine ⟨rfl, rfl, ?_⟩
  rw [hazard_counter_ne _ _ _ _ _ _ _ (by decide)]
  exact counter_count { s with acks := s.acks ++ [.bulk id n none] } 0x9003 4 1

/-- A placement whose granules are not all in staging tries again in the next mover cycle. -/
theorem rotPlace_waits {q : Rotating} (found : (s.clus n).rotating.find? (·.id == id) = some q) (absent : (s.clus n).rotReady q = false) :
    s.rotPlace n t id 0 = s.postM (s.regionOf n) (t + 1) phGw (1 + q.mover) (.rotPlace n id 0) := by
  unfold State.rotPlace
  rw [found]
  dsimp only
  rw [if_neg (by simp), absent]
  rfl

end

/-! ## The obligation -/

/-- Settles O33: each row lets its effect take place in the state without it (`exec_nextDue`), and each effect has a rule above. -/
theorem engineEffects : Obligations.EngineEffects := by
  intro s n e offered next
  refine ⟨fun d kind => ?_, fun o kind => ?_, fun id v f kind found last => ?_, fun x first m src rest st kind head start reached => ?_,
    fun k merge addr r x a kind bound => ?_, fun k addr r x kind free => ?_, fun j c kind => ?_, fun g word id k kind whole => ?_,
    fun id q kind found absent => ?_⟩
  · have acts := exec_nextDue (i := .drainDelivery n) rfl rfl rfl rfl offered next kind (beq_self_eq_true _) (beq_self_eq_true _)
    exact ⟨_, acts, fun final hk => deliver_ticket e.t final hk⟩
  · have acts := exec_nextDue (i := .figureLanding n) rfl rfl rfl rfl offered next kind (beq_self_eq_true _) (beq_self_eq_true _)
    exact ⟨_, acts, fun hk _ => bandOut_ticket e.t hk⟩
  · have acts := exec_nextDue (i := .figureLanding n) rfl rfl rfl rfl offered next kind (beq_self_eq_true _) (beq_self_eq_true _)
    exact ⟨_, acts, figLand_last_figs e.t found last⟩
  · have acts := exec_nextDue (i := .figureStart n) rfl rfl rfl rfl offered next kind (beq_self_eq_true _) (beq_self_eq_true _)
    obtain ⟨own, reads⟩ := figStart_ftload (s := taken s n) head start reached
    refine ⟨(taken s n).figStart n e.t, acts, ?_⟩
    rw [own]
    exact ⟨rfl, rfl, reads, rfl⟩
  · have acts := exec_amaxRecordArrival offered next kind
    refine ⟨fun merges tensor => ?_, fun merges tensor => ?_, fun loads ok => ?_, fun loads bad => ?_⟩
    · subst merges
      rw [amaxTake_merge_same (s := taken s n) bound tensor] at acts
      refine ⟨_, a.merge (amaxOf r), acts, ?_, rfl, entry_merge a (amaxOf r), rfl⟩
      rw [modCl_clus_self, amaxSlot_setAmax _ (amaxSlot_lt bound)]
    · subst merges
      rw [amaxTake_merge_other (s := taken s n) bound tensor] at acts
      exact ⟨_, acts, bound, counter_count (taken s n) 0x9002 1 1⟩
    · subst loads
      rw [amaxTake_load ok] at acts
      refine ⟨_, acts, ?_⟩
      rw [modCl_clus_self, amaxSlot_setAmax _ (amaxSlot_lt bound)]
    · subst loads
      rw [amaxTake_refused bad] at acts
      exact ⟨_, acts, bound, skipLog_skips_le ..⟩
  · have acts := exec_amaxRecordArrival offered next kind
    rw [amaxTake_merge_unbound (s := taken s n) free] at acts
    exact ⟨_, acts, fun _ => rfl, rfl⟩
  · have acts := exec_nextDue (i := .countResult n) rfl rfl rfl rfl offered next kind (by simp) (by simp)
    exact ⟨_, acts, fun hk _ => cntLand_ticket e.t c hk⟩
  · have acts := exec_granuleArrival_next (k := k) offered next kind (beq_self_eq_true _)
    refine ⟨(taken s n).arrive n e.t g word id, acts, ?_⟩
    cases out : staysOut (s.clus n) g with
    | false =>
      obtain ⟨acks, staging⟩ := arrive_enters (s := taken s n) (t := e.t) (id := id) whole out
      exact ⟨acks, fun _ => staging, fun stays => absurd (out.symm.trans stays) Bool.false_ne_true⟩
    | true =>
      obtain ⟨acks, staging, counted⟩ := arrive_dropped (s := taken s n) (t := e.t) (id := id) whole out
      exact ⟨acks, fun enters => absurd (enters.symm.trans out) Bool.false_ne_true, fun _ => ⟨staging, counted⟩⟩
  · have acts : exec (.rotatePlace n) s = .next (s.after ((taken s n).rotPlace n e.t id 0)) :=
      exec_nextDue rfl rfl rfl rfl offered next kind (by simp) (by simp)
    rw [rotPlace_waits (s := taken s n) found absent] at acts
    exact ⟨_, acts, fun _ => rfl, mem_post_evs _ (regionOf_lt s n) ..⟩

end Sys2Proof.Proofs.EngineEffects
end

section
/-! The proof of O28: a matrix command leaves the queue at its start, and an array that is idle winds down. -/

namespace Sys2Proof.Proofs.MatrixArray

open Sys2Proof Sys2Proof.Machine Sys2Proof.Laws Sys2Proof.Proofs.EventRows Sys2Proof.Proofs.Queues Sys2Proof.Proofs.EngineQueues
  Sys2Proof.Proofs.Tickets Sys2Proof.Proofs.EngineEffects

/-! ## What the start of a matrix command leaves (R144, R376) -/

/-- From `s` to `t` a cluster files effects (`Files`), and its matrix queue, whether that starves, and its floor stay. -/
structure Begins (n d : Nat) (s t : State) : Prop extends Files n d s t where
  q : (t.clus n).mx.q = (s.clus n).mx.q
  starved : (t.clus n).mx.starved = (s.clus n).mx.starved
  floor : (t.clus n).floor = (s.clus n).floor

section
variable {n d : Nat} {s t u : State}

theorem begins_of_clus (h : Files n d s t) (same : t.clus n = s.clus n) : Begins n d s t where
  toFiles := h
  q := by rw [same]
  starved := by rw [same]
  floor := by rw [same]

theorem Begins.refl (n d : Nat) (s : State) : Begins n d s s := begins_of_clus (.refl n d s) rfl

theorem Begins.trans (h : Begins n d s t) (k : Begins n d t u) : Begins n d s u where
  toFiles := h.toFiles.trans k.toFiles
  q := k.q.trans h.q
  starved := k.starved.trans h.starved
  floor := k.floor.trans h.floor

/-- A step that acts in the region of its cluster follows another. -/
theorem Begins.andThen (hs : s.regionOf n = d) (h : Begins n d s t) (k : t.regionOf n = d → Begins n d t u) : Begins n d s u :=
  h.trans (k ((h.regionOf n).trans hs))

theorem Begins.ifThen {c : Prop} [Decidable c] (h : c → Begins n d s t) (k : ¬ c → Begins n d s u) : Begins n d s (if c then t else u) := by
  split
  · next hc => exact h hc
  · next hc => exact k hc

theorem Begins.foldl {α : Type} {f : State → α → State} (hf : ∀ t, t.regionOf n = d → ∀ a, Begins n d t (f t a)) (l : List α)
    (hs : s.regionOf n = d) : Begins n d s (l.foldl f s) := by
  induction l generalizing s with
  | nil => exact .refl n d s
  | cons a l ih =>
    have first := hf s hs a
    exact first.trans (ih ((first.regionOf n).trans hs))

theorem post_begins (h : s.regionOf n = d) (t ph rank : Nat) (k : EvK) : Begins n d s (s.post (s.regionOf n) t ph rank k) := by
  subst h
  exact begins_of_clus (post_files ..) rfl

theorem operands_begins (first last : Nat) (l : List (Nat × Nat)) : Begins n d s (s.operands n first last l) :=
  begins_of_clus (files_of_fields rfl) rfl

theorem hazard_begins (x : Ctx) (kind sub loc other resource : Nat) : Begins n d s (s.hazard x kind sub loc other resource) :=
  begins_of_clus (hazard_files ..) rfl

end

section
variable {n : Fin 48} {d : Nat} {s : State}

theorem modCl_begins {f : Cluster → Cluster}
    (hf : ∀ c, (f c).mx.q = c.mx.q ∧ (f c).mx.starved = c.mx.starved ∧ (f c).floor = c.floor) : Begins n d s (s.modCl n f) where
  toFiles := modCl_files ..
  q := by rw [modCl_clus_self, (hf _).1]
  starved := by rw [modCl_clus_self, (hf _).2.1]
  floor := by rw [modCl_clus_self, (hf _).2.2]

theorem modMx_begins {f : Matrix → Matrix} (hf : ∀ m, (f m).q = m.q ∧ (f m).starved = m.starved) : Begins n d s (s.modMx n f) :=
  modCl_begins fun c => ⟨(hf c.mx).1, (hf c.mx).2, rfl⟩

theorem clearTicket_begins (k : Nat) : Begins n d s (s.clearTicket n k) := modCl_begins fun _ => ⟨rfl, rfl, rfl⟩

theorem schedVx_begins (h : s.regionOf n = d) : Begins n d s (s.schedVx n) := begins_of_clus (schedVx_files h) (schedVx_clus ..)

theorem planVx_begins (h : s.regionOf n = d) (stamps : List Nat) : Begins n d s (s.planVx n stamps) := by
  unfold State.planVx
  refine .andThen h ?_ schedVx_begins
  refine .andThen h ?_ (.foldl (fun _ ht _ => post_begins ht ..) _)
  exact modCl_begins fun _ => ⟨rfl, rfl, rfl⟩

theorem schedMx_begins (h : s.regionOf n = d) : Begins n d s (s.schedMx n) := by
  obtain ⟨ahead, keep, own⟩ := schedMx_clus s n
  exact { toFiles := schedMx_files h, q := by rw [own]; rfl, starved := by rw [own]; rfl, floor := by rw [own]; rfl }

/-- The ports and buffers that a start occupies are none of the queue's. -/
theorem occupied_queue (m : Matrix) (t : Nat) (cmd : MxCmd) : (m.occupied t cmd).q = m.q ∧ (m.occupied t cmd).starved = m.starved := by
  cases cmd with
  | mstream j =>
    unfold Matrix.occupied
    dsimp only
    split
    · exact ⟨rfl, rfl⟩
    · exact ⟨rfl, rfl⟩
  | tload => exact ⟨rfl, rfl⟩
  | mdset => exact ⟨rfl, rfl⟩
  | mdrain => exact ⟨rfl, rfl⟩

/-- An array in which a TLOAD has started at a stamp (R127). -/
def loading (t buf tkt : Nat) (consume : Bool) (fmt scl tile : Nat) (m : Matrix) : Matrix :=
  (m.occupied t (.tload buf tkt consume fmt scl tile)).modTile buf fun b => { b with fmt }

/-- The state in which a TLOAD has taken its ticket, its buffer and the tile port. -/
def tloadBegun (s : State) (n t buf tkt : Nat) (consume : Bool) (fmt scl tile : Nat) : State :=
  ((if consume then s.clearTicket n tkt else s).operands n t (t + 31) [(tile, 65536), (scl, if fmt = 1 then 128 else 64)]).modMx n
    (loading t buf tkt consume fmt scl tile)

theorem startTload_eq (s : State) (n t buf tkt : Nat) (consume : Bool) (fmt scl tile : Nat) (x : Ctx) :
    s.startTload n t buf tkt consume fmt scl tile x =
      let u := tloadBegun s n t buf tkt consume fmt scl tile
      u.post (u.regionOf n) t phRead 0 (.tileRead n buf 0 tile scl x) := rfl

theorem startTload_begins (h : s.regionOf n = d) (t buf tkt : Nat) (consume : Bool) (fmt scl tile : Nat) (x : Ctx) :
    Begins n d s (s.startTload n t buf tkt consume fmt scl tile x) := by
  have cleared : Begins n d s (if consume then s.clearTicket n tkt else s) := .ifThen (fun _ => clearTicket_begins tkt) fun _ => .refl ..
  have begun : Begins n d s (tloadBegun s n t buf tkt consume fmt scl tile) :=
    (cleared.trans (operands_begins ..)).trans (modMx_begins fun _ => ⟨rfl, rfl⟩)
  rw [startTload_eq]
  exact begun.andThen h fun region => post_begins region ..

theorem startStream_begins (h : s.regionOf n = d) (t : Nat) (x : Ctx) (j : MsJob) : Begins n d s (s.startStream n t x j) := by
  subst h
  unfold State.startStream
  refine .trans ?_ (begins_of_clus (post_files ..) rfl)
  refine .andThen rfl ?_ fun region => .ifThen (fun _ => planVx_begins region _) fun _ => .refl ..
  refine .andThen rfl ?_ fun region => .ifThen (fun _ => .foldl (fun _ _ _ => begins_of_clus (post_files ..) rfl) _ region) fun _ => .refl ..
  refine .trans ?_ (modMx_begins fun m => occupied_queue ..)
  refine .trans ?_ (operands_begins ..)
  refine .trans ?_ (.ifThen (fun _ => clearTicket_begins _) fun _ => .refl ..)
  exact .ifThen (fun _ => hazard_begins ..) fun _ => .refl ..

theorem startDrain_begins (h : s.regionOf n = d) (t : Nat) (x : Ctx) (sb p0 k form : Nat) : Begins n d s (s.startDrain n t x sb p0 k form) :=
  .foldl (fun _ ht _ => post_begins ht ..) _ h

/-- The state in which a matrix command that starts at a stamp has left the queue, and its effects are filed. -/
def mxBegun (s : State) (n t : Nat) (x : Ctx) : MxCmd → State
  | .tload buf tkt consume fmt scl tile => s.startTload n t buf tkt consume fmt scl tile x
  | .mstream j => s.startStream n t x j
  | .mdset r => s.modMx n fun m => { m with drain := r }
  | .mdrain sb p0 k form => s.startDrain n t x sb p0 k form

theorem startMx_eq (s : State) (n t : Nat) (x : Ctx) (cmd : MxCmd) : s.startMx n t x cmd = (mxBegun (s.popMx n t) n t x cmd).schedMx n := by
  cases cmd <;> rfl

theorem mxBegun_begins (h : s.regionOf n = d) (t : Nat) (x : Ctx) (cmd : MxCmd) : Begins n d s (mxBegun s n t x cmd) := by
  cases cmd with
  | tload buf tkt consume fmt scl tile => exact startTload_begins h ..
  | mstream j => exact startStream_begins h ..
  | mdset r => exact modMx_begins (f := fun m => { m with drain := r }) fun _ => ⟨rfl, rfl⟩
  | mdrain sb p0 k form => exact startDrain_begins h ..

/-! ## The head leaves the queue (R144, R146) -/

theorem clearCause_clus (s : State) (cause who m : Nat) : (s.clearCause cause who).clus m = s.clus m := rfl

theorem popMx_clus (s : State) (n : Fin 48) (t : Nat) :
    (s.popMx n t).clus n = { s.clus n with mx := { (s.clus n).mx with q := (s.clus n).mx.q.tail, last := t, starved := false } } := by
  unfold State.popMx
  dsimp only
  split
  · exact modCl_clus_self s n _
  · exact modCl_clus_self s n _

theorem popMx_others (s : State) (n : Fin 48) (t : Nat) {m : Nat} (hm : m ≠ n) : (s.popMx n t).clus m = s.clus m := by
  have other : ∀ f, (s.modMx n f).clus m = s.clus m := fun f => (modCl_files n 0 s _).others m hm
  unfold State.popMx
  dsimp only
  split
  · exact (clearCause_clus ..).trans (other _)
  · exact other _

theorem popMx_regionOf (s : State) (n t m : Nat) : (s.popMx n t).regionOf m = s.regionOf m := by
  unfold State.popMx
  dsimp only
  split
  · rfl
  · rfl

/-- A hold for operands that were absent clears where they are at hand (R146). -/
theorem popMx_live (starved : (s.clus n).mx.starved = true) (t : Nat) :
    ∀ l ∈ (s.popMx n t).beat.live, ¬ (l.cause = 3 ∧ l.who = n.val) := by
  unfold State.popMx
  dsimp only
  rw [if_pos starved]
  rintro l hl ⟨cause, who⟩
  simpa [cause, who] using (List.mem_filter.1 hl).2

/-- A command that starts leaves the queue, the array starves no longer, and no byte of a floor changes. -/
theorem startMx_begins (s : State) (n : Fin 48) (t : Nat) (x : Ctx) (cmd : MxCmd) :
    Begins n (s.regionOf n) (s.popMx n t) (s.startMx n t x cmd) := by
  have region := popMx_regionOf s n t n
  rw [startMx_eq]
  exact .andThen region (mxBegun_begins region ..) schedMx_begins

section
variable {t : Nat} {x : Ctx} {cmd : MxCmd} {rest : List (Ctx × MxCmd)}

theorem startMx_spec (queue : (s.clus n).mx.q = (x, cmd) :: rest) :
    let u := s.startMx n t x cmd
    (u.clus n).mx.q = rest ∧ (u.clus n).mx.starved = false ∧ (u.clus n).floor = (s.clus n).floor
      ∧ (∀ m, m ≠ n.val → u.clus m = s.clus m) ∧ u.beat = (s.popMx n t).beat := by
  have begins := startMx_begins s n t x cmd
  refine ⟨?_, ?_, ?_, fun m hm => ?_, ?_⟩
  · rw [begins.q, popMx_clus, queue]
    rfl
  · rw [begins.starved, popMx_clus]
  · rw [begins.floor, popMx_clus]
  · rw [begins.others m hm, popMx_others s n t hm]
  · rw [begins.eq]

/-- The head of the queue starts at its start cycle, with its buffer and port free and its operands at hand (R128, R145). -/
theorem mxStart_starts (queue : (s.clus n).mx.q = (x, cmd) :: rest) (due : (s.clus n).mx.startAt x cmd ≤ t)
    (free : (s.clus n).mx.freeAt cmd ≤ t) (hand : (s.clus n).atHand t false cmd = true) : s.mxStart n t = s.startMx n t x cmd := by
  unfold State.mxStart
  dsimp only
  rw [queue]
  dsimp only
  rw [if_neg (Nat.not_lt.2 due), if_neg (Nat.not_lt.2 free), if_pos hand]

end

/-! ## A TLOAD that has waited (R126-R128) -/

theorem tile_modTile (m : Matrix) (b i : Nat) (f : Tile → Tile) : (m.modTile b f).tile i = if i = b ∧ i < 2 then f (m.tile b) else m.tile i := by
  unfold Matrix.tile Matrix.modTile
  by_cases h : i < 2
  · by_cases e : i = b
    · subst e; simp only [h, ↓reduceDIte, ↓reduceIte, and_self, vmod_get]
    · simp only [h, e, ↓reduceDIte, ↓reduceIte, false_and, vmod_get]
  · simp only [h, ↓reduceDIte, ↓reduceIte, and_false]

section
variable {buf tkt fmt scl tile t : Nat} {consume : Bool}

theorem occupied_tload_tile (m : Matrix) (i : Nat) : (m.occupied t (.tload buf tkt consume fmt scl tile)).tile i =
    if i = buf ∧ i < 2 then { m.tile buf with ready := t + 32 } else m.tile i :=
  tile_modTile { m with last := t } buf i fun b => { b with ready := t + 32 }

/-- The buffer that a TLOAD loads is ready 32 cycles after its start; the other one stays as it is (R126, R127). -/
theorem loading_tile (m : Matrix) (hb : buf < 2) :
    (loading t buf tkt consume fmt scl tile m).tile buf = { m.tile buf with fmt, ready := t + 32 }
      ∧ (loading t buf tkt consume fmt scl tile m).tile (1 - buf) = m.tile (1 - buf) := by
  have other : 1 - buf ≠ buf := by omega
  unfold loading
  constructor
  · rw [tile_modTile, if_pos ⟨rfl, hb⟩, occupied_tload_tile, if_pos ⟨rfl, hb⟩]
  · rw [tile_modTile, if_neg fun h => other h.1, occupied_tload_tile, if_neg fun h => other h.1]

/-- A TLOAD consumes its ticket where it says so, but never T0 (R143, R144). -/
theorem consumed_ticket (s : State) (n : Fin 48) (i : Nat) :
    ((if consume then s.clearTicket n tkt else s).clus n).ticket i = ((s.clus n).ticket i && !(consume && i == tkt && i != 0)) := by
  cases consume with
  | false => simp
  | true =>
    rw [if_pos rfl, clearTicket_ticket, Bool.true_and]

theorem tloadBegun_clus (s : State) : (tloadBegun s n t buf tkt consume fmt scl tile).clus n =
    { s.clus n with
      tickets := ((if consume then s.clearTicket n tkt else s).clus n).tickets
      mx := loading t buf tkt consume fmt scl tile (s.clus n).mx } := by
  have cleared : (if consume then s.clearTicket n tkt else s).clus n
      = { s.clus n with tickets := ((if consume then s.clearTicket n tkt else s).clus n).tickets } := by
    cases consume with
    | false => rfl
    | true => exact (clearTicket_only s n tkt).own
  unfold tloadBegun State.modMx
  rw [modCl_clus_self]
  exact congrArg (fun c : Cluster => { c with mx := loading t buf tkt consume fmt scl tile c.mx }) cleared

/-- What the start of a TLOAD leaves of its array and of the tickets. -/
theorem startMx_tload_spec (s : State) (n : Fin 48) (x : Ctx) (hb : buf < 2) :
    let c := (s.startMx n t x (.tload buf tkt consume fmt scl tile)).clus n
    (c.mx.tile buf).fmt = fmt ∧ (c.mx.tile buf).ready = t + 32 ∧ c.mx.tpFree = t + 32
      ∧ c.mx.tile (1 - buf) = (s.clus n).mx.tile (1 - buf)
      ∧ ∀ i, c.ticket i = ((s.clus n).ticket i && !(consume && i == tkt && i != 0)) := by
  intro c
  have begun : (mxBegun (s.popMx n t) n t x (.tload buf tkt consume fmt scl tile)).clus n = _ := tloadBegun_clus (s.popMx n t)
  obtain ⟨ahead, keep, own⟩ := schedMx_clus (mxBegun (s.popMx n t) n t x (.tload buf tkt consume fmt scl tile)) n
  rw [← startMx_eq, begun] at own
  have mx : c.mx = loading t buf tkt consume fmt scl tile ((s.popMx n t).clus n).mx := congrArg Cluster.mx own
  have tickets : c.tickets = ((if consume then (s.popMx n t).clearTicket n tkt else s.popMx n t).clus n).tickets := by
    rw [show c = _ from own]
    rfl
  have popped := popMx_clus s n t
  have before : ∀ i, ((s.popMx n t).clus n).ticket i = (s.clus n).ticket i := fun i => by rw [popped]; rfl
  obtain ⟨loaded, other⟩ := loading_tile (t := t) (tkt := tkt) (consume := consume) (fmt := fmt) (scl := scl) (tile := tile)
    ((s.popMx n t).clus n).mx hb
  rw [mx, loaded, other, popped]
  refine ⟨rfl, rfl, rfl, rfl, fun i => ?_⟩
  rw [← before, ← consumed_ticket, Cluster.ticket, tickets]
  rfl

end

/-! ## The rows of the table (R128, R146) -/

section
variable {e : Ev} {x : Ctx} {cmd : MxCmd} {rest : List (Ctx × MxCmd)}

/-- The start of the head is the effect that is due in the region. -/
theorem fireCl_mxStart (offered : n.val < s.lcMax) (next : s.nextDue (s.regionOf n) e) (kind : e.k = .mxStart n) :
    s.fireCl n (· == .mxStart n) = (taken s n).mxStart n e.t := by
  have own : (e.k == EvK.mxStart n) = true := by rw [kind]; exact beq_self_eq_true _
  unfold State.fireCl
  rw [if_neg (Nat.not_le.2 offered), fire_next s _ _ _ e next own own, kind]
  rfl

/-- A TLOAD that waits for its buffer or the tile port, or whose start cycle lies behind, starts where that is due. -/
theorem exec_tloadDelayedStart {buf tkt fmt scl tile : Nat} {consume : Bool}
    (queue : (s.clus n).mx.q = (x, .tload buf tkt consume fmt scl tile) :: rest)
    (delayed : (s.clus n).mx.startAt x (.tload buf tkt consume fmt scl tile) < (s.clus n).mx.freeAt (.tload buf tkt consume fmt scl tile)
      ∨ (s.clus n).mx.startAt x (.tload buf tkt consume fmt scl tile) < (s.domN (s.regionOf n)).nt) :
    exec (.tloadDelayedStart n) s = .next (s.after (s.fireCl n (· == .mxStart n))) := by
  show execTloadDelayedStart n s = _
  unfold execTloadDelayedStart
  dsimp only
  rw [queue]
  dsimp only
  rw [if_pos (by simpa using delayed), commit_eq]

theorem exec_matrixOperandsReady_idle (fed : (s.clus n).mx.starved = false) : exec (.matrixOperandsReady n) s = .next s := by
  show execMatrixOperandsReady n s = _
  unfold execMatrixOperandsReady
  rw [if_pos (by simp [fed]), commit_self]

theorem exec_matrixOperandsReady_going (offered : n.val < s.lcMax) (starved : (s.clus n).mx.starved = true)
    (going : (s.domN (s.regionOf n)).stopped = false) :
    exec (.matrixOperandsReady n) s = .next (s.after (s.fireCl n (· == .mxStart n))) := by
  show execMatrixOperandsReady n s = _
  unfold execMatrixOperandsReady
  rw [if_neg (by simp [starved, offered]), if_neg (by simp [going]), commit_eq]

/-- Where the head may start and that is the effect due, it starts in the state without that effect. -/
theorem fireCl_starts (offered : n.val < s.lcMax) (next : s.nextDue (s.regionOf n) e) (kind : e.k = .mxStart n)
    (queue : (s.clus n).mx.q = (x, cmd) :: rest) (due : (s.clus n).mx.startAt x cmd ≤ e.t) (free : (s.clus n).mx.freeAt cmd ≤ e.t)
    (hand : (s.clus n).atHand e.t false cmd = true) : s.fireCl n (· == .mxStart n) = (taken s n).startMx n e.t x cmd := by
  rw [fireCl_mxStart offered next kind]
  exact mxStart_starts (s := taken s n) queue due free hand

end

/-! ## The wind-down (R150-R152) -/

/-- Whether the wind-down leaves a row group on at an idle count: group 7 goes off at 64, and one more every 4 cycles (R151). -/
def groupLeft (count g : Nat) : Bool := decide (g < 8 ∧ count < 64 + 4 * (7 - g))

theorem groupsAt_getLsbD (now : BitVec 8) {idle : Nat} (h : 64 ≤ idle) (g : Nat) :
    (groupsAt now idle).getLsbD g = (now.getLsbD g && groupLeft idle g) := by
  unfold groupsAt groupLeft
  rw [if_neg (Nat.not_lt.2 h), BitVec.getLsbD_and, BitVec.getLsbD_ofNat, Nat.testBit_two_pow_sub_one, ← Bool.decide_and]
  exact congrArg _ (decide_eq_decide.2 (by omega))

/-- Below an idle count of 64 every group is left as it is. -/
theorem groupLeft_early (now : BitVec 8) {idle : Nat} (h : idle < 64) (g : Nat) : now.getLsbD g = (now.getLsbD g && groupLeft idle g) := by
  cases set : now.getLsbD g with
  | false => rfl
  | true =>
    have small := BitVec.lt_of_getLsbD set
    rw [groupLeft, decide_eq_true (by omega), Bool.and_self]

/-- The count that the wind-down in step time goes by: the idle count with the cycles of a stall, or from the 257th cycle of a stall on those after it
(R151, R152). -/
def windCount (idle waited : Nat) : Nat := if 64 ≤ idle then idle + waited else if 256 < waited then 64 + (waited - 257) else idle

/-- The row groups that the wind-down leaves (R151, R152; log 92). -/
def woundGroups (s : State) (n : Nat) : BitVec 8 :=
  let d := s.domN (s.regionOf n)
  let m := (s.clus n).mx
  let idle := m.idle d.nt
  if d.stopped then (if !s.beat.inHold && idle < 64 then m.groups else m.groups >>> 1)
  else if 64 ≤ idle then groupsAt m.groups (idle + d.waited)
  else if 256 < d.waited then groupsAt m.groups (64 + (d.waited - 257))
  else m.groups

theorem woundGroups_going (going : (s.domN (s.regionOf n)).stopped = false) (g : Nat) : (woundGroups s n).getLsbD g =
    ((s.clus n).mx.groups.getLsbD g
      && groupLeft (windCount ((s.clus n).mx.idle (s.domN (s.regionOf n)).nt) (s.domN (s.regionOf n)).waited) g) := by
  unfold woundGroups windCount
  dsimp only
  rw [if_neg (by simp [going])]
  split
  · exact groupsAt_getLsbD _ (by omega) g
  · split
    · exact groupsAt_getLsbD _ (by omega) g
    · exact groupLeft_early _ (by omega) g

theorem windDown_busy (busy : s.arrayBusy n = true) : s.windDown n = s := if_pos busy

/-- An array that is idle changes its row groups and nothing else. -/
theorem windDown_idle (idle : s.arrayBusy n = false) :
    (s.windDown n).clus n = { s.clus n with mx := { (s.clus n).mx with groups := woundGroups s n } }
      ∧ s.sameButCluster (s.windDown n) n := by
  obtain ⟨f, winds, own⟩ : ∃ f, s.windDown n = s.modCl n f
      ∧ f (s.clus n) = { s.clus n with mx := { (s.clus n).mx with groups := woundGroups s n } } := ⟨_, if_neg (by simp [idle]), rfl⟩
  rw [winds, modCl_clus_self]
  exact ⟨own, modCl_same s n f⟩

theorem exec_arrayWindDown_quiet (offered : n.val < s.lcMax) (quiet : s.quiet (s.regionOf n)) :
    exec (.arrayWindDown n) s = .next (s.after (s.windDown n)) := by
  show execArrayWindDown n s = _
  unfold execArrayWindDown
  rw [if_neg (Nat.not_le.2 offered), flush_quiet s _ quiet, commit_eq]

end

/-! ## The obligation -/

/-- Settles O28: a start that is due takes the head out of the queue (`fireCl_starts`), and the wind-down leaves the groups below its count
(`woundGroups_going`). -/
theorem matrixStartsAndWindDown : Obligations.MatrixStartsAndWindDown := by
  refine ⟨fun s n e x rest buf tkt consume fmt scl tile offered queue next kind hb due free hand delayed => ?_,
    fun s n x cmd rest offered queue starved going e next kind due free hand => ?_, fun s n => exec_matrixOperandsReady_idle,
    fun s n offered quiet => ⟨fun busy => ?_, fun resting => ?_⟩⟩
  · have acts := exec_tloadDelayedStart queue delayed
    rw [fireCl_starts offered next kind queue due free hand] at acts
    obtain ⟨left, -, floor, others, -⟩ := startMx_spec (s := taken s n) (t := e.t) queue
    obtain ⟨fmt, ready, port, other, tickets⟩ := startMx_tload_spec (t := e.t) (tkt := tkt) (consume := consume) (fmt := fmt) (scl := scl)
      (tile := tile) (taken s n) n x hb
    exact ⟨_, acts, left, fmt, ready, port, other, tickets, floor, others⟩
  · have acts := exec_matrixOperandsReady_going offered starved going
    rw [fireCl_starts offered next kind queue due free hand] at acts
    obtain ⟨left, fed, floor, -, beat⟩ := startMx_spec (s := taken s n) (t := e.t) queue
    refine ⟨_, acts, left, fed, ?_, floor⟩
    rw [beat]
    exact popMx_live (s := taken s n) starved e.t
  · rw [exec_arrayWindDown_quiet offered quiet, windDown_busy busy]
    exact commit_self s
  · obtain ⟨own, same⟩ := windDown_idle resting
    refine ⟨_, exec_arrayWindDown_quiet offered quiet, fun stopped => ?_, fun going g => ?_, ?_, same⟩
    · rw [own]
      refine (if_pos stopped).trans ?_
      simp only [Bool.and_eq_true, Bool.not_eq_true', decide_eq_true_eq]
    · rw [own]
      exact woundGroups_going going g
    · rw [own]

end Sys2Proof.Proofs.MatrixArray
end

section
/-! The proof of O51: the registers of a function page, doorbells and function-level reset. First what a refused request leaves of the port; then what a
write to each register does to its page; then the rows. -/

namespace Sys2Proof.Proofs.FunctionPages

open Sys2Proof Sys2Proof.Machine Sys2Proof.Laws Sys2Proof.Proofs.HostService Sys2Proof.Proofs.EventRows

/-- A change of the page of one function. -/
theorem modFn_page (s : State) (fn : Fin 64) (g : HostFn → HostFn) :
    (s.modFn fn g).fn fn = g (s.fn fn) ∧ ∀ f, f ≠ fn.val → (s.modFn fn g).fn f = s.fn f :=
  ⟨(modFn_fn ..).trans (if_pos ⟨rfl, fn.isLt⟩), fun _ hf => (modFn_fn ..).trans (if_neg fun h => hf h.1)⟩

/-! ## What a refused request leaves of the port (R518, R528, R534) -/

section
variable (s : State)

/-- Doorbells that wait have no part in an event for a function. -/
theorem hostEvent_bells (f kind source d0 d1 : Nat) : (s.hostEvent f kind source d0 d1).port.bells = s.port.bells := by
  unfold State.hostEvent
  dsimp only
  split_ifs <;> rfl

/-- A change of a page that clears no bit of HIF_ERR. -/
theorem modFn_err {t : State} (pages : ∀ m, t.fn m = s.fn m) (f : Nat) (g : HostFn → HostFn) (hg : ∀ h, ∃ e, (g h).err = h.err ||| e) (m : Nat) :
    ∃ e, ((t.modFn f g).fn m).err = (s.fn m).err ||| e := by
  rw [modFn_fn, pages, pages]
  split
  · next h => exact h.1 ▸ hg _
  · exact ⟨0, (BitVec.or_zero ..).symm⟩

theorem hostPut_fn (a : Nat) (bs : Bytes) (m : Nat) : (s.hostPut a bs).fn m = s.fn m := rfl

/-- An event clears no bit of HIF_ERR; where its queue is full it sets one (R528). -/
theorem hostEvent_err (f kind source d0 d1 m : Nat) : ∃ e, ((s.hostEvent f kind source d0 d1).fn m).err = (s.fn m).err ||| e := by
  have kept : ∃ e, (s.fn m).err = (s.fn m).err ||| e := ⟨0, (BitVec.or_zero ..).symm⟩
  unfold State.hostEvent
  dsimp only
  split
  · exact kept
  · split
    · exact kept
    · split
      · exact modFn_err s (fun _ => rfl) f (fun g => { g with err := g.err ||| 8 }) (fun _ => ⟨8, rfl⟩) m
      · refine modFn_err s (t := s.hostPut _ _) (hostPut_fn s _ _) f _ ?_ m
        exact fun _ => ⟨0, BitVec.or_zero.symm⟩

/-- A recorded event (R528, R529, R640): doorbells wait as before, no bit of HIF_ERR is cleared, and the virtual functions' pages are as they were. -/
theorem event_port (cause loc : Nat) (detail : Bytes) :
    let t := s.event cause loc detail
    t.port.bells = s.port.bells ∧ (∀ m, ∃ e, (t.fn m).err = (s.fn m).err ||| e) ∧ ∀ m, m ≠ 0 → t.fn m = s.fn m :=
  ⟨hostEvent_bells .., hostEvent_err _ 0 7 0 s.errSeq.toNat 0, (errLog_tells s 0 cause loc s.nowCtx loc detail).pages⟩

/-- The bit of HIF_ERR by which a refused request is told (R518, R534). -/
def refusalBit (noIde : Bool) : BitVec 6 := if noIde then 32 else 1

/-- The state of a refused request before its event is recorded. -/
def refusalNoted (s : State) (fn : Nat) (noIde : Bool) : State :=
  (s.modFn fn fun g => { g with err := g.err ||| refusalBit noIde }).count 0x9009 1 1

theorem hostRefused_event (fn : Nat) (noIde : Bool) (addr : Nat) :
    ∃ detail, s.hostRefused fn noIde addr = (refusalNoted s fn noIde).event 0x83 locPcie detail := ⟨_, rfl⟩

theorem refusalNoted_fn (fn : Fin 64) (noIde : Bool) :
    (refusalNoted s fn noIde).fn fn = { s.fn fn with err := (s.fn fn).err ||| refusalBit noIde } :=
  (modFn_page s fn _).1

variable (fn : Fin 64) (noIde : Bool) (addr : Nat)

/-- A refused request leaves the doorbells that wait, sets its bit of HIF_ERR and clears none. -/
theorem hostRefused_noted : (s.hostRefused fn noIde addr).port.bells = s.port.bells
    ∧ ∃ e, ((s.hostRefused fn noIde addr).fn fn).err = (s.fn fn).err ||| refusalBit noIde ||| e := by
  obtain ⟨detail, eq⟩ := hostRefused_event s fn noIde addr
  obtain ⟨bells, errs, -⟩ := event_port (refusalNoted s fn noIde) 0x83 locPcie detail
  obtain ⟨e, err⟩ := errs fn
  rw [eq]
  exact ⟨bells, e, err.trans (by rw [refusalNoted_fn])⟩

variable {fn}

/-- The page of a virtual function that is refused changes in its bit of HIF_ERR alone: the event goes to the physical function (R529). -/
theorem hostRefused_page (virtual : fn ≠ 0) :
    (s.hostRefused fn noIde addr).fn fn = { s.fn fn with err := (s.fn fn).err ||| refusalBit noIde } := by
  obtain ⟨detail, eq⟩ := hostRefused_event s fn noIde addr
  obtain ⟨-, -, pages⟩ := event_port (refusalNoted s fn noIde) 0x83 locPcie detail
  rw [eq, pages fn fun h => virtual (Fin.ext h), refusalNoted_fn]

end

/-! ## A write to MBX (R526, R527) -/

section
variable {s : State} {fn : Nat}

/-- With GO a request is submitted where none is open and its length is legal. -/
theorem mbxWrite_submits {v : Nat} (go : bit v 29 = true) (idle : (s.fn fn).busy = false) (least : 1 ≤ v % 2 ^ 13) (most : v % 2 ^ 13 ≤ 4096) :
    s.mbxWrite fn v =
      let t := s.modFn fn fun g => { g with reqLen := BitVec.ofNat 13 (v % 2 ^ 13), busy := true, done := false }
      { t with port := { t.port with mail := s.port.mail ++ [(fn, s.port.bells.length)] } } := by
  have fits : ((s.fn fn).busy || v % 2 ^ 13 = 0 || 4096 < v % 2 ^ 13) = false := by
    simp only [idle, Bool.false_or, Bool.or_eq_false_iff, decide_eq_false_iff_not]
    omega
  exact (if_pos go).trans (if_neg (Bool.eq_false_iff.1 fits))

/-- GO is refused while a request is open, or of a length that is not legal. -/
theorem mbxWrite_refuses {v : Nat} (go : bit v 29 = true) (bad : (s.fn fn).busy = true ∨ v % 2 ^ 13 = 0 ∨ 4096 < v % 2 ^ 13) :
    s.mbxWrite fn v = s.modFn fn fun g => { g with err := g.err ||| 16 } := by
  have refused : ((s.fn fn).busy || v % 2 ^ 13 = 0 || 4096 < v % 2 ^ 13) = true := by
    simpa only [Bool.or_eq_true, decide_eq_true_eq, or_assoc] using bad
  exact (if_pos go).trans (if_pos refused)

theorem mbxWrite_length {v : Nat} (stays : bit v 29 = false) :
    s.mbxWrite fn v = s.modFn fn fun g => { g with reqLen := BitVec.ofNat 13 (v % 2 ^ 13) } := if_neg (Bool.eq_false_iff.1 stays)

end

section
variable (v : Nat)

/-- What MBX_GO writes: the value with GO. -/
theorem bit_withGo : bit (v ||| 2 ^ 29) 29 = true := by
  rw [bit, Nat.testBit_or, Nat.testBit_two_pow_self, Bool.or_true]

theorem length_withGo : (v ||| 2 ^ 29) % 2 ^ 13 = v % 2 ^ 13 := by
  rw [Nat.or_mod_two_pow]
  exact Nat.or_zero _

variable {v}

theorem withGo_eq_self (go : bit v 29 = true) : v ||| 2 ^ 29 = v := by
  refine Nat.eq_of_testBit_eq fun i => ?_
  by_cases at_go : 29 = i
  · have set : v.testBit 29 = true := go
    rw [Nat.testBit_or, ← at_go, set, Bool.true_or]
  · rw [Nat.testBit_or, Nat.testBit_two_pow_of_ne at_go, Bool.or_false]

end

/-! ## A write to each register of a page (R216, R524, R526) -/

section
variable {s : State} {fn off v : Nat}

theorem regWrite_hifErr : s.regWrite fn 0x0010 v = s.modFn fn fun g => { g with err := g.err &&& ~~~(BitVec.ofNat 6 v) } := rfl

theorem regWrite_mbx : s.regWrite fn 0x0100 v = s.mbxWrite fn v := rfl

theorem regWrite_eqBase : s.regWrite fn 0x0200 v =
    s.modFn fn fun g => if g.enable then g else { g with eqBase := BitVec.ofNat 64 (v / 4096 * 4096), eqSet := true } := rfl

theorem regWrite_eqHead : s.regWrite fn 0x0210 v = s.modFn fn fun g => { g with head := BitVec.ofNat 16 v } := rfl

theorem regWrite_request (above : 0x1000 ≤ off) (below : off < 0x2000) :
    s.regWrite fn off v = s.modFn fn fun g => { g with req := writeMem g.req (off - 0x1000) (leBytes 8 v) } := by
  unfold State.regWrite
  iterate 6 rw [if_neg (by omega)]
  exact if_pos (by simp only [above, below, decide_true, Bool.and_self])

/-- A vector engine whose sticky flags are cleared by the ones of a value written to its status (R216). -/
def clearSticky (v : Nat) (x : Vx) : Vx := { x with sticky := x.sticky &&& ~~~(BitVec.ofNat 5 (v / 128)) }

theorem regWrite_vxStatus {n : Nat} (listed : n < 48) : s.regWrite 0 (0x01000000 + 65536 * n) v = s.modVx n (clearSticky v) := by
  unfold State.regWrite
  iterate 6 rw [if_neg (by omega)]
  rw [if_neg (by simp only [Bool.and_eq_true, decide_eq_true_eq]; omega),
    if_pos (by simp only [Bool.and_eq_true, decide_eq_true_eq, true_and]; omega)]
  rw [show (0x01000000 + 65536 * n - 0x01000000) / 65536 = n by omega]
  rfl

/-- A register that only reads, or no register. -/
theorem regWrite_readOnly (other : off = 0x0000 ∨ off = 0x0008 ∨ off = 0x0218 ∨ (0x2000 ≤ off ∧ (off < 0x01000000 ∨ fn ≠ 0))) :
    s.regWrite fn off v = s := by
  unfold State.regWrite
  iterate 6 rw [if_neg (by omega)]
  rw [if_neg (by simp only [Bool.and_eq_true, decide_eq_true_eq]; omega), if_neg (by simp only [Bool.and_eq_true, decide_eq_true_eq]; omega)]

end

/-! ## The rows of a function page -/

/-- A command rewrites the page of a function, its write completes, and nothing else changes. -/
def Rewrites (s : State) (fn : Fin 64) (i : Instr) (h : HostFn) : Prop :=
  ∃ t, exec i s = .next (s.after t) ∧ t.fn fn = h ∧ (∀ f, f ≠ fn.val → t.fn f = s.fn f) ∧ t.port.cpl = .written
    ∧ t = { s with port := { s.port with fns := t.port.fns, cpl := .written } }

/-- The writes that go to a function's page. -/
def PageWrite (fn : Fin 64) (off : Nat) (v : BitVec 64) (ide : Bool) (i : Instr) : Prop :=
  i = .windowBase fn v ide ∨ i = .mbxGo fn v ide ∨ i = .eqCtrl fn v ide ∨ i = .registerWrite fn off v ide

section
variable {s : State} {fn : Fin 64} {ide : Bool} {i : Instr}

theorem exec_pageWrite {off : Nat} {v : BitVec 64} (h : PageWrite fn off v ide i) :
    ∃ act, ∀ s, exec i s = .next (s.after (s.onPage fn ide act)) := by
  obtain rfl | rfl | rfl | rfl := h
  · exact ⟨_, fun _ => rfl⟩
  · exact ⟨_, fun _ => rfl⟩
  · exact ⟨_, fun _ => rfl⟩
  · exact ⟨_, fun _ => rfl⟩

variable {act : State → State}

theorem onPage_down (down : s.portUp = false) : s.onPage fn ide act = s := if_pos (by simp [down])

theorem onPage_refused (up : s.portUp = true) (refused : s.pageRefused fn ide = true) :
    s.onPage fn ide act = (s.hostRefused fn true 0).complete .dropped := (if_neg (by simp [up])).trans (if_pos refused)

theorem onPage_granted (up : s.portUp = true) (granted : s.pageRefused fn ide = false) :
    s.onPage fn ide act = (act s).complete .written := (if_neg (by simp [up])).trans (if_neg (Bool.eq_false_iff.1 granted))

/-- The physical function's own page is never refused (R534). -/
theorem virtual_of_pageRefused (refused : s.pageRefused fn ide = true) : fn ≠ 0 := by
  rintro rfl
  exact Bool.noConfusion refused

/-- A row that changes the page of its function rewrites it. -/
theorem rewrites_of_modFn {f : HostFn → HostFn} (row : exec i s = .next (s.after ((s.modFn fn f).complete .written))) :
    Rewrites s fn i (f (s.fn fn)) :=
  have ⟨own, others⟩ := modFn_page s fn f
  ⟨_, row, own, others, rfl, rfl⟩

end

/-! ## Writes that the port takes -/

section
variable {s : State} {fn : Fin 64} {ide : Bool} (up : s.portUp = true) (granted : s.pageRefused fn ide = false) (v : BitVec 64)
include up granted

theorem exec_windowBase : exec (.windowBase fn v ide) s = .next (s.after ((s.windowWrite fn v.toNat).complete .written)) :=
  congrArg (commit s) (onPage_granted up granted)

theorem exec_mbxGo : exec (.mbxGo fn v ide) s = .next (s.after ((s.mbxWrite fn (v.toNat ||| 2 ^ 29)).complete .written)) :=
  congrArg (commit s) (onPage_granted up granted)

theorem exec_eqCtrl : exec (.eqCtrl fn v ide) s = .next (s.after ((s.eqWrite fn v.toNat).complete .written)) :=
  congrArg (commit s) (onPage_granted up granted)

theorem exec_registerWrite {off : Nat} (aligned : off % 8 = 0) :
    exec (.registerWrite fn off v ide) s = .next (s.after ((s.regWrite fn off v.toNat).complete .written)) :=
  (congrArg (commit s) (onPage_granted up granted)).trans (by rw [if_pos aligned]; rfl)

theorem exec_registerWrite_misaligned {off : Nat} (misaligned : off % 8 ≠ 0) :
    exec (.registerWrite fn off v ide) s = .next (s.after (s.complete .written)) :=
  (congrArg (commit s) (onPage_granted up granted)).trans (by rw [if_neg misaligned]; rfl)

/-- MBX_GO submits a request (R527). -/
theorem mbxGo_submits (idle : (s.fn fn).busy = false) (least : 1 ≤ v.toNat % 2 ^ 13) (most : v.toNat % 2 ^ 13 ≤ 4096) :
    ∃ t, exec (.mbxGo fn v ide) s = .next (s.after t)
      ∧ t.fn fn = { s.fn fn with reqLen := BitVec.ofNat 13 (v.toNat % 2 ^ 13), busy := true, done := false } ∧ (∀ f, f ≠ fn.val → t.fn f = s.fn f)
      ∧ t = { s with port := { s.port with fns := t.port.fns, cpl := .written, mail := s.port.mail ++ [(fn.val, s.port.bells.length)] } } := by
  have row := exec_mbxGo up granted v
  rw [mbxWrite_submits (bit_withGo _) idle (by rwa [length_withGo]) (by rwa [length_withGo]), length_withGo] at row
  obtain ⟨own, others⟩ := modFn_page s fn fun g => { g with reqLen := BitVec.ofNat 13 (v.toNat % 2 ^ 13), busy := true, done := false }
  exact ⟨_, row, own, others, rfl⟩

theorem mbxGo_refuses (bad : (s.fn fn).busy = true ∨ v.toNat % 2 ^ 13 = 0 ∨ 4096 < v.toNat % 2 ^ 13) :
    Rewrites s fn (.mbxGo fn v ide) { s.fn fn with err := (s.fn fn).err ||| 16 } := by
  have row := exec_mbxGo up granted v
  rw [mbxWrite_refuses (bit_withGo _) (by rwa [length_withGo])] at row
  exact rewrites_of_modFn row

/-- A write to MBX with GO is MBX_GO (R526, R527). -/
theorem registerWrite_go (go : v.getLsbD 29 = true) : exec (.registerWrite fn 0x0100 v ide) s = exec (.mbxGo fn v ide) s := by
  rw [exec_registerWrite up granted v rfl, exec_mbxGo up granted v, withGo_eq_self go, regWrite_mbx]

theorem registerWrite_rewrites {off : Nat} {f : HostFn → HostFn} (aligned : off % 8 = 0) (write : s.regWrite fn off v.toNat = s.modFn fn f) :
    Rewrites s fn (.registerWrite fn off v ide) (f (s.fn fn)) :=
  rewrites_of_modFn ((exec_registerWrite up granted v aligned).trans (by rw [write]))

/-- A write to a register that only reads, or to no register, completes and changes nothing (R524). -/
theorem registerWrite_readOnly {off : Nat}
    (other : off % 8 ≠ 0 ∨ off = 0x0000 ∨ off = 0x0008 ∨ off = 0x0218 ∨ (0x2000 ≤ off ∧ (off < 0x01000000 ∨ fn ≠ 0))) :
    exec (.registerWrite fn off v ide) s = .next (s.after (s.complete .written)) := by
  by_cases aligned : off % 8 = 0
  · rw [exec_registerWrite up granted v aligned, regWrite_readOnly]
    simpa only [ne_eq, Fin.val_eq_zero_iff] using other.resolve_left (absurd aligned)
  · exact exec_registerWrite_misaligned up granted v aligned

end

/-- The physical function clears the flags of a vector engine's status (R216). -/
theorem registerWrite_vxStatus {s : State} {ide : Bool} {n : Nat} (v : BitVec 64) (up : s.portUp = true) (listed : n < 48) :
    ∃ t, exec (.registerWrite 0 (0x01000000 + 65536 * n) v ide) s = .next (s.after t)
      ∧ (t.clus n).vx = { (s.clus n).vx with sticky := (s.clus n).vx.sticky &&& ~~~(BitVec.ofNat 5 (v.toNat / 128)) }
      ∧ t.clus n = { s.clus n with vx := (t.clus n).vx } ∧ (∀ m, m ≠ n → t.clus m = s.clus m)
      ∧ t = { s with cl := t.cl, port := { s.port with cpl := .written } } := by
  have row := exec_registerWrite (fn := 0) (ide := ide) (off := 0x01000000 + 65536 * n) up rfl v (by omega)
  rw [show ((0 : Fin 64) : Nat) = 0 from rfl, regWrite_vxStatus listed] at row
  have own : (s.modVx n (clearSticky v.toNat)).clus n = { s.clus n with vx := clearSticky v.toNat (s.clus n).vx } :=
    (modCl_clus ..).trans (if_pos ⟨rfl, listed⟩)
  obtain ⟨-, others⟩ := modCl_same s n fun c => { c with vx := clearSticky v.toNat c.vx }
  have vx : ((s.modVx n (clearSticky v.toNat)).clus n).vx = clearSticky v.toNat (s.clus n).vx := congrArg Cluster.vx own
  refine ⟨_, row, vx, ?_, others, rfl⟩
  show (s.modVx n (clearSticky v.toNat)).clus n = { s.clus n with vx := ((s.modVx n (clearSticky v.toNat)).clus n).vx }
  rw [vx, own]

/-! ## Doorbells and function-level reset (R515, R530) -/

section
variable {s : State} {fn : Fin 64} {off : Nat} {w : BitVec 32} {ide : Bool} {requester : BitVec 16}

theorem exec_doorbellWrite (up : s.portUp = true) :
    exec (.doorbellWrite fn off w ide requester) s = .next (s.after (s.ringBell fn off w ide requester)) := congrArg (commit s) (if_pos up)

theorem exec_doorbellWrite_down (down : s.portUp = false) : exec (.doorbellWrite fn off w ide requester) s = .next s :=
  congrArg (commit s) (if_neg (Bool.eq_false_iff.1 down))

theorem ringBell_joins (ide_ok : s.noIde fn ide = false) (aligned : off % 8 = 0) (inside : off < 512) : s.ringBell fn off w ide requester =
    { s with port := { s.port with bells := s.port.bells ++ [{ fn := fn, ring := off / 8, v := w, requester }] } } :=
  (if_neg (Bool.eq_false_iff.1 ide_ok)).trans (if_pos (by simp [aligned, inside]))

theorem ringBell_ignored (ide_ok : s.noIde fn ide = false) (outside : off % 8 ≠ 0 ∨ 512 ≤ off) : s.ringBell fn off w ide requester = s :=
  (if_neg (Bool.eq_false_iff.1 ide_ok)).trans (if_neg (by simp only [Bool.and_eq_true, decide_eq_true_eq]; omega))

theorem ringBell_refused (ide_missing : s.noIde fn ide = true) :
    s.ringBell fn off w ide requester = (s.hostRefused fn true 0).complete .dropped := if_pos ide_missing

theorem exec_functionLevelReset_down (down : s.portUp = false) : exec (.functionLevelReset fn) s = .next s :=
  congrArg (commit s) (if_neg (Bool.eq_false_iff.1 down))

/-- A function-level reset returns the page of the function to reset and discards its request (R515). -/
theorem functionLevelReset_resets (up : s.portUp = true) : ∃ t, exec (.functionLevelReset fn) s = .next (s.after t) ∧ t.fn fn = {}
    ∧ (∀ f, f ≠ fn.val → t.fn f = s.fn f)
    ∧ t = { s with port := { s.port with fns := t.port.fns, mail := s.port.mail.filter fun e => e.1 != fn.val } } :=
  have ⟨own, others⟩ := modFn_page s fn fun _ => {}
  ⟨_, congrArg (commit s) (if_pos up), own, others, rfl⟩

end

/-! ## Requests that the port does not take (R534, R615) -/

/-- No command of the port has an effect while the port is down (R615). -/
theorem exec_down {s : State} {fn : Fin 64} {off : Nat} {v : BitVec 64} {w : BitVec 32} {ide : Bool} {requester : BitVec 16} {i : Instr}
    (down : s.portUp = false)
    (h : PageWrite fn off v ide i ∨ i = .doorbellWrite fn off w ide requester ∨ i = .functionLevelReset fn) : exec i s = .next s := by
  obtain page | rfl | rfl := h
  · obtain ⟨act, row⟩ := exec_pageWrite page
    rw [row, onPage_down down]
    exact commit_self s
  · exact exec_doorbellWrite_down down
  · exact exec_functionLevelReset_down down

/-- A write to a virtual function's page outside an IDE stream that is required is dropped, and noted in HIF_ERR (R534). -/
theorem pageWrite_dropped {s : State} {fn : Fin 64} {off : Nat} {v : BitVec 64} {ide : Bool} {i : Instr} (up : s.portUp = true)
    (refused : s.pageRefused fn ide = true) (h : PageWrite fn off v ide i) :
    ∃ t, exec i s = .next (s.after t) ∧ t.port.cpl = .dropped ∧ t.fn fn = { s.fn fn with err := (s.fn fn).err ||| 32 } := by
  obtain ⟨act, row⟩ := exec_pageWrite h
  have drops : exec i s = .next (s.after ((s.hostRefused fn true 0).complete .dropped)) := (row s).trans (by rw [onPage_refused up refused])
  exact ⟨_, drops, rfl, hostRefused_page s true 0 (virtual_of_pageRefused refused)⟩

/-! ## The obligation -/

/-- Settles O51: every write to a page goes through `State.onPage`, so where it is taken it is the model's write to that register (`rewrites_of_modFn`),
and where it is refused the page of a virtual function changes in HIF_ERR alone (`hostRefused_page`). -/
theorem functionPages : Obligations.FunctionPages := by
  intro s fn off v w ide requester g page
  refine ⟨fun down i h => ?down, fun up => ⟨fun refused i h => ?dropped, fun granted => ⟨⟨mbxGo_submits up granted v, mbxGo_refuses up granted v⟩,
    ?order, ?window, ?control, ?mailbox, ?base, ?vx, registerWrite_readOnly up granted v, ?errors, ?head, fun above below aligned => ?request⟩,
    fun ide_ok aligned inside => ?bell, fun ide_ok outside => ?noBell, fun ide_missing => ?refusedBell, functionLevelReset_resets up⟩⟩
  case down =>
    refine exec_down (fn := fn) (off := off) (v := v) (w := w) (ide := ide) (requester := requester) down ?_
    simpa only [PageWrite, or_assoc] using h
  case dropped =>
    obtain ⟨t, row, dropped, own⟩ := pageWrite_dropped up refused h
    exact ⟨t, row, dropped, by rw [own], by rw [own], by rw [own], by rw [own]⟩
  case order => exact rewrites_of_modFn (exec_eqCtrl up granted v)
  case window =>
    rintro rfl
    exact (exec_registerWrite up granted v rfl).trans (exec_windowBase up granted v).symm
  case control =>
    rintro rfl
    exact (exec_registerWrite up granted v rfl).trans (exec_eqCtrl up granted v).symm
  case mailbox =>
    rintro rfl
    exact ⟨registerWrite_go up granted v, fun stays => registerWrite_rewrites up granted v rfl (regWrite_mbx.trans (mbxWrite_length stays))⟩
  case base =>
    rintro rfl
    exact registerWrite_rewrites up granted v rfl regWrite_eqBase
  case vx =>
    rintro n listed rfl rfl
    exact registerWrite_vxStatus v up listed
  case errors =>
    rintro rfl
    exact registerWrite_rewrites up granted v rfl regWrite_hifErr
  case head =>
    rintro rfl
    exact registerWrite_rewrites up granted v rfl regWrite_eqHead
  case request => exact registerWrite_rewrites up granted v aligned (regWrite_request above below)
  case bell => rw [exec_doorbellWrite up, ringBell_joins ide_ok aligned inside]
  case noBell =>
    rw [exec_doorbellWrite up, ringBell_ignored ide_ok outside]
    exact commit_self s
  case refusedBell =>
    have row := exec_doorbellWrite (fn := fn) (off := off) (w := w) (ide := ide) (requester := requester) up
    rw [ringBell_refused ide_missing] at row
    obtain ⟨bells, e, noted⟩ := hostRefused_noted s fn true 0
    refine ⟨_, row, bells, ?_⟩
    show 32 ||| g.err ||| ((s.hostRefused fn true 0).fn fn).err = ((s.hostRefused fn true 0).fn fn).err
    rw [noted, BitVec.or_comm 32, ← BitVec.or_assoc]
    exact congrArg (· ||| e) (BitVec.or_self ..)

end Sys2Proof.Proofs.FunctionPages
end

section
/-! The proofs of O8 and O9: BIND and UNBIND change one slot of the amax store, SAVE, LOAD and MERGE schedule one access to the floor. -/

namespace Sys2Proof.Proofs.AmaxStore

open Sys2Proof Sys2Proof.Machine Sys2Proof.Laws Sys2Proof.Proofs.Callers Sys2Proof.Proofs.Queues Sys2Proof.Proofs.EngineQueues
  Sys2Proof.Proofs.EngineEffects

/-! ## The operation field (R392) -/

/-- The words of a row carry the row's operation in bits 47 to 45. -/
theorem op_cwForm (c : Cw) {k : Nat} (small : k < 8) : f0 (cwForm c k 45) 47 45 = k := by
  have word : k * 2 ^ 45 + c.w0.toNat % 2 ^ 45 < 2 ^ 48 := by omega
  unfold f0 bits cwForm
  rw [BitVec.toNat_ofNat, Nat.mod_eq_of_lt word, Nat.shiftRight_eq_div_pow]
  omega

/-! ## The slots of a cluster (R228, R229) -/

/-- The slot that a BIND makes of the value of its register, with a history of zeros. -/
def boundSlot (v : Nat) : AmaxSlot :=
  { tensor := BitVec.ofNat 32 (bits v 31 0), window := bits v 35 32 + 1, margin := bits v 39 36, cur := 0, hist := Vector.replicate 16 0 }

theorem tensor_boundSlot (v : Nat) : (boundSlot v).tensor.toNat = v % 2 ^ 32 := by
  unfold boundSlot bits
  rw [BitVec.toNat_ofNat, Nat.shiftRight_zero]
  exact Nat.mod_mod ..

theorem entry_boundSlot (v h : Nat) : (boundSlot v).entry h = 0 := by
  unfold AmaxSlot.entry boundSlot
  rw [dif_pos (Nat.mod_lt _ (by decide)), Vector.getElem_replicate]

theorem amaxSlot_setAmax_ne (c : Cluster) {k i : Nat} (other : i ≠ k) (v : Option AmaxSlot) : (c.setAmax k v).amaxSlot i = c.amaxSlot i := by
  unfold Cluster.amaxSlot Cluster.setAmax
  split
  · next hi => rw [vmod_get _ _ _ _ hi, if_neg other]
  · rfl

/-- What a change of one slot leaves of the other slots, of its cluster and of all else. -/
theorem setAmax_spec (q : State) (n : Fin 48) {k : Nat} (hk : k < 32) (v : Option AmaxSlot) :
    let t := q.modCl n fun c => c.setAmax k v
    (t.clus n).amaxSlot k = v ∧ (∀ i, i ≠ k → (t.clus n).amaxSlot i = (q.clus n).amaxSlot i)
      ∧ t.clus n = { q.clus n with amax := (t.clus n).amax } ∧ q.sameButCluster t n := by
  intro t
  have own : t.clus n = (q.clus n).setAmax k v := modCl_clus_self ..
  rw [own]
  exact ⟨amaxSlot_setAmax _ hk v, fun i other => amaxSlot_setAmax_ne _ other v, rfl, modCl_same ..⟩

/-! ## The push of each operation (R229, R230, R392) -/

/-- The floor address of an AMAX (R392). -/
def amaxAddr (q : State) (n : Nat) (x : Ctx) (c : Cw) : Nat := (exprVal (q.caller n) x.idx 64 (f0 c 31 0)).toNat

/-- The write of a record of 64 bytes is owed from the push on, and the detector notes it (R322, R392). -/
def recordNoted (q : State) (n : Nat) (x : Ctx) (addr : Nat) : State :=
  (q.fresh.2.owe n q.uid 0 n addr 1 x).will n n x (q.locLc n 0 0) [(0, addr, 64)]

section
variable {q : State} {n : Nat} {x : Ctx} {c : Cw} (free : firstReason (amaxReasons q n x c) = none)
include free

theorem pushAmax_bind (op : f0 c 47 45 = 0) :
    q.pushAmax n x c = q.modCl n fun k => k.setAmax (f0 c 44 40) (some (boundSlot ((q.caller n).reg (f0 c 39 35)).toNat)) := by
  unfold State.pushAmax
  dsimp only
  rw [free, judge_none, if_pos op]
  rfl

theorem pushAmax_unbind (op : f0 c 47 45 = 1) : q.pushAmax n x c = q.modCl n fun k => k.setAmax (f0 c 44 40) none := by
  unfold State.pushAmax
  dsimp only
  rw [free, judge_none, if_neg (by omega), if_pos op]

theorem pushAmax_save (op : f0 c 47 45 = 2) {a : AmaxSlot} (bound : (q.clus n).amaxSlot (f0 c 44 40) = some a) :
    let addr := amaxAddr q n x c
    q.pushAmax n x c = (recordNoted q n x addr).post (q.regionOf n) (x.t + 4 + tierOf addr) phGw 6
      (.store n addr (a.record (q.clus n).stepReg) q.uid x) := by
  unfold State.pushAmax
  dsimp only
  rw [free, judge_none, if_neg (by omega), if_neg (by omega), if_pos op, bound]
  rfl

/-- LOAD and MERGE read their record in the push cycle. -/
theorem pushAmax_read (op : 3 ≤ f0 c 47 45) : q.pushAmax n x c = q.post (q.regionOf n) (x.t + 4) phRead 6
    (.amaxGot n (f0 c 44 40) (f0 c 47 45 == 4) (amaxAddr q n x c) none x) := by
  unfold State.pushAmax
  dsimp only
  rw [free, judge_none, if_neg (by omega), if_neg (by omega), if_neg (by omega)]
  rfl

end

/-- The range check of an AMAX: BIND wants a free slot, an access to the floor a bound slot and an address of 64 bytes (R392). -/
theorem range_mem_amaxReasons (q : State) (n : Nat) (x : Ctx) (c : Cw) :
    (rRange, (f0 c 47 45 == 0 && ((q.clus n).amaxSlot (f0 c 44 40)).isSome)
      || (2 ≤ f0 c 47 45 && (((q.clus n).amaxSlot (f0 c 44 40)).isNone || !okF (exprVal (q.caller n) x.idx 64 (f0 c 31 0)) 64)))
      ∈ amaxReasons q n x c := List.mem_append_right _ (List.mem_cons_of_mem _ List.mem_cons_self)

/-- A SAVE of a slot that is not bound is skipped (R117, R392). -/
theorem bound_of_accepts_save {s q : State} {x : Ctx} {n : Fin 48} {c : Cw} (h : s.accepts (.amaxSave n c) q x) :
    ∃ a, (q.clus n).amaxSlot (f0 (cwForm c 2 45) 44 40) = some a := by
  have range := accepted_not_applies rfl h (range_mem_amaxReasons q n x (cwForm c 2 45))
  rw [op_cwForm c (by decide)] at range
  cases slot : (q.clus n).amaxSlot (f0 (cwForm c 2 45) 44 40) with
  | some a => exact ⟨a, rfl⟩
  | none => simp [slot] at range

/-! ## What a scheduled access leaves (R230) -/

theorem owe_domN (s : State) (n id engine dst addr left : Nat) (x : Ctx) (d : Nat) : (s.owe n id engine dst addr left x).domN d = s.domN d := rfl

theorem will_domN (s : State) (n dst : Nat) (x : Ctx) (loc : Nat) (parts : List (Nat × Nat × Nat)) (d : Nat) :
    (s.will n dst x loc parts).domN d = s.domN d := by
  unfold State.will
  split
  · rfl
  · rfl

theorem post_evs {d : Nat} (s : State) (hd : d < 10) (t ph rank : Nat) (k : EvK) :
    ((s.post d t ph rank k).domN d).evs = insertEv { t, ph, rank, mover := false, k } (s.domN d).evs := by
  unfold State.post
  rw [modDom_domN, if_pos ⟨rfl, hd⟩]

theorem recordNoted_files (q : State) (n d : Nat) (x : Ctx) (addr : Nat) : Files n d q (recordNoted q n x addr) :=
  ((fresh_files n d q).trans (owe_files ..)).trans (will_files ..)

theorem recordNoted_clus (q : State) (n : Fin 48) (x : Ctx) (addr : Nat) :
    (recordNoted q n x addr).clus n = { q.clus n with unacked := ((recordNoted q n x addr).clus n).unacked } := by
  unfold recordNoted
  rw [will_clus, owe_clus]
  rfl

theorem recordNoted_domN (q : State) (n : Nat) (x : Ctx) (addr d : Nat) : (recordNoted q n x addr).domN d = q.domN d := will_domN ..

/-- An event that a cluster's push schedules in its region is put among those there, and no cluster changes. -/
theorem post_spec (q : State) (n t ph rank : Nat) (k : EvK) :
    let u := q.post (q.regionOf n) t ph rank k
    (u.domN (q.regionOf n)).evs = insertEv { t, ph, rank, mover := false, k } (q.domN (q.regionOf n)).evs
      ∧ (∀ m, u.clus m = q.clus m) ∧ q.sameButQueues u (q.regionOf n) := by
  obtain ⟨-, -, -, queues⟩ := (post_files n (q.regionOf n) q t ph rank k false).frame
  exact ⟨post_evs q (regionOf_lt q n) .., fun m => post_clus .., queues⟩

/-! ## The obligations -/

/-- Settles O8: both operations are a change of one slot. -/
theorem amaxBinding : Obligations.AmaxBinding := by
  intro s q x n c
  have slot : ∀ k, f0 (cwForm c k 45) 44 40 < 32 := fun k => bits_lt _ 44 40
  refine ⟨fun h => ⟨_, push_amaxBind h, ?_⟩, fun h => ⟨_, push_amaxUnbind h, ?_⟩⟩
  · rw [pushAmax_bind (accepted_reason rfl h) (op_cwForm c (by decide))]
    obtain ⟨own, rest⟩ := setAmax_spec q n (slot 0) (some (boundSlot ((q.caller n).reg (f0 (cwForm c 0 45) 39 35)).toNat))
    exact ⟨⟨_, own, tensor_boundSlot _, rfl, rfl, rfl, entry_boundSlot _⟩, rest⟩
  · rw [pushAmax_unbind (accepted_reason rfl h) (op_cwForm c (by decide))]
    exact setAmax_spec q n (slot 1) none

/-- An accepted LOAD or MERGE is the push of its operation, which no reason holds back. -/
theorem exec_amaxRead {s q : State} {x : Ctx} {n : Fin 48} {c : Cw} {k : Nat} {i : Instr}
    (row : (k = 3 ∧ i = .amaxLoad n c) ∨ (k = 4 ∧ i = .amaxMerge n c)) (h : s.accepts i q x) :
    3 ≤ k ∧ k < 8 ∧ firstReason (amaxReasons q n x (cwForm c k 45)) = none ∧ exec i s = .next (s.after (q.pushAmax n x (cwForm c k 45))) := by
  obtain ⟨rfl, rfl⟩ | ⟨rfl, rfl⟩ := row
  · exact ⟨by decide, by decide, accepted_reason rfl h, push_amaxLoad h⟩
  · exact ⟨by decide, by decide, accepted_reason rfl h, push_amaxMerge h⟩

/-- Settles O9: a SAVE notes its write and schedules it, a LOAD or MERGE schedules its read; `Files` is the frame of both. -/
theorem amaxRecords : Obligations.AmaxRecords := by
  intro s q x n c
  refine ⟨fun h => ?_, fun k i row h => ?_⟩
  · obtain ⟨a, bound⟩ := bound_of_accepts_save h
    refine ⟨_, a, q.uid, push_amaxSave h, bound, ?_⟩
    rw [pushAmax_save (accepted_reason rfl h) (op_cwForm c (by decide)) bound]
    obtain ⟨others, -, -, queues⟩ := ((recordNoted_files q n (q.regionOf n) x _).trans (post_files n (q.regionOf n) _ ..)).frame
    refine ⟨?_, ?_, others, queues⟩
    · rw [post_evs _ (regionOf_lt q n), recordNoted_domN]
      rfl
    · rw [post_clus]
      exact recordNoted_clus ..
  · obtain ⟨least, most, free, acts⟩ := exec_amaxRead row h
    have op := op_cwForm c most
    refine ⟨_, acts, ?_⟩
    rw [pushAmax_read free (by rw [op]; exact least), op]
    exact post_spec ..

end Sys2Proof.Proofs.AmaxStore
end

section
/-! The proof of O30: a write into the floor lands word by word. A byte's writes all fall in the byte's word, so that the words, each written
once, leave the bytes that the whole write leaves. -/

namespace Sys2Proof.Proofs.FloorWrites

open Sys2Proof Sys2Proof.Machine Sys2Proof.Laws

/-! ## Masked writes (R242) -/

/-- A byte after a masked write depends on that byte before and on the writes that name it. -/
theorem readByte_writeMasked_filter {a : Nat} (p : Nat × Byte × Byte → Bool) {ws : Writes} (named : ∀ w ∈ ws, w.1 = a → p w = true)
    {m m' : Mem} (same : readByte m a = readByte m' a) : readByte (writeMasked m (ws.filter p)) a = readByte (writeMasked m' ws) a := by
  induction ws generalizing m m' with
  | nil => exact same
  | cons w ws ih =>
    obtain ⟨b, v, k⟩ := w
    have rest : ∀ q ∈ ws, q.1 = a → p q = true := fun q hq => named q (List.mem_cons_of_mem _ hq)
    by_cases taken : p (b, v, k) = true
    · rw [List.filter_cons_of_pos taken]
      refine ih rest ?_
      rw [readByte_writeByte, readByte_writeByte]
      split
      · next at_ => rw [← at_, same]
      · exact same
    · rw [List.filter_cons_of_neg taken]
      refine ih rest ?_
      rw [readByte_writeByte, if_neg fun at_ => taken (named _ List.mem_cons_self at_.symm), same]

theorem readByte_writeMasked_congr {a : Nat} (ws : Writes) {m m' : Mem} (same : readByte m a = readByte m' a) :
    readByte (writeMasked m ws) a = readByte (writeMasked m' ws) a := by
  have whole := readByte_writeMasked_filter (fun _ => true) (ws := ws) (fun _ _ _ => rfl) same
  rwa [List.filter_true] at whole

/-- The masked bytes of a write that fall in a word. -/
def wordPart (ws : Writes) (w : Nat) : Writes := ws.filter fun e => e.1 / 64 * 64 == w

/-- The parts of a write in some words, one after another. -/
def writeParts (ws : Writes) (l : List Nat) (m : Mem) : Mem := l.foldl (fun m w => writeMasked m (wordPart ws w)) m

theorem readByte_wordPart_outside {a w : Nat} (outside : a / 64 * 64 ≠ w) (ws : Writes) (m : Mem) :
    readByte (writeMasked m (wordPart ws w)) a = readByte m a :=
  readByte_writeMasked_of_not_mem _ _ _ fun _ he at_ => outside (at_ ▸ eq_of_beq (List.mem_filter.1 he).2)

theorem readByte_writeParts_outside {a : Nat} (ws : Writes) {l : List Nat} (outside : a / 64 * 64 ∉ l) (m : Mem) :
    readByte (writeParts ws l m) a = readByte m a := by
  induction l generalizing m with
  | nil => rfl
  | cons w l ih =>
    obtain ⟨first, rest⟩ := not_or.1 (List.mem_cons.not.1 outside)
    exact (ih rest _).trans (readByte_wordPart_outside first ws m)

/-- A byte of one of the words, each written once. -/
theorem readByte_writeParts_inside {a : Nat} (ws : Writes) {l : List Nat} (once : l.Nodup) (inside : a / 64 * 64 ∈ l) (m : Mem) :
    readByte (writeParts ws l m) a = readByte (writeMasked m ws) a := by
  induction l generalizing m with
  | nil => cases inside
  | cons w l ih =>
    obtain ⟨fresh, later⟩ := List.nodup_cons.1 once
    by_cases here : a / 64 * 64 = w
    · subst here
      refine (readByte_writeParts_outside ws fresh _).trans (readByte_writeMasked_filter _ (fun e _ at_ => ?_) rfl)
      rw [at_]
      exact beq_self_eq_true _
    · exact (ih later ((List.mem_cons.1 inside).resolve_left here) _).trans (readByte_writeMasked_congr ws (readByte_wordPart_outside here ws m))

theorem nodup_eraseDups {α : Type} [BEq α] [LawfulBEq α] (l : List α) : l.eraseDups.Nodup := by
  induction h : l.length using Nat.strongRecOn generalizing l with
  | ind k ih =>
    cases l with
    | nil => exact .nil
    | cons a l =>
      rw [List.eraseDups_cons]
      refine List.nodup_cons.2 ⟨fun ha => ?_, ih _ ?_ _ rfl⟩
      · simpa using List.of_mem_filter (List.mem_eraseDups.1 ha)
      · exact h ▸ Nat.lt_succ_of_le (List.length_filter_le ..)

theorem mem_writeWords {ws : Writes} {v : Nat} : v ∈ writeWords ws ↔ ∃ e ∈ ws, e.1 / 64 * 64 = v := by
  unfold writeWords
  rw [List.mem_eraseDups, List.mem_map]

/-- The words that a write touches, written in turn, leave the bytes that the whole write leaves. -/
theorem readByte_writeParts (ws : Writes) (m : Mem) (a : Nat) : readByte (writeParts ws (writeWords ws) m) a = readByte (writeMasked m ws) a := by
  by_cases inside : a / 64 * 64 ∈ writeWords ws
  · exact readByte_writeParts_inside ws (nodup_eraseDups _) inside m
  · rw [readByte_writeParts_outside ws inside,
      readByte_writeMasked_of_not_mem _ _ _ fun e he at_ => inside (mem_writeWords.2 ⟨e, he, at_ ▸ rfl⟩)]

/-! ## The write of one word (R245, R248, R266) -/

/-- The floor of a cluster holds no wrong bit, and of its ports in the cycle of a stamp no other unit has used one. -/
structure Serves (n t unit : Nat) (s : State) : Prop where
  right : (s.clus n).upsets = []
  own : (s.clus n).ports.1 = t → ∀ e ∈ (s.clus n).ports.2, e.2.1 = unit

/-- From `s` to `r` a unit whose accesses are served changes the floor of a cluster by `f`, and no other cluster. -/
structure Lands (n t unit : Nat) (f : Mem → Mem) (s r : State) : Prop where
  serves : Serves n t unit r
  floor : (r.clus n).floor = f (s.clus n).floor
  others : ∀ m, m ≠ n → r.clus m = s.clus m

section
variable {s r u : State} {n t unit : Nat} {f g : Mem → Mem}

theorem Lands.trans (h : Lands n t unit f s r) (k : Lands n t unit g r u) : Lands n t unit (g ∘ f) s u where
  serves := k.serves
  floor := k.floor.trans (congrArg g h.floor)
  others m hm := (k.others m hm).trans (h.others m hm)

theorem lands_of_cl (ready : Serves n t unit s) (h : r.cl = s.cl) : Lands n t unit id s r := by
  have same : r.clus = s.clus := by
    funext m
    unfold State.clus
    rw [h]
  refine ⟨⟨?_, ?_⟩, ?_, ?_⟩ <;> rw [same]
  · exact ready.right
  · exact ready.own
  · rfl
  · exact fun _ _ => rfl

/-- A change of the cluster that leaves its wrong bits and its ports. -/
theorem modCl_lands (ready : Serves n t unit s) (hn : n < 48) {h : Cluster → Cluster} (floor : ∀ c, (h c).floor = f c.floor)
    (upsets : ∀ c, (h c).upsets = c.upsets) (ports : ∀ c, (h c).ports = c.ports) : Lands n t unit f s (s.modCl n h) := by
  have own : (s.modCl n h).clus n = h (s.clus n) := by rw [modCl_clus, if_pos ⟨rfl, hn⟩]
  refine ⟨⟨?_, ?_⟩, own ▸ floor _, fun m hm => by rw [modCl_clus, if_neg fun e => hm e.1]⟩
  · rw [own, upsets]
    exact ready.right
  · rw [own, ports]
    exact ready.own

/-- A port that no other unit uses is the unit's (R248). -/
theorem takePort_lands (ready : Serves n t unit s) (hn : n < 48) (port a : Nat) (x : Ctx) :
    (s.takePort n t port unit a x).1 = true ∧ Lands n t unit id s (s.takePort n t port unit a x).2 := by
  have mine : ∀ e ∈ (if (s.clus n).ports.1 = t then (s.clus n).ports.2 else []), e.2.1 = unit := by
    split
    · next at_ => exact ready.own at_
    · exact fun e he => by cases he
  unfold State.takePort
  dsimp only
  split
  · next q v y found =>
    rw [if_pos (mine _ (List.mem_of_find?_eq_some found))]
    exact ⟨rfl, lands_of_cl ready rfl⟩
  · have own : ∀ h, (s.modCl n h).clus n = h (s.clus n) := fun h => by rw [modCl_clus, if_pos ⟨rfl, hn⟩]
    refine ⟨rfl, ⟨?_, ?_⟩, ?_, fun m hm => by rw [modCl_clus, if_neg fun e => hm e.1]⟩ <;> rw [own]
    · exact ready.right
    · exact fun _ e he => (List.mem_cons.1 he).elim (fun new => by rw [new]) (mine e)
    · rfl

theorem overOperand_cl (s : State) (n t a loc : Nat) (x : Ctx) : (s.overOperand n t a loc x).cl = s.cl := by
  unfold State.overOperand
  split <;> rfl

/-- A word of a floor without wrong bits takes its masked bytes. -/
theorem landWord_lands (ready : Serves n t unit s) (hn : n < 48) (a : Nat) (ws : Writes) (x : Ctx) :
    Lands n t unit (fun m => writeMasked m ws) s (s.landWord n t a ws x) := by
  unfold State.landWord
  dsimp only
  rw [ready.right, List.isEmpty_nil, if_pos rfl]
  have unscrubbed := modCl_lands (f := id) (h := fun c => { c with scrub := c.scrub.filter fun e => e.1 != a || e.2.2 == some t }) ready hn
    (fun _ => rfl) (fun _ => rfl) fun _ => rfl
  generalize s.modCl n _ = q at unscrubbed ⊢
  generalize hu : List.foldl _ q _ = u
  have dirtied : u.cl = q.cl := by
    rw [← hu]
    refine List.foldlRecOn (motive := fun v : State => v.cl = q.cl) _ _ rfl fun v hv k _ => ?_
    split <;> exact hv
  have before := unscrubbed.trans (lands_of_cl unscrubbed.serves dirtied)
  have stored : Lands n t unit (fun m => writeMasked m ws) u (u.modCl n fun c => { c with floor := writeMasked c.floor ws }) :=
    modCl_lands before.serves hn (fun _ => rfl) (fun _ => rfl) fun _ => rfl
  exact before.trans stored

/-- The write of the part that falls in a word, as `State.floorWrite` takes the words in turn. -/
def wordWrite (n t port unit : Nat) (ws : Writes) (x : Ctx) (s : State) (w : Nat) : State :=
  let (won, s) := s.takePort n t port unit w x
  let s := s.overOperand n t w (s.userLoc n unit) x
  let s := if unit < uRemote then s.nearLands (n * 2 ^ 24 + w) else s
  if won then s.landWord n t w (wordPart ws w) x else s

theorem floorWrite_eq (s : State) (n t port unit : Nat) (ws : Writes) (x : Ctx) :
    s.floorWrite n t port unit ws x = (writeWords ws).foldl (wordWrite n t port unit ws x) s := rfl

theorem wordWrite_lands (ready : Serves n t unit s) (hn : n < 48) (port : Nat) (ws : Writes) (x : Ctx) (w : Nat) :
    Lands n t unit (fun m => writeMasked m (wordPart ws w)) s (wordWrite n t port unit ws x s w) := by
  obtain ⟨won, served⟩ := takePort_lands ready hn port w x
  unfold wordWrite
  dsimp only
  rw [won, if_pos rfl]
  generalize hu : (if unit < uRemote then _ else _) = u
  have watched : u.cl = (s.takePort n t port unit w x).2.cl := by
    rw [← hu]
    split <;> exact overOperand_cl ..
  have before := served.trans (lands_of_cl served.serves watched)
  exact before.trans (landWord_lands before.serves hn w _ x)

theorem floorWrite_lands (ready : Serves n t unit s) (hn : n < 48) (port : Nat) (ws : Writes) (x : Ctx) :
    Lands n t unit (writeParts ws (writeWords ws)) s (s.floorWrite n t port unit ws x) := by
  rw [floorWrite_eq]
  generalize writeWords ws = l
  induction l generalizing s with
  | nil => exact lands_of_cl ready rfl
  | cons w l ih =>
    have first := wordWrite_lands ready hn port ws x w
    exact first.trans (ih first.serves)

end

/-- Settles O30: every word finds its port free or its own, and the words leave the bytes that the whole write leaves. -/
theorem floorWritesLand : Obligations.FloorWritesLand := by
  intro s n t port unit ws x hn right free r
  have ready : Serves n t unit s := by
    refine ⟨right, fun at_ e he => ?_⟩
    obtain elsewhere | unused := free
    · exact absurd at_ elsewhere
    · rw [unused] at he
      cases he
  obtain ⟨serves, floor, others⟩ := floorWrite_lands ready hn port ws x
  have bytes : ∀ a, readByte (r.clus n).floor a = readByte (writeMasked (s.clus n).floor ws) a := fun a => by
    rw [floor]
    exact readByte_writeParts ..
  exact ⟨bytes, fun a unnamed => (bytes a).trans (readByte_writeMasked_of_not_mem _ _ _ unnamed), serves.right, others⟩

end Sys2Proof.Proofs.FloorWrites
end

section
/-! The proof of O45: the commands of resident sets and their ends. First what the steps of these rows leave of the sets: a read of a floor can
only make sets FAILED, and a fault, bank memory and the measurements leave them. -/

namespace Sys2Proof.Proofs.ResidentSets

open Sys2Proof Sys2Proof.Machine Sys2Proof.Laws Sys2Proof.Proofs.Books Sys2Proof.Proofs.Holds

/-! ## What leaves the sets -/

section
variable {s t : State}

theorem resident_congr (h : t.residents = s.residents) (k : Nat) : t.resident k = s.resident k := by
  unfold State.resident
  rw [h]

theorem Stores.residents (h : Stores s t) : t.residents = s.residents := by rw [h.eq]

theorem Records.residents (h : Records s t) : t.residents = s.residents := by rw [h.eq]

end

section
variable (s : State)

theorem abort_residents (cls bar loc : Nat) : (s.abort cls bar loc).residents = s.residents := by
  have givenUp : (discarded s cls).residents = s.residents := by
    unfold discarded
    split <;> rfl
  have closed := Stores.residents (closeBar_stores (discarded s cls) bar true)
  have reported : (aborted s cls bar).residents = ((discarded s cls).closeBar bar true).residents := by
    unfold aborted
    rw [reportFault_eq]
  exact (Records.residents (abort_records s cls bar loc)).trans (reported.trans (closed.trans givenUp))

theorem fence_residents (n cause : Nat) : (s.fence n cause).residents = s.residents := by
  have noted : ∀ q : State, (if q.running then q.noteDiscrepancies else q).residents = q.residents := fun q => by split <;> rfl
  unfold State.fence
  refine (noted _).trans ?_
  split <;> rfl

theorem abortAtBar_residents (loc : Nat) : (s.abortAtBar loc).residents = s.residents := by
  unfold State.abortAtBar
  split_ifs
  · exact (Records.residents (discrepancies1_records s.cancelItems)).trans rfl
  · exact abort_residents ..
  · rfl

theorem faultRecord_residents (cls cause loc : Nat) (x : Ctx) (other : Nat) (detail : Bytes) :
    ((s.faultLog cls cause loc x other detail).stopSnap false).residents = s.residents :=
  Records.residents ((faultLog_records ..).trans (stopSnap_records ..))

theorem unitFault_residents (n cause loc : Nat) (x : Ctx) (other : Nat) (detail : Bytes) :
    (s.unitFault n cause loc x other detail).residents = s.residents :=
  (abortAtBar_residents ..).trans ((fence_residents ..).trans (faultRecord_residents ..))

theorem moduleFault_residents (cause loc : Nat) (x : Ctx) (detail : Bytes) : (s.moduleFault cause loc x detail).residents = s.residents := by
  refine Eq.trans ?_ (faultRecord_residents s 4 cause loc x loc detail)
  unfold State.moduleFault
  dsimp only
  split
  · exact abort_residents ..
  · unfold State.widen
    split <;> rfl

theorem extend_residents (i kind detail : Nat) (m : BitVec 256) : (s.extend i kind detail m).residents = s.residents := by
  unfold State.extend
  split_ifs <;> rfl

theorem residentEvent_residents (k : Nat) (before found : BitVec 256) : (s.residentEvent k before found).residents = s.residents :=
  Records.residents (event_records ..)

/-! ## Shards from bank memory (R592) -/

theorem bankGet_residents (a loc : Nat) (x : Ctx) : (s.bankGet a loc x).2.residents = s.residents := by
  have got := Stores.residents (granuleGet_stores s a loc)
  unfold State.bankGet State.bankUe
  split
  · next h => rwa [h] at got
  · next h =>
    rw [h] at got
    exact (moduleFault_residents ..).trans got

theorem bankRun_residents (a loc : Nat) (x : Ctx) (k : Nat) : (s.bankRun a loc x k).2.residents = s.residents := by
  induction k with
  | zero => rfl
  | succ k ih =>
    unfold State.bankRun
    split
    · next h => rwa [h] at ih
    · next d t h =>
      rw [h] at ih
      have got := bankGet_residents t (a + 64 * k) loc x
      split
      · next g => rw [g] at got; exact got.trans ih
      · next g => rw [g] at got; exact got.trans ih

theorem useRange_residents (a n loc : Nat) : (s.useRange a n loc).residents = s.residents :=
  List.foldlRecOn (motive := fun t : State => t.residents = s.residents) _ _ rfl fun t ht _ _ =>
    (Stores.residents (useBurst_stores t ..)).trans ht

theorem bankBytes_residents (a n loc : Nat) (x : Ctx) : (s.bankBytes a n loc x).2.residents = s.residents := by
  have run := bankRun_residents s (a / 64 * 64) loc x (granuleCount a n)
  unfold State.bankBytes
  split
  · exact useRange_residents ..
  · split
    · next h => rwa [h] at run
    · next h => rwa [h] at run

/-- A load writes floors, and no set (R592). -/
theorem copyShards_residents (r : Resident) : (s.copyShards r).2.residents = s.residents := by
  unfold State.copyShards
  refine List.foldlRecOn (motive := fun q : Option Bytes × State => q.2.residents = s.residents) _ _ rfl fun q hq sh _ => ?_
  split
  · exact hq
  · have read := bankBytes_residents q.2 (r.source.toNat + sh * r.length.toNat) r.length.toNat locLoad q.2.nowCtx
    split
    · next h => rw [h] at read; exact read.trans hq
    · next h => rw [h] at read; exact read.trans hq

end

/-! ## Reads of floors (R261, R264, R265) -/

/-- From `s` to `t` sets may have become FAILED; nothing else of a set changes. -/
structure Fails (s t : State) : Prop where
  sets : ∀ k, t.resident k = s.resident k ∨ t.resident k = { s.resident k with state := .failed }

section
variable {s t u : State}

theorem fails_of_residents (h : t.residents = s.residents) : Fails s t := ⟨fun k => .inl (resident_congr h k)⟩

theorem Fails.refl (s : State) : Fails s s := fails_of_residents rfl

theorem Fails.trans (h : Fails s t) (k : Fails t u) : Fails s u := by
  refine ⟨fun j => ?_⟩
  obtain same | failed := k.sets j
  · exact same ▸ h.sets j
  · right
    rw [failed]
    obtain same | failed := h.sets j
    · rw [same]
    · rw [failed]

/-- Of the fields that the ends of RECORD and VERIFY use, only the state may change, and only to FAILED. -/
theorem Fails.fields (h : Fails s t) (k : Nat) : (t.resident k).digest = (s.resident k).digest ∧ (t.resident k).action = (s.resident k).action
    ∧ ((t.resident k).state = (s.resident k).state ∨ (t.resident k).state = .failed) := by
  obtain same | failed := h.sets k
  · rw [same]
    exact ⟨rfl, rfl, .inl rfl⟩
  · rw [failed]
    exact ⟨rfl, rfl, .inr rfl⟩

/-- An uncorrectable word makes the set that holds it FAILED (R265). -/
theorem floorUe_fails (s : State) (n a : Nat) (x : Ctx) : Fails s (s.floorUe n a x) := by
  unfold State.floorUe
  dsimp only
  refine .trans ?_ (fails_of_residents (unitFault_residents ..))
  split
  · next k _ =>
    refine ⟨fun j => ?_⟩
    rw [modResident_resident]
    split
    · next h => exact .inr (by rw [h.1])
    · exact .inl rfl
  · exact .refl s

theorem readLane_residents (s : State) (n a : Nat) : (s.readLane n a).2.residents = s.residents := by
  unfold State.readLane
  dsimp only
  split
  · rfl
  · split_ifs
    · rfl
    · rfl
    · split <;> rfl

theorem readLanes_residents (s : State) (n a k : Nat) : (s.readLanes n a k).2.residents = s.residents := by
  induction k with
  | zero => rfl
  | succ k ih => exact (readLane_residents ..).trans ih

theorem readCode_residents (s : State) (n a : Nat) : (s.readCode n a).2.2.2.residents = s.residents := by
  have read := readLanes_residents s n a 8
  unfold State.readCode
  dsimp only
  split_ifs <;> exact read

theorem readWord_fails (s : State) (n a : Nat) (x : Ctx) : Fails s (s.readWord n a x).2 := by
  have read := fails_of_residents (readCode_residents s n a)
  have noted : ∀ (q : State) (lost : Bool), Fails s q → Fails s (if lost then q.floorUe n a x else q) := fun q lost hq => by
    split
    · exact hq.trans (floorUe_fails ..)
    · exact hq
  unfold State.readWord
  dsimp only
  split
  · exact .refl s
  · exact noted _ _ read

theorem floorPeek_fails (s : State) (n a len : Nat) (x : Ctx) : Fails s (s.floorPeek n a len x).2 :=
  List.foldlRecOn (motive := fun q : Bytes × State => Fails s q.2) _ _ (.refl s) fun q hq w _ => hq.trans (readWord_fails q.2 n w x)

theorem readShards_fails (s : State) (r : Resident) : Fails s (s.readShards r).2 :=
  List.foldlRecOn (motive := fun q : Bytes × State => Fails s q.2) _ _ (.refl s) fun _ hq _ _ => hq.trans (floorPeek_fails ..)

/-! ### Floors without wrong bits -/

theorem readWord_right {n : Nat} (right : (s.clus n).upsets = []) (a : Nat) (x : Ctx) : (s.readWord n a x).2 = s := by
  unfold State.readWord
  dsimp only
  rw [if_pos (by rw [right]; rfl)]

theorem floorPeek_right {n : Nat} (right : (s.clus n).upsets = []) (a len : Nat) (x : Ctx) : (s.floorPeek n a len x).2 = s := by
  refine List.foldlRecOn (motive := fun q : Bytes × State => q.2 = s) _ _ rfl fun q hq w _ => ?_
  obtain ⟨b, t⟩ := q
  subst hq
  exact readWord_right right w x

theorem readShards_right (right : ∀ n, n < 48 → (s.clus n).upsets = []) (r : Resident) : (s.readShards r).2 = s := by
  have all : ∀ n, (s.clus n).upsets = [] := fun n => by
    by_cases hn : n < 48
    · exact right n hn
    · unfold State.clus
      rw [dif_neg hn]
  refine List.foldlRecOn (motive := fun q : Bytes × State => q.2 = s) _ _ rfl fun q hq sh _ => ?_
  obtain ⟨b, t⟩ := q
  subst hq
  exact floorPeek_right (all _) ..

end

/-! ## The ends of the actions (R261, R592, R631) -/

section
variable (s : State) (k : Fin 64)

/-- A change of the set itself. -/
theorem modResident_same (f : Resident → Resident) : (s.modResident k f).resident k = f (s.resident k) := by
  rw [modResident_resident, if_pos ⟨rfl, k.isLt⟩]

/-- The measurement of a digest, with an event where the digest is wrong (R261, R543). -/
theorem measured_resident (ok : Bool) (before d : BitVec 256) :
    (if ok then s.extend 7 0xA k d else (s.extend 7 0xA k d).residentEvent k before d).resident k = s.resident k := by
  split
  · exact resident_congr (extend_residents ..) k
  · exact resident_congr ((residentEvent_residents ..).trans (extend_residents ..)) k

theorem loadSetEnd_lost (lost : (s.copyShards (s.resident k)).1 = none) :
    (s.loadSetEnd k).resident k = { s.resident k with state := .failed, action := 0 } := by
  have kept := resident_congr (copyShards_residents s (s.resident k)) k
  unfold State.loadSetEnd
  dsimp only
  split
  · next h =>
    rw [h] at kept
    rw [modResident_same, kept]
  · next h =>
    rw [h] at lost
    cases lost

theorem loadSetEnd_copied {b : Bytes} (copied : (s.copyShards (s.resident k)).1 = some b) : (s.loadSetEnd k).resident k =
    { s.resident k with
      state := if (s.resident k).action = 1 ∨ sm3 b = (s.resident k).digest then .settled else .failed, digest := sm3 b, action := 0 } := by
  have kept := resident_congr (copyShards_residents s (s.resident k)) k
  unfold State.loadSetEnd
  dsimp only
  split
  · next h =>
    rw [h] at copied
    cases copied
  · next c t h =>
    rw [h] at kept copied
    cases copied
    rw [measured_resident, modResident_same, kept]
    simp only [Bool.or_eq_true, decide_eq_true_eq]

theorem recordSetEnd_resident : let q := (s.readShards (s.resident k)).2.resident k
    (s.recordSetEnd k).resident k =
      { q with state := if q.state = .dirty then .settled else q.state, digest := sm3 (s.readShards (s.resident k)).1, action := 0 } :=
  (resident_congr (extend_residents ..) k).trans (modResident_same ..)

theorem verifySetEnd_resident : let q := (s.readShards (s.resident k)).2.resident k
    (s.verifySetEnd k).resident k =
      { q with state := if sm3 (s.readShards (s.resident k)).1 = (s.resident k).digest then q.state else .failed, action := 0 } := by
  dsimp only
  unfold State.verifySetEnd
  dsimp only
  rw [measured_resident, modResident_same]
  simp only [decide_eq_true_eq]

/-! ## CLEAR (R592) -/

/-- A cluster of which a range of the floor is cleared. -/
def cleared (a len : Nat) (c : Cluster) : Cluster :=
  { c with
    floor := zeroMem c.floor a len, scrub := scrubLeft c.scrub a len
    upsets := c.upsets.filter fun u => !(a ≤ 8 * u.1 && 8 * u.1 < a + len) }

/-- The clusters of a list with a range of their floors cleared. -/
def clearAll (a len : Nat) (l : List Nat) (s : State) : State := l.foldl (fun s n => s.modCl n (cleared a len)) s

/-- An EMPTY set, which keeps its definition. -/
def emptied (r : Resident) : Resident := { r with state := .empty, rotation := 0, digest := 0, action := 0, turned := 0 }

theorem clearSet_eq : s.clearSet k =
    (clearAll (s.resident k).base.toNat (s.resident k).length.toNat (s.resident k).memberList s).modResident k emptied := rfl

theorem clearAll_eq (a len : Nat) (l : List Nat) : clearAll a len l s = { s with cl := (clearAll a len l s).cl } :=
  List.foldlRecOn (motive := fun t : State => t = { s with cl := t.cl }) _ _ rfl fun t ht n _ => by rw [ht]; rfl

theorem readByte_clearAll (a len : Nat) (l : List Nat) {n : Nat} (hn : n < 48) (b : Nat) : readByte ((clearAll a len l s).clus n).floor b =
    if n ∈ l ∧ a ≤ b ∧ b < a + len then 0 else readByte (s.clus n).floor b := by
  induction l generalizing s with
  | nil => rw [if_neg (by simp)]; rfl
  | cons m l ih =>
    have first : readByte ((s.modCl m (cleared a len)).clus n).floor b =
        if n = m ∧ a ≤ b ∧ b < a + len then 0 else readByte (s.clus n).floor b := by
      rw [modCl_clus]
      by_cases own : n = m
      · subst own
        simp only [hn, and_self, if_true, true_and]
        exact readByte_zeroMem ..
      · simp only [own, false_and, if_false]
    refine (ih (s.modCl m (cleared a len))).trans ?_
    rw [first, ← ite_or]
    simp only [List.mem_cons, ← or_and_right, or_comm]

theorem mem_memberList {r : Resident} {n : Nat} (hn : n < 48) : n ∈ r.memberList ↔ r.members.getLsbD n = true := by
  simp [Resident.memberList, hn]

theorem clearSet_spec : let r := s.resident k
    (s.clearSet k).resident k = emptied r
      ∧ (∀ n, n < 48 → ∀ a, readByte ((s.clearSet k).clus n).floor a =
          if r.members.getLsbD n = true ∧ r.base.toNat ≤ a ∧ a < r.base.toNat + r.length.toNat then 0 else readByte (s.clus n).floor a)
      ∧ s.clearSet k = { s with cl := (s.clearSet k).cl, residents := (s.clearSet k).residents } := by
  intro r
  have frame := clearAll_eq s r.base.toNat r.length.toNat r.memberList
  rw [clearSet_eq]
  refine ⟨?_, fun n hn a => ?_, ?_⟩
  · rw [modResident_same, frame]
    rfl
  · simp only [← mem_memberList hn]
    exact readByte_clearAll s _ _ _ hn a
  · change State.modResident (clearAll r.base.toNat r.length.toNat r.memberList s) k emptied = _
    rw [frame]
    rfl

end

/-! ## The rows -/

section
variable {s u : State} {i : Instr}

/-- From `s` to `t` a set becomes `q`, and nothing else changes. -/
def setsOnly (s : State) (k : Fin 64) (t : State) (q : Resident) : Prop :=
  t.resident k = q ∧ (∀ j, j ≠ k.val → t.resident j = s.resident j) ∧ t = { s with residents := t.residents }

theorem modResident_only (s : State) (k : Fin 64) (f : Resident → Resident) : setsOnly s k (s.modResident k f) (f (s.resident k)) :=
  ⟨modResident_same .., fun j hj => by rw [modResident_resident, if_neg fun e => hj e.1], rfl⟩

/-- A row that acts where a condition holds. -/
theorem exec_guarded {b : Bool} (row : exec i s = commit s (if b then u else s)) :
    (b = false → exec i s = .next s) ∧ (b = true → exec i s = .next (s.after u)) := by
  rw [row]
  exact ⟨fun h => by rw [h]; rfl, fun h => by rw [h]; rfl⟩

/-- A command of the dictionary, which needs power, argument 0 and its own condition (R592, R612). -/
theorem exec_command {arg : BitVec 32} {ok : Bool} (row : exec i s = commit s (if s.pow.on && arg = 0 && ok then u else s)) :
    (s.pow.on = false ∨ arg ≠ 0 ∨ ok = false → exec i s = .next s)
      ∧ (s.pow.on = true → arg = 0 → ok = true → exec i s = .next (s.after u)) := by
  obtain ⟨refused, acts⟩ := exec_guarded row
  refine ⟨fun h => refused ?_, fun on zero accepted => acts (by simp [on, zero, accepted])⟩
  rw [← Bool.not_eq_true]
  simp only [Bool.and_eq_true, decide_eq_true_eq]
  rintro ⟨⟨on, zero⟩, accepted⟩
  obtain h | h | h := h
  · simp [on] at h
  · exact h zero
  · simp [accepted] at h

/-- The end of an action, while no routine runs. -/
theorem exec_end {b : Bool} {p : Prop} (means : b = true ↔ p) (row : exec i s = commit s (if !s.running && b then u else s)) :
    (s.running = true ∨ ¬ p → exec i s = .next s) ∧ (s.running = false → p → exec i s = .next (s.after u)) := by
  obtain ⟨refused, acts⟩ := exec_guarded row
  rw [← means]
  refine ⟨fun h => refused ?_, fun still due => acts (by simp [still, due])⟩
  obtain run | idle := h
  · simp [run]
  · simp [idle]

/-- The row of RECORD or of VERIFY begins its action (R592). -/
theorem exec_beginDigest {k : Fin 64} {m : Nat} {arg : BitVec 32} {ok : Bool}
    (row : (i = .residentRecord k arg ∧ m = 2 ∧ ok = s.recordSetOk k) ∨ (i = .residentVerify k arg ∧ m = 3 ∧ ok = s.verifySetOk k)) :
    (s.pow.on = false ∨ arg ≠ 0 ∨ ok = false → exec i s = .next s)
      ∧ (s.pow.on = true → arg = 0 → ok = true → exec i s = .next (s.after (s.beginDigest k m))) := by
  refine exec_command ?_
  obtain ⟨rfl, rfl, rfl⟩ | ⟨rfl, rfl, rfl⟩ := row <;> rfl

end

/-- Settles O45: each row acts under its condition; what it does to the set, to the others and to the floors is said by the lemmas above. -/
theorem residentSets : Obligations.ResidentSets := by
  intro s k sub v arg r read only
  have written := exec_guarded (s := s) (i := .residentSetWrite k sub v) rfl
  have load := exec_command (s := s) (i := .residentLoad k arg) (arg := arg) rfl
  have clear := exec_command (s := s) (i := .residentClear k arg) (arg := arg) rfl
  have loaded := exec_end (s := s) (i := .residentLoadDone k) (p := r.action = 1 ∨ r.action = 4) (by simp [r]) rfl
  have recorded := exec_end (s := s) (i := .residentRecordDone k) (p := r.action = 2) decide_eq_true_iff rfl
  have verified := exec_end (s := s) (i := .residentVerifyDone k) (p := r.action = 3) decide_eq_true_iff rfl
  obtain ⟨digest, action, state⟩ := (readShards_fails s r).fields k
  refine ⟨written.1, fun on field inRange => ⟨_, written.2 (by rw [on, field, inRange]; rfl), modResident_only ..⟩,
    load.1, fun on zero ok => ⟨_, load.2 on zero ok, modResident_only ..⟩,
    fun i m ok row => ⟨(exec_beginDigest row).1, fun on zero accepted => ⟨_, (exec_beginDigest row).2 on zero accepted, modResident_only ..⟩⟩,
    fun h => loaded.1 (h.imp_right not_or.2),
    fun still due => ⟨fun lost => ⟨_, loaded.2 still due, loadSetEnd_lost s k lost⟩,
      fun b copied => ⟨_, loaded.2 still due, loadSetEnd_copied s k copied⟩⟩,
    recorded.1, fun still due => ⟨_, recorded.2 still due, recordSetEnd_resident s k⟩,
    verified.1, fun still due => ⟨_, verified.2 still due, verifySetEnd_resident s k⟩,
    digest, action, state, fun right => congrArg (State.resident · k) (readShards_right right r),
    fun h => clear.1 (h.imp_right (.imp_right fun run => by rw [run]; rfl)),
    fun on zero still => ⟨_, clear.2 on zero (by rw [still]; rfl), clearSet_spec s k⟩⟩

end Sys2Proof.Proofs.ResidentSets
end

section
/-! The proof of O10: HTAKE and CHTAKE write two registers, and take the entry that they read. -/

namespace Sys2Proof.Proofs.Takes

open Sys2Proof Sys2Proof.Machine Sys2Proof.Laws Sys2Proof.Proofs.Callers Sys2Proof.Proofs.Messages

/-! ## Two registers (R103, R387) -/

/-- Two registers of a cluster, the even one and the next, with their values. -/
def writePair (q : State) (n r a b : Nat) : State := (q.setReg n r a).setReg n (r + 1) b

/-- From `q` to `t` two registers of a cluster take values, and no other register and no other field of a cluster changes. -/
structure WritesPair (n : Fin 48) (r a b : Nat) (q t : State) : Prop where
  first : (t.caller n).reg r = BitVec.ofNat 48 a
  second : (t.caller n).reg (r + 1) = BitVec.ofNat 48 b
  others : ∀ k, k ≠ r → k ≠ r + 1 → (t.caller n).reg k = (q.caller n).reg k
  regs : ∀ m, t.clus m = { q.clus m with caller := { (q.clus m).caller with regs := (t.clus m).caller.regs } }
  clusters : ∀ m, m ≠ n.val → t.clus m = q.clus m

section
variable {q t q' t' : State} {n : Fin 48} {r a b : Nat}

/-- Both registers of a pair exist, since the first is even. -/
theorem pair_lt (small : r < 32) (even : r % 2 = 0) : r + 1 < 32 := by omega

theorem writePair_fields (q : State) (n : Fin 48) (r a b : Nat) : writePair q n r a b = { q with cl := (writePair q n r a b).cl } := by
  have cluster : n.val < 48 := n.isLt
  unfold writePair State.setReg State.modCaller
  simp only [cluster, ↓reduceIte]

theorem writePair_caller (q : State) (n : Fin 48) (r a b : Nat) : (writePair q n r a b).caller n =
    { q.caller n with regs := vmod (vmod (q.caller n).regs r fun _ => BitVec.ofNat 48 a) (r + 1) fun _ => BitVec.ofNat 48 b } := by
  have caller : n.val = n.val ∧ n.val < 50 := ⟨rfl, by omega⟩
  rw [writePair, setReg_caller, if_pos caller, setReg_caller, if_pos caller]

theorem writePair_reg (q : State) (n : Fin 48) (bound : r + 1 < 32) (a b k : Nat) : ((writePair q n r a b).caller n).reg k =
    if k = r + 1 then BitVec.ofNat 48 b else if k = r then BitVec.ofNat 48 a else (q.caller n).reg k := by
  rw [writePair_caller, regs_vmod { q.caller n with regs := vmod (q.caller n).regs r fun _ => BitVec.ofNat 48 a }, regs_vmod]
  by_cases second : k = r + 1
  · simp [second, bound]
  · by_cases first : k = r
    · simp [first, Nat.lt_of_succ_lt bound]
    · simp [second, first]

theorem setReg_clus (q : State) (w r v m : Nat) :
    (q.setReg w r v).clus m = { q.clus m with caller := { (q.clus m).caller with regs := ((q.setReg w r v).clus m).caller.regs } } := by
  rw [State.setReg, modCaller_clus]
  split <;> rfl

theorem writePair_spec (q : State) (n : Fin 48) (bound : r + 1 < 32) (a b : Nat) : WritesPair n r a b q (writePair q n r a b) where
  first := by rw [writePair_reg q n bound, if_neg (by omega), if_pos rfl]
  second := by rw [writePair_reg q n bound, if_pos rfl]
  others k low high := by rw [writePair_reg q n bound, if_neg high, if_neg low]
  regs m := by rw [writePair, setReg_clus, setReg_clus]
  clusters m other := by
    unfold writePair State.setReg
    rw [modCaller_clus, if_neg fun h => other h.1, modCaller_clus, if_neg fun h => other h.1]

/-- The pair is a matter of the clusters alone. -/
theorem WritesPair.congr (h : WritesPair n r a b q t) (before : q'.cl = q.cl) (after : t'.cl = t.cl) : WritesPair n r a b q' t' := by
  have clus : ∀ m, q'.clus m = q.clus m ∧ t'.clus m = t.clus m := fun m => by simp only [State.clus, before, after, and_self]
  have caller : q'.caller n = q.caller n ∧ t'.caller n = t.caller n := by simp only [caller_cluster, clus, and_self]
  refine ⟨?_, ?_, ?_, fun m => ?_, fun m other => ?_⟩
  · rw [caller.2, h.first]
  · rw [caller.2, h.second]
  · rw [caller.1, caller.2]
    exact h.others
  · rw [(clus m).1, (clus m).2]
    exact h.regs m
  · rw [(clus m).1, (clus m).2]
    exact h.clusters m other

/-- A pair that is written once other fields than the clusters have changed. -/
theorem writePair_after {u : State} (same : u.cl = q.cl) (bound : r + 1 < 32) (a b : Nat) : WritesPair n r a b q (writePair u n r a b) :=
  (writePair_spec u n bound a b).congr same.symm rfl

/-- A pair that reads zeros, which is counted (R292, R387). -/
theorem writePair_counted (q : State) (n : Fin 48) (bound : r + 1 < 32) (i j : Nat) :
    let t := (writePair q n r 0 0).count i j 1
    WritesPair n r 0 0 q t ∧ t = { q.count i j 1 with cl := t.cl } := by
  refine ⟨(writePair_spec q n bound 0 0).congr rfl rfl, ?_⟩
  rw [writePair_fields]
  rfl

theorem writePair_chan (q : State) (n r a b ch : Nat) : (writePair q n r a b).chan ch = q.chan ch := rfl

end

section
variable {s q : State} {x : Ctx} {n : Fin 48} {c : Cw}

/-! ## HTAKE (R291, R292) -/

/-- The queue that an HTAKE names, of the region of its cluster. -/
def handleKey (q : State) (n : Nat) (c : Cw) : Nat := q.regionOf n * 64 + f0 c 47 42

/-- The handles of a queue once its oldest is taken. -/
def handlesLeft (q : State) (key : Nat) (rest : List (Nat × BitVec 64)) : State := { q with hqs := tPut q.hqs key rest }

theorem htake_pair (h : s.accepts (.htake n c) q x) : f0 c 41 37 + 1 < 32 := by
  have fields : (f0 c 36 0 != 0 || f0 c 41 37 % 2 != 0) = false := accepted_not_applies rfl h (r := rField) (by simp [htakeReasons])
  exact pair_lt (bits_lt _ 41 37) (by simpa using (Bool.or_eq_false_iff.1 fields).2)

theorem pushHtake_of_accepts (h : s.accepts (.htake n c) q x) : q.pushHtake n x c =
    match (tGet q.hqs (handleKey q n c)).getD [] with
    | (t, v) :: rest =>
      if t ≤ x.t + 3 then
        writePair (handlesLeft q (handleKey q n c) rest) n (f0 c 41 37) (bits v.toNat 29 0) (bits v.toNat 47 30)
      else (writePair q n (f0 c 41 37) 0 0).count 0x9003 6 1
    | [] => (writePair q n (f0 c 41 37) 0 0).count 0x9003 6 1 := by
  unfold State.pushHtake
  rw [show firstReason (htakeReasons q n x c) = none from accepted_reason rfl h, judge_none]
  rfl

/-- An HTAKE finds a handle that entered by the cycle before (R291). -/
theorem pushHtake_takes (h : s.accepts (.htake n c) q x) {e : Nat} {v : BitVec 64} {rest : List (Nat × BitVec 64)}
    (oldest : tGet q.hqs (handleKey q n c) = some ((e, v) :: rest)) (entered : e ≤ x.t + 3) : q.pushHtake n x c =
    writePair (handlesLeft q (handleKey q n c) rest) n (f0 c 41 37) (bits v.toNat 29 0) (bits v.toNat 47 30) := by
  rw [pushHtake_of_accepts h, oldest]
  exact if_pos entered

/-- No handle of the queue of an HTAKE entered by the cycle before. -/
def noHandle (q : State) (x : Ctx) (key : Nat) : Prop :=
  (tGet q.hqs key).getD [] = [] ∨ ∃ e v rest, tGet q.hqs key = some ((e, v) :: rest) ∧ x.t + 3 < e

theorem pushHtake_empty (h : s.accepts (.htake n c) q x) (nothing : noHandle q x (handleKey q n c)) :
    q.pushHtake n x c = (writePair q n (f0 c 41 37) 0 0).count 0x9003 6 1 := by
  rw [pushHtake_of_accepts h]
  obtain empty | ⟨e, v, rest, oldest, late⟩ := nothing
  · rw [empty]
  · rw [oldest]
    exact if_neg (Nat.not_le.2 late)

theorem handle_or_none (q : State) (x : Ctx) (key : Nat) :
    (∃ e v rest, tGet q.hqs key = some ((e, v) :: rest) ∧ e ≤ x.t + 3) ∨ noHandle q x key := by
  unfold noHandle
  match tGet q.hqs key with
  | none => exact .inr (.inl rfl)
  | some [] => exact .inr (.inl rfl)
  | some ((e, v) :: rest) =>
    obtain late | entered := Nat.lt_or_ge (x.t + 3) e
    · exact .inr (.inr ⟨e, v, rest, rfl, late⟩)
    · exact .inl ⟨e, v, rest, rfl, entered⟩

theorem noHandle_of_handle {key e : Nat} {v : BitVec 64} {rest : List (Nat × BitVec 64)} (oldest : tGet q.hqs key = some ((e, v) :: rest))
    (entered : e ≤ x.t + 3) : ¬ noHandle q x key := by
  rintro (empty | ⟨e', v', rest', other, late⟩)
  · simp [oldest] at empty
  · rw [oldest] at other
    simp at other
    omega

/-! ## CHTAKE (R356, R359) -/

/-- A channel whose oldest descriptor is taken, with the end of its record. -/
def descTaken (d : Desc) (rest : List Desc) (ring : Nat) (k : Chan) : Chan :=
  { k with arrivals := rest, taken := k.taken ++ [(d.off + recSize d.len) % ring] }

/-- The module once a cluster has taken a descriptor and the detector has noted its record. -/
def recordTaken (q : State) (n ch : Nat) (p : Route) (d : Desc) (rest : List Desc) : State :=
  (q.modChan ch (descTaken d rest p.ring)).takesRecord n (p.ringBase + d.off) (recSize d.len)

theorem recordTaken_fields (q : State) (n ch : Nat) (p : Route) (d : Desc) (rest : List Desc) : recordTaken q n ch p d rest =
    { q with chans := (recordTaken q n ch p d rest).chans, det := (recordTaken q n ch p d rest).det } := rfl

theorem recordTaken_chan (q : State) (n ch : Nat) (p : Route) (d : Desc) (rest : List Desc) :
    (recordTaken q n ch p d rest).chan ch = descTaken d rest p.ring (q.chan ch) := modChan_chan ..

/-- No descriptor of a channel entered by the cycle before. -/
def noDesc (q : State) (x : Ctx) (ch : Nat) : Prop :=
  (q.chan ch).arrivals = [] ∨ ∃ d rest, (q.chan ch).arrivals = d :: rest ∧ x.t + 3 < d.entered

theorem chtake_pair (h : s.accepts (.chtake n c) q x) : f0 c 39 35 + 1 < 32 := by
  have fields : (f0 c 34 0 != 0 || f0 c 39 35 % 2 != 0) = false := accepted_not_applies rfl h (r := rField) (by simp [chtakeReasons])
  exact pair_lt (bits_lt _ 39 35) (by simpa using (Bool.or_eq_false_iff.1 fields).2)

/-- The channel of a CHTAKE that is accepted has a route (R356, R367). -/
theorem chtake_route (h : s.accepts (.chtake n c) q x) : ∃ p, q.route (f0 c 47 40) = some p := by
  have valid : (!(q.route (f0 c 47 40)).any fun r => r.dst == n.val) = false :=
    accepted_not_applies rfl h (r := rRange) (by simp [chtakeReasons, chReason])
  cases route : q.route (f0 c 47 40) with
  | none => simp [route] at valid
  | some p => exact ⟨p, rfl⟩

theorem pushChtake_of_accepts (h : s.accepts (.chtake n c) q x) {p : Route} (route : q.route (f0 c 47 40) = some p) : q.pushChtake n x c =
    match (q.chan (f0 c 47 40)).arrivals with
    | d :: rest =>
      if x.t + 3 < d.entered then (writePair q n (f0 c 39 35) 0 0).count 0x9005 3 1
      else writePair (recordTaken q n (f0 c 47 40) p d rest) n (f0 c 39 35) (n * 2 ^ 24 + p.ringBase + d.off + 16)
        (d.len % 4096 + d.status.toNat * 4096 + d.tag.toNat * 65536)
    | [] => (writePair q n (f0 c 39 35) 0 0).count 0x9005 3 1 := by
  unfold State.pushChtake
  dsimp only
  rw [show firstReason (chtakeReasons q n x c) = none from accepted_reason rfl h, judge_none, route]
  cases (q.chan (f0 c 47 40)).arrivals <;> rfl

/-- A CHTAKE finds a descriptor that entered by the cycle before (R356). -/
theorem pushChtake_takes (h : s.accepts (.chtake n c) q x) {p : Route} (route : q.route (f0 c 47 40) = some p) {d : Desc} {rest : List Desc}
    (oldest : (q.chan (f0 c 47 40)).arrivals = d :: rest) (entered : d.entered ≤ x.t + 3) : q.pushChtake n x c =
    writePair (recordTaken q n (f0 c 47 40) p d rest) n (f0 c 39 35) (n * 2 ^ 24 + p.ringBase + d.off + 16)
      (d.len % 4096 + d.status.toNat * 4096 + d.tag.toNat * 65536) := by
  rw [pushChtake_of_accepts h route, oldest]
  exact if_neg (Nat.not_lt.2 entered)

theorem pushChtake_empty (h : s.accepts (.chtake n c) q x) (nothing : noDesc q x (f0 c 47 40)) :
    q.pushChtake n x c = (writePair q n (f0 c 39 35) 0 0).count 0x9005 3 1 := by
  obtain ⟨p, route⟩ := chtake_route h
  rw [pushChtake_of_accepts h route]
  obtain empty | ⟨d, rest, oldest, late⟩ := nothing
  · rw [empty]
  · rw [oldest]
    exact if_pos late

theorem desc_or_none (q : State) (x : Ctx) (ch : Nat) :
    (∃ d rest, (q.chan ch).arrivals = d :: rest ∧ d.entered ≤ x.t + 3) ∨ noDesc q x ch := by
  unfold noDesc
  match (q.chan ch).arrivals with
  | [] => exact .inr (.inl rfl)
  | d :: rest =>
    obtain late | entered := Nat.lt_or_ge (x.t + 3) d.entered
    · exact .inr (.inr ⟨d, rest, rfl, late⟩)
    · exact .inl ⟨d, rest, rfl, entered⟩

theorem noDesc_of_desc {ch : Nat} {d : Desc} {rest : List Desc} (oldest : (q.chan ch).arrivals = d :: rest) (entered : d.entered ≤ x.t + 3) :
    ¬ noDesc q x ch := by
  rintro (empty | ⟨d', rest', other, late⟩)
  · simp [oldest] at empty
  · rw [oldest] at other
    simp at other
    obtain ⟨rfl, rfl⟩ := other
    omega

end

/-! ## The obligation -/

/-- Settles O10: where the oldest entry may be taken the pair holds it, else the pair holds zeros and a counter has moved on. -/
theorem takesFromQueues : Obligations.TakesFromQueues := by
  intro s q x n c
  refine ⟨fun h => ⟨_, push_htake h, ?_⟩, fun h => ⟨_, push_chtake h, ?_⟩⟩
  · obtain ⟨e, v, rest, oldest, entered⟩ | nothing := handle_or_none q x (handleKey q n c)
    · rw [pushHtake_takes h oldest entered]
      obtain ⟨first, second, others, regs, clusters⟩ := writePair_after (u := handlesLeft q (handleKey q n c) rest) (n := n) rfl (htake_pair h)
        (bits v.toNat 29 0) (bits v.toNat 47 30)
      refine ⟨⟨fun e' v' rest' same _ => ?_, fun nothing => absurd nothing (noHandle_of_handle oldest entered), others⟩, regs, clusters⟩
      cases oldest.symm.trans same
      refine ⟨(tGet_tPut ..).trans (if_pos rfl), first, second, ?_, fun k other => (tGet_tPut ..).trans (if_neg other)⟩
      rw [writePair_fields]
      rfl
    · rw [pushHtake_empty h nothing]
      obtain ⟨⟨first, second, others, regs, clusters⟩, counted⟩ := writePair_counted q n (htake_pair h) 0x9003 6
      exact ⟨⟨fun e v rest oldest entered => absurd nothing (noHandle_of_handle oldest entered), fun _ => ⟨first, second, counted⟩, others⟩,
        regs, clusters⟩
  · obtain ⟨d, rest, oldest, entered⟩ | nothing := desc_or_none q x (f0 c 47 40)
    · obtain ⟨p, route⟩ := chtake_route h
      rw [pushChtake_takes h route oldest entered]
      obtain ⟨first, second, others, regs, clusters⟩ := writePair_after (u := recordTaken q n (f0 c 47 40) p d rest) (n := n) rfl (chtake_pair h)
        (n * 2 ^ 24 + p.ringBase + d.off + 16) (d.len % 4096 + d.status.toNat * 4096 + d.tag.toNat * 65536)
      refine ⟨⟨fun d' rest' p' same route' _ => ?_, fun nothing => absurd nothing (noDesc_of_desc oldest entered), others⟩, regs, clusters⟩
      cases oldest.symm.trans same
      cases route.symm.trans route'
      refine ⟨?_, ?_, first, second, ?_⟩
      · rw [writePair_chan, recordTaken_chan]
        rfl
      · rw [writePair_chan, recordTaken_chan]
        rfl
      · rw [writePair_fields, recordTaken_fields]
    · rw [pushChtake_empty h nothing]
      obtain ⟨⟨first, second, others, regs, clusters⟩, counted⟩ := writePair_counted q n (chtake_pair h) 0x9005 3
      exact ⟨⟨fun d rest p oldest _ entered => absurd nothing (noDesc_of_desc oldest entered), fun _ => ⟨first, second, counted⟩, others⟩,
        regs, clusters⟩

end Sys2Proof.Proofs.Takes
end

section
/-! The proof of O18: a WAIT is a change of its caller's queue and, for a stream, of one collect counter. -/

namespace Sys2Proof.Proofs.WaitPushes

open Sys2Proof Sys2Proof.Machine Sys2Proof.Laws Sys2Proof.Proofs.Callers Sys2Proof.Proofs.AmaxStore

/-- The operation field of a row leaves the second word of its command alone. -/
theorem f1_cwForm (c : Cw) (k lo : Nat) : f1 (cwForm c k lo) = f1 c := by
  have word : (cwForm c k lo).w1 = c.w1 := rfl
  funext hi low
  rw [f1, word, f1]

section
variable {s q : State} {x : Ctx} {d : Cw} {v k : Nat}

/-- The form of a WAIT by its FORM field `k` (R283, R313, R389). -/
def pushedForm (q : State) (v : Nat) (x : Ctx) (d : Cw) (k : Nat) : WaitForm :=
  if k = 0 then .stream (f1 d 63 59) ((q.clus v).collected (f1 d 63 59)) (f1 d 58 48 + 1)
      (exprVal (q.caller v) x.idx 64 (f1 d 31 0)).toNat (f1 d 47 43)
  else if k = 1 then .cue (f1 d 63 56) (f0 d 44 44 == 1)
  else if k = 2 then .mcue (f1 d 63 54) (f0 d 44 44 == 1)
  else if k = 3 then .tally (f1 d 63 58) (f1 d 47 32) (f0 d 44 44 == 1)
  else .round (f1 d 63 59) (f1 d 55 48)

/-- A wait as it enters its queue: no cycle of it has stalled, and it holds nothing (R283, R285). -/
def pushedWait (x : Ctx) (d : Cw) (f : WaitForm) : Wait :=
  { ctx := x, form := f, guard := f0 d 43 36, r := x.t + 4 + f0 d 35 20, deadline := f0 d 19 4 }

/-- A caller with a wait as the last of its queue. -/
def queuedWait (q : Wait) (k : Caller) : Caller := { k with waits := k.waits ++ [q] }

/-- A cluster whose collect counter has moved on by the granules that a stream WAIT takes (R283). -/
def collectOn (d : Cw) (k : Cluster) : Cluster := { k with collect := vmod k.collect (f1 d 63 59) (· + (f1 d 58 48 + 1)) }

/-- The state in which a WAIT queues itself: a stream WAIT has taken its granules. -/
def granulesTaken (q : State) (v : Nat) (d : Cw) (k : Nat) : State := if k = 0 then q.modCl v (collectOn d) else q

theorem pushWait_of_reasons (op : f0 d 47 45 = k) (pass : firstReason (waitReasons q v x d) = none) :
    q.pushWait v x d = (granulesTaken q v d k).modCaller v (queuedWait (pushedWait x d (pushedForm q v x d k))) := by
  unfold State.pushWait
  rw [pass, judge_none, op]
  simp only [beq_iff_eq]
  rfl

theorem granulesTaken_fields : granulesTaken q v d k = { q with cl := (granulesTaken q v d k).cl } := by
  unfold granulesTaken
  split <;> rfl

/-- No cluster but the caller of a stream WAIT changes, and that one in its collect counter alone. -/
theorem granulesTaken_clus (m : Nat) :
    (granulesTaken q v d k).clus m = if k = 0 ∧ m = v ∧ m < 48 then collectOn d (q.clus m) else q.clus m := by
  unfold granulesTaken
  by_cases stream : k = 0
  · rw [if_pos stream, modCl_clus]
    by_cases own : m = v <;> simp [stream, own]
  · rw [if_neg stream, if_neg fun h => stream h.1]

theorem granulesTaken_caller (u : Nat) : (granulesTaken q v d k).caller u = q.caller u := by
  have seqs : (granulesTaken q v d k).seqs = q.seqs := by rw [granulesTaken_fields]
  unfold State.caller
  rw [seqs, granulesTaken_clus]
  split
  · split <;> rfl
  · rfl

/-- What a WAIT does at its push (R283, R313). -/
theorem pushWait_spec (bound : v < 50) {n : Fin 48} (stream : k = 0 → v = n) (op : f0 d 47 45 = k)
    (pass : firstReason (waitReasons q v x d) = none) {f : WaitForm} (form : pushedForm q v x d k = f) :
    let t := q.pushWait v x d
    t.caller v = queuedWait (pushedWait x d f) (q.caller v)
      ∧ (∀ u, u ≠ v → t.caller u = q.caller u)
      ∧ (k = 0 → (t.clus n).collect = vmod (q.clus n).collect (f1 d 63 59) (· + (f1 d 58 48 + 1)))
      ∧ (∀ m, k ≠ 0 ∨ m ≠ n.val → (t.clus m).collect = (q.clus m).collect)
      ∧ (∀ m, t.clus m = { q.clus m with caller := (t.clus m).caller, collect := (t.clus m).collect })
      ∧ t = { q with cl := t.cl, seqs := t.seqs } := by
  intro t
  have pushed : t = (granulesTaken q v d k).modCaller v (queuedWait (pushedWait x d f)) := form ▸ pushWait_of_reasons op pass
  have collect : ∀ m, (t.clus m).collect = ((granulesTaken q v d k).clus m).collect := fun m => by
    rw [pushed, modCaller_clus]
    split <;> rfl
  refine ⟨?_, fun u other => ?_, fun taken => ?_, fun m other => ?_, fun m => ?_, ?_⟩
  · rw [pushed, modCaller_caller, if_pos ⟨rfl, bound⟩, granulesTaken_caller]
  · rw [pushed, modCaller_caller, if_neg fun h => other h.1, granulesTaken_caller]
  · rw [collect, granulesTaken_clus, if_pos ⟨taken, (stream taken).symm, n.isLt⟩]
    rfl
  · rw [collect, granulesTaken_clus, if_neg fun ⟨taken, own, _⟩ => other.elim (· taken) (· (own.trans (stream taken)))]
  · rw [pushed, modCaller_clus, granulesTaken_clus]
    split <;> split <;> rfl
  · rw [pushed, granulesTaken_fields]
    rfl

end

/-- Settles O18: each row is the push of a WAIT with its own FORM field. -/
theorem waitsQueue : Obligations.WaitsQueue := by
  intro s q x w n c i k v f d row h
  have cluster : n.val < 50 := Nat.lt_trans n.isLt (by decide)
  have word1 : f1 d = f1 c := f1_cwForm c k 45
  have op : k < 8 → f0 d 47 45 = k := op_cwForm c
  obtain ⟨rfl, rfl, rfl, rfl⟩ | ⟨rfl, rfl, rfl, rfl⟩ | ⟨rfl, rfl, rfl, rfl⟩ | ⟨rfl, rfl, rfl, rfl⟩ | ⟨rfl, rfl, rfl, rfl⟩ := row
  all_goals rw [← word1]
  · exact ⟨_, push_waitStream h, pushWait_spec cluster (fun _ => rfl) (op (by decide)) (accepted_reason rfl h) rfl⟩
  · exact ⟨_, push_waitCue h, pushWait_spec cluster (fun _ => rfl) (op (by decide)) (accepted_reason rfl h) rfl⟩
  · exact ⟨_, push_waitModuleCue h, pushWait_spec (siteNum_lt w) (fun h => absurd h (by decide)) (op (by decide)) (accepted_reason rfl h) rfl⟩
  · exact ⟨_, push_waitTally h, pushWait_spec cluster (fun _ => rfl) (op (by decide)) (accepted_reason rfl h) rfl⟩
  · exact ⟨_, push_waitRound h, pushWait_spec (siteNum_lt w) (fun h => absurd h (by decide)) (op (by decide)) (accepted_reason rfl h) rfl⟩

end Sys2Proof.Proofs.WaitPushes
end

section
/-! The proof of O25: the first wait of a domain that expires raises hold, and nothing that follows in the same row lets go of it; a hold that has lasted
too long is a fault of its caller, and no later fault of the same row takes back what that one left. -/

namespace Sys2Proof.Proofs.WaitHolds

open Sys2Proof Sys2Proof.Machine Sys2Proof.Laws Sys2Proof.Proofs.Books Sys2Proof.Proofs.Holds

/-! ## What no fault takes back (R617, R634-R637) -/

/-- A domain that has stopped, or stops at its next step boundary. -/
def stops (s : State) (d : Nat) : Prop := (s.domN d).stopPend = true ∨ (s.domN d).stopped = true

/-- From `s` to `t` a fenced cluster stays fenced and keeps a unit fault as its cause, an empty wait queue stays empty, a hold stands, a domain that
stops stops, and an invocation that has ended has ended. -/
structure Persists (s t : State) : Prop where
  fenced : ∀ m, m < 48 → (s.clus m).fenced = true → (t.clus m).fenced = true
  waits : ∀ m, m < 48 → (s.clus m).caller.waits = [] → (t.clus m).caller.waits = []
  cause : ∀ m, tGet s.actual m = some 5 → tGet t.actual m = some 5
  holdReq : s.beat.holdReq = true → t.beat.holdReq = true
  stops : ∀ d, d < 10 → stops s d → stops t d
  ended : s.running = false → t.running = false

section
variable {s t u : State}

theorem Persists.refl (s : State) : Persists s s := ⟨fun _ _ => id, fun _ _ => id, fun _ => id, id, fun _ _ => id, id⟩

theorem Persists.trans (h : Persists s t) (k : Persists t u) : Persists s u where
  fenced m hm := k.fenced m hm ∘ h.fenced m hm
  waits m hm := k.waits m hm ∘ h.waits m hm
  cause m := k.cause m ∘ h.cause m
  holdReq := k.holdReq ∘ h.holdReq
  stops d hd := k.stops d hd ∘ h.stops d hd
  ended := k.ended ∘ h.ended

theorem Persists.foldl {α : Type} {f : State → α → State} (hf : ∀ t a, Persists t (f t a)) (l : List α) (s : State) : Persists s (l.foldl f s) := by
  induction l generalizing s with
  | nil => exact .refl s
  | cons a l ih => exact (hf s a).trans (ih _)

theorem stops_of_dom (dom : t.dom = s.dom) (d : Nat) (h : stops s d) : stops t d := by
  simpa only [stops, State.domN, dom] using h

/-- Where clusters and causes are as before, only holds, stops and the state of the routine are in question. -/
theorem persists_of_fields (cl : t.cl = s.cl) (actual : t.actual = s.actual) (holdReq : t.beat.holdReq = s.beat.holdReq)
    (runState : t.rt.runState = s.rt.runState) (stops : ∀ d, stops s d → stops t d) : Persists s t where
  fenced m _ h := by simpa only [State.clus, cl] using h
  waits m _ h := by simpa only [State.clus, cl] using h
  cause m h := by rw [actual, h]
  holdReq h := by rw [holdReq, h]
  stops d _ := stops d
  ended h := by simpa only [State.running, runState] using h

theorem persists_of_stores (h : Stores s t) : Persists s t :=
  persists_of_fields h.cl h.actual (congrArg BeatRef.holdReq h.beat) (congrArg Routine.runState h.rt) (stops_of_dom h.dom)

theorem persists_of_records (h : Records s t) : Persists s t := persists_of_stores h.stores

/-- A change of a domain that reaches neither of its stops. -/
theorem modDom_stops {f : Dom → Dom} (hf : ∀ x, (f x).stopPend = x.stopPend ∧ (f x).stopped = x.stopped) (r d : Nat) (h : stops s d) :
    stops (s.modDom r f) d := by
  unfold stops
  rw [modDom_domN]
  split
  · next own => rwa [(hf _).1, (hf _).2, ← own.1]
  · exact h

theorem modDoms_stops {f : Dom → Dom} (hf : ∀ x, (f x).stopPend = x.stopPend ∧ (f x).stopped = x.stopped) (d : Nat) (h : stops s d) :
    stops (s.modDoms f) d := by
  unfold stops State.domN State.modDoms at *
  by_cases hd : d < 10
  · simpa only [hd, ↓reduceDIte, Vector.getElem_map, hf] using h
  · simp [hd] at h

/-- What a table reads at a key whose first entry a filter keeps. -/
theorem tGet_filter {α : Type} {l : Table α} {k : Nat} {v : α} {p : Nat × α → Bool} (h : tGet l k = some v) (kept : p (k, v) = true) :
    tGet (l.filter p) k = some v := by
  induction l with
  | nil => cases h
  | cons e l ih =>
    obtain ⟨a, b⟩ := e
    by_cases own : a = k
    · subst own
      rw [tGet, if_pos rfl] at h
      cases h
      rw [List.filter_cons_of_pos kept, tGet, if_pos rfl]
    · rw [tGet, if_neg own] at h
      by_cases stays : p (a, b) = true
      · rw [List.filter_cons_of_pos stays, tGet, if_neg own, ih h]
      · rw [List.filter_cons_of_neg stays, ih h]

section
variable (s : State)

/-- The causes of fenced clusters after an abort: those that DISABLE fenced may be ACTIVE again (R588). -/
theorem abort_actual (cls bar loc : Nat) :
    (s.abort cls bar loc).actual = s.actual.filter fun e => !(e.2 == 4 && s.base (0x8000 + e.1) 1 1 == 1) := by
  have givenUp : (discarded s cls).actual = s.endInvocation.actual := by
    unfold discarded
    split <;> rfl
  have reported : (aborted s cls bar).actual = ((discarded s cls).closeBar bar true).actual := by
    unfold aborted
    rw [reportFault_eq]
  exact (abort_records s cls bar loc).stores.actual.trans (reported.trans ((closeBar_stores ..).actual.trans (givenUp.trans rfl)))

theorem abort_running (cls bar loc : Nat) : (s.abort cls bar loc).running = false := by
  obtain ⟨rt, -⟩ := abort_spec s cls bar loc
  rw [State.running, rt]
  rfl

theorem abort_persists (cls bar loc : Nat) : Persists s (s.abort cls bar loc) := by
  obtain ⟨-, -, -, -, -, holdReq, -⟩ := abort_spec s cls bar loc
  refine ⟨fun m hm h => ?_, fun m hm _ => ?_, fun m h => ?_, fun _ => holdReq, fun d hd _ => ?_, fun _ => abort_running ..⟩
  · rw [abort_clus s cls bar loc m hm]
    exact h
  · rw [abort_clus s cls bar loc m hm]
    rfl
  · rw [abort_actual]
    exact tGet_filter h rfl
  · rw [stops, abort_domN s cls bar loc d hd]
    exact .inr rfl

/-- The state of a cluster once it is fenced (R634). -/
def cutOff (c : Cluster) : Cluster := { c.discard with fenced := true, slots := c.slots, staging := c.staging }

/-- ACTUAL once a cluster is fenced for a cause: one that is FENCED already keeps its cause (R588). -/
def causeTaken (n cause : Nat) : State :=
  if (tGet s.actual n).any fun a => a == 4 || a == 5 || a == 6 then s else { s with actual := tPut s.actual n cause }

/-- The discrepancies that have begun are noted while a routine runs (R591). -/
def discrepanciesNoted : State := if s.running then s.noteDiscrepancies else s

/-- What a fence takes from the domains: the landing registers that await the cluster's writes, its effects and its commands (R634). -/
def domainsCut (n : Nat) (ids : List Nat) (r : Nat) : State :=
  (s.modDoms fun d => { d with gates := d.gates.filter fun g => !ids.contains g.2 }).modDom r fun d =>
    { d with evs := d.evs.filter fun e => e.k.engineOf != some n
             handed := d.handed.filter fun h => !(h.ctx.pbit < 192 && h.ctx.pbit / 4 == n) }

theorem fence_eq (n cause : Nat) : ∃ ids r, s.fence n cause = domainsCut ((discrepanciesNoted (causeTaken s n cause)).modCl n cutOff) n ids r :=
  ⟨_, _, rfl⟩

theorem discrepanciesNoted_persists : Persists s (discrepanciesNoted s) := by
  unfold discrepanciesNoted
  split
  · exact persists_of_fields rfl rfl rfl rfl fun _ => id
  · exact .refl s

theorem domainsCut_persists (n : Nat) (ids : List Nat) (r : Nat) : Persists s (domainsCut s n ids r) := by
  refine persists_of_fields rfl rfl rfl rfl fun d h => ?_
  unfold domainsCut
  refine modDom_stops ?_ r d (modDoms_stops ?_ d h)
  all_goals exact fun _ => ⟨rfl, rfl⟩

theorem causeTaken_persists (n : Nat) : Persists s (causeTaken s n 5) := by
  unfold causeTaken
  split
  · exact .refl s
  · refine ⟨fun _ _ => id, fun _ _ => id, fun m h => ?_, id, fun _ _ => id, id⟩
    rw [tGet_tPut, h, ite_self]

theorem cutOff_persists (n : Nat) : Persists s (s.modCl n cutOff) := by
  refine ⟨fun m _ h => ?_, fun m _ h => ?_, fun _ => id, id, fun _ _ => id, id⟩
  all_goals
    rw [modCl_clus]
    split
    · rfl
    · exact h

theorem fence_persists (n : Nat) : Persists s (s.fence n 5) := by
  obtain ⟨ids, r, eq⟩ := fence_eq s n 5
  rw [eq]
  exact (((causeTaken_persists s n).trans (discrepanciesNoted_persists _)).trans (cutOff_persists _ n)).trans (domainsCut_persists ..)

theorem causeTaken_actual {n : Nat} (h : s.unfenced n) (cause : Nat) : tGet (causeTaken s n cause).actual n = some cause := by
  have other : ((tGet s.actual n).any fun a => a == 4 || a == 5 || a == 6) = false := by
    cases actual : tGet s.actual n with
    | none => rfl
    | some a =>
      obtain ⟨h4, h5, h6⟩ := h a actual
      simp [h4, h5, h6]
  unfold causeTaken
  rw [if_neg (by simp [other]), tGet_tPut, if_pos rfl]

/-- A cluster that is fenced for a unit fault: its waits are gone, and its cause is the fault unless it had one (R588, R634). -/
def Cut (s : State) (n : Nat) (t : State) : Prop :=
  (s.unfenced n → tGet t.actual n = some 5) ∧ (t.clus n).fenced = true ∧ (t.clus n).caller.waits = []

variable {s} in
theorem Cut.persists {n : Nat} (h : Cut s n t) (hn : n < 48) (k : Persists t u) : Cut s n u := by
  obtain ⟨cause, fenced, waits⟩ := h
  exact ⟨fun free => k.cause n (cause free), k.fenced n hn fenced, k.waits n hn waits⟩

theorem fence_cut {n : Nat} (hn : n < 48) : Cut s n (s.fence n 5) := by
  obtain ⟨ids, r, eq⟩ := fence_eq s n 5
  have noted := discrepanciesNoted_persists (causeTaken s n 5)
  have own : ((discrepanciesNoted (causeTaken s n 5)).modCl n cutOff).clus n = cutOff ((discrepanciesNoted (causeTaken s n 5)).clus n) := by
    rw [modCl_clus, if_pos ⟨rfl, hn⟩]
  have cut : Cut s n ((discrepanciesNoted (causeTaken s n 5)).modCl n cutOff) :=
    ⟨fun free => noted.cause n (causeTaken_actual s free 5), by rw [own]; rfl, by rw [own]; rfl⟩
  rw [eq]
  exact cut.persists hn (domainsCut_persists ..)

theorem abortAtBar_persists (loc : Nat) : Persists s (s.abortAtBar loc) := by
  unfold State.abortAtBar
  split
  · exact .trans (t := s.cancelItems) (persists_of_fields rfl rfl rfl rfl fun _ => id) (persists_of_records (discrepancies1_records _))
  · split
    · exact abort_persists ..
    · exact persists_of_fields rfl rfl rfl rfl fun _ => id

/-- What a fault books before it acts (R639, R640, R652). -/
theorem faultBooked (cls cause loc : Nat) (x : Ctx) (other : Nat) (detail : Bytes) :
    Records s ((s.faultLog cls cause loc x other detail).stopSnap false) :=
  (faultLog_records ..).trans (stopSnap_records ..)

theorem unitFault_persists (n cause loc : Nat) (x : Ctx) (other : Nat) (detail : Bytes) : Persists s (s.unitFault n cause loc x other detail) :=
  ((persists_of_records (faultBooked s 3 cause loc x other detail)).trans (fence_persists _ n)).trans (abortAtBar_persists ..)

theorem unitFault_cut {n : Nat} (hn : n < 48) (cause loc : Nat) (x : Ctx) (other : Nat) (detail : Bytes) :
    Cut s n (s.unitFault n cause loc x other detail) := by
  have booked := faultBooked s 3 cause loc x other detail
  have free : s.unfenced n → ((s.faultLog 3 cause loc x other detail).stopSnap false).unfenced n := fun h a ha => h a (booked.stores.actual ▸ ha)
  obtain ⟨cause, rest⟩ := fence_cut ((s.faultLog 3 cause loc x other detail).stopSnap false) hn
  exact Cut.persists ⟨cause ∘ free, rest⟩ hn (abortAtBar_persists ..)

theorem moduleFault_persists (cause loc : Nat) (x : Ctx) (detail : Bytes) : Persists s (s.moduleFault cause loc x detail) := by
  have booked := persists_of_records (faultBooked s 4 cause loc x loc detail)
  unfold State.moduleFault
  dsimp only
  split
  · exact booked.trans (abort_persists ..)
  · refine booked.trans ?_
    unfold State.widen
    split
    · exact persists_of_fields rfl rfl rfl rfl fun _ => id
    · exact .refl _

/-- A module fault ends an invocation (R636). -/
theorem moduleFault_ends (running : s.running = true) (cause loc : Nat) (x : Ctx) (detail : Bytes) :
    (s.moduleFault cause loc x detail).running = false := by
  have runs : ((s.faultLog 4 cause loc x loc detail).stopSnap false).running = true := by
    rw [State.running, (faultBooked s 4 cause loc x loc detail).stores.rt]
    exact running
  unfold State.moduleFault
  dsimp only
  rw [if_pos runs, abort_running]

end

end

/-! ## A hold is raised (R53, R61, R285) -/

/-- Hold has been raised, and a domain has stopped or stops at its next step boundary. -/
def Held (d : Nat) (s : State) : Prop := s.beat.holdReq = true ∧ stops s d

section
variable {s t : State} {d w : Nat}

theorem Held.persists (hd : d < 10) (h : Held d s) (k : Persists s t) : Held d t := ⟨k.holdReq h.1, k.stops d hd h.2⟩

theorem raiseHold_of_domain (s : State) (cause who loc e : Nat) (x : Ctx) : s.raiseHold cause who loc (some e) x =
    (s.raiseHold cause who loc none x).modDom e fun y => { y with stopPend := true } := rfl

/-- Hold that a domain raises stops that domain, and leaves any other as it was (R61). -/
theorem raiseHold_held (s : State) (cause who loc e : Nat) (x : Ctx) (hd : d < 10) (stopping : e = d ∨ Held d s) :
    Held d (s.raiseHold cause who loc (some e) x) := by
  obtain ⟨beat, dom, -⟩ := raiseHold_fields s cause who loc x
  rw [raiseHold_of_domain]
  refine ⟨congrArg BeatRef.holdReq beat, ?_⟩
  unfold stops
  rw [modDom_domN]
  split
  · exact .inl rfl
  · next other =>
    obtain rfl | ⟨-, before⟩ := stopping
    · exact absurd ⟨rfl, hd⟩ other
    · exact stops_of_dom dom d before

theorem held_of_fields (beat : t.beat = s.beat) (dom : t.dom = s.dom) (h : Held d s) : Held d t :=
  ⟨by rw [beat]; exact h.1, stops_of_dom dom d h.2⟩

variable (hd : d < 10)
include hd

/-- A hold that a domain raises once a caller or a cluster has noted that it holds. -/
theorem raiseHold_noted (beat : t.beat = s.beat) (dom : t.dom = s.dom) {e : Nat} (own : e = d ∨ Held d s) (cause who loc : Nat) (x : Ctx) :
    Held d (t.raiseHold cause who loc (some e) x) := raiseHold_held t _ _ _ _ _ hd (own.imp_right (held_of_fields beat dom))

theorem expireWait_held (q : Wait) (own : s.domOf w = d ∨ Held d s) : Held d (s.expireWait w q) := by
  have raised := fun f => raiseHold_noted (t := s.modCaller w f) hd rfl rfl own
  unfold State.expireWait
  dsimp only
  split
  · exact (raised ..).persists hd (unitFault_persists ..)
  · exact raised ..

theorem expireFence_held (f : Fence) (own : s.domOf w = d ∨ Held d s) : Held d (s.expireFence w f) :=
  raiseHold_noted (t := s.modCaller w _) hd rfl rfl own ..

theorem expirePlace_held (q : Placing) (own : s.regionOf w = d ∨ Held d s) : Held d (s.expirePlace w q) :=
  raiseHold_noted (t := s.modCl w _) hd rfl rfl own ..

theorem expireRotate_held (q : Rotating) (own : s.regionOf w = d ∨ Held d s) : Held d (s.expireRotate w q) :=
  raiseHold_noted (t := s.modCl w _) hd rfl rfl own ..

end

/-! ## The callers of a domain, one after another (R285, R294, R314, R323) -/

section
variable {s t u : State} {d w : Nat}

/-- A step that changes nothing, or leaves a hold. -/
def Raises (d : Nat) (s t : State) : Prop := t = s ∨ Held d t

theorem Raises.held (h : Raises d s t) (before : Held d s) : Held d t := h.elim (· ▸ before) id

/-- A step of a caller whose domain is known, or in which a hold stands already, after another such step. -/
theorem Raises.andThen (h : Raises d s t) (own : s.domOf w = d ∨ Held d s) (k : t.domOf w = d ∨ Held d t → Raises d t u) : Raises d s u := by
  obtain rfl | held := h
  · exact k own
  · exact .inr ((k (.inr held)).held held)

section
variable {α : Type} {f : State → α → State} {caller : α → Nat}

theorem foldl_raises (hf : ∀ t a, t.domOf (caller a) = d ∨ Held d t → Raises d t (f t a)) (l : List α) {s : State}
    (own : ∀ a ∈ l, s.domOf (caller a) = d ∨ Held d s) : Raises d s (l.foldl f s) := by
  induction l generalizing s with
  | nil => exact .inl rfl
  | cons a l ih =>
    rw [List.foldl_cons]
    obtain same | held := hf s a (own a List.mem_cons_self)
    · rw [same]
      exact ih fun b hb => own b (List.mem_cons_of_mem a hb)
    · exact .inr ((ih fun _ _ => .inr held).held held)

/-- One element whose step leaves a hold is enough. -/
theorem foldl_held (hf : ∀ t a, t.domOf (caller a) = d ∨ Held d t → Raises d t (f t a)) {l : List α} {s : State}
    (own : ∀ a ∈ l, s.domOf (caller a) = d ∨ Held d s) {a : α} (mem : a ∈ l) (hit : Held d (f s a)) : Held d (l.foldl f s) := by
  induction l with
  | nil => cases mem
  | cons b l ih =>
    rw [List.foldl_cons]
    have rest : Held d (f s b) → Held d (l.foldl f (f s b)) := fun held => (foldl_raises hf l fun _ _ => .inr held).held held
    obtain rfl | later := List.mem_cons.1 mem
    · exact rest hit
    · obtain same | held := hf s b (own b List.mem_cons_self)
      · rw [same]
        exact ih (fun c hc => own c (List.mem_cons_of_mem b hc)) later
      · exact rest held

end

/-- The waits of a caller that have stalled for their DEADLINE with what they wait for absent, and hold nothing yet (R285, R314). -/
def waitsOverdue (s : State) (w : Nat) : List Wait :=
  (s.caller w).waits.filter fun q => q.held.isNone && q.deadline ≤ q.stalls && s.lacks w q

/-- The overdue waits of a caller raise hold. -/
def expireWaits (s : State) (w : Nat) : State := (waitsOverdue s w).foldl (fun s q => s.expireWait w q) s

/-- The FENCE of a caller that has stalled for its DEADLINE (R323). -/
def expireOwnFence (s : State) (w : Nat) : State :=
  match (s.caller w).fence with
  | some f => if f.held.isNone && f.deadline ≤ f.stalls then s.expireFence w f else s
  | none => s

/-- The placements of a cluster whose granules stay absent for their DEADLINE (R285, R288). -/
def placesOverdue (s : State) (w : Nat) : List Placing :=
  (s.clus w).placing.filter fun q => q.held.isNone && q.deadline ≤ q.stalls && q.stalls != 0 && !(s.clus w).placeReady q

/-- The overdue placements of a cluster raise hold. -/
def expirePlaces (s : State) (w : Nat) : State := (placesOverdue s w).foldl (fun s q => s.expirePlace w q) s

/-- The rotations of a cluster whose granules stay absent for their DEADLINE (R294). -/
def rotatesOverdue (s : State) (w : Nat) : List Rotating :=
  (s.clus w).rotating.filter fun q => q.held.isNone && q.deadline ≤ q.stalls && !(s.clus w).rotReady q

/-- The overdue rotations of a cluster raise hold. -/
def expireRotates (s : State) (w : Nat) : State := (rotatesOverdue s w).foldl (fun s q => s.expireRotate w q) s

/-- What a caller has that expires. -/
def expireCaller (s : State) (w : Nat) : State :=
  let t := expireOwnFence (expireWaits s w) w
  if w < 48 then expireRotates (expirePlaces t w) w else t

theorem expire_eq (s : State) (d : Nat) : s.expire d = (s.callersOf d).foldl expireCaller s := rfl

theorem regionOf_of_own (cluster : w < 48) (own : s.domOf w = d ∨ Held d s) : s.regionOf w = d ∨ Held d s :=
  own.imp_left fun h => (if_pos cluster).symm.trans h

section
variable (hd : d < 10)
include hd

theorem expireWaits_raises (own : s.domOf w = d ∨ Held d s) : Raises d s (expireWaits s w) :=
  foldl_raises (caller := fun _ => w) (fun _ q k => .inr (expireWait_held hd q k)) _ fun _ _ => own

theorem expireOwnFence_raises (own : s.domOf w = d ∨ Held d s) : Raises d s (expireOwnFence s w) := by
  unfold expireOwnFence
  split
  · split
    · exact .inr (expireFence_held hd _ own)
    · exact .inl rfl
  · exact .inl rfl

theorem expirePlaces_raises (cluster : w < 48) (own : s.domOf w = d ∨ Held d s) : Raises d s (expirePlaces s w) :=
  foldl_raises (caller := fun _ => w) (fun _ q k => .inr (expirePlace_held hd q (regionOf_of_own cluster k))) _ fun _ _ => own

theorem expireRotates_raises (cluster : w < 48) (own : s.domOf w = d ∨ Held d s) : Raises d s (expireRotates s w) :=
  foldl_raises (caller := fun _ => w) (fun _ q k => .inr (expireRotate_held hd q (regionOf_of_own cluster k))) _ fun _ _ => own

/-- What follows the waits of a caller. -/
theorem expireCaller_after_waits (own : (expireWaits s w).domOf w = d ∨ Held d (expireWaits s w)) :
    Raises d (expireWaits s w) (expireCaller s w) := by
  have fence := expireOwnFence_raises hd own
  unfold expireCaller
  dsimp only
  split
  · next cluster => exact fence.andThen own fun k => (expirePlaces_raises hd cluster k).andThen k (expireRotates_raises hd cluster)
  · exact fence

theorem expireCaller_raises (own : s.domOf w = d ∨ Held d s) : Raises d s (expireCaller s w) :=
  (expireWaits_raises hd own).andThen own (expireCaller_after_waits hd)

/-- A caller with a wait that expires raises hold (R285). -/
theorem expireCaller_held (own : s.domOf w = d) {q : Wait} (overdue : q ∈ waitsOverdue s w) : Held d (expireCaller s w) := by
  have held : Held d (expireWaits s w) := foldl_held (caller := fun _ => w) (fun _ q k => .inr (expireWait_held hd q k)) (fun _ _ => .inl own)
    overdue (expireWait_held hd q (.inl own))
  exact (expireCaller_after_waits hd (.inr held)).held held

end

theorem mem_waitsOverdue {q : Wait} :
    q ∈ waitsOverdue s w ↔ q ∈ (s.caller w).waits ∧ q.held = none ∧ q.deadline ≤ q.stalls ∧ s.waitReady w q.form = false := by
  simp [waitsOverdue, State.lacks, and_assoc]

theorem mem_placesOverdue {q : Placing} : q ∈ placesOverdue s w ↔
    q ∈ (s.clus w).placing ∧ q.held = none ∧ q.deadline ≤ q.stalls ∧ q.stalls ≠ 0 ∧ (s.clus w).placeReady q = false := by
  simp [placesOverdue, and_assoc]

theorem mem_rotatesOverdue {q : Rotating} :
    q ∈ rotatesOverdue s w ↔ q ∈ (s.clus w).rotating ∧ q.held = none ∧ q.deadline ≤ q.stalls ∧ (s.clus w).rotReady q = false := by
  simp [rotatesOverdue, and_assoc]

/-- A caller of which nothing expires. -/
structure NoneOverdue (s : State) (w : Nat) : Prop where
  waits : ∀ q ∈ (s.caller w).waits, q.held ≠ none ∨ q.stalls < q.deadline ∨ s.waitReady w q.form = true
  fence : ∀ f, (s.caller w).fence = some f → f.held ≠ none ∨ f.stalls < f.deadline
  rotates : w < 48 → ∀ q ∈ (s.clus w).rotating, q.held ≠ none ∨ q.stalls < q.deadline ∨ (s.clus w).rotReady q = true
  places : w < 48 → ∀ q ∈ (s.clus w).placing, q.held ≠ none ∨ q.stalls < q.deadline ∨ q.stalls = 0 ∨ (s.clus w).placeReady q = true

section
variable (h : NoneOverdue s w)
include h

theorem expireWaits_idle : expireWaits s w = s := by
  have none : waitsOverdue s w = [] := List.eq_nil_iff_forall_not_mem.2 fun q hq => by
    obtain ⟨mem, idle, late, absent⟩ := mem_waitsOverdue.1 hq
    obtain held | early | ready := h.waits q mem
    · exact held idle
    · omega
    · simp [absent] at ready
  rw [expireWaits, none, List.foldl_nil]

theorem expireOwnFence_idle : expireOwnFence s w = s := by
  unfold expireOwnFence
  split
  · next f hf =>
    refine if_neg fun due => ?_
    simp only [Bool.and_eq_true, Option.isNone_iff_eq_none, decide_eq_true_eq] at due
    obtain held | early := h.fence f hf
    · exact held due.1
    · omega
  · rfl

theorem expirePlaces_idle (cluster : w < 48) : expirePlaces s w = s := by
  have none : placesOverdue s w = [] := List.eq_nil_iff_forall_not_mem.2 fun q hq => by
    obtain ⟨mem, idle, late, stalled, absent⟩ := mem_placesOverdue.1 hq
    obtain held | early | never | ready := h.places cluster q mem
    · exact held idle
    · omega
    · exact stalled never
    · simp [absent] at ready
  rw [expirePlaces, none, List.foldl_nil]

theorem expireRotates_idle (cluster : w < 48) : expireRotates s w = s := by
  have none : rotatesOverdue s w = [] := List.eq_nil_iff_forall_not_mem.2 fun q hq => by
    obtain ⟨mem, idle, late, absent⟩ := mem_rotatesOverdue.1 hq
    obtain held | early | ready := h.rotates cluster q mem
    · exact held idle
    · omega
    · simp [absent] at ready
  rw [expireRotates, none, List.foldl_nil]

theorem expireCaller_idle : expireCaller s w = s := by
  unfold expireCaller
  rw [expireWaits_idle h, expireOwnFence_idle h]
  dsimp only
  split
  · next cluster => rw [expirePlaces_idle h cluster, expireRotates_idle h cluster]
  · rfl

end

/-- The callers of a domain are the clusters of a region, or the sequencer of a die; their commands issue in that domain (R14, R100). -/
theorem domOf_of_mem_callersOf {d : Fin 10} (h : w ∈ s.callersOf d) : s.domOf w = d := by
  unfold State.callersOf at h
  unfold State.domOf
  by_cases region : d.val < 8
  · rw [if_pos region, mem_ofRegion] at h
    obtain ⟨logical, own⟩ := h
    have few : s.lcMax ≤ 48 := (List.length_filter_le ..).trans_eq List.length_range
    rw [if_pos (by omega), own]
  · rw [if_neg region, List.mem_singleton] at h
    rw [if_neg (by omega)]
    omega

end

/-! ## Holds of 4,096 beat boundaries (R286) -/

section
variable {s t : State} {now d w : Nat}

/-- A hold has lasted 4,096 beat boundaries by a boundary count. -/
def tooLong (now : Nat) (h : Option Nat) : Bool := h.any fun b => b + 4096 ≤ now

/-- What a caller has that has held for too long: a wait first, then a FENCE, a rotation, a placement. -/
def timeOut (now : Nat) (s : State) (w : Nat) : State :=
  match (s.caller w).waits.find? fun q => tooLong now q.held with
  | some q => s.waitFault w q.form.codes.1 q.form.codes.2 q.ctx
  | none => match (s.caller w).fence with
    | some f => if tooLong now f.held then s.waitFault w 0 0 f.ctx else s
    | none => match (if w < 48 then (s.clus w).rotating else []).find? fun q => tooLong now q.held with
      | some q => s.waitFault w 0 31 q.ctx
      | none => match (if w < 48 then (s.clus w).placing else []).find? fun q => tooLong now q.held with
        | some q => s.waitFault w 0 q.st q.ctx
        | none => s

theorem waitTimeouts_eq (s : State) (d : Nat) : s.waitTimeouts d = (s.callersOf d).foldl (timeOut s.beat.boundaries) s := rfl

/-- A caller of which nothing has held for too long. -/
structure NoneTooLong (now : Nat) (s : State) (w : Nat) : Prop where
  waits : ∀ q ∈ (s.caller w).waits, tooLong now q.held = false
  fence : ∀ f, (s.caller w).fence = some f → tooLong now f.held = false
  rotates : w < 48 → ∀ q ∈ (s.clus w).rotating, tooLong now q.held = false
  places : w < 48 → ∀ q ∈ (s.clus w).placing, tooLong now q.held = false

theorem noneTooLong_of (h : (∀ q ∈ (s.caller w).waits, tooLong now q.held = false)
    ∧ (∀ f, (s.caller w).fence = some f → tooLong now f.held = false)
    ∧ (w < 48 → (∀ q ∈ (s.clus w).rotating, tooLong now q.held = false) ∧ ∀ q ∈ (s.clus w).placing, tooLong now q.held = false)) :
    NoneTooLong now s w := by
  obtain ⟨waits, fence, cluster⟩ := h
  exact ⟨waits, fence, fun hc => (cluster hc).1, fun hc => (cluster hc).2⟩

theorem timeOut_idle (h : NoneTooLong now s w) : timeOut now s w = s := by
  have waits : ((s.caller w).waits.find? fun q => tooLong now q.held) = none := by simpa using h.waits
  have rotates : ((if w < 48 then (s.clus w).rotating else []).find? fun q => tooLong now q.held) = none := by
    split
    · next cluster => simpa using h.rotates cluster
    · rfl
  have places : ((if w < 48 then (s.clus w).placing else []).find? fun q => tooLong now q.held) = none := by
    split
    · next cluster => simpa using h.places cluster
    · rfl
  unfold timeOut
  rw [waits, rotates, places]
  cases hf : (s.caller w).fence with
  | none => rfl
  | some f => exact if_neg (by simp [h.fence f hf])

theorem timeOut_wait {q : Wait} (h : ((s.caller w).waits.find? fun q => tooLong now q.held) = some q) :
    timeOut now s w = s.waitFault w q.form.codes.1 q.form.codes.2 q.ctx := by
  unfold timeOut
  rw [h]

theorem waitFault_persists (s : State) (w form num : Nat) (x : Ctx) : Persists s (s.waitFault w form num x) := by
  unfold State.waitFault
  dsimp only
  split
  · exact unitFault_persists ..
  · exact moduleFault_persists ..

theorem timeOut_persists (now : Nat) (s : State) (w : Nat) : Persists s (timeOut now s w) := by
  unfold timeOut
  split
  · exact waitFault_persists ..
  · split
    · split
      · exact waitFault_persists ..
      · exact .refl s
    · split
      · exact waitFault_persists ..
      · split
        · exact waitFault_persists ..
        · exact .refl s

/-- The fault of a cluster is a unit fault (R286, R634). -/
theorem waitFault_cut (cluster : w < 48) (form num : Nat) (x : Ctx) : Cut s w (s.waitFault w form num x) := by
  unfold State.waitFault
  dsimp only
  rw [if_pos cluster]
  exact unitFault_cut s cluster ..

/-- The fault of a sequencer is a module fault (R286, R636). -/
theorem waitFault_ends (sequencer : 48 ≤ w) (running : s.running = true) (form num : Nat) (x : Ctx) :
    (s.waitFault w form num x).running = false := by
  unfold State.waitFault
  dsimp only
  rw [if_neg (Nat.not_lt.2 sequencer)]
  exact moduleFault_ends s running ..

/-- Where nothing before a caller has held for too long, its own wait comes first, and no later fault takes back what that leaves. -/
theorem waitTimeouts_first {before later : List Nat} {q : Wait} (callers : s.callersOf d = before ++ w :: later)
    (idle : ∀ v ∈ before, NoneTooLong s.beat.boundaries s v)
    (first : ((s.caller w).waits.find? fun q => tooLong s.beat.boundaries q.held) = some q) :
    Persists (s.waitFault w q.form.codes.1 q.form.codes.2 q.ctx) (s.waitTimeouts d) := by
  rw [waitTimeouts_eq, callers, List.foldl_append, foldl_unchanged before fun v hv => timeOut_idle (idle v hv), List.foldl_cons, timeOut_wait first]
  exact .foldl (timeOut_persists _) later _

end

/-- Settles O25, by `expireCaller_held` and `expireCaller_idle` for the DEADLINE, by `timeOut_idle` and `waitTimeouts_first` for the 4,096 boundaries. -/
theorem deadlinesRaiseHold : Obligations.DeadlinesRaiseHold := by
  intro s d
  refine ⟨fun ⟨w, hw, q, hq, idle, late, absent⟩ => ⟨_, rfl, ?_⟩, fun none => ?_, fun none => ?_,
    fun before w later q callers none first => ⟨_, rfl, ?_⟩⟩
  · have raises : ∀ t v, t.domOf v = d.val ∨ Held d t → Raises d t (expireCaller t v) := fun t v => expireCaller_raises d.isLt
    have own : s.domOf w = d := domOf_of_mem_callersOf hw
    have held := expireCaller_held d.isLt own (mem_waitsOverdue.2 ⟨hq, idle, late, absent⟩)
    exact foldl_held (caller := id) raises (fun v hv => .inl (domOf_of_mem_callersOf hv)) hw held
  · refine congrArg (commit s) (foldl_unchanged _ fun w hw => expireCaller_idle ?_)
    obtain ⟨waits, fence, cluster⟩ := none w hw
    exact ⟨waits, fence, fun hc => (cluster hc).1, fun hc => (cluster hc).2⟩
  · exact congrArg (commit s) (foldl_unchanged _ fun w hw => timeOut_idle (noneTooLong_of (none w hw)))
  · have rest := waitTimeouts_first callers (fun v hv => noneTooLong_of (none v hv)) first
    refine ⟨fun cluster => ?_, fun sequencer running => rest.ended (waitFault_ends sequencer running ..)⟩
    obtain ⟨cause, fenced, waits⟩ := (waitFault_cut cluster ..).persists cluster rest
    have caller : (s.waitTimeouts d).caller w = ((s.waitTimeouts d).clus w).caller := if_pos cluster
    exact ⟨cause, fenced, by rw [caller, waits]⟩

end Sys2Proof.Proofs.WaitHolds
end

section
/-! The proof of O26: a request becomes outstanding or brings the zeros of a bad entry, and bank memory answers by the granule that it holds, or by the
bursts that the first read did not decode. -/

namespace Sys2Proof.Proofs.Granules

open Sys2Proof Sys2Proof.Machine Sys2Proof.Laws Sys2Proof.Proofs.HostService Sys2Proof.Proofs.BeatRecords

/-! ## Reads of bank memory with wrong symbols (R440, R443-R445) -/

section
variable {s t : State} {a b : Nat}

/-- Every read of a burst decodes it: no defect, and one stored symbol wrong at most (R443, R444). -/
def Readable (s : State) (b : Nat) : Prop := ∀ e, tGet s.bankErr b = some e → e.defect = 0 ∧ wrongCount e.stored ≤ 1

/-- No read of a burst decodes it: no defect, and two or three stored symbols wrong (R443). -/
def Unreadable (s : State) (b : Nat) : Prop := ∃ e, tGet s.bankErr b = some e ∧ e.defect = 0 ∧ 2 ≤ wrongCount e.stored ∧ wrongCount e.stored ≤ 3

theorem Readable.served (h : Readable s b) (k : Served s t) : Readable t b := fun e he => h e (k.bankErr ▸ he)

theorem Unreadable.served (h : Unreadable s b) (k : Served s t) : Unreadable t b := by
  unfold Unreadable
  rw [k.bankErr]
  exact h

/-- Without a defect, a read finds wrong what is stored wrong. -/
theorem burstWrong_of_stored {e : BurstErr} (h : tGet s.bankErr b = some e) (sound : e.defect = 0) : s.burstWrong b = (e.stored, s) := by
  unfold State.burstWrong
  rw [h]
  exact if_pos sound

/-- The bytes of a burst as they are stored. -/
def burstBytes (s : State) (b : Nat) : Bytes := readMem s.bank (32 * b) 32

theorem burstBytes_of_served (h : Served s t) (b : Nat) : burstBytes t b = burstBytes s b := by rw [burstBytes, h.bank, burstBytes]

theorem burstRead_readable (h : Readable s b) (share : Nat) : ∃ c t, Served s t ∧ s.burstRead b share = (some (burstBytes s b, c), t) := by
  have served := useBurst_served s (burstSc b) share
  have wrong : ∃ w, (s.useBurst (burstSc b) share).burstWrong b = (w, s.useBurst (burstSc b) share) ∧ wrongCount w ≤ 1 := by
    cases err : tGet s.bankErr b with
    | none =>
      refine ⟨0, ?_, by decide⟩
      unfold State.burstWrong
      rw [served.bankErr, err]
    | some e =>
      obtain ⟨sound, few⟩ := h e err
      exact ⟨e.stored, burstWrong_of_stored (by rw [served.bankErr, err]) sound, few⟩
  obtain ⟨w, found, few⟩ := wrong
  have stored : ((s.useBurst (burstSc b) share).burstStored b).1 = burstBytes s b := burstBytes_of_served served b
  unfold State.burstRead
  rw [found]
  dsimp only
  rw [stored]
  by_cases none : wrongCount w = 0
  · exact ⟨false, _, served, if_pos none⟩
  · exact ⟨true, _, served, (if_neg none).trans (if_pos (by omega))⟩

theorem burstRead_unreadable (h : Unreadable s b) (share : Nat) : ∃ t, Served s t ∧ s.burstRead b share = (none, t) := by
  obtain ⟨e, err, sound, many, few⟩ := h
  refine ⟨_, useBurst_served s (burstSc b) share, ?_⟩
  unfold State.burstRead
  rw [burstWrong_of_stored (by rw [(useBurst_served ..).bankErr, err]) sound]
  dsimp only
  rw [if_neg (by omega), if_neg (by omega), if_pos few]

/-- A second read of a burst: it is read where the first read failed, and stands as stored where it did not (R445). -/
theorem burstAgain_readable (h : Readable s b) (bad : List Nat) (loc : Nat) :
    ∃ c t, Served s t ∧ s.burstAgain bad b loc = (some (burstBytes s b, c), t) := by
  unfold State.burstAgain
  by_cases failed : bad.contains b = true
  · have counted : Served s (s.count 0x9007 3 1) := ⟨rfl⟩
    obtain ⟨c, t, served, read⟩ := burstRead_readable (h.served counted) (shareOf loc)
    rw [if_pos failed, read, burstBytes_of_served counted]
    exact ⟨true, t, counted.trans served, rfl⟩
  · rw [if_neg failed]
    exact ⟨false, s, .refl s, rfl⟩

/-- The plaintext of a granule from the bytes of its bursts, whatever has been served meanwhile (R440, R441). -/
theorem granuleOf_bytes (h : Served s t) (a : Nat) (c d : Bool) :
    ∃ u, Served s u ∧ t.granuleOf a (burstBytes s (a / 64 * 2), c) (burstBytes s (a / 64 * 2 + 1), d) = (granulePlain s a, u) := by
  unfold State.granuleOf
  dsimp only
  rw [h.pageCrypt]
  split
  · exact ⟨_, h.trans ⟨rfl⟩, rfl⟩
  · exact ⟨_, h, rfl⟩

theorem forall_burstsOf {p : Nat → Prop} (h : ∀ b ∈ burstsOf a, p b) : p (a / 64 * 2) ∧ p (a / 64 * 2 + 1) :=
  ⟨h _ (by simp [burstsOf]), h _ (by simp [burstsOf])⟩

/-- A first read of a granule whose bursts it decodes (R440). -/
theorem granuleOnce_readable (h : ∀ b ∈ burstsOf a, Readable s b) (loc : Nat) :
    ∃ t, Served s t ∧ s.granuleOnce a loc = ([], granulePlain s a, t) := by
  obtain ⟨low, high⟩ := forall_burstsOf h
  obtain ⟨c, t, first, read⟩ := burstRead_readable low (shareOf loc)
  obtain ⟨d, u, second, read'⟩ := burstRead_readable (high.served first) (shareOf loc)
  obtain ⟨v, served, plain⟩ := granuleOf_bytes (first.trans second) a c d
  refine ⟨v, served, ?_⟩
  unfold State.granuleOnce
  dsimp only
  rw [read]
  dsimp only
  rw [read', burstBytes_of_served first]
  dsimp only
  rw [plain]

/-- A first read of a granule of which it decodes neither burst (R445). -/
theorem granuleOnce_unreadable (h : ∀ b ∈ burstsOf a, Unreadable s b) (loc : Nat) :
    ∃ t, Served s t ∧ s.granuleOnce a loc = (burstsOf a, [], t) := by
  obtain ⟨low, high⟩ := forall_burstsOf h
  obtain ⟨t, first, read⟩ := burstRead_unreadable low (shareOf loc)
  obtain ⟨u, second, read'⟩ := burstRead_unreadable (high.served first) (shareOf loc)
  refine ⟨u, first.trans second, ?_⟩
  unfold State.granuleOnce
  dsimp only
  rw [read]
  dsimp only
  rw [read']
  rfl

/-- A second read of a granule whose bursts it decodes (R445). -/
theorem granuleAgain_readable (h : ∀ b ∈ burstsOf a, Readable s b) (bad : List Nat) (loc : Nat) :
    ∃ t, Served s t ∧ s.granuleAgain bad a loc = (.ok (granulePlain s a), t) := by
  obtain ⟨low, high⟩ := forall_burstsOf h
  obtain ⟨c, t, first, read⟩ := burstAgain_readable low bad loc
  obtain ⟨d, u, second, read'⟩ := burstAgain_readable (high.served first) bad loc
  obtain ⟨v, served, plain⟩ := granuleOf_bytes (first.trans second) a c d
  refine ⟨v, served, ?_⟩
  unfold State.granuleAgain
  dsimp only
  rw [read]
  dsimp only
  rw [read', burstBytes_of_served first]
  dsimp only
  rw [plain]

/-- A granule lies in its two bursts, one after the other (R432). -/
theorem readMem_granule (m : Mem) (a : Nat) :
    readMem m (a / 64 * 64) 64 = readMem m (32 * (a / 64 * 2)) 32 ++ readMem m (32 * (a / 64 * 2 + 1)) 32 := by
  have low : 32 * (a / 64 * 2) = a / 64 * 64 := by omega
  have high : ∀ i, 32 * (a / 64 * 2 + 1) + i = a / 64 * 64 + (32 + i) := fun i => by omega
  simp only [readMem_eq, low, high]
  rw [show 64 = 32 + 32 from rfl, List.range_add, List.map_append, List.map_map]
  rfl

theorem granulePlain_eq (s : State) (a : Nat) : granulePlain s a = s.pageCrypt false (a / 64 * 64) (readMem s.bank (a / 64 * 64) 64) := by
  rw [readMem_granule]
  rfl

end

/-! ## A granule enters staging (R276, R278, R285, R320) -/

section
variable {s t u : State} {n m : Nat}

/-- From `s` to `t` a counter, the books of a BULK command and the holds of placements change. -/
structure Enters (s t : State) : Prop where
  eq : t = { s with cl := t.cl, bulks := t.bulks, beat := t.beat, counters := t.counters }
  clus : ∀ k, t.clus k = { s.clus k with placing := (t.clus k).placing, rotating := (t.clus k).rotating }

theorem Enters.trans (h : Enters s t) (k : Enters t u) : Enters s u where
  eq := k.eq.trans (by rw [h.eq])
  clus m := by rw [k.clus m, h.clus m]

theorem Enters.staging (h : Enters s t) (k : Nat) : (t.clus k).staging = (s.clus k).staging := by rw [h.clus]
theorem Enters.mover (h : Enters s t) (k m : Nat) : (t.clus k).mover m = (s.clus k).mover m := by rw [h.clus]; rfl
theorem Enters.floor (h : Enters s t) (k : Nat) : (t.clus k).floor = (s.clus k).floor := by rw [h.clus]
theorem Enters.bank (h : Enters s t) : t.bank = s.bank := by rw [h.eq]

theorem easeHolds_enters (s : State) (n : Nat) : Enters s (s.easeHolds n) := by
  have settled : ∀ t : State, Enters t (t.settleWait n) := fun t => by
    unfold State.settleWait
    split
    · exact ⟨rfl, fun _ => rfl⟩
    · exact ⟨rfl, fun _ => rfl⟩
  unfold State.easeHolds
  dsimp only
  split
  · refine .trans ⟨rfl, fun k => ?_⟩ (settled _)
    rw [modCl_clus]
    split
    · next own => rw [own.1]
    · rfl
  · exact ⟨rfl, fun _ => rfl⟩

/-- What the entry of a granule means to its BULK command and to the placements that wait for it. -/
def noted (s : State) (n job index : Nat) (data : Bytes) : State := ((s.bulkData job index data).bulkAcked job n).easeHolds n

theorem noted_enters (s : State) (n job index : Nat) (data : Bytes) : Enters s (noted s n job index data) := by
  have booked : Enters s ((s.bulkData job index data).bulkAcked job n) := ⟨rfl, fun _ => rfl⟩
  exact booked.trans (easeHolds_enters ..)

/-- A cluster with a granule as the last in staging. -/
def broughtIn (g : Staged) (c : Cluster) : Cluster := { c with staging := c.staging ++ [g] }

/-- The granule that a request brings (R278, R288). -/
def granuleOfReq (s : State) (m : Nat) (r q : Req) (d : Bytes) : Staged :=
  { stream := r.stream, index := r.index, guard := r.guard, data := d, src := some q, mover := m, born := s.det.ackNo }

/-- The granule of a request is in staging, after a change of its mover. -/
def delivered (s : State) (n m : Nat) (r q : Req) (f : Mover → Mover) (d : Bytes) : State :=
  (s.modMv n m f).modCl n (broughtIn (granuleOfReq s m r q d))

section
variable (hn : n < 48) (hm : m < 2)
include hn hm

theorem modMv_mover (s : State) (f : Mover → Mover) : ((s.modMv n m f).clus n).mover m = f ((s.clus n).mover m) := by
  unfold State.modMv
  rw [modCl_clus, if_pos ⟨rfl, hn⟩]
  unfold Cluster.mover
  rw [dif_pos hm, dif_pos hm, vmod_get, if_pos rfl]

theorem delivered_spec (s : State) (r q : Req) (f : Mover → Mover) (d : Bytes) {t : State} (enters : Enters (delivered s n m r q f d) t) :
    (t.clus n).staging = (s.clus n).staging ++ [granuleOfReq s m r q d] ∧ (t.clus n).mover m = f ((s.clus n).mover m) ∧ t.bank = s.bank
      ∧ (t.clus n).floor = (s.clus n).floor := by
  have own : (delivered s n m r q f d).clus n = broughtIn (granuleOfReq s m r q d) ((s.modMv n m f).clus n) := by
    unfold delivered
    rw [modCl_clus, if_pos ⟨rfl, hn⟩]
  have moved : (s.modMv n m f).clus n = { s.clus n with movers := vmod (s.clus n).movers m f } := by
    unfold State.modMv
    rw [modCl_clus, if_pos ⟨rfl, hn⟩]
  refine ⟨?_, ?_, enters.bank, ?_⟩
  · rw [enters.staging, own, moved]
    rfl
  · rw [enters.mover, own]
    exact modMv_mover hn hm s f
  · rw [enters.floor, own, moved]
    rfl

end

/-! ## The request side (R276, R280, R288) -/

section
variable {r : Req} {rest : List Req} (head : ((s.clus n).mover m).reqs = r :: rest)
include head

/-- Whether staging has room for the granule of a request (R278, R288). -/
def fits (s : State) (n : Nat) (r : Req) : Bool := r.kept || (s.clus n).used false < 2048

/-- A request that keeps the reservation of a discarded granule is counted (R288). -/
def recounted (s : State) (r : Req) : State := if r.kept then s.count 0x9003 5 1 else s

theorem granuleRequest_eq : s.granuleRequest n m =
    if fits s n r then
      match r.addr with
      | none => noted (recounted (delivered s n m r { r with job := 0 } (fun v => { v with reqs := rest }) (List.replicate 64 0)) r) n r.job r.index
          (List.replicate 64 0)
      | some _ =>
        if ((s.clus n).mover m).roomFor then
          (recounted s r).modMv n m fun v => { v with reqs := rest, out := v.out ++ [{ r with kept := false }] }
        else s
    else s := by
  unfold State.granuleRequest
  dsimp only
  rw [head]
  dsimp only
  rw [show (r.kept || decide ((s.clus n).used false < 2048)) = fits s n r from rfl]
  cases fits s n r with
  | false => rfl
  | true => cases r.addr <;> rfl

theorem granuleRequest_full (full : fits s n r = false) : s.granuleRequest n m = s := by
  rw [granuleRequest_eq head, if_neg (by simp [full])]

theorem granuleRequest_blocked (real : r.addr ≠ none) (busy : ((s.clus n).mover m).roomFor = false) : s.granuleRequest n m = s := by
  obtain ⟨a, addr⟩ := Option.ne_none_iff_exists'.1 real
  rw [granuleRequest_eq head, addr]
  simp [busy]

theorem granuleRequest_issues {a : Nat} (addr : r.addr = some a) (free : ((s.clus n).mover m).roomFor = true) (room : fits s n r = true) :
    s.granuleRequest n m = (recounted s r).modMv n m fun v => { v with reqs := rest, out := v.out ++ [{ r with kept := false }] } := by
  rw [granuleRequest_eq head, addr, if_pos room]
  exact if_pos free

theorem granuleRequest_zeros (bad : r.addr = none) (room : fits s n r = true) : s.granuleRequest n m =
    noted (recounted (delivered s n m r { r with job := 0 } (fun v => { v with reqs := rest }) (List.replicate 64 0)) r) n r.job r.index
      (List.replicate 64 0) := by
  rw [granuleRequest_eq head, bad, if_pos room]

end

theorem fits_iff {r : Req} : fits s n r = true ↔ r.kept = true ∨ (s.clus n).used false < 2048 := by simp [fits]

theorem fits_eq_false {r : Req} : fits s n r = false ↔ r.kept = false ∧ 2048 ≤ (s.clus n).used false := by simp [fits]

theorem recounted_eq (s : State) (r : Req) : recounted s r = { s with counters := (recounted s r).counters } := by
  unfold recounted
  split <;> rfl

theorem recounted_enters (s : State) (r : Req) : Enters s (recounted s r) := by
  rw [recounted_eq]
  exact ⟨rfl, fun _ => rfl⟩

/-- A request becomes outstanding: its mover alone changes, and a counter where it keeps a reservation (R280, R288). -/
theorem issued_spec (hn : n < 48) (hm : m < 2) (r : Req) (f : Mover → Mover) :
    let t := (recounted s r).modMv n m f
    (t.clus n).mover m = f ((s.clus n).mover m) ∧ (t.clus n).staging = (s.clus n).staging ∧ t = { s with cl := t.cl, counters := t.counters }
      ∧ t.counters = (if r.kept then (s.count 0x9003 5 1).counters else s.counters) ∧ ∀ k, k ≠ n → t.clus k = s.clus k := by
  have clus : ∀ k, (recounted s r).clus k = s.clus k := fun k => by rw [recounted_eq]; rfl
  refine ⟨?_, ?_, ?_, ?_, fun k other => ?_⟩
  · rw [modMv_mover hn hm, clus]
  · unfold State.modMv
    rw [modCl_clus, if_pos ⟨rfl, hn⟩, clus]
  · rw [recounted_eq]
    rfl
  · unfold State.modMv recounted
    split <;> rfl
  · unfold State.modMv
    rw [modCl_clus, if_neg fun h => other h.1, clus]

/-- The granule of a bad entry is zero, and reaches staging in the row of its request (R276; log 29). -/
theorem zeros_spec (hn : n < 48) (hm : m < 2) (r : Req) (rest : List Req) :
    let zeros := List.replicate 64 0
    let t := noted (recounted (delivered s n m r { r with job := 0 } (fun v => { v with reqs := rest }) zeros) r) n r.job r.index zeros
    ∃ g, (t.clus n).staging = (s.clus n).staging ++ [g] ∧ g.stream = r.stream ∧ g.index = r.index ∧ g.guard = r.guard ∧ g.data = zeros
      ∧ ((t.clus n).mover m).reqs = rest := by
  obtain ⟨staging, mover, -⟩ := delivered_spec hn hm s r _ _ _ ((recounted_enters _ r).trans (noted_enters ..))
  exact ⟨_, staging, rfl, rfl, rfl, rfl, congrArg Mover.reqs mover⟩

/-! ## The answers of bank memory (R278, R445) -/

theorem staged_eq (s : State) (n m : Nat) (r : Req) (d : Bytes) : s.staged n m r d =
    noted (delivered s n m r { r with again := [], job := 0 } (fun v => { v with out := v.out.erase r }) d) n r.job r.index d := rfl

/-- An outstanding request stands with its mover. -/
theorem mem_out_of_outstanding {c : Cluster} {k m : Nat} {r : Req} (h : c.outstanding k = some (m, r)) : m < 2 ∧ r ∈ (c.mover m).out := by
  have mem := List.mem_of_getElem? h
  simp only [List.mem_append, List.mem_map, Prod.mk.injEq] at mem
  obtain ⟨q, hq, rfl, rfl⟩ | ⟨q, hq, rfl, rfl⟩ := mem
  · exact ⟨by decide, hq⟩
  · exact ⟨by decide, hq⟩

theorem clus_of_served (h : Served s t) (k : Nat) : t.clus k = s.clus k := by
  rw [h.eq]
  rfl

section
variable {k a : Nat} {r : Req} (asked : (s.clus n).outstanding k = some (m, r)) (addr : r.addr = some a)
include asked addr

/-- Bank memory answers by a granule that it has decoded (R278). -/
theorem bankAnswer_decoded (first : r.again = []) {d : Bytes} (read : s.granuleOnce a (s.locLc n 4 m) = ([], d, t)) :
    s.bankAnswer n k = t.staged n m r d := by
  unfold State.bankAnswer
  rw [asked]
  dsimp only
  rw [if_neg (by simp [first]), addr, Option.getD_some, read]

/-- Bank memory answers by the bursts that are to be read a second time (R445). -/
theorem bankAnswer_failed (first : r.again = []) {b : Nat} {bad : List Nat} {d : Bytes}
    (read : s.granuleOnce a (s.locLc n 4 m) = (b :: bad, d, t)) :
    s.bankAnswer n k = t.modMv n m fun v => { v with out := v.out.map fun q => if q = r then { r with again := b :: bad } else q } := by
  unfold State.bankAnswer
  rw [asked]
  dsimp only
  rw [if_neg (by simp [first]), addr, Option.getD_some, read]

/-- The second reads of a request deliver its granule (R445). -/
theorem bankAgain_decoded (second : r.again ≠ []) {d : Bytes} (read : s.granuleAgain r.again a (s.locLc n 4 m) = (.ok d, t)) :
    s.bankAgain n k = t.staged n m r d := by
  unfold State.bankAgain
  rw [asked]
  dsimp only
  rw [if_neg (by simp [second]), addr, Option.getD_some, read]

omit addr in
/-- The granule of an outstanding request is in staging, once the row that answers it has been taken (R278, R441, R444). -/
theorem answer_spec (hn : n < 48) (served : Served s t) :
    let u := t.staged n m r (granulePlain s a)
    ∃ g, (u.clus n).staging = (s.clus n).staging ++ [g] ∧ g.stream = r.stream ∧ g.index = r.index ∧ g.guard = r.guard
      ∧ g.data = s.pageCrypt false (a / 64 * 64) (readMem s.bank (a / 64 * 64) 64)
      ∧ ((u.clus n).mover m).out = ((s.clus n).mover m).out.erase r ∧ u.bank = s.bank ∧ (u.clus n).floor = (s.clus n).floor := by
  obtain ⟨hm, -⟩ := mem_out_of_outstanding asked
  have entered := noted_enters (delivered t n m r { r with again := [], job := 0 } (fun v => { v with out := v.out.erase r }) (granulePlain s a))
    n r.job r.index (granulePlain s a)
  obtain ⟨staging, mover, bank, floor⟩ := delivered_spec hn hm t r _ _ _ entered
  rw [clus_of_served served] at staging mover floor
  exact ⟨_, staging, rfl, rfl, rfl, granulePlain_eq s a, congrArg Mover.out mover, bank.trans served.bank, floor⟩

omit addr in
/-- The request waits for its second reads, and staging is as before (R445). -/
theorem again_spec (hn : n < 48) (served : Served s t) (bad : List Nat) :
    let u := t.modMv n m fun v => { v with out := v.out.map fun q => if q = r then { r with again := bad } else q }
    (u.clus n).staging = (s.clus n).staging ∧ { r with again := bad } ∈ ((u.clus n).mover m).out ∧ u.bank = s.bank
      ∧ (u.clus n).floor = (s.clus n).floor := by
  obtain ⟨hm, mem⟩ := mem_out_of_outstanding asked
  intro u
  have own : u.clus n = { s.clus n with movers := (u.clus n).movers } := by
    unfold u State.modMv
    rw [modCl_clus, if_pos ⟨rfl, hn⟩, clus_of_served served]
  refine ⟨by rw [own], ?_, served.bank, by rw [own]⟩
  rw [modMv_mover hn hm, clus_of_served served]
  exact List.mem_map.2 ⟨r, mem, if_pos rfl⟩

end

end

/-! ## The obligation -/

/-- Settles O26: the request row by the four outcomes of `granuleRequest`, the answers by what the reads of the two bursts find. -/
theorem granulesReachStaging : Obligations.GranulesReachStaging := by
  refine ⟨fun s n m r rest head => ⟨fun kept full => ?_, fun real busy => ?_, fun a addr free room => ?_, fun bad room => ?_⟩,
    fun s n k m r a asked addr => ⟨fun right i row => ?_, fun wrong first => ?_⟩⟩
  · exact congrArg (commit s) (granuleRequest_full head (fits_eq_false.2 ⟨kept, full⟩))
  · exact congrArg (commit s) (granuleRequest_blocked head real busy)
  · exact ⟨_, congrArg (commit s) (granuleRequest_issues head addr free (fits_iff.2 room)), issued_spec n.isLt m.isLt r _⟩
  · obtain ⟨g, entered⟩ := zeros_spec (s := s) n.isLt m.isLt r rest
    exact ⟨_, g, congrArg (commit s) (granuleRequest_zeros head bad (fits_iff.2 room)), entered⟩
  · have readable : ∀ b ∈ burstsOf a, Readable s b := right
    obtain ⟨first, rfl⟩ | ⟨second, rfl⟩ := row
    · obtain ⟨t, served, read⟩ := granuleOnce_readable readable (s.locLc n 4 m)
      obtain ⟨g, answered⟩ := answer_spec asked n.isLt served
      exact ⟨_, g, congrArg (commit s) (bankAnswer_decoded asked addr first read), answered⟩
    · obtain ⟨t, served, read⟩ := granuleAgain_readable readable r.again (s.locLc n 4 m)
      obtain ⟨g, answered⟩ := answer_spec asked n.isLt served
      exact ⟨_, g, congrArg (commit s) (bankAgain_decoded asked addr second read), answered⟩
  · obtain ⟨t, served, read⟩ := granuleOnce_unreadable wrong (s.locLc n 4 m)
    exact ⟨_, congrArg (commit s) (bankAnswer_failed asked addr first read), again_spec asked n.isLt served (burstsOf a)⟩

end Sys2Proof.Proofs.Granules
end

section
/-! The proofs of O15 and O16: a command of a synchronisation queue stands last in it, and its push touches nothing but that queue, the writes that it
owes, and the effects of one domain. -/

namespace Sys2Proof.Proofs.SyncQueues

open Sys2Proof Sys2Proof.Machine Sys2Proof.Laws Sys2Proof.Proofs.HostService Sys2Proof.Proofs.Issue Sys2Proof.Proofs.Callers Sys2Proof.Proofs.Queues
  Sys2Proof.Proofs.EngineQueues Sys2Proof.Proofs.Messages

/-! ## The operation field of a row (R394, R395) -/

/-- The words of a row carry the row's operation in the top bits of the first word. -/
theorem opField_cwForm (c : Cw) {k lo : Nat} (low : lo ≤ 48) (small : k < 2 ^ (48 - lo)) : f0 (cwForm c k lo) 47 lo = k := by
  have rest : c.w0.toNat % 2 ^ lo < 2 ^ lo := Nat.mod_lt _ (Nat.two_pow_pos lo)
  have whole : (2 : Nat) ^ 48 = 2 ^ lo * 2 ^ (48 - lo) := by rw [← Nat.pow_add, Nat.add_sub_cancel' low]
  have word : k * 2 ^ lo + c.w0.toNat % 2 ^ lo < 2 ^ 48 := by
    calc k * 2 ^ lo + c.w0.toNat % 2 ^ lo < (k + 1) * 2 ^ lo := by rw [Nat.succ_mul]; exact Nat.add_lt_add_left rest _
      _ ≤ 2 ^ (48 - lo) * 2 ^ lo := Nat.mul_le_mul_right _ small
      _ = 2 ^ 48 := by rw [whole, Nat.mul_comm]
  have top : (k * 2 ^ lo + c.w0.toNat % 2 ^ lo) / 2 ^ lo = k := by
    rw [Nat.mul_comm, Nat.mul_add_div (Nat.two_pow_pos lo), Nat.div_eq_of_lt rest, Nat.add_zero]
  unfold f0 bits cwForm
  rw [BitVec.toNat_ofNat, Nat.mod_eq_of_lt word, Nat.shiftRight_eq_div_pow, top, Nat.mod_eq_of_lt small]

/-! ## The queue of any caller (R111, R306) -/

section
variable {s q u : State} {w : Nat}

/-- A domain with its effects changed. -/
def withEvs (f : List Ev → List Ev) (x : Dom) : Dom := { x with evs := f x.evs }

/-- The start of the head of a queue is scheduled among the effects of its caller's domain. -/
theorem schedSy_evs (s : State) (w : Nat) : ∃ f, s.schedSy w = s.modDom (s.domOf w) (withEvs f) := by
  unfold State.schedSy
  dsimp only
  split
  · exact ⟨_, rfl⟩
  · split
    · exact ⟨fun l => insertEv _ (l.filter _), modDom_modDom ..⟩
    · exact ⟨_, rfl⟩

theorem enqueueSy_evs (s : State) (w : Nat) (x : Ctx) (cmd : SyCmd) :
    ∃ f, s.enqueueSy w x cmd = (s.modCaller w (queuedSy (x, cmd))).modDom (s.domOf w) (withEvs f) := by
  rw [enqueueSy_eq]
  dsimp only
  split
  · exact schedSy_evs _ w
  · exact ⟨id, (modDom_self _ _ _ rfl).symm⟩

theorem modDom_withEvs_domN (s : State) (d : Nat) (f : List Ev → List Ev) (e : Nat) :
    (s.modDom d (withEvs f)).domN e
      = { s.domN e with evs := if e = d then ((s.modDom d (withEvs f)).domN e).evs else (s.domN e).evs } := by
  rw [modDom_domN]
  by_cases own : e = d
  · subst own
    rw [if_pos rfl]
    split <;> rfl
  · rw [if_neg fun h => own h.1, if_neg own]

/-- A command enters the queue of a caller, cluster or sequencer, once the detector has seen it. -/
theorem enqueueSy_queued (seen : u = { q with hazards := u.hazards, counters := u.counters }) (hw : w < 50) (x : Ctx) (cmd : SyCmd) :
    let t := u.enqueueSy w x cmd
    (∀ m, (t.clus m).unacked = (q.clus m).unacked) ∧ syQueued q t w x cmd := by
  intro t
  obtain ⟨f, eq⟩ : ∃ f, t = (u.modCaller w (queuedSy (x, cmd))).modDom (u.domOf w) (withEvs f) := enqueueSy_evs u w x cmd
  have clus : ∀ m, t.clus m = (q.modCaller w (queuedSy (x, cmd))).clus m := fun m => by rw [eq, seen]; rfl
  have caller : ∀ v, t.caller v = (q.modCaller w (queuedSy (x, cmd))).caller v := fun v => by rw [eq, seen]; rfl
  refine ⟨fun m => ?_, ?_, fun v other => ?_, fun m => ?_, ?_, ?_, fun e => ?_⟩
  · rw [clus, modCaller_clus]
    split <;> rfl
  · rw [caller, modCaller_caller, if_pos ⟨rfl, hw⟩]
    rfl
  · rw [caller, modCaller_caller, if_neg fun h => other h.1]
  · rw [clus, modCaller_clus]
    split <;> rfl
  · rw [eq, seen]
    rfl
  · rw [eq, seen]
    rfl
  · have domain : u.domOf w = q.domOf w := by rw [seen]; rfl
    have before : ∀ e, (u.modCaller w (queuedSy (x, cmd))).domN e = q.domN e := fun e => by rw [seen]; rfl
    have kept := modDom_withEvs_domN (u.modCaller w (queuedSy (x, cmd))) (u.domOf w) f e
    rw [← eq, domain, before] at kept
    exact kept

theorem narrowSignal_fields (q : State) (w loc scope : Nat) (o : SigObj) (x : Ctx) :
    q.narrowSignal w loc scope o x
      = { q with hazards := (q.narrowSignal w loc scope o x).hazards, counters := (q.narrowSignal w loc scope o x).counters } := by
  unfold State.narrowSignal
  split
  · split <;> rfl
  · rfl

end

/-! ## CUE, TALLY and ROUND (R306, R307, R394, R395) -/

section
variable {q : State} {w : Nat} {x : Ctx} {d : Cw} {k : Nat}

/-- The signal of a CUE by its operation (R394). -/
def cueSignal (w : Nat) (d : Cw) (k : Nat) : Sig :=
  { obj := if f0 d 43 43 = 1 then .mcue (f0 d 42 33) else .cue (f0 d 32 27) (f0 d 42 33), op := if k = 0 then .set else .clear
    scope := f0 d 46 44, src := w, last := {} }

theorem pushCue_of_reasons (op : f0 d 47 47 = k) (pass : firstReason (cueReasons q w x d) = none) :
    q.pushCue w x d = (q.narrowSignal w (q.locCaller w 6) (f0 d 46 44) (cueSignal w d k).obj x).enqueueSy w x
      (.sig (cueSignal w d k) (f0 d 26 17) (f0 d 16 13)) := by
  unfold State.pushCue
  rw [pass, judge_none, op]
  simp only [beq_iff_eq]
  rfl

/-- The signal of a TALLY by its operation (R394). -/
def tallySignal (n : Nat) (d : Cw) (k : Nat) : Sig :=
  { obj := .tally (f0 d 37 32) (f0 d 43 38), op := if k = 0 then .add (f0 d 31 16) else .reset, scope := f0 d 46 44, src := n, last := {} }

theorem pushTally_of_reasons (op : f0 d 47 47 = k) (pass : firstReason (tallyReasons q w x d) = none) :
    q.pushTally w x d = (q.narrowSignal w (q.locLc w 6 0) (f0 d 46 44) (tallySignal w d k).obj x).enqueueSy w x
      (.sig (tallySignal w d k) (f0 d 15 6) (f0 d 5 2)) := by
  unfold State.pushTally
  rw [pass, judge_none, op]
  simp only [beq_iff_eq]
  rfl

/-- The signal of a ROUND by its operation: BIND and UNBIND travel at MODULE scope, an ARRIVE at its own (R333, R334, R395). -/
def roundSignal (g : Caller) (w : Nat) (d : Cw) (k : Nat) : Sig :=
  { obj := .round (f0 d 45 41)
    op := if k = 0 then .bind (g.reg (f0 d 37 33)) (BitVec.ofNat 10 (g.reg (f0 d 32 28)).toNat) (f0 d 40 38)
      else if k = 1 then .unbind else if w < 48 then .arriveLc w else .arriveSeq
    scope := if k = 2 then f0 d 40 38 else 4, src := w, last := {} }

theorem pushRound_of_reasons (op : f0 d 47 46 = k) (pass : firstReason (roundReasons q w x d) = none) :
    q.pushRound w x d = q.enqueueSy w x (.sig (roundSignal (q.caller w) w d k)
      (if k = 2 ∧ f0 d 40 38 = 5 ∧ 48 ≤ w then f0 d 27 18 else q.moduleId) (f0 d 17 14)) := by
  unfold State.pushRound
  rw [pass, judge_none, op]
  simp only [Bool.and_eq_true, beq_iff_eq, decide_eq_true_eq, and_assoc]
  rfl

theorem pushCue_queued (hw : w < 50) (op : f0 d 47 47 = k) (pass : firstReason (cueReasons q w x d) = none) :
    let t := q.pushCue w x d
    (∀ m, (t.clus m).unacked = (q.clus m).unacked) ∧ syQueued q t w x (.sig (cueSignal w d k) (f0 d 26 17) (f0 d 16 13)) := by
  rw [pushCue_of_reasons op pass]
  exact enqueueSy_queued (narrowSignal_fields ..) hw ..

theorem pushTally_queued (hw : w < 50) (op : f0 d 47 47 = k) (pass : firstReason (tallyReasons q w x d) = none) :
    let t := q.pushTally w x d
    (∀ m, (t.clus m).unacked = (q.clus m).unacked) ∧ syQueued q t w x (.sig (tallySignal w d k) (f0 d 15 6) (f0 d 5 2)) := by
  rw [pushTally_of_reasons op pass]
  exact enqueueSy_queued (narrowSignal_fields ..) hw ..

theorem pushRound_queued (hw : w < 50) (op : f0 d 47 46 = k) (pass : firstReason (roundReasons q w x d) = none) :
    let t := q.pushRound w x d
    (∀ m, (t.clus m).unacked = (q.clus m).unacked) ∧ syQueued q t w x (.sig (roundSignal (q.caller w) w d k)
      (if k = 2 ∧ f0 d 40 38 = 5 ∧ 48 ≤ w then f0 d 27 18 else q.moduleId) (f0 d 17 14)) := by
  rw [pushRound_of_reasons op pass]
  exact enqueueSy_queued rfl hw ..

end

/-- Settles O15: each row is the push of its command with the row's own operation. -/
theorem signalCommandsQueue : Obligations.SignalCommandsQueue := by
  intro s q x w n c
  have cluster : n.val < 50 := Nat.lt_trans n.isLt (by decide)
  refine ⟨fun k i row h => ?_, fun k i row h => ?_, fun k i row h => ?_⟩
  · obtain ⟨rfl, rfl⟩ | ⟨rfl, rfl⟩ := row
    · exact ⟨_, push_cueSet h, pushCue_queued (siteNum_lt w) (opField_cwForm c (by decide) (by decide)) (accepted_reason rfl h)⟩
    · exact ⟨_, push_cueClear h, pushCue_queued (siteNum_lt w) (opField_cwForm c (by decide) (by decide)) (accepted_reason rfl h)⟩
  · obtain ⟨rfl, rfl⟩ | ⟨rfl, rfl⟩ := row
    · exact ⟨_, push_tallyAdd h, pushTally_queued cluster (opField_cwForm c (by decide) (by decide)) (accepted_reason rfl h)⟩
    · exact ⟨_, push_tallyReset h, pushTally_queued cluster (opField_cwForm c (by decide) (by decide)) (accepted_reason rfl h)⟩
  · obtain ⟨rfl, rfl⟩ | ⟨rfl, rfl⟩ | ⟨rfl, rfl⟩ := row
    · exact ⟨_, push_roundBind h, pushRound_queued (siteNum_lt w) (opField_cwForm c (by decide) (by decide)) (accepted_reason rfl h)⟩
    · exact ⟨_, push_roundUnbind h, pushRound_queued (siteNum_lt w) (opField_cwForm c (by decide) (by decide)) (accepted_reason rfl h)⟩
    · exact ⟨_, push_roundArrive h, pushRound_queued (siteNum_lt w) (opField_cwForm c (by decide) (by decide)) (accepted_reason rfl h)⟩

/-! ## FENCE, CHSEND, CHFREE, HPUT and PUT (R306, R322, R396-R398) -/

section
variable {s q u : State} {n : Fin 48} {x : Ctx} {c : Cw}

/-- A command of a cluster enters its queue once the detector has seen it and its writes are owed. -/
theorem messageQueued_owing {owed : List OutWrite} (seen : Files n (q.regionOf n) q u) (own : u.clus n = { q.clus n with unacked := owed }) (x : Ctx)
    (cmd : SyCmd) :
    let t := u.enqueueSy n x cmd
    (∀ m, m ≠ n.val → (t.clus m).unacked = (q.clus m).unacked) ∧ (t.clus n).unacked = owed ∧ syQueued q t n x cmd := by
  obtain ⟨queued, -⟩ := messageQueued_of_files seen ⟨owed, own⟩ x cmd
  have files := seen.trans (enqueueSy_files (seen.regionOf n) x cmd)
  exact ⟨fun m other => by rw [files.others m other], by rw [enqueueSy_clus, own], queued⟩

/-- A command that owes no write leaves what every cluster owes. -/
theorem messageQueued_owing_nothing (seen : Files n (q.regionOf n) q u) (own : u.clus n = q.clus n) (x : Ctx) (cmd : SyCmd) :
    let t := u.enqueueSy n x cmd
    (∀ m, (t.clus m).unacked = (q.clus m).unacked) ∧ syQueued q t n x cmd := by
  obtain ⟨others, same, queued⟩ := messageQueued_owing seen (owed := (q.clus n).unacked) own x cmd
  refine ⟨fun m => ?_, queued⟩
  by_cases hm : m = n
  · rw [hm, same]
  · exact others m hm

/-- The granules of a CHSEND's record are owed to the receiver of its channel (R322). -/
theorem recordOwed_unacked {r : Route} (route : q.route (f0 c 47 40) = some r) (x : Ctx) :
    ((recordOwed q n x c).clus n).unacked = (q.clus n).unacked
      ++ [{ id := q.uid, engine := 2, dst := r.dst, addr := r.ringBase, left := recSize (bits ((q.caller n).reg (f0 c 39 35)).toNat 11 0) / 64 }] := by
  unfold recordOwed
  rw [show q.fresh.2.route (f0 c 47 40) = some r from route]
  exact congrArg Cluster.unacked (owe_clus ..)

/-- The one write of a PUT is owed to the cluster that it names (R322). -/
theorem putOwed_own (q : State) (n : Fin 48) (x : Ctx) (c : Cw) :
    let dst := exprVal (q.caller n) x.idx 64 (f1 c 31 0)
    (putOwed q n x c).clus n
      = { q.clus n with unacked := (q.clus n).unacked ++ [{ id := q.uid, engine := 0, dst := qLc n dst, addr := qAddr dst, left := 1 }] } := by
  unfold putOwed
  rw [will_clus, owe_clus]
  rfl

end

/-- Settles O16: each command enters the queue of its cluster; CHSEND and PUT owe their writes before that. -/
theorem messageCommandsQueue : Obligations.MessageCommandsQueue := by
  intro s q x n c
  refine ⟨fun h => ⟨_, push_fence h, ?_⟩, fun h => ⟨_, push_chfree h, ?_⟩, fun h => ⟨_, push_hput h, ?_⟩, fun h => ⟨_, push_chsend h, ?_⟩,
    fun h => ⟨_, push_put h, ?_⟩⟩
  · rw [pushFence_of_accepts h]
    exact messageQueued_owing_nothing ((fresh_files n (q.regionOf n) q).trans (narrowFence_files q.fresh.2 n ..)) (narrowFence_clus ..) ..
  · rw [pushChfree_of_accepts h]
    exact messageQueued_owing_nothing (.refl ..) rfl ..
  · rw [pushHput_of_accepts h]
    exact messageQueued_owing_nothing (.refl ..) rfl ..
  · obtain ⟨owed, own⟩ := recordOwed_clus q n x c
    rw [pushChsend_of_accepts h]
    obtain ⟨others, same, queued⟩ := messageQueued_owing (recordOwed_files ..) own x _
    refine ⟨others, fun r route => same.trans ?_, queued⟩
    rw [← recordOwed_unacked route x, own]
  · rw [pushPut_of_accepts h]
    exact messageQueued_owing (putOwed_files ..) (putOwed_own ..) ..

end Sys2Proof.Proofs.SyncQueues
end

section
/-! The proofs of O21 and O22: a timed signal that is due applies to the cue or the tally of one cluster, or to the replica of a round in its domain. -/

namespace Sys2Proof.Proofs.Signals

open Sys2Proof Sys2Proof.Machine Sys2Proof.Laws Sys2Proof.Proofs.HostService Sys2Proof.Proofs.EventRows

/-- The row of a timed signal lets it apply where it is the next effect due in its domain (R308). -/
theorem exec_signalApply {s : State} {d : Fin 10} {e : Ev} {g : Sig} (next : s.nextDue d e) (kind : e.k = .sig g) :
    exec (.signalApply (.timed d)) s = .next (s.after ((s.takeNext d).applySig d e.t g)) := by
  have acts := ((eventRowsHappen.1 s (.signalApply (.timed d)) _ rfl).2 (fun n hn => by cases hn) rfl).2 e next (by rw [kind]) (by rw [kind])
  rw [kind] at acts
  exact acts

/-! ## Cues and tallies (R312, R329, R330, R332) -/

/-- A cluster with a cue put. -/
def putCue (num : Nat) (c : Cue) (k : Cluster) : Cluster := { k with cues := tPut k.cues num c }

/-- A cluster with a tally put. -/
def putTally (num : Nat) (c : Tally) (k : Cluster) : Cluster := { k with tallies := tPut k.tallies num c }

theorem cue_putCue (num : Nat) (c : Cue) (k : Cluster) : (tGet (putCue num c k).cues num).getD {} = c := by
  rw [putCue, tGet_tPut, if_pos rfl, Option.getD_some]

theorem tally_putTally (num : Nat) (c : Tally) (k : Cluster) : (tGet (putTally num c k).tallies num).getD {} = c := by
  rw [putTally, tGet_tPut, if_pos rfl, Option.getD_some]

/-- From `s` to `t` one cluster changes by `f`, and the hazard detector keeps and reports what it sees. -/
structure Puts (lc : Nat) (f : Cluster → Cluster) (s t : State) : Prop where
  eq : t = { s with cl := (s.modCl lc f).cl, det := t.det, hazards := t.hazards, counters := t.counters }

section
variable {s t : State} {lc : Nat} {f : Cluster → Cluster}

theorem Puts.clus (h : Puts lc f s t) (m : Nat) : t.clus m = (s.modCl lc f).clus m := by
  rw [h.eq]
  rfl

theorem Puts.own (h : Puts lc f s t) (hlc : lc < 48) : t.clus lc = f (s.clus lc) := by rw [h.clus, modCl_clus, if_pos ⟨rfl, hlc⟩]

theorem Puts.others (h : Puts lc f s t) {m : Nat} (hm : m ≠ lc) : t.clus m = s.clus m := by rw [h.clus, modCl_clus, if_neg fun k => hm k.1]

theorem Puts.sameButEffects (h : Puts lc f s t) : s.sameButEffects t := by
  refine ⟨by rw [h.eq], fun d => ?_⟩
  rw [h.eq]
  rfl

end

/-- The detector reports a signal that applies out of scope (R312, R419). -/
def strayReported (d t : Nat) (g : Sig) (s : State) : State :=
  s.hazard (s.stampAt d t { step := g.last.step, seg := g.seg, run := g.run }) 4 0 g.last.loc (s.locLc (g.obj.holder.getD 0) 6 0) g.obj.resource

/-- A signal reaches a cluster that holds its object: in scope it changes the object and may be counted, out of scope it marks the object (R312). -/
def signalled (s : State) (d t lc : Nat) (g : Sig) (inside outside : Cluster → Cluster) (counts : Bool) (sub : Nat) : State :=
  if s.locInScope g.scope g.last.loc lc then
    if counts then ((s.detApply d g).modCl lc inside).count 0x9004 sub 1 else (s.detApply d g).modCl lc inside
  else strayReported d t g (s.modCl lc outside)

section
variable {s : State} {d t lc num : Nat} {g : Sig} {inside outside : Cluster → Cluster} {counts : Bool} {sub : Nat}

/-- What such a signal leaves: the one change or the other, and the count. -/
theorem signalled_spec (hlc : lc < 48) :
    let r := signalled s d t lc g inside outside counts sub
    (s.locInScope g.scope g.last.loc lc = true → r.clus lc = inside (s.clus lc)
        ∧ r.counters = if counts then (s.count 0x9004 sub 1).counters else s.counters)
      ∧ (s.locInScope g.scope g.last.loc lc = false → r.clus lc = outside (s.clus lc))
      ∧ (Puts lc inside s r ∨ Puts lc outside s r) := by
  unfold signalled
  cases s.locInScope g.scope g.last.loc lc with
  | true =>
    have puts : ∀ q : State, q = { s with cl := (s.modCl lc inside).cl, det := q.det, hazards := q.hazards, counters := q.counters } → Puts lc inside s q :=
      fun _ => Puts.mk
    cases counts with
    | true => exact ⟨fun _ => ⟨(puts _ rfl).own hlc, rfl⟩, fun h => absurd h (by decide), .inl (puts _ rfl)⟩
    | false => exact ⟨fun _ => ⟨(puts _ rfl).own hlc, rfl⟩, fun h => absurd h (by decide), .inl (puts _ rfl)⟩
  | false =>
    have puts : Puts lc outside s (strayReported d t g (s.modCl lc outside)) := ⟨rfl⟩
    exact ⟨fun h => absurd h (by decide), fun _ => puts.own hlc, .inr puts⟩

/-- A signal to a cue (R312, R329, R330). -/
theorem applySig_cue (h : g.obj = .cue lc num) : s.applySig d t g =
    let u := (tGet (s.clus lc).cues num).getD {}
    signalled s d t lc g (putCue num (u.apply g.op g.scope g.last).1) (putCue num (u.outOfScope g.scope g.last))
      (u.apply g.op g.scope g.last).2 3 := by
  obtain ⟨obj, op, scope, src, last, rel, seg, run, held⟩ := g
  cases h
  unfold State.applySig signalled
  dsimp only [SigObj.holder]
  cases s.locInScope scope last.loc lc with
  | false => rfl
  | true => rfl

/-- A signal to a tally (R312, R332). -/
theorem applySig_tally (h : g.obj = .tally lc num) : s.applySig d t g =
    let u := (tGet (s.clus lc).tallies num).getD {}
    signalled s d t lc g (putTally num (u.apply g.op g.last).1) (putTally num (u.outOfScope g.scope g.last)) (u.apply g.op g.last).2 4 := by
  obtain ⟨obj, op, scope, src, last, rel, seg, run, held⟩ := g
  cases h
  unfold State.applySig signalled
  dsimp only [SigObj.holder]
  cases s.locInScope scope last.loc lc with
  | false => rfl
  | true => rfl

/-- A SET or a completion sets a cue and merges with what is set already (R329, R330). -/
theorem cue_apply_sets {op : SigOp} (sets : op = .set ∨ op = .bulk) (u : Cue) (scope : Nat) (last : LastSig) :
    u.apply op scope last = ({ u with set := true, merged := u.merged || u.set, scope, last }, u.set) := by
  obtain rfl | rfl := sets
  · rfl
  · rfl

/-- No signal that applies in scope clears MISMATCH, and each becomes the last one of its object (R312, R329). -/
theorem cue_apply_keeps (u : Cue) (op : SigOp) (scope : Nat) (last : LastSig) :
    (u.apply op scope last).1.mismatch = u.mismatch ∧ (u.apply op scope last).1.last = last := by
  cases op <;> exact ⟨rfl, rfl⟩

theorem tally_apply_keeps (u : Tally) (op : SigOp) (last : LastSig) :
    (u.apply op last).1.mismatch = u.mismatch ∧ (u.apply op last).1.last = last := by
  cases op <;> exact ⟨rfl, rfl⟩

/-- An ADD stops at 65,535 (R332). -/
theorem tally_apply_add (u : Tally) (k : Nat) (last : LastSig) : (u.apply (.add k) last).1.count.toNat = min (u.count.toNat + k) 65535 := by
  have small : min (u.count.toNat + k) 65535 < 2 ^ 16 := by omega
  exact (BitVec.toNat_ofNat ..).trans (Nat.mod_eq_of_lt small)

theorem Puts.cue_frame {r : State} {c : Cue} (h : Puts lc (putCue num c) s r) (hlc : lc < 48) :
    (∀ k, k ≠ num → tGet (r.clus lc).cues k = tGet (s.clus lc).cues k) ∧ r.clus lc = { s.clus lc with cues := (r.clus lc).cues }
      ∧ (∀ m, m ≠ lc → r.clus m = s.clus m) ∧ s.sameButEffects r := by
  refine ⟨fun k hk => ?_, ?_, fun m hm => h.others hm, h.sameButEffects⟩
  · rw [h.own hlc, putCue, tGet_tPut, if_neg hk]
  · rw [h.own hlc]
    rfl

theorem Puts.tally_frame {r : State} {c : Tally} (h : Puts lc (putTally num c) s r) (hlc : lc < 48) :
    (∀ k, k ≠ num → tGet (r.clus lc).tallies k = tGet (s.clus lc).tallies k) ∧ r.clus lc = { s.clus lc with tallies := (r.clus lc).tallies }
      ∧ (∀ m, m ≠ lc → r.clus m = s.clus m) ∧ s.sameButEffects r := by
  refine ⟨fun k hk => ?_, ?_, fun m hm => h.others hm, h.sameButEffects⟩
  · rw [h.own hlc, putTally, tGet_tPut, if_neg hk]
  · rw [h.own hlc]
    rfl

/-- What a signal to a cue leaves of it, of the count of merges and of all else (R312, R329, R330). -/
theorem applySig_cue_spec (h : g.obj = .cue lc num) (hlc : lc < 48) :
    let r := s.applySig d t g
    let u := (tGet (s.clus lc).cues num).getD {}
    let v := (tGet (r.clus lc).cues num).getD {}
    (s.locInScope g.scope g.last.loc lc = true → v = (u.apply g.op g.scope g.last).1
        ∧ r.counters = if (u.apply g.op g.scope g.last).2 then (s.count 0x9004 3 1).counters else s.counters)
      ∧ (s.locInScope g.scope g.last.loc lc = false → v = u.outOfScope g.scope g.last)
      ∧ (∀ k, k ≠ num → tGet (r.clus lc).cues k = tGet (s.clus lc).cues k) ∧ r.clus lc = { s.clus lc with cues := (r.clus lc).cues }
      ∧ (∀ m, m ≠ lc → r.clus m = s.clus m) ∧ s.sameButEffects r := by
  rw [applySig_cue h]
  intro r u v
  obtain ⟨applied, stray, puts⟩ := signalled_spec (s := s) (d := d) (t := t) (g := g) (sub := 3) (counts := (u.apply g.op g.scope g.last).2)
    (inside := putCue num (u.apply g.op g.scope g.last).1) (outside := putCue num (u.outOfScope g.scope g.last)) hlc
  refine ⟨fun ok => ⟨?_, (applied ok).2⟩, fun out => ?_, puts.elim (·.cue_frame hlc) (·.cue_frame hlc)⟩
  · exact (congrArg (fun k => (tGet (Cluster.cues k) num).getD {}) (applied ok).1).trans (cue_putCue ..)
  · exact (congrArg (fun k => (tGet (Cluster.cues k) num).getD {}) (stray out)).trans (cue_putCue ..)

/-- What a signal to a tally leaves of it, of the count of saturations and of all else (R312, R332). -/
theorem applySig_tally_spec (h : g.obj = .tally lc num) (hlc : lc < 48) :
    let r := s.applySig d t g
    let u := (tGet (s.clus lc).tallies num).getD {}
    let v := (tGet (r.clus lc).tallies num).getD {}
    (s.locInScope g.scope g.last.loc lc = true → v = (u.apply g.op g.last).1
        ∧ r.counters = if (u.apply g.op g.last).2 then (s.count 0x9004 4 1).counters else s.counters)
      ∧ (s.locInScope g.scope g.last.loc lc = false → v = u.outOfScope g.scope g.last)
      ∧ (∀ k, k ≠ num → tGet (r.clus lc).tallies k = tGet (s.clus lc).tallies k) ∧ r.clus lc = { s.clus lc with tallies := (r.clus lc).tallies }
      ∧ (∀ m, m ≠ lc → r.clus m = s.clus m) ∧ s.sameButEffects r := by
  rw [applySig_tally h]
  intro r u v
  obtain ⟨applied, stray, puts⟩ := signalled_spec (s := s) (d := d) (t := t) (g := g) (sub := 4) (counts := (u.apply g.op g.last).2)
    (inside := putTally num (u.apply g.op g.last).1) (outside := putTally num (u.outOfScope g.scope g.last)) hlc
  refine ⟨fun ok => ⟨?_, (applied ok).2⟩, fun out => ?_, puts.elim (·.tally_frame hlc) (·.tally_frame hlc)⟩
  · exact (congrArg (fun k => (tGet (Cluster.tallies k) num).getD {}) (applied ok).1).trans (tally_putTally ..)
  · exact (congrArg (fun k => (tGet (Cluster.tallies k) num).getD {}) (stray out)).trans (tally_putTally ..)

end

/-- Settles O21: a signal puts its object as `Cue.apply` and `Tally.apply` say in scope, marked out of scope, and nothing else of the clusters. -/
theorem signalsApply : Obligations.SignalsApply := by
  intro s d e g lc num next kind hlc q ok
  have acts := exec_signalApply next kind
  refine ⟨fun obj => ⟨_, acts, ?_⟩, fun obj => ⟨_, acts, ?_⟩⟩
  · obtain ⟨applied, stray, frame⟩ := applySig_cue_spec (s := s.takeNext d) (d := d) (t := e.t) obj hlc
    refine ⟨⟨fun inside => ?_, fun outside => ?_⟩, frame⟩
    · obtain ⟨cue, counters⟩ := applied inside
      obtain ⟨mismatch, last⟩ := cue_apply_keeps ((tGet (s.clus lc).cues num).getD {}) g.op g.scope g.last
      rw [cue, counters]
      refine ⟨mismatch, last, fun clears => ?_, fun sets => ?_⟩
      · rw [clears]
        exact ⟨rfl, rfl⟩
      · rw [cue_apply_sets sets]
        exact ⟨rfl, rfl, rfl, rfl⟩
    · rw [stray outside]
      exact ⟨rfl, rfl, rfl, rfl, rfl, rfl⟩
  · obtain ⟨applied, stray, frame⟩ := applySig_tally_spec (s := s.takeNext d) (d := d) (t := e.t) obj hlc
    refine ⟨⟨fun inside => ?_, fun outside => ?_⟩, frame⟩
    · obtain ⟨tally, counters⟩ := applied inside
      obtain ⟨mismatch, last⟩ := tally_apply_keeps ((tGet (s.clus lc).tallies num).getD {}) g.op g.last
      rw [tally, counters]
      refine ⟨mismatch, last, fun k adds => ?_, fun resets => ?_⟩
      · rw [adds]
        refine ⟨tally_apply_add .., rfl, ?_⟩
        simp only [Tally.apply, decide_eq_true_eq]
        rfl
      · rw [resets]
        exact ⟨rfl, rfl⟩
    · rw [stray outside]
      exact ⟨rfl, rfl, rfl, rfl, rfl⟩

/-! ## Rounds (R334, R335) -/

/-- A round once the generations that are complete have been completed: the next one too where that is complete at once in a stop (R335; log 94). -/
def generationAfter (stopped : Bool) (r : Round) : Round :=
  if r.full then (if r.next.full && stopped then r.next.next else r.next) else r

section
variable {stopped : Bool} {r : Round}

theorem full_iff (bound : r.bound = true) : r.full = true ↔ r.arrived = r.expect ∧ r.rArrived = r.remote := by
  simp [Round.full, bound]

theorem next_full_iff (bound : r.bound = true) : r.next.full = true ↔ r.ahead = r.expect ∧ r.rAhead = r.remote := full_iff bound

theorem generationAfter_not_full (waits : ¬ r.full = true) : generationAfter stopped r = r := if_neg waits

/-- What binds a round stays, and so does its last signal. -/
theorem generationAfter_keeps (stopped : Bool) (r : Round) :
    let v := generationAfter stopped r
    v.bound = r.bound ∧ v.scope = r.scope ∧ v.expect = r.expect ∧ v.remote = r.remote ∧ v.fault = r.fault ∧ v.last = r.last := by
  unfold generationAfter
  split
  · split
    · exact ⟨rfl, rfl, rfl, rfl, rfl, rfl⟩
    · exact ⟨rfl, rfl, rfl, rfl, rfl, rfl⟩
  · exact ⟨rfl, rfl, rfl, rfl, rfl, rfl⟩

/-- One generation completes where the arrivals ahead do not complete the next one in a stop. -/
theorem generationAfter_full (bound : r.bound = true) (complete : r.full = true)
    (one : ¬ (stopped = true ∧ r.ahead = r.expect ∧ r.rAhead = r.remote)) : generationAfter stopped r = r.next := by
  unfold generationAfter
  rw [if_pos complete, if_neg]
  rw [Bool.and_eq_true, next_full_iff bound]
  exact fun ⟨both, stops⟩ => one ⟨stops, both⟩

/-- What an arrival that may complete a generation leaves of its round (R335). -/
theorem generationAfter_spec (bound : r.bound = true) :
    let v := generationAfter stopped r
    (r.arrived = r.expect ∧ r.rArrived = r.remote → ¬ (stopped = true ∧ r.ahead = r.expect ∧ r.rAhead = r.remote) → v = r.next)
      ∧ (¬ (r.arrived = r.expect ∧ r.rArrived = r.remote) → v = r) := by
  rw [← full_iff bound]
  exact ⟨generationAfter_full bound, generationAfter_not_full⟩

end

/-- From `s` to `t` the replica of a round in a domain becomes `v`, and no other round of it, no cluster changes. -/
structure SetsRound (d q : Nat) (v : Round) (s t : State) : Prop where
  own : (tGet (t.domN d).rounds q).getD {} = v
  others : ∀ k, k ≠ q → tGet (t.domN d).rounds k = tGet (s.domN d).rounds k
  stopped : (t.domN d).stopped = (s.domN d).stopped
  clus : ∀ m, t.clus m = s.clus m

/-- A domain with a round put. -/
def putRound (q : Nat) (r : Round) (x : Dom) : Dom := { x with rounds := tPut x.rounds q r }

section
variable {s t u : State} {d q : Nat} {v r : Round}

theorem SetsRound.trans (h : SetsRound d q r s t) (k : SetsRound d q v t u) : SetsRound d q v s u where
  own := k.own
  others m hm := (k.others m hm).trans (h.others m hm)
  stopped := k.stopped.trans h.stopped
  clus m := (k.clus m).trans (h.clus m)

theorem putRound_sets (hd : d < 10) (s : State) (q : Nat) (v : Round) : SetsRound d q v s (s.modDom d (putRound q v)) := by
  have own : (s.modDom d (putRound q v)).domN d = putRound q v (s.domN d) := by rw [modDom_domN, if_pos ⟨rfl, hd⟩]
  refine ⟨?_, fun k hk => ?_, ?_, fun _ => rfl⟩ <;> rw [own]
  · rw [putRound, tGet_tPut, if_pos rfl, Option.getD_some]
  · rw [putRound, tGet_tPut, if_neg hk]
  · rfl

/-- An effect that is scheduled touches no round. -/
theorem SetsRound.post (h : SetsRound d q v s t) (c ph rank : Nat) (k : EvK) : SetsRound d q v s (t.post d c ph rank k) := by
  have rounds : ((t.post d c ph rank k).domN d).rounds = (t.domN d).rounds ∧ ((t.post d c ph rank k).domN d).stopped = (t.domN d).stopped := by
    unfold State.post
    rw [modDom_domN]
    split
    · exact ⟨rfl, rfl⟩
    · exact ⟨rfl, rfl⟩
  refine ⟨?_, fun m hm => ?_, rounds.2.trans h.stopped, h.clus⟩ <;> rw [rounds.1]
  · exact h.own
  · exact h.others m hm

theorem roundStep_eq (s : State) (d c q : Nat) : s.roundStep d c q =
    let r := (tGet (s.domN d).rounds q).getD {}
    let v := generationAfter (s.domN d).stopped r
    let u := s.modDom d (putRound q v)
    if r.full then (if v.full then u.post d (c + 1) phStart 0 (.roundGen q) else u) else s := by
  unfold State.roundStep generationAfter
  dsimp only
  cases ((tGet (s.domN d).rounds q).getD {}).full with
  | false => rfl
  | true => rfl

/-- A replica of a round completes what is complete (R335). -/
theorem roundStep_sets (hd : d < 10) (s : State) (c q : Nat) :
    SetsRound d q (generationAfter (s.domN d).stopped ((tGet (s.domN d).rounds q).getD {})) s (s.roundStep d c q) := by
  have put := putRound_sets hd s q (generationAfter (s.domN d).stopped ((tGet (s.domN d).rounds q).getD {}))
  rw [roundStep_eq]
  dsimp only
  split
  · split
    · exact put.post ..
    · exact put
  · next waits =>
    rw [generationAfter_not_full waits]
    exact ⟨rfl, fun _ _ => rfl, rfl, fun _ => rfl⟩

/-- A signal to a round that is no round fault: what was complete before stays so until the next cycle, what it makes complete completes
(R334, R335). -/
theorem applySig_sets {c : Nat} {g : Sig} (hd : d < 10) (s : State) (obj : g.obj = .round q)
    (fair : ((tGet (s.domN d).rounds q).getD {}).faults g.op = false) :
    let r := (tGet (s.domN d).rounds q).getD {}
    SetsRound d q (if r.full then r.apply g.op g.last else generationAfter (s.domN d).stopped (r.apply g.op g.last)) s (s.applySig d c g) := by
  intro r
  have put : SetsRound d q (r.apply g.op g.last) s ((s.detApply d g).modDom d (putRound q (r.apply g.op g.last))) := by
    obtain ⟨own, others, stopped, clus⟩ := putRound_sets hd (s.detApply d g) q (r.apply g.op g.last)
    exact ⟨own, others, stopped, clus⟩
  have applied : s.applySig d c g = if r.full then (s.detApply d g).modDom d (putRound q (r.apply g.op g.last))
      else ((s.detApply d g).modDom d (putRound q (r.apply g.op g.last))).roundStep d c q := by
    rw [applySig_round s obj]
    exact if_neg (by rw [show r.faults g.op = false from fair]; decide)
  rw [applied]
  split
  · exact put
  · have step := roundStep_sets hd ((s.detApply d g).modDom d (putRound q (r.apply g.op g.last))) c q
    rw [put.own, put.stopped] at step
    exact put.trans step

end

/-! ## Arrivals (R334) -/

section
variable {stopped : Bool} {r : Round} {last : LastSig} {n : Nat}

/-- The state of a round once an arrival has applied to it. -/
def arrivedAt (stopped : Bool) (r : Round) (op : SigOp) (last : LastSig) : Round :=
  if r.full then r.apply op last else generationAfter stopped (r.apply op last)

/-- What binds a round stays over an arrival, and the arrival becomes its last signal. -/
theorem arrivedAt_keeps (bound : r.bound = true) (stopped : Bool) {op : SigOp} (arrives : (∃ n, op = .arriveLc n) ∨ op = .arriveSeq) (last : LastSig) :
    let v := arrivedAt stopped r op last
    v.bound = true ∧ v.scope = r.scope ∧ v.expect = r.expect ∧ v.remote = r.remote ∧ v.fault = r.fault ∧ v.last = last := by
  have applied : (r.apply op last).bound = r.bound ∧ (r.apply op last).scope = r.scope ∧ (r.apply op last).expect = r.expect
      ∧ (r.apply op last).remote = r.remote ∧ (r.apply op last).fault = r.fault ∧ (r.apply op last).last = last := by
    obtain ⟨n, rfl⟩ | rfl := arrives
    all_goals
      unfold Round.apply
      dsimp only
      split
      · exact ⟨rfl, rfl, rfl, rfl, rfl, rfl⟩
      · exact ⟨rfl, rfl, rfl, rfl, rfl, rfl⟩
  have kept := generationAfter_keeps stopped (r.apply op last)
  rw [bound] at applied
  unfold arrivedAt
  split
  · exact applied
  · obtain ⟨b, s, e, m, f, l⟩ := applied
    obtain ⟨b', s', e', m', f', l'⟩ := kept
    exact ⟨b'.trans b, s'.trans s, e'.trans e, m'.trans m, f'.trans f, l'.trans l⟩

/-- An arrival of an expected cluster is no round fault where it is not the third in a generation (R336). -/
theorem not_faults_arriveLc (bound : r.bound = true) (expected : r.expect.getLsbD n = true)
    (free : r.arrived.getLsbD n = false ∨ r.ahead.getLsbD n = false) : r.faults (.arriveLc n) = false := by
  simpa [Round.faults, bound, expected, imp_iff_not_or] using free

/-- An arrival of a sequencer is no round fault where this generation or the next one lacks it (R336). -/
theorem not_faults_arriveSeq (bound : r.bound = true) (free : r.rArrived.toNat < r.remote.toNat ∨ r.rAhead ≠ r.remote) :
    r.faults .arriveSeq = false := by
  simpa [Round.faults, bound, imp_iff_not_or] using free

/-- The first arrival of a cluster in a generation. -/
theorem arrivedAt_now (bound : r.bound = true) (expected : r.expect.getLsbD n = true) (absent : r.arrived.getLsbD n = false) :
    arrivedAt stopped r (.arriveLc n) last = generationAfter stopped { r with arrived := r.arrived ||| (1 <<< n), last } := by
  have waits : ¬ r.full = true := fun complete => by
    rw [((full_iff bound).1 complete).1, expected] at absent
    exact absurd absent (by decide)
  unfold arrivedAt Round.apply
  rw [if_neg waits]
  dsimp only
  rw [absent, if_neg (by decide)]

/-- The second arrival of a cluster in a generation. -/
theorem arrivedAt_ahead (present : r.arrived.getLsbD n = true) :
    arrivedAt stopped r (.arriveLc n) last = { r with ahead := r.ahead ||| (1 <<< n), last } := by
  unfold arrivedAt Round.apply
  dsimp only
  rw [present, if_pos rfl]
  split
  · rfl
  · next waits => exact generationAfter_not_full waits

/-- An arrival of a sequencer while its generation lacks one. -/
theorem arrivedAt_remote (bound : r.bound = true) (lacks : r.rArrived.toNat < r.remote.toNat) :
    arrivedAt stopped r .arriveSeq last = generationAfter stopped { r with rArrived := r.rArrived + 1, last } := by
  have waits : ¬ r.full = true := fun complete => by
    rw [((full_iff bound).1 complete).2] at lacks
    exact Nat.lt_irrefl _ lacks
  unfold arrivedAt Round.apply
  rw [if_neg waits]
  dsimp only
  rw [if_pos lacks]

/-- An arrival of a sequencer whose generation lacks none. -/
theorem arrivedAt_remote_ahead (enough : r.remote.toNat ≤ r.rArrived.toNat) :
    arrivedAt stopped r .arriveSeq last = { r with rAhead := r.rAhead + 1, last } := by
  unfold arrivedAt Round.apply
  dsimp only
  rw [if_neg (Nat.not_lt.2 enough)]
  split
  · rfl
  · next waits => exact generationAfter_not_full waits

end

/-- What an arrival that is no round fault leaves of its domain, where it is the next effect due. -/
theorem takeNext_applySig {s : State} {d : Fin 10} {g : Sig} {q : Nat} {op : SigOp} (c : Nat) (obj : g.obj = .round q) (kind : g.op = op)
    (fair : ((tGet (s.domN d).rounds q).getD {}).faults op = false) :
    let t := (s.takeNext d).applySig d c g
    (tGet (t.domN d).rounds q).getD {} = arrivedAt (s.domN d).stopped ((tGet (s.domN d).rounds q).getD {}) op g.last
      ∧ (∀ k, k ≠ q → tGet (t.domN d).rounds k = tGet (s.domN d).rounds k) ∧ ∀ m, t.clus m = s.clus m := by
  subst kind
  have before : (s.takeNext d).domN d = { s.domN d with evs := (s.domN d).evs.tail } := by
    rw [State.takeNext, modDom_domN, if_pos ⟨rfl, d.isLt⟩]
  have sets := applySig_sets (c := c) d.isLt (s.takeNext d) obj (by rw [before]; exact fair)
  rw [before] at sets
  refine ⟨sets.own, fun k hk => ?_, sets.clus⟩
  rw [sets.others k hk, before]

/-- Settles O22: an arrival that is no round fault sets the replica to `arrivedAt`, which is one of four cases. -/
theorem roundsAdvance : Obligations.RoundsAdvance := by
  intro s d e g q next kind obj r applies kept completes bound
  have acts := exec_signalApply next kind
  have keeps {op : SigOp} (arrives : (∃ n, op = .arriveLc n) ∨ op = .arriveSeq) : kept (arrivedAt (s.domN d).stopped r op g.last) :=
    arrivedAt_keeps bound _ arrives _
  refine ⟨fun n op expected => ⟨fun absent => ?_, fun present free => ?_⟩, fun op => ⟨fun lacks => ?_, fun enough free => ?_⟩⟩
  · obtain ⟨own, frame⟩ := takeNext_applySig e.t obj op (not_faults_arriveLc bound expected (.inl absent))
    refine ⟨_, acts, ?_, frame⟩
    obtain ⟨completed, waits⟩ := generationAfter_spec (stopped := (s.domN d).stopped)
      (r := { r with arrived := r.arrived ||| (1 <<< n), last := g.last }) bound
    have kept := keeps (.inl ⟨n, rfl⟩)
    rw [arrivedAt_now bound expected absent] at own kept
    rw [own]
    refine ⟨kept, fun complete one => ?_, fun lacking => ?_⟩
    · rw [completed complete one]
      exact ⟨rfl, rfl, rfl, rfl, rfl⟩
    · rw [waits lacking]
      exact ⟨rfl, rfl, rfl, rfl, rfl⟩
  · obtain ⟨own, frame⟩ := takeNext_applySig e.t obj op (not_faults_arriveLc bound expected (.inr free))
    refine ⟨_, acts, ?_, frame⟩
    have kept := keeps (.inl ⟨n, rfl⟩)
    rw [arrivedAt_ahead present] at own kept
    rw [own]
    exact ⟨kept, rfl, rfl, rfl, rfl, rfl⟩
  · obtain ⟨own, frame⟩ := takeNext_applySig e.t obj op (not_faults_arriveSeq bound (.inl lacks))
    refine ⟨_, acts, ?_, frame⟩
    obtain ⟨completed, waits⟩ := generationAfter_spec (stopped := (s.domN d).stopped)
      (r := { r with rArrived := r.rArrived + 1, last := g.last }) bound
    have kept := keeps (.inr rfl)
    rw [arrivedAt_remote bound lacks] at own kept
    rw [own]
    refine ⟨kept, fun complete one => ?_, fun lacking => ?_⟩
    · rw [completed complete one]
      exact ⟨rfl, rfl, rfl, rfl, rfl⟩
    · rw [waits lacking]
      exact ⟨rfl, rfl, rfl, rfl, rfl⟩
  · obtain ⟨own, frame⟩ := takeNext_applySig e.t obj op (not_faults_arriveSeq bound (.inr free))
    refine ⟨_, acts, ?_, frame⟩
    have kept := keeps (.inr rfl)
    rw [arrivedAt_remote_ahead enough] at own kept
    rw [own]
    exact ⟨kept, rfl, rfl, rfl, rfl, rfl⟩

end Sys2Proof.Proofs.Signals
end

section
/-! The proof of O31: a write of another cluster that is due lands and is counted for its origin, is held in the slot of its TID, or is dropped. -/

namespace Sys2Proof.Proofs.RemoteWrites

open Sys2Proof Sys2Proof.Machine Sys2Proof.Laws Sys2Proof.Proofs.HostService Sys2Proof.Proofs.Callers Sys2Proof.Proofs.Queues
  Sys2Proof.Proofs.EngineEffects Sys2Proof.Proofs.FloorWrites

/-! ## What the landing of a write leaves (R248, R324) -/

/-- From `s` to `t` the hazard detector keeps and reports what it sees. -/
structure Watched (s t : State) : Prop where
  eq : t = { s with det := t.det, hazards := t.hazards, counters := t.counters }

/-- From `s` to `t` a cluster keeps its counts of landed writes and its transfer slots, and no acknowledgement leaves. -/
structure Stays (n : Nat) (s t : State) : Prop where
  landed : (t.clus n).landed = (s.clus n).landed
  slots : (t.clus n).slots = (s.clus n).slots
  acks : t.acks = s.acks

section
variable {s t u : State} {n c unit : Nat} {x : Ctx}

theorem Watched.refl (s : State) : Watched s s := ⟨rfl⟩

theorem Watched.trans (h : Watched s t) (k : Watched t u) : Watched s u := ⟨k.eq.trans (by rw [h.eq])⟩

theorem Watched.foldl {α : Type} {f : State → α → State} (hf : ∀ t a, Watched t (f t a)) (l : List α) (s : State) : Watched s (l.foldl f s) := by
  induction l generalizing s with
  | nil => exact .refl s
  | cons a l ih => exact (hf s a).trans (ih _)

theorem Watched.cl (h : Watched s t) : t.cl = s.cl := by rw [h.eq]

theorem Watched.acks (h : Watched s t) : t.acks = s.acks := by rw [h.eq]

theorem Watched.clus (h : Watched s t) (m : Nat) : t.clus m = s.clus m := by
  unfold State.clus
  rw [h.cl]

theorem Stays.refl (n : Nat) (s : State) : Stays n s s := ⟨rfl, rfl, rfl⟩

theorem Stays.trans (h : Stays n s t) (k : Stays n t u) : Stays n s u :=
  ⟨k.landed.trans h.landed, k.slots.trans h.slots, k.acks.trans h.acks⟩

theorem stays_of_cl (cl : t.cl = s.cl) (acks : t.acks = s.acks) : Stays n s t := by
  have same : t.clus n = s.clus n := by
    unfold State.clus
    rw [cl]
  exact ⟨by rw [same], by rw [same], acks⟩

theorem Watched.stays (h : Watched s t) : Stays n s t := stays_of_cl h.cl h.acks

theorem modCl_stays (s : State) (n : Nat) {f : Cluster → Cluster} (landed : ∀ k, (f k).landed = k.landed) (slots : ∀ k, (f k).slots = k.slots) :
    Stays n s (s.modCl n f) := by
  refine ⟨?_, ?_, rfl⟩ <;> rw [modCl_clus] <;> split
  · exact landed _
  · rfl
  · exact slots _
  · rfl

theorem farLands_watched (s : State) (d c key : Nat) (chan : Option Nat) (ordered : Bool) (res : Nat) (x : Ctx) :
    Watched s (s.farLands d c key chan ordered res x) := by
  unfold State.farLands
  dsimp only
  split
  · exact .refl s
  · split
    · split
      · exact ⟨rfl⟩
      · exact ⟨rfl⟩
    · exact ⟨rfl⟩

theorem overOperand_watched (s : State) (n c a loc : Nat) (x : Ctx) : Watched s (s.overOperand n c a loc x) := by
  unfold State.overOperand
  split
  · exact ⟨rfl⟩
  · exact .refl s

theorem takePort_stays (s : State) (n c port unit a : Nat) (x : Ctx) : Stays n s (s.takePort n c port unit a x).2 := by
  unfold State.takePort
  dsimp only
  split
  · split
    · exact .refl n s
    · exact stays_of_cl rfl rfl
  · exact modCl_stays s n (fun _ => rfl) fun _ => rfl

/-- A word lands in a floor without wrong bits. -/
theorem landWord_stays (right : (s.clus n).upsets = []) (a : Nat) (ws : Writes) (x : Ctx) : Stays n s (s.landWord n c a ws x) := by
  unfold State.landWord
  dsimp only
  rw [right, List.isEmpty_nil, if_pos rfl]
  generalize hu : List.foldl _ _ _ = u
  have dirtied : Stays n s u := by
    rw [← hu]
    refine List.foldlRecOn (motive := Stays n s) _ _ (modCl_stays s n (fun _ => rfl) fun _ => rfl) fun v hv k _ => ?_
    split
    · exact hv.trans (stays_of_cl rfl rfl)
    · exact hv
  exact dirtied.trans (modCl_stays u n (fun _ => rfl) fun _ => rfl)

theorem wordWrite_stays (ready : Serves n c unit s) (hn : n < 48) (port : Nat) (ws : Writes) (x : Ctx) (w : Nat) :
    Stays n s (wordWrite n c port unit ws x s w) := by
  obtain ⟨won, served⟩ := takePort_lands ready hn port w x
  have taken := takePort_stays s n c port unit w x
  unfold wordWrite
  dsimp only
  rw [won, if_pos rfl]
  generalize (s.takePort n c port unit w x).2 = q at served taken ⊢
  have seen : Watched q (if unit < uRemote then (q.overOperand n c w (q.userLoc n unit) x).nearLands (n * 2 ^ 24 + w)
      else q.overOperand n c w (q.userLoc n unit) x) := by
    split
    · exact (overOperand_watched ..).trans ⟨rfl⟩
    · exact overOperand_watched ..
  refine (taken.trans seen.stays).trans (landWord_stays ?_ ..)
  rw [seen.clus]
  exact served.serves.right

theorem floorWrite_stays (ready : Serves n c unit s) (hn : n < 48) (port : Nat) (ws : Writes) (x : Ctx) :
    Stays n s (s.floorWrite n c port unit ws x) := by
  rw [floorWrite_eq]
  generalize writeWords ws = l
  induction l generalizing s with
  | nil => exact .refl n s
  | cons w l ih => exact (wordWrite_stays ready hn port ws x w).trans (ih (wordWrite_lands ready hn port ws x w).serves)

end

/-! ## A write lands (R321) -/

section
variable {s : State} {n c : Nat} {l : Landing}

/-- The state in which the bytes of a write land: the detector has seen it. -/
def landingSeen (s : State) (n c : Nat) (l : Landing) : State :=
  (writeWords l.writes).foldl (fun (s : State) a => s.farLands (s.regionOf n) c (2 * l.id) none l.final.isSome (n * 2 ^ 24 + a) l.ctx)
    (s.wrote l.origin n l.ctx l.part)

theorem landingSeen_watched (s : State) (n c : Nat) (l : Landing) : Watched s (landingSeen s n c l) :=
  .trans (t := s.wrote l.origin n l.ctx l.part) ⟨rfl⟩ (.foldl (fun _ _ => farLands_watched ..) _ _)

theorem landNow_eq (s : State) (n c : Nat) (l : Landing) :
    s.landNow n c l = ((landingSeen s n c l).floorWrite n c pGW (remoteUser l.origin l.eng) l.writes l.ctx).sendAck l := rfl

/-- A write whose ports no other unit uses, into a floor without wrong bits, lands in full and is acknowledged. -/
theorem landNow_spec (hn : n < 48) (right : (s.clus n).upsets = []) (free : (s.clus n).ports.1 ≠ c ∨ (s.clus n).ports.2 = []) (l : Landing) :
    let t := s.landNow n c l
    (∀ a, readByte (t.clus n).floor a = readByte (writeMasked (s.clus n).floor l.writes) a) ∧ (t.clus n).landed = (s.clus n).landed
      ∧ (t.clus n).slots = (s.clus n).slots ∧ t.acks = s.acks ++ [.direct l.origin l.id] ∧ ∀ m, m ≠ n → t.clus m = s.clus m := by
  have seen := landingSeen_watched s n c l
  rw [landNow_eq]
  generalize landingSeen s n c l = q at seen
  rw [← seen.clus n] at right free ⊢
  obtain ⟨bytes, -, -, others⟩ := floorWritesLand q n c pGW (remoteUser l.origin l.eng) l.writes l.ctx hn right free
  have ready : Serves n c (remoteUser l.origin l.eng) q := ⟨right, fun at_ e he => by
    rw [free.resolve_left (not_not.2 at_)] at he
    cases he⟩
  have stays := floorWrite_stays ready hn pGW l.writes l.ctx
  refine ⟨bytes, stays.landed, stays.slots, ?_, fun m hm => (others m hm).trans (seen.clus m)⟩
  rw [← seen.acks]
  exact congrArg (· ++ [Ack.direct l.origin l.id]) stays.acks

/-- A cluster with one more write landed from an origin (R325). -/
def countLanded (origin : Nat) (k : Cluster) : Cluster := { k with landed := tMod k.landed origin 0 (· + 1) }

/-- A cluster with a FINAL write held in a slot (R325). -/
def holdFinal (tid : Nat) (h : Held) (k : Cluster) : Cluster := { k with slots := tPut k.slots tid h }

/-- Where no FINAL write is held that its origin's count releases, none lands (R325). -/
theorem releaseFinal_none {origin : Nat} (waits : ∀ e ∈ (s.clus n).slots, (tGet (s.clus n).landed origin).getD 0 + 1 < e.2.n) :
    s.releaseFinal n c origin = s := by
  have none : ((s.clus n).slots.find? fun e => e.2.l.origin == origin && e.2.n ≤ (tGet (s.clus n).landed origin).getD 0 + 1) = none :=
    List.find?_eq_none.2 fun e he => by simp [Nat.not_le.2 (waits e he)]
  unfold State.releaseFinal
  dsimp only
  rw [none]

theorem landDirect_plain (whole : s.isVoid l.word = false) (plain : l.final = none) : s.landDirect n c l =
    if l.counts then ((s.landNow n c l).modCl n (countLanded l.origin)).releaseFinal n c l.origin else s.landNow n c l := by
  unfold State.landDirect
  dsimp only
  rw [whole, if_neg Bool.false_ne_true, plain]
  rfl

/-- A write without FINAL lands and is counted, where no FINAL write is held (R321, R325). -/
theorem landDirect_plain_spec (hn : n < 48) (whole : s.isVoid l.word = false) (plain : l.final = none) (empty : (s.clus n).slots = [])
    (right : (s.clus n).upsets = []) (free : (s.clus n).ports.1 ≠ c ∨ (s.clus n).ports.2 = []) :
    let t := s.landDirect n c l
    (∀ a, readByte (t.clus n).floor a = readByte (writeMasked (s.clus n).floor l.writes) a)
      ∧ (l.counts = true → tGet (t.clus n).landed l.origin = some ((tGet (s.clus n).landed l.origin).getD 0 + 1))
      ∧ t.acks = s.acks ++ [.direct l.origin l.id] ∧ ∀ m, m ≠ n → t.clus m = s.clus m := by
  obtain ⟨bytes, landed, slots, acks, others⟩ := landNow_spec hn right free l
  rw [landDirect_plain whole plain]
  generalize s.landNow n c l = q at bytes landed slots acks others
  cases l.counts with
  | false => exact ⟨bytes, fun h => absurd h (by decide), acks, others⟩
  | true =>
    have own : (q.modCl n (countLanded l.origin)).clus n = countLanded l.origin (q.clus n) := by rw [modCl_clus, if_pos ⟨rfl, hn⟩]
    have kept : ((q.modCl n (countLanded l.origin)).clus n).slots = [] := by
      rw [own]
      exact slots.trans empty
    rw [if_pos rfl, releaseFinal_none (by rw [kept]; simp)]
    refine ⟨fun a => ?_, fun _ => ?_, acks, fun m hm => ?_⟩
    · rw [own]
      exact bytes a
    · rw [own, countLanded, tMod, tGet_tPut, if_pos rfl, landed]
    · rw [modCl_clus, if_neg fun k => hm k.1]
      exact others m hm

/-- A FINAL write that finds its slot taken is dropped (R326). -/
theorem landDirect_dropped {tid need : Nat} {h : Held} (whole : s.isVoid l.word = false) (final : l.final = some (tid, need))
    (taken : tGet (s.clus n).slots tid = some h) : ∃ x loc other resource, s.landDirect n c l =
      (((s.count 0x9004 2 1).wrote l.origin n l.ctx l.part).hazard x 1 4 loc other resource).sendAck l := by
  unfold State.landDirect
  dsimp only
  rw [whole, if_neg Bool.false_ne_true, final]
  dsimp only
  rw [taken]
  exact ⟨_, _, _, _, rfl⟩

/-- A FINAL write that is dropped is counted and acknowledged, and changes no cluster (R321, R326). -/
theorem landDirect_dropped_spec {tid need : Nat} {h : Held} (whole : s.isVoid l.word = false) (final : l.final = some (tid, need))
    (taken : tGet (s.clus n).slots tid = some h) :
    let t := s.landDirect n c l
    (∀ m, t.clus m = s.clus m) ∧ t.acks = s.acks ++ [.direct l.origin l.id]
      ∧ (tGet t.counters (0x9004 * 256 + 2)).getD 0
          = BitVec.ofNat 64 (min (((tGet s.counters (0x9004 * 256 + 2)).getD 0).toNat + 1) (2 ^ 64 - 1)) := by
  obtain ⟨x, loc, other, resource, dropped⟩ := landDirect_dropped (c := c) whole final taken
  rw [dropped]
  have counted := hazard_counter_ne ((s.count 0x9004 2 1).wrote l.origin n l.ctx l.part) x 1 4 loc other resource
    (k := 0x9004 * 256 + 2) (by decide)
  exact ⟨fun _ => rfl, rfl, (congrArg (·.getD 0) counted).trans (counter_count s 0x9004 2 1)⟩

/-- A FINAL write whose count is not reached is held in its slot, where no other is held (R325). -/
theorem landDirect_held {tid need : Nat} (hn : n < 48) (whole : s.isVoid l.word = false) (final : l.final = some (tid, need))
    (empty : (s.clus n).slots = []) (early : (tGet (s.clus n).landed l.origin).getD 0 + 1 < need) :
    s.landDirect n c l = s.modCl n (holdFinal tid { l, n := need, since := s.beat.boundaries }) := by
  have free : tGet (s.clus n).slots tid = none := by
    rw [empty]
    rfl
  have held : s.landDirect n c l =
      (s.modCl n (holdFinal tid { l, n := need, since := s.beat.boundaries })).releaseFinal n c l.origin := by
    unfold State.landDirect
    dsimp only
    rw [whole, if_neg Bool.false_ne_true, final]
    dsimp only
    rw [free]
    rfl
  have own : (s.modCl n (holdFinal tid { l, n := need, since := s.beat.boundaries })).clus n
      = holdFinal tid { l, n := need, since := s.beat.boundaries } (s.clus n) := by rw [modCl_clus, if_pos ⟨rfl, hn⟩]
  rw [held, releaseFinal_none]
  rw [own, holdFinal, empty]
  simpa [tPut] using early

end

/-- Settles O31: the three outcomes of `landDirect`, each in the state in which the write is the next effect due. -/
theorem remoteWrites : Obligations.RemoteWrites := by
  intro s n e l offered next kind whole
  have acts : exec (.remoteWriteLand n) s = .next (s.after ((taken s n).landDirect n e.t l)) :=
    exec_nextDue rfl rfl rfl rfl offered next kind (beq_self_eq_true _) (beq_self_eq_true _)
  have whole : (taken s n).isVoid l.word = false := whole
  refine ⟨fun plain empty right free => ⟨_, acts, landDirect_plain_spec n.isLt whole plain empty right free⟩,
    fun tid need final _ => ⟨fun occupied => ?_, fun empty early => ?_⟩⟩
  · obtain ⟨h, occupied⟩ := Option.isSome_iff_exists.1 occupied
    exact ⟨_, acts, landDirect_dropped_spec (s := taken s n) whole final occupied⟩
  · rw [landDirect_held (s := taken s n) n.isLt whole final empty early] at acts
    refine ⟨_, acts, ?_, ?_, rfl, fun m hm => ?_⟩
    · rw [modCl_clus_self]
      exact (tGet_tPut ..).trans (if_pos rfl)
    · rw [modCl_clus_self]
      rfl
    · rw [modCl_clus, if_neg fun k => hm k.1]
      rfl

end Sys2Proof.Proofs.RemoteWrites
end

section
/-! The proof of O24: acknowledgements reach their senders, and a FENCE, a BULK command and an untimed signal take effect once nothing is owed. -/

namespace Sys2Proof.Proofs.Completions

open Sys2Proof Sys2Proof.Machine Sys2Proof.Laws Sys2Proof.Proofs.HostService Sys2Proof.Proofs.Books Sys2Proof.Proofs.Holds
  Sys2Proof.Proofs.EventRows Sys2Proof.Proofs.SyncQueues Sys2Proof.Proofs.Signals

/-! ## Acknowledgements (R321) -/

section
variable {s : State} {k : Nat}

theorem writeAck_none (absent : s.acks[k]? = none) : s.writeAck k = s := by
  unfold State.writeAck
  rw [absent]

theorem writeAck_direct {n id : Nat} (way : s.acks[k]? = some (.direct n id)) :
    s.writeAck k = { s with acks := s.acks.eraseIdx k }.acked n id := by
  unfold State.writeAck
  rw [way]

/-- The acknowledgement of a DIRECT write reaches one cluster. -/
theorem acked_spec (q : State) {n : Nat} (hn : n < 48) (id : Nat) :
    let t := q.acked n id
    (t.clus n).unacked = ((q.clus n).unacked.map fun o => if o.id = id then { o with left := o.left - 1 } else o).filter (·.left != 0)
      ∧ t.clus n = { q.clus n with unacked := (t.clus n).unacked } ∧ (∀ m, m ≠ n → t.clus m = q.clus m) ∧ t = { q with cl := t.cl } := by
  intro t
  have own : t.clus n = { q.clus n with unacked :=
      ((q.clus n).unacked.map fun o => if o.id = id then { o with left := o.left - 1 } else o).filter (·.left != 0) } := by
    show (State.modCl _ _ _).clus n = _
    rw [modCl_clus, if_pos ⟨rfl, hn⟩]
  refine ⟨by rw [own], by rw [own], fun m hm => ?_, rfl⟩
  show (State.modCl _ _ _).clus m = _
  rw [modCl_clus, if_neg fun h => hm h.1]

/-- The acknowledgement of a write of a BULK command reaches that command; one of bank memory is known to the detector. -/
theorem writeAck_bulk {id dst : Nat} {a : Option Nat} (way : s.acks[k]? = some (.bulk id dst a)) :
    s.writeAck k = { s with acks := s.acks.eraseIdx k, det := (s.writeAck k).det
                            bulks := s.bulks.map fun b =>
                              if b.id = id then { b with left := b.left - 1, owed := tMod b.owed dst 0 (· - 1) } else b } := by
  unfold State.writeAck
  rw [way]
  cases a with
  | none => rfl
  | some addr => rfl

end

/-! ## A FENCE (R323) -/

/-- From `s` to `t` only the detector, the causes of hold and the domains change. -/
structure Eases (s t : State) : Prop where
  eq : t = { s with det := t.det, beat := t.beat, dom := t.dom }

section
variable {s t u : State}

theorem Eases.trans (h : Eases s t) (k : Eases t u) : Eases s u := ⟨k.eq.trans (by rw [h.eq])⟩

theorem Eases.clus (h : Eases s t) (m : Nat) : t.clus m = s.clus m := by
  rw [h.eq]
  rfl

theorem Eases.caller (h : Eases s t) (v : Nat) : t.caller v = s.caller v := by
  rw [h.eq]
  rfl

theorem settleWait_eases (s : State) (w : Nat) : Eases s (s.settleWait w) := by
  unfold State.settleWait
  split
  · exact ⟨rfl⟩
  · exact ⟨rfl⟩

theorem schedSy_eases (s : State) (w : Nat) : Eases s (s.schedSy w) := by
  obtain ⟨f, eq⟩ := schedSy_evs s w
  rw [eq]
  exact ⟨rfl⟩

end

/-- A caller whose FENCE has completed. -/
def fenceEnded (f : Fence) (k : Caller) : Caller := { k with fence := none, syFree := f.r + 1 }

section
variable {s : State} {f : Fence}

theorem completeFence_waits {w c : Nat} (runs : (s.caller w).fence = some f) (waits : c < f.r ∨ s.fenceBusy w f = true) : s.completeFence w c = s := by
  unfold State.completeFence
  rw [runs]
  refine if_neg fun due => ?_
  rw [Bool.and_eq_true, decide_eq_true_eq, Bool.not_eq_true'] at due
  obtain ⟨released, free⟩ := due
  obtain early | busy := waits
  · omega
  · rw [busy] at free
    cases free

theorem completeFence_ends {w c : Nat} (runs : (s.caller w).fence = some f) (released : f.r ≤ c) (free : s.fenceBusy w f = false) :
    Eases (s.modCaller w (fenceEnded f)) (s.completeFence w c) := by
  have due : (decide (f.r ≤ c) && !s.fenceBusy w f) = true := by
    rw [free, decide_eq_true released]
    rfl
  unfold State.completeFence
  rw [runs]
  dsimp only
  rw [if_pos due]
  refine (Eases.trans ?_ (settleWait_eases ..)).trans (schedSy_eases ..)
  exact ⟨rfl⟩

/-- The row of a FENCE where nothing else of its region is due first. -/
theorem exec_fenceComplete {n : Fin 48} (present : n.val < s.lcMax) (quiet : s.quiet (s.regionOf n)) :
    exec (.fenceComplete n) s = .next (s.after (s.completeFence n (s.domN (s.regionOf n)).nt)) := by
  show commit s (if s.lcMax ≤ n then s else _) = _
  rw [if_neg (by omega)]
  dsimp only
  rw [flush_quiet s _ quiet, commit_eq]

end

/-! ## What every signal leaves: the fuse map, and with it the places of the clusters (R22, R28) -/

section
variable {s t : State}

theorem Stores.fused (h : Stores s t) : t.fused = s.fused := by rw [h.eq]

theorem Records.fused (h : Records s t) : t.fused = s.fused := by rw [h.eq]

theorem locInScope_congr (h : t.fused = s.fused) (scope loc lc : Nat) : t.locInScope scope loc lc = s.locInScope scope loc lc := by
  unfold State.locInScope State.locLc State.phys
  rw [h]

end

section
variable (s : State)

theorem abort_fused (cls bar loc : Nat) : (s.abort cls bar loc).fused = s.fused := by
  have givenUp : (discarded s cls).fused = s.fused := by
    unfold discarded
    split
    · rfl
    · rfl
  have reported : (aborted s cls bar).fused = ((discarded s cls).closeBar bar true).fused := by
    unfold aborted
    rw [reportFault_eq]
  calc (s.abort cls bar loc).fused = (aborted s cls bar).fused := Records.fused (abort_records s cls bar loc)
    _ = ((discarded s cls).closeBar bar true).fused := reported
    _ = (discarded s cls).fused := Stores.fused (closeBar_stores ..)
    _ = s.fused := givenUp

theorem fence_fused (n cause : Nat) : (s.fence n cause).fused = s.fused := by
  have noted : ∀ q : State, (WaitHolds.discrepanciesNoted q).fused = q.fused := fun q => by
    unfold WaitHolds.discrepanciesNoted
    split
    · rfl
    · rfl
  obtain ⟨ids, r, eq⟩ := WaitHolds.fence_eq s n cause
  rw [eq]
  refine (noted _).trans ?_
  unfold WaitHolds.causeTaken
  split
  · rfl
  · rfl

theorem abortAtBar_fused (loc : Nat) : (s.abortAtBar loc).fused = s.fused := by
  unfold State.abortAtBar
  split_ifs
  · exact (Records.fused (discrepancies1_records s.cancelItems)).trans rfl
  · exact abort_fused ..
  · rfl

theorem unitFault_fused (n cause loc : Nat) (x : Ctx) (other : Nat) (detail : Bytes) : (s.unitFault n cause loc x other detail).fused = s.fused :=
  (abortAtBar_fused ..).trans ((fence_fused ..).trans (Records.fused (WaitHolds.faultBooked ..)))

theorem moduleFault_fused (cause loc : Nat) (x : Ctx) (detail : Bytes) : (s.moduleFault cause loc x detail).fused = s.fused := by
  refine Eq.trans ?_ (Records.fused (WaitHolds.faultBooked s 4 cause loc x loc detail))
  unfold State.moduleFault
  dsimp only
  split
  · exact abort_fused ..
  · unfold State.widen
    split
    · rfl
    · rfl

theorem roundStep_fused (d t q : Nat) : (s.roundStep d t q).fused = s.fused := by
  rw [roundStep_eq]
  dsimp only
  split_ifs
  · rfl
  · rfl
  · rfl

theorem roundFault_fused (d t q : Nat) (r : Round) (g : Sig) : (s.roundFault d t q r g).fused = s.fused := by
  unfold State.roundFault
  dsimp only
  split
  · split
    · exact unitFault_fused ..
    · rfl
  · split
    · exact moduleFault_fused ..
    · rfl

end

/-! ## A signal that applies (R312) -/

/-- From `s` to `t` no cluster changes its place, no BULK command ends and no untimed signal leaves or arrives. -/
structure Keeps (s t : State) : Prop where
  fused : t.fused = s.fused
  bulks : t.bulks = s.bulks
  untimed : t.untimed = s.untimed

theorem Keeps.refl (s : State) : Keeps s s := ⟨rfl, rfl, rfl⟩

theorem Keeps.trans {s t u : State} (h : Keeps s t) (k : Keeps t u) : Keeps s u :=
  ⟨k.fused.trans h.fused, k.bulks.trans h.bulks, k.untimed.trans h.untimed⟩

section
variable (s : State) {d t : Nat} {g : Sig}

theorem signalled_keeps (lc : Nat) (inside outside : Cluster → Cluster) (counts : Bool) (sub : Nat) :
    Keeps s (signalled s d t lc g inside outside counts sub) := by
  unfold signalled
  split_ifs
  · exact ⟨rfl, rfl, rfl⟩
  · exact ⟨rfl, rfl, rfl⟩
  · exact ⟨rfl, rfl, rfl⟩

theorem applySig_keeps_of_holder {lc : Nat} (held : g.obj.holder = some lc) : Keeps s (s.applySig d t g) := by
  cases obj : g.obj with
  | cue n num =>
    rw [applySig_cue obj]
    exact signalled_keeps ..
  | tally n num =>
    rw [applySig_tally obj]
    exact signalled_keeps ..
  | mcue num =>
    rw [obj] at held
    cases held
  | round q =>
    rw [obj] at held
    cases held

theorem applySig_mcue_keeps {num : Nat} (obj : g.obj = .mcue num) : Keeps s (s.applySig d t g) := by
  rw [applySig_mcue s obj]
  dsimp only
  split
  · exact ⟨rfl, rfl, rfl⟩
  · exact ⟨rfl, rfl, rfl⟩

/-- A completion at a round is no arrival: the round stays as it is (R334). -/
theorem applySig_round_bulk_keeps {q : Nat} (obj : g.obj = .round q) (op : g.op = .bulk) : Keeps s (s.applySig d t g) := by
  rw [applySig_round s obj, op]
  simp only [Round.faults, Round.apply, Bool.false_eq_true, if_false]
  split
  · exact ⟨rfl, rfl, rfl⟩
  · next waits =>
    rw [roundStep_not_full]
    · exact ⟨rfl, rfl, rfl⟩
    · exact (congrArg Round.full (round_of_put_same (s.detApply d g) d q _ rfl)).trans (Bool.eq_false_iff.2 waits)

theorem applySig_bulk_keeps (op : g.op = .bulk) : Keeps s (s.applySig d t g) := by
  cases obj : g.obj with
  | cue lc num => exact applySig_keeps_of_holder s (lc := lc) (by rw [obj]; rfl)
  | tally lc num => exact applySig_keeps_of_holder s (lc := lc) (by rw [obj]; rfl)
  | mcue num => exact applySig_mcue_keeps s obj
  | round q => exact applySig_round_bulk_keeps s obj op

theorem applySig_fused (d t : Nat) (g : Sig) : (s.applySig d t g).fused = s.fused := by
  cases obj : g.obj with
  | cue lc num => exact (applySig_keeps_of_holder s (lc := lc) (by rw [obj]; rfl)).fused
  | tally lc num => exact (applySig_keeps_of_holder s (lc := lc) (by rw [obj]; rfl)).fused
  | mcue num => exact (applySig_mcue_keeps s obj).fused
  | round q =>
    rw [applySig_round s obj]
    dsimp only
    split
    · exact roundFault_fused ..
    · split
      · rfl
      · exact roundStep_fused ..

/-- The timed signals that a domain has due leave every cluster at its place. -/
theorem signals_fused (d upTo gens : Nat) : (s.signals d upTo gens).fused = s.fused := by
  unfold State.signals
  refine List.foldlRecOn (motive := fun t : State => t.fused = s.fused) _ _ rfl fun t kept e _ => ?_
  split
  · exact (applySig_fused ..).trans kept
  · exact kept
  · exact (roundStep_fused ..).trans kept
  · exact kept

end

/-! ## An untimed signal (R307, R310) -/

/-- The stamp of the cycle that a domain has reached. -/
def reached (s : State) (d : Nat) : Nat := if (s.domN d).waited = 0 then (s.domN d).nt - 1 else (s.domN d).nt

/-- The state that an untimed signal meets in a domain: the timed ones of the cycle that the domain has reached have applied. -/
def settled (s : State) (d : Nat) : State := if (s.domN d).nt = 0 then s else s.signals d (reached s d) (reached s d)

section
variable {s : State} {d lc num : Nat} {g : Sig}

theorem applyHeld_eq (g : Sig) (s : State) (d : Nat) :
    ∃ last : LastSig, last.loc = g.last.loc ∧ applyHeld g s d = (settled s d).applySig d (reached s d) { g with last } :=
  let stamp := (s.domN d).stamp (reached s d)
  ⟨{ g.last with bar := stamp.1, beat := stamp.2.1, cyc := stamp.2.2 }, rfl, rfl⟩

theorem settled_fused (s : State) (d : Nat) : (settled s d).fused = s.fused := by
  unfold settled
  split
  · rfl
  · exact signals_fused ..

theorem settled_nothingDue (free : nothingDue s d) : settled s d = s := by
  have past : reached s d ≤ (s.domN d).nt := by
    unfold reached
    split
    · exact Nat.sub_le ..
    · exact Nat.le_refl _
  unfold settled
  split
  · rfl
  · exact signals_nothingDue s free past

/-- An untimed SET or completion in scope sets its cue, whatever timed signals apply before it. -/
theorem applyUntimed_cue_sets (obj : g.obj = .cue lc num) (sets : g.op = .set ∨ g.op = .bulk) (hlc : lc < 48)
    (inside : s.locInScope g.scope g.last.loc lc = true) : ((tGet ((s.applyUntimed g).clus lc).cues num).getD {}).set = true := by
  obtain ⟨last, place, eq⟩ := applyHeld_eq g s (s.regionOf lc)
  have still : (settled s (s.regionOf lc)).locInScope g.scope last.loc lc = true := by
    rw [locInScope_congr (settled_fused ..), place]
    exact inside
  obtain ⟨applied, -⟩ := applySig_cue_spec (s := settled s (s.regionOf lc)) (d := s.regionOf lc) (t := reached s (s.regionOf lc))
    (g := { g with last }) obj hlc
  rw [applyUntimed_held s (lc := lc) (by rw [obj]; rfl), eq, (applied still).1, cue_apply_sets sets]

theorem applyUntimed_cue_keeps (obj : g.obj = .cue lc num) (free : nothingDue s (s.regionOf lc)) : Keeps s (s.applyUntimed g) := by
  have held : g.obj.holder = some lc := by rw [obj]; rfl
  obtain ⟨last, -, eq⟩ := applyHeld_eq g s (s.regionOf lc)
  rw [applyUntimed_held s held, eq, settled_nothingDue free]
  exact applySig_keeps_of_holder s held

theorem applyHeld_bulk_keeps (op : g.op = .bulk) (free : nothingDue s d) : Keeps s (applyHeld g s d) := by
  obtain ⟨last, -, eq⟩ := applyHeld_eq g s d
  rw [eq, settled_nothingDue free]
  exact applySig_bulk_keeps s op

/-- Where nothing is due in any domain, an untimed completion ends no BULK command. -/
theorem applyUntimed_bulk_keeps (op : g.op = .bulk) (free : ∀ d, nothingDue s d) : Keeps s (s.applyUntimed g) := by
  cases held : g.obj.holder with
  | some lc =>
    rw [applyUntimed_held s held]
    exact applyHeld_bulk_keeps op (free _)
  | none =>
    rw [applyUntimed_module s held]
    refine (List.foldlRecOn (motive := fun t : State => Untouched s t ∧ Keeps s t) _ _ ⟨.refl s, .refl s⟩ fun t kept d _ => ?_).2
    obtain ⟨untouched, keeps⟩ := kept
    have still := untouched.nothingDue (free d)
    exact ⟨untouched.trans (applyHeld_bulk_untouched t op still), keeps.trans (applyHeld_bulk_keeps op still)⟩

theorem nothingDue_congr {q : State} (dom : q.dom = s.dom) (fused : q.fused = s.fused) (free : nothingDue s (s.regionOf lc)) :
    nothingDue q (q.regionOf lc) := by
  unfold nothingDue State.domN State.regionOf State.phys at *
  rw [dom, fused]
  exact free

theorem untimedArrive_none {k : Nat} (absent : s.untimed[k]? = none) : s.untimedArrive k = s := by
  unfold State.untimedArrive
  rw [absent]

theorem untimedArrive_some {k : Nat} (way : s.untimed[k]? = some g) :
    s.untimedArrive k = { s with untimed := s.untimed.eraseIdx k }.applyUntimed g := by
  unfold State.untimedArrive
  rw [way]

end

/-! ## A BULK command (R320, R400) -/

/-- The signal of a BULK command at its completion cue (R310). -/
def completion (s : State) (b : Bulk) (p : Done) : Sig :=
  { obj := p.obj, op := .bulk, scope := p.scope, src := 51, rel := [2 * b.id + 1], seg := b.ctx.seg, run := b.ctx.run
    last := { module := s.moduleId, loc := b.loc, step := b.ctx.step, op := 6 } }

/-- The module once a BULK command has left it and has made its contribution to the signature of its bar (R643). -/
def bulkLeft (s : State) (b : Bulk) : State :=
  let q := { s with bulks := s.bulks.filter (·.id != b.id) }
  if b.signs then
    q.contribute (if b.who < 48 then b.who else 48 + (b.who - 64) / 32) b.ctx
      (leBytes 5 b.ctx.step ++ leBytes 4 b.count ++ leBytes 4 (crc32c (b.data.flatMap (·.2))).toNat)
  else q

section
variable (s : State) (b : Bulk)

theorem bulkLeft_eq : bulkLeft s b = { s with bulks := s.bulks.filter (·.id != b.id), contribs := (bulkLeft s b).contribs } := by
  unfold bulkLeft
  dsimp only
  split
  · rfl
  · rfl

theorem completeBulk_eq : s.completeBulk b = b.done.elim (bulkLeft s b) fun p => (bulkLeft s b).applyUntimed (completion (bulkLeft s b) b p) := by
  unfold State.completeBulk
  dsimp only
  cases b.done with
  | none => rfl
  | some p => rfl

/-- The start of the head of a unit's queue is scheduled among the effects of its die clock. -/
theorem schedUnit_eq (d u : Nat) : s.schedUnit d u = { s with dom := (s.schedUnit d u).dom } := by
  unfold State.schedUnit
  dsimp only
  split
  · rfl
  · split
    · rfl
    · rfl

/-- A unit that is free takes the next command of its queue: it alone and its die clock change. -/
theorem moverDone_eq : s.moverDone b = { s with units := (s.moverDone b).units, dom := (s.moverDone b).dom } := by
  unfold State.moverDone
  dsimp only
  split
  · rfl
  · rw [schedUnit_eq]
    rfl

theorem moverDone_of_cluster (cluster : b.who < 64) : s.moverDone b = s := by
  unfold State.moverDone
  exact if_pos (by rw [decide_eq_true cluster]; rfl)

/-- A bank mover has no command that runs once its BMOVE is complete (R402). -/
theorem moverDone_frees {d u : Nat} (who : b.who = 64 + 32 * d + u) (hd : d < 2) (hu : u < 16) : ((s.moverDone b).unit d u).run = none := by
  have die : (b.who - 64) / 32 = d := by omega
  have mover : (b.who - 64) % 32 = u := by omega
  have served : ¬ (decide (b.who < 64) || decide (uEngine ≤ u)) = true := by
    rw [Bool.or_eq_true, decide_eq_true_eq, decide_eq_true_eq]
    unfold uEngine
    omega
  unfold State.moverDone
  dsimp only
  rw [die, mover, if_neg served, schedUnit_eq]
  show ((State.modUnit _ _ _).unitN _).run = none
  rw [modUnit_unitN, if_pos ⟨rfl, by omega⟩]

theorem bulkCompletion_none {k : Nat} (absent : s.bulks[k]? = none) : s.bulkCompletion k = s := by
  unfold State.bulkCompletion
  rw [absent]

variable {s b}

theorem bulkCompletion_waits {k : Nat} (pending : s.bulks[k]? = some b) (waits : b.sent = false ∨ b.left ≠ 0) : s.bulkCompletion k = s := by
  unfold State.bulkCompletion
  rw [pending]
  refine if_neg fun due => ?_
  rw [Bool.and_eq_true, decide_eq_true_eq] at due
  obtain ⟨sent, acknowledged⟩ := due
  obtain unsent | owed := waits
  · rw [sent] at unsent
    cases unsent
  · exact owed acknowledged

theorem bulkCompletion_ends {k : Nat} (pending : s.bulks[k]? = some b) (sent : b.sent = true) (acknowledged : b.left = 0) :
    s.bulkCompletion k = (s.completeBulk b).moverDone b := by
  unfold State.bulkCompletion
  rw [pending]
  exact if_pos (by rw [sent, decide_eq_true acknowledged]; rfl)

/-- A BULK command that completes without a cue touches no cluster and no domain. -/
theorem completeBulk_silent (silent : b.done = none) : s.completeBulk b = bulkLeft s b := by
  rw [completeBulk_eq, silent]
  rfl

theorem completeBulk_signals {p : Done} (cue : b.done = some p) :
    s.completeBulk b = (bulkLeft s b).applyUntimed (completion (bulkLeft s b) b p) := by
  rw [completeBulk_eq, cue]
  rfl

/-- The command that completes leaves the list of those that are not complete, and no other one does. -/
theorem completeBulk_bulks (free : b.done = none ∨ ∀ d, d < 10 → nothingDue s d) : (s.completeBulk b).bulks = s.bulks.filter (·.id != b.id) := by
  have left : (bulkLeft s b).bulks = s.bulks.filter (·.id != b.id) := by rw [bulkLeft_eq]
  cases cue : b.done with
  | none => rw [completeBulk_silent cue, left]
  | some p =>
    have still : ∀ d, nothingDue (bulkLeft s b) d := fun d => by
      by_cases hd : d < 10
      · rw [bulkLeft_eq]
        exact free.resolve_left (by rw [cue]; exact Option.some_ne_none p) d hd
      · intro e he
        rw [State.domN, dif_neg hd] at he
        cases he
    rw [completeBulk_signals cue, (applyUntimed_bulk_keeps rfl still).bulks, left]

theorem completeBulk_cue_sets {p : Done} {lc num : Nat} (cue : b.done = some p) (obj : p.obj = .cue lc num) (hlc : lc < 48)
    (inside : s.locInScope p.scope b.loc lc = true) : ((tGet ((s.completeBulk b).clus lc).cues num).getD {}).set = true := by
  have placed : (bulkLeft s b).fused = s.fused := by rw [bulkLeft_eq]
  rw [completeBulk_signals cue]
  refine applyUntimed_cue_sets (g := completion (bulkLeft s b) b p) obj (.inr rfl) hlc ?_
  rw [locInScope_congr placed]
  exact inside

end

/-! ## The obligation -/

theorem acknowledgements (s : State) (k : Nat) : (s.acks[k]? = none → exec (.writeAck k) s = .next s)
    ∧ (∀ n id, s.acks[k]? = some (.direct n id) → n < 48 → ∃ t, exec (.writeAck k) s = .next (s.after t)
      ∧ (t.clus n).unacked = ((s.clus n).unacked.map fun o => if o.id = id then { o with left := o.left - 1 } else o).filter (·.left != 0)
      ∧ t.clus n = { s.clus n with unacked := (t.clus n).unacked } ∧ (∀ m, m ≠ n → t.clus m = s.clus m)
      ∧ t = { s with acks := s.acks.eraseIdx k, cl := t.cl })
    ∧ (∀ id dst a, s.acks[k]? = some (.bulk id dst a) → ∃ t, exec (.writeAck k) s = .next (s.after t)
      ∧ t = { s with acks := s.acks.eraseIdx k, det := t.det
                     bulks := s.bulks.map fun b =>
                       if b.id = id then { b with left := b.left - 1, owed := tMod b.owed dst 0 (· - 1) } else b }) := by
  have acts : exec (.writeAck k) s = .next (s.after (s.writeAck k)) := rfl
  refine ⟨fun absent => ?_, fun n id way hn => ⟨s.writeAck k, acts, ?_⟩, fun id dst a way => ⟨s.writeAck k, acts, writeAck_bulk way⟩⟩
  · rw [acts, writeAck_none absent]
    exact commit_self s
  · rw [writeAck_direct way]
    exact acked_spec { s with acks := s.acks.eraseIdx k } hn id

theorem fences_complete (s : State) (n : Fin 48) (f : Fence) (present : n.val < s.lcMax) (quiet : s.quiet (s.regionOf n))
    (runs : (s.caller n).fence = some f) :
    (f.r ≤ (s.domN (s.regionOf n)).nt → s.fenceBusy n f = false → ∃ t, exec (.fenceComplete n) s = .next (s.after t)
        ∧ t.caller n = { s.caller n with fence := none, syFree := f.r + 1 } ∧ (∀ v, v ≠ n.val → t.caller v = s.caller v)
        ∧ (∀ m, t.clus m = { s.clus m with caller := (t.clus m).caller }))
      ∧ ((s.domN (s.regionOf n)).nt < f.r ∨ s.fenceBusy n f = true → exec (.fenceComplete n) s = .next s) := by
  have acts := exec_fenceComplete present quiet
  refine ⟨fun released free => ⟨_, acts, ?_⟩, fun waits => ?_⟩
  · have ends := completeFence_ends runs released free
    refine ⟨?_, fun v hv => ?_, fun m => ?_⟩
    · rw [ends.caller, modCaller_caller, if_pos ⟨rfl, by omega⟩]
      rfl
    · rw [ends.caller, modCaller_caller, if_neg fun h => hv h.1]
    · rw [ends.clus, modCaller_clus]
      split
      · rfl
      · rfl
  · rw [acts, completeFence_waits runs waits]
    exact commit_self s

theorem bulk_completes (s : State) (k : Nat) (b : Bulk) (pending : s.bulks[k]? = some b) (sent : b.sent = true) (acknowledged : b.left = 0) :
    ∃ t, exec (.bulkCompletion k) s = .next (s.after t)
      ∧ (b.done = none ∨ (∀ d, d < 10 → ∀ e ∈ (s.domN d).evs, (s.domN d).nt < e.t) → t.bulks = s.bulks.filter (·.id != b.id))
      ∧ (∀ p lc num, b.done = some p → p.obj = .cue lc num → lc < 48 → s.locInScope p.scope b.loc lc = true →
          ((tGet (t.clus lc).cues num).getD {}).set = true)
      ∧ (∀ d u, b.who = 64 + 32 * d + u → d < 2 → u < 16 → (t.unit d u).run = none)
      ∧ (b.done = none → t.cl = s.cl ∧ (b.who < 64 → t.dom = s.dom)) := by
  have acts : exec (.bulkCompletion k) s = .next (s.after (s.bulkCompletion k)) := rfl
  rw [bulkCompletion_ends pending sent acknowledged] at acts
  have moved := moverDone_eq (s.completeBulk b) b
  have clusters : ((s.completeBulk b).moverDone b).cl = (s.completeBulk b).cl := by rw [moved]
  refine ⟨_, acts, fun free => ?_, fun p lc num cue obj hlc inside => ?_, fun d u who hd hu => moverDone_frees _ b who hd hu,
    fun silent => ⟨?_, fun cluster => ?_⟩⟩
  · rw [moved]
    exact completeBulk_bulks free
  · rw [State.clus, clusters]
    exact completeBulk_cue_sets cue obj hlc inside
  · rw [clusters, completeBulk_silent silent, bulkLeft_eq]
  · rw [moverDone_of_cluster _ b cluster, completeBulk_silent silent, bulkLeft_eq]

theorem untimed_applies (s : State) (k : Nat) (g : Sig) (lc num : Nat) (way : s.untimed[k]? = some g) (obj : g.obj = .cue lc num)
    (sets : g.op = .set ∨ g.op = .bulk) (hlc : lc < 48) (inside : s.locInScope g.scope g.last.loc lc = true) :
    ∃ t, exec (.signalApply (.untimed k)) s = .next (s.after t)
      ∧ ((∀ e ∈ (s.domN (s.regionOf lc)).evs, (s.domN (s.regionOf lc)).nt < e.t) → t.untimed = s.untimed.eraseIdx k)
      ∧ ((tGet (t.clus lc).cues num).getD {}).set = true := by
  have acts : exec (.signalApply (.untimed k)) s = .next (s.after (s.untimedArrive k)) := rfl
  rw [untimedArrive_some way] at acts
  refine ⟨_, acts, fun free => ?_, applyUntimed_cue_sets obj sets hlc inside⟩
  have still : nothingDue { s with untimed := s.untimed.eraseIdx k } _ := nothingDue_congr rfl rfl free
  exact (applyUntimed_cue_keeps obj still).untimed

/-- Settles O24: an acknowledgement reaches one command of its sender; a FENCE and a BULK command take effect where nothing is owed, and do nothing
before; a completion cue is set after the timed signals that are due, which leave the places of the clusters. -/
theorem acknowledgementsAndCompletions : Obligations.AcknowledgementsAndCompletions := by
  refine ⟨acknowledgements, fences_complete, fun s k => ⟨fun absent => ?_, fun b pending => ⟨fun waits => ?_, bulk_completes s k b pending⟩⟩,
    fun s k => ⟨fun absent => ?_, untimed_applies s k⟩⟩
  · show commit s (s.bulkCompletion k) = _
    rw [bulkCompletion_none s absent, commit_self]
  · show commit s (s.bulkCompletion k) = _
    rw [bulkCompletion_waits pending waits, commit_self]
  · show commit s (s.untimedArrive k) = _
    rw [untimedArrive_none absent, commit_self]

end Sys2Proof.Proofs.Completions
end

section
/-! The proof of O32: the last granule of a record is stored in the floor and acknowledged, and then the record is checked and entered in its channel; a
credit word changes its channel alone. -/

namespace Sys2Proof.Proofs.ChannelLandings

open Sys2Proof Sys2Proof.Machine Sys2Proof.Laws Sys2Proof.Proofs.Messages Sys2Proof.Proofs.EngineEffects Sys2Proof.Proofs.FloorWrites
  Sys2Proof.Proofs.RemoteWrites

/-! ## What a write into a floor without wrong bits leaves (R248, R262, R266) -/

/-- From `s` to `t` writes reach the floor of a cluster, which holds no wrong bit, or lose their port. -/
structure ReachesFloor (n : Nat) (s t : State) : Prop where
  eq : t = { s with cl := t.cl, residents := t.residents, det := t.det, hazards := t.hazards, counters := t.counters }
  right : (s.clus n).upsets = [] → (t.clus n).upsets = []
  others : ∀ m, m ≠ n → t.clus m = s.clus m

section
variable {s t u : State} {n c : Nat} {x : Ctx}

theorem ReachesFloor.trans (h : ReachesFloor n s t) (k : ReachesFloor n t u) : ReachesFloor n s u where
  eq := k.eq.trans (by rw [h.eq])
  right := k.right ∘ h.right
  others m hm := (k.others m hm).trans (h.others m hm)

theorem ReachesFloor.acks (h : ReachesFloor n s t) : t.acks = s.acks := by rw [h.eq]

theorem ReachesFloor.chans (h : ReachesFloor n s t) : t.chans = s.chans := by rw [h.eq]

theorem ReachesFloor.chan (h : ReachesFloor n s t) (ch : Nat) : t.chan ch = s.chan ch := by rw [State.chan, h.chans, State.chan]

theorem reaches_of_watched (h : Watched s t) (n : Nat) : ReachesFloor n s t where
  eq := by rw [h.eq]
  right right := by rw [h.clus, right]
  others m _ := h.clus m

theorem modCl_reaches (s : State) (n : Nat) {f : Cluster → Cluster} (upsets : ∀ k, (f k).upsets = k.upsets) : ReachesFloor n s (s.modCl n f) := by
  refine ⟨rfl, fun right => ?_, fun m hm => by rw [modCl_clus, if_neg fun h => hm h.1]⟩
  rw [modCl_clus]
  split
  · rw [upsets, right]
  · exact right

theorem takePort_reaches (s : State) (n c port unit a : Nat) (x : Ctx) : ReachesFloor n s (s.takePort n c port unit a x).2 := by
  unfold State.takePort
  dsimp only
  split
  · split
    · exact reaches_of_watched (.refl s) n
    · exact reaches_of_watched ⟨rfl⟩ n
  · exact modCl_reaches s n fun _ => rfl

theorem landWord_reaches (right : (s.clus n).upsets = []) (a : Nat) (ws : Writes) (x : Ctx) : ReachesFloor n s (s.landWord n c a ws x) := by
  unfold State.landWord
  dsimp only
  rw [right, List.isEmpty_nil, if_pos rfl]
  generalize hu : List.foldl _ _ _ = u
  have dirtied : ReachesFloor n s u := by
    rw [← hu]
    refine List.foldlRecOn (motive := ReachesFloor n s) _ _ (modCl_reaches s n fun _ => rfl) fun v hv k _ => ?_
    split
    · exact hv.trans ⟨rfl, id, fun _ _ => rfl⟩
    · exact hv
  exact dirtied.trans (modCl_reaches u n fun _ => rfl)

theorem wordWrite_reaches (right : (s.clus n).upsets = []) (port unit : Nat) (ws : Writes) (x : Ctx) (w : Nat) :
    ReachesFloor n s (wordWrite n c port unit ws x s w) := by
  have taken := takePort_reaches s n c port unit w x
  unfold wordWrite
  dsimp only
  generalize s.takePort n c port unit w x = q at taken ⊢
  have seen : Watched q.2 (if unit < uRemote then (q.2.overOperand n c w (q.2.userLoc n unit) x).nearLands (n * 2 ^ 24 + w)
      else q.2.overOperand n c w (q.2.userLoc n unit) x) := by
    split
    · exact (overOperand_watched ..).trans ⟨rfl⟩
    · exact overOperand_watched ..
  have before := taken.trans (reaches_of_watched seen n)
  split
  · exact before.trans (landWord_reaches (before.right right) ..)
  · exact before

theorem floorWrite_reaches (right : (s.clus n).upsets = []) (port unit : Nat) (ws : Writes) (x : Ctx) :
    ReachesFloor n s (s.floorWrite n c port unit ws x) := by
  rw [floorWrite_eq]
  generalize writeWords ws = l
  induction l generalizing s with
  | nil => exact reaches_of_watched (.refl s) n
  | cons w l ih =>
    have first := wordWrite_reaches (c := c) right port unit ws x w
    exact first.trans (ih (first.right right))

end

/-! ## A granule of a record (R321, R351, R352) -/

section
variable {s : State} {n c : Nat} {r : Route} {w : ChWord}

/-- The bytes that a granule stores: the place of the CRC in the header apart (R351). -/
def granuleWrites (r : Route) (w : ChWord) : Writes :=
  (fullWrites (r.ringBase + w.off) w.data).filter fun e =>
    !(w.first && decide (r.ringBase + w.off + 12 ≤ e.1) && decide (e.1 < r.ringBase + w.off + 16))

/-- The state in which a granule has been written into the ring. -/
def granuleStored (s : State) (n c : Nat) (r : Route) (w : ChWord) : State :=
  ((s.wrote r.src n w.ctx w.part).farLands (s.regionOf n) c (2 * w.id) (some w.ch) false (n * 2 ^ 24 + (r.ringBase + w.off)) w.ctx).floorWrite n c pGW
    (remoteUser r.src 6) (granuleWrites r w) w.ctx

theorem granuleStored_reaches (right : (s.clus n).upsets = []) : ReachesFloor n s (granuleStored s n c r w) := by
  have seen : Watched s ((s.wrote r.src n w.ctx w.part).farLands (s.regionOf n) c (2 * w.id) (some w.ch) false (n * 2 ^ 24 + (r.ringBase + w.off)) w.ctx) :=
    .trans (t := s.wrote r.src n w.ctx w.part) ⟨rfl⟩ (farLands_watched ..)
  exact (reaches_of_watched seen n).trans (floorWrite_reaches (by rw [seen.clus, right]) ..)

/-- The bytes of the record that is landing in a channel, with one more granule. -/
def recordWith (k : Chan) (w : ChWord) : Bytes := if w.first then w.data else k.landing ++ w.data

/-- The last granule is stored and acknowledged, and the record has landed in full. -/
theorem chLand_last (route : s.route w.ch = some r) (whole : s.isVoid w.word = false) (last : w.last = true) : s.chLand n c w =
    (({ granuleStored s n c r w with acks := (granuleStored s n c r w).acks ++ [.direct r.src w.id] } : State).modChan w.ch fun k =>
      { k with landing := recordWith k w }).chLanded n c r w := by
  unfold State.chLand
  rw [route]
  dsimp only
  rw [whole, if_neg Bool.false_ne_true, if_pos last]
  rfl

/-! ## The check of a record and its descriptor (R354, R355) -/

/-- Whether the inline check finds a wrong CRC; the CRC of a header of zeros counts as 0. -/
def crcWrong (b : Bytes) (sent : BitVec 32) : Bool :=
  crc32c (b.take 12 ++ (b.drop 16).take (recField b 0 2)) != if (b.take 12).all (· == 0) then 0 else sent

/-- Bit 0 of the landing status is CRC_BAD. -/
theorem landingStatus_getLsbD_zero (wrong msg : Bool) (expected got : Byte) :
    (BitVec.ofNat 3 (landingStatus wrong msg expected got)).getLsbD 0 = wrong := by
  have even : landingStatus wrong msg expected got % 2 = b2n wrong := by
    unfold landingStatus b2n
    dsimp only
    split <;> omega
  rw [BitVec.getLsbD_ofNat, Nat.testBit_zero, even]
  cases wrong <;> rfl

/-- The place of a record in its ring. -/
def recordStart (b : Bytes) (w : ChWord) : Nat := if w.pad then w.off else w.off + 64 - recSize (b.length - 16)

/-- The landing status of a MESSAGE record. -/
def messageStatus (k : Chan) (w : ChWord) : Nat :=
  landingStatus (crcWrong k.landing w.crc) true k.recvAlive (BitVec.ofNat 8 (recField k.landing 2 1))

/-- The descriptor of a MESSAGE record that has landed (R355). -/
def messageDesc (k : Chan) (w : ChWord) (c : Nat) : Desc :=
  { off := recordStart k.landing w, len := recField k.landing 0 2, status := BitVec.ofNat 3 (messageStatus k w)
    tag := BitVec.ofNat 32 (recField k.landing 8 4), entered := c }

/-- A channel whose MESSAGE record has entered its descriptor. -/
def messageEntered (w : ChWord) (c : Nat) (q k : Chan) : Chan :=
  { k with landing := [], recvAlive := BitVec.ofNat 8 (recField q.landing 2 1)
           crcBad := k.crcBad || (messageStatus q w).testBit 0, repeatF := k.repeatF || (messageStatus q w).testBit 1
           skipF := k.skipF || (messageStatus q w).testBit 2, arrivals := k.arrivals ++ [messageDesc q w c] }

theorem chLanded_message (message : recField (s.chan w.ch).landing 3 1 = 1) : s.chLanded n c r w =
    let a := r.ringBase + recordStart (s.chan w.ch).landing w
    (s.landWord n c (a / 64 * 64) (fullWrites (a + 12) (leBytes 4 (messageStatus (s.chan w.ch) w))) w.ctx).modChan w.ch
      (messageEntered w c (s.chan w.ch)) := by
  have kind : (recField (s.chan w.ch).landing 3 1 == 1) = true := beq_iff_eq.2 message
  unfold State.chLanded
  dsimp only
  rw [kind]
  rfl

/-- A MESSAGE record enters its descriptor; beside the channel only the floor of the receiver changes. -/
theorem chLanded_message_spec (right : (s.clus n).upsets = []) (message : recField (s.chan w.ch).landing 3 1 = 1) :
    let t := s.chLanded n c r w
    t.chan w.ch = messageEntered w c (s.chan w.ch) (s.chan w.ch) ∧ t.acks = s.acks ∧ (∀ k, k ≠ w.ch → tGet t.chans k = tGet s.chans k)
      ∧ ∀ m, m ≠ n → t.clus m = s.clus m := by
  rw [chLanded_message message]
  dsimp only
  have status := landWord_reaches (c := c) right ((r.ringBase + recordStart (s.chan w.ch).landing w) / 64 * 64)
    (fullWrites (r.ringBase + recordStart (s.chan w.ch).landing w + 12) (leBytes 4 (messageStatus (s.chan w.ch) w))) w.ctx
  generalize s.landWord .. = q at status
  refine ⟨?_, status.acks, fun k other => ?_, status.others⟩
  · rw [modChan_chan, status.chan]
  · exact (tGet_tPut ..).trans ((if_neg other).trans (by rw [status.chans]))

end

/-- The last granule of a MESSAGE record that is due lands, is acknowledged and lets the record enter its descriptor. -/
theorem message_lands {s : State} {n : Fin 48} {c : Nat} {w : ChWord} {r : Route} (last : w.last = true) (route : s.route w.ch = some r)
    (whole : s.isVoid w.word = false) (right : (s.clus n).upsets = []) (message : recField (recordWith (s.chan w.ch) w) 3 1 = 1) :
    let t := s.chLand n c w
    let k := { s.chan w.ch with landing := recordWith (s.chan w.ch) w }
    t.chan w.ch = messageEntered w c k k ∧ t.acks = s.acks ++ [.direct r.src w.id] ∧ (∀ ch, ch ≠ w.ch → tGet t.chans ch = tGet s.chans ch)
      ∧ ∀ m, m ≠ n.val → t.clus m = s.clus m := by
  rw [chLand_last route whole last]
  have stored := granuleStored_reaches (c := c) (r := r) (w := w) right
  generalize granuleStored s n c r w = q at stored
  let u : State := { q with acks := q.acks ++ [.direct r.src w.id] }
  have before : (u.modChan w.ch fun k => { k with landing := recordWith k w }).chan w.ch
      = { s.chan w.ch with landing := recordWith (s.chan w.ch) w } := by rw [modChan_chan, ← stored.chan]; rfl
  obtain ⟨chan, acks, chans, others⟩ := chLanded_message_spec (s := u.modChan w.ch fun k => { k with landing := recordWith k w }) (n := n) (c := c)
    (r := r) (w := w) (stored.right right) (by rw [before]; exact message)
  rw [before] at chan
  refine ⟨chan, acks.trans ?_, fun ch other => (chans ch other).trans ?_, fun m other => (others m other).trans (stored.others m other)⟩
  · exact congrArg (· ++ [Ack.direct r.src w.id]) stored.acks
  · exact (tGet_tPut ..).trans ((if_neg other).trans (congrArg (tGet · ch) stored.chans))

/-- Settles O32: the two rows act where their effect is the next one due; the descriptor is `messageDesc` of the bytes that have landed. -/
theorem channelLandings : Obligations.ChannelLandings := by
  refine ⟨?_, fun s n e ch bytes r offered next kind route source => ?_⟩
  · intro s n e w r offered next kind last _ route whole right b message
    have acts : exec (.recordLanded n) s = .next (s.after ((taken s n).chLand n e.t w)) :=
      exec_nextDue rfl rfl rfl rfl offered next kind (by simp [clusterRow, last]) (by simp [clusterRow, last])
    obtain ⟨chan, acks, chans, others⟩ := message_lands (s := taken s n) (c := e.t) last route whole right message
    refine ⟨_, messageDesc { s.chan w.ch with landing := b } w e.t, acts, by rw [chan]; rfl, rfl, ?_, rfl, ?_, ?_, acks, chans, others⟩
    · exact Nat.mod_eq_of_lt (recField_lt b 8 4)
    · have status : (messageDesc { s.chan w.ch with landing := b } w e.t).status.getLsbD 0 = crcWrong b w.crc := landingStatus_getLsbD_zero ..
      rw [status]
      exact bne_iff_ne
    · rw [chan]
      exact Nat.mod_eq_of_lt (recField_lt b 2 1)
  · have own : (s.route ch).any (fun q => q.src == n.val) = true := by rw [route]; exact beq_iff_eq.2 source
    have acts : exec (.creditApply n) s = .next (s.after ((taken s n).credit ch bytes)) :=
      exec_nextDue rfl rfl rfl rfl offered next kind own own
    exact ⟨_, acts, modChan_chan .., fun k other => (tGet_tPut ..).trans (if_neg other), fun _ => rfl⟩

end Sys2Proof.Proofs.ChannelLandings
end

section
/-! The proof of O46: what a link receives changes the link and its counters alone, but for the granules that land and a hold that it brings. First the
sequences that a link lists as missing, then the codewords of a wire slot, the flits by kind, and the beat block. -/

namespace Sys2Proof.Proofs.LinkFlits

open Sys2Proof Sys2Proof.Machine Sys2Proof.Laws Sys2Proof.Proofs.HostService Sys2Proof.Proofs.Books Sys2Proof.Proofs.Callers

/-! ## Sequences listed as missing (R457, R459, R465) -/

theorem mem_insertNat {y v : Nat} {l : List Nat} : y ∈ insertNat v l ↔ y = v ∨ y ∈ l := by
  induction l with
  | nil => simp [insertNat]
  | cons x xs ih =>
    unfold insertNat
    split_ifs with less same
    · exact List.mem_cons
    · subst same
      simp
    · rw [List.mem_cons, ih, List.mem_cons]
      exact or_left_comm

theorem mem_insertRange {y b n : Nat} {l : List Nat} :
    y ∈ (List.range n).foldl (fun m i => insertNat (b + i) m) l ↔ y ∈ l ∨ (b ≤ y ∧ y < b + n) := by
  induction n with
  | zero => simp
  | succ n ih =>
    rw [List.range_succ, List.foldl_append, List.foldl_cons, List.foldl_nil, mem_insertNat, ih, or_left_comm]
    refine or_congr_right ?_
    omega

/-- A link whose RX_ACK follows its lists (R460). -/
def ackSettled (k : Link) : Link := { k with rxAck := BitVec.ofNat 32 k.ackSeq }

/-- A link that lists the sequences from SEEN up to a sequence. -/
def listed (e : Nat) (k : Link) : Link :=
  { k with missing := (List.range (e - k.rxFull)).foldl (fun m i => insertNat (k.rxFull + i) m) k.missing }

section
variable {k : Link} {e y : Nat}

theorem listTo_eq (k : Link) (e : Nat) : k.listTo e = ackSettled (if k.rxFull < e then (listed e k).setRx e else listed e k) := rfl

theorem listTo_later (later : k.rxFull < e) : k.listTo e = ackSettled ((listed e k).setRx e) := by rw [listTo_eq, if_pos later]

theorem listTo_reached (reached : e ≤ k.rxFull) : k.listTo e = ackSettled (listed e k) := by rw [listTo_eq, if_neg (Nat.not_lt.2 reached)]

theorem mem_missing_listTo : y ∈ (k.listTo e).missing ↔ y ∈ k.missing ∨ (k.rxFull ≤ y ∧ y < e) := by
  have listed : (k.listTo e).missing = (listed e k).missing := by
    obtain later | reached := Nat.lt_or_ge k.rxFull e
    · rw [listTo_later later]
      rfl
    · rw [listTo_reached reached]
      rfl
  rw [listed]
  refine mem_insertRange.trans (or_congr_right ?_)
  omega

theorem listTo_rxSeen (later : k.rxFull < e) : (k.listTo e).rxSeen = BitVec.ofNat 32 e := by
  rw [listTo_later later]
  rfl

theorem rxFull_setRx (k : Link) (v : Nat) : (k.setRx v).rxFull = v / 2 ^ 32 % 2 ^ 32 * 2 ^ 32 + v % 2 ^ 32 := rfl

theorem rxFull_missing (k : Link) (l : List Nat) : Link.rxFull { k with missing := l } = k.rxFull := rfl

theorem rxFull_listed (e : Nat) (k : Link) : (listed e k).rxFull = k.rxFull := rxFull_missing ..

theorem rxFull_ackSettled (k : Link) : (ackSettled k).rxFull = k.rxFull := rfl

/-- Listing the sequences before an accepted one does not change which one is the highest then. -/
theorem max_rxFull_listTo (k : Link) (e : Nat) : max (k.listTo e).rxFull (e + 1) = max k.rxFull (e + 1) := by
  obtain later | reached := Nat.lt_or_ge k.rxFull e
  · rw [listTo_later later, rxFull_ackSettled, rxFull_setRx]
    omega
  · rw [listTo_reached reached, rxFull_ackSettled, rxFull_listed]

theorem listEnd_none (lost : k.rxEnd = none) : k.listEnd = k := by
  unfold Link.listEnd
  rw [lost]

/-- A link whose ALIVE values count from `b` (R465). -/
def basedAt (b : Nat) (k : Link) : Link := { k with rxBase := b }

theorem missing_basedAt (b : Nat) (k : Link) : (basedAt b k).missing = k.missing := rfl

theorem listEnd_some (ends : k.rxEnd = some e) : k.listEnd = basedAt (max k.rxBase e) (k.listTo e) := by
  unfold Link.listEnd
  rw [ends]
  rfl

theorem mem_missing_listEnd (ends : k.rxEnd = some e) : y ∈ k.listEnd.missing ↔ y ∈ k.missing ∨ (k.rxFull ≤ y ∧ y < e) := by
  rw [listEnd_some ends, missing_basedAt, mem_missing_listTo]

theorem mem_missing_listEnd_of_mem (mem : y ∈ k.missing) : y ∈ k.listEnd.missing := by
  cases ends : k.rxEnd with
  | none => rwa [listEnd_none ends]
  | some e => exact (mem_missing_listEnd ends).2 (.inl mem)

end

/-- From `k` to `q` a link lists sequences: what it knows of received sequences changes, and nothing else. -/
structure SeesSeqs (k q : Link) : Prop where
  eq : q = { k with missing := q.missing, rxSeen := q.rxSeen, rxEpoch := q.rxEpoch, rxAck := q.rxAck, rxBase := q.rxBase, rxLast := q.rxLast }

section
variable {k q r : Link}

theorem SeesSeqs.refl (k : Link) : SeesSeqs k k := ⟨rfl⟩

theorem SeesSeqs.trans (h : SeesSeqs k q) (h' : SeesSeqs q r) : SeesSeqs k r := ⟨h'.eq.trans (by rw [h.eq])⟩

theorem listTo_sees (k : Link) (e : Nat) : SeesSeqs k (k.listTo e) := by
  have lists : ∀ l, SeesSeqs k { k with missing := l } := fun _ => ⟨rfl⟩
  have set : ∀ q : Link, SeesSeqs q (q.setRx e) := fun _ => ⟨rfl⟩
  have settled : ∀ q, SeesSeqs q (ackSettled q) := fun _ => ⟨rfl⟩
  obtain later | reached := Nat.lt_or_ge k.rxFull e
  · rw [listTo_later later]
    exact ((lists _).trans (set _)).trans (settled _)
  · rw [listTo_reached reached]
    exact (lists _).trans (settled _)

theorem listTo_fields (k : Link) (e : Nat) : (k.listTo e).rxBase = k.rxBase ∧ (k.listTo e).rxLast = k.rxLast := by
  have set : ∀ (q : Link) (v : Nat), (q.setRx v).rxBase = q.rxBase ∧ (q.setRx v).rxLast = q.rxLast := fun _ _ => ⟨rfl, rfl⟩
  have settled : ∀ q, (ackSettled q).rxBase = q.rxBase ∧ (ackSettled q).rxLast = q.rxLast := fun _ => ⟨rfl, rfl⟩
  have lists : ∀ (q : Link) (l : List Nat), ({ q with missing := l } : Link).rxBase = q.rxBase ∧ ({ q with missing := l } : Link).rxLast = q.rxLast :=
    fun _ _ => ⟨rfl, rfl⟩
  obtain later | reached := Nat.lt_or_ge k.rxFull e
  · rw [listTo_later later, (settled _).1, (settled _).2, (set _ _).1, (set _ _).2]
    exact lists k _
  · rw [listTo_reached reached, (settled _).1, (settled _).2]
    exact lists k _

theorem listEnd_sees (k : Link) : SeesSeqs k k.listEnd := by
  cases ends : k.rxEnd with
  | none =>
    rw [listEnd_none ends]
    exact .refl k
  | some e =>
    have based : ∀ q, SeesSeqs q (basedAt (max k.rxBase e) q) := fun _ => ⟨rfl⟩
    rw [listEnd_some ends]
    exact (listTo_sees k e).trans (based _)

theorem listEnd_fields (k : Link) : k.listEnd.tags = k.tags ∧ k.listEnd.rxEnd = k.rxEnd ∧ k.listEnd.prevEnd = k.prevEnd
    ∧ k.listEnd.st = k.st ∧ k.listEnd.badCw = k.badCw := by
  rw [(listEnd_sees k).eq]
  exact ⟨rfl, rfl, rfl, rfl, rfl⟩

end

/-! ## What is received on a link changes the link and counters -/

/-- From `s` to `t` a link becomes `k`; the other links stay, and beside the links only counters change. -/
structure SetsLink (l : Fin 16) (k : Link) (s t : State) : Prop where
  link : t.link l = k
  others : ∀ m, m ≠ l.val → t.link m = s.link m
  eq : t = { s with links := t.links, counters := t.counters }

section
variable {l : Fin 16} {k k' : Link} {s t u : State}

theorem SetsLink.refl (s : State) : SetsLink l (s.link l) s s := ⟨rfl, fun _ _ => rfl, rfl⟩

theorem SetsLink.modLink (h : SetsLink l k s t) (f : Link → Link) : SetsLink l (f k) s (t.modLink l f) where
  link := by rw [modLink_link, if_pos ⟨rfl, l.isLt⟩, h.link]
  others m hm := by rw [modLink_link, if_neg fun e => hm e.1, h.others m hm]
  eq := by
    conv_lhs => rw [h.eq]
    rfl

theorem SetsLink.count (h : SetsLink l k s t) (idx sub n : Nat) : SetsLink l k s (t.count idx sub n) where
  link := h.link
  others := h.others
  eq := by
    conv_lhs => rw [h.eq]
    rfl

theorem SetsLink.landing (h : SetsLink l k s t) : t.landing = s.landing := by rw [h.eq]

theorem SetsLink.landed (h : SetsLink l k s t) (d : Nat) : t.landed d = s.landed d := by rw [State.landed, h.landing, State.landed]

theorem SetsLink.cl (h : SetsLink l k s t) : t.cl = s.cl := by rw [h.eq]

theorem SetsLink.dom (h : SetsLink l k s t) : t.dom = s.dom := by rw [h.eq]

end

/-- The key of a counter of a link. -/
abbrev linkKey (l : Fin 16) (sub : Nat) : Nat := (0x9080 + l.val) * 256 + sub

/-- From `s` to `t` a counter of a link has counted one more. -/
def CountedOne (l : Fin 16) (sub : Nat) (s t : State) : Prop :=
  (tGet t.counters (linkKey l sub)).getD 0
    = BitVec.ofNat 64 (min (((tGet s.counters (linkKey l sub)).getD 0).toNat + 1) (2 ^ 64 - 1))

/-- From `s` to `t` a link becomes `k` by codewords that arrive: its counters of wrong ones apart, its counters stay. -/
structure TakesCodewords (l : Fin 16) (k : Link) (s t : State) : Prop extends SetsLink l k s t where
  counters : ∀ sub, 3 ≤ sub → tGet t.counters (linkKey l sub) = tGet s.counters (linkKey l sub)

section
variable {l : Fin 16} {k k' : Link} {s t u : State}

theorem tGet_count_linkKey {sub sub' : Nat} (other : sub' ≠ sub) (s : State) (n : Nat) :
    tGet (s.count (0x9080 + l) sub n).counters (linkKey l sub') = tGet s.counters (linkKey l sub') :=
  counter_count_ne s _ _ _ (by unfold linkKey; omega)

theorem countedOne_of_count {sub : Nat} (same : tGet t.counters (linkKey l sub) = tGet s.counters (linkKey l sub))
    (counters : u.counters = (t.count (0x9080 + l) sub 1).counters) : CountedOne l sub s u := by
  unfold CountedOne
  rw [counters, ← same]
  exact counter_count ..

/-- A link with one more codeword that counts for what became of it (R453, R475). -/
def countedCw (fec : Fec) (k : Link) : Link := { k with badCw := k.badCw + if fec = .uncorrectable then 1 else 0 }

theorem TakesCodewords.codeword (h : TakesCodewords l k s t) {fec : Fec} (few : fec = .uncorrectable → k.badCw + 1 < 64) :
    TakesCodewords l (countedCw fec k) s (t.codeword l fec) := by
  cases fec with
  | clean => exact h
  | corrected =>
    exact ⟨h.toSetsLink.count _ _ _, fun sub own => (tGet_count_linkKey (by omega) t 1).trans (h.counters sub own)⟩
  | uncorrectable =>
    have counted := (h.toSetsLink.count (0x9080 + l) 2 1).modLink (countedCw .uncorrectable)
    have stays : t.codeword l .uncorrectable = (t.count (0x9080 + l) 2 1).modLink l (countedCw .uncorrectable) := by
      refine if_neg (Nat.not_le.2 ?_)
      exact (congrArg Link.badCw counted.link).trans_lt (few rfl)
    rw [stays]
    exact ⟨counted, fun sub own => (tGet_count_linkKey (by omega) t 1).trans (h.counters sub own)⟩

end

/-! ## Hold on the links (R64, R471) -/

section
variable (s : State) (l : Nat)

/-- A hold changes no more of a link than what it sends. -/
theorem holdLinks_link : s.holdLinks.link l =
    { s.link l with holdTx := (s.holdLinks.link l).holdTx, holdAt := (s.holdLinks.link l).holdAt } := by
  unfold State.holdLinks
  split
  · rfl
  · dsimp only
    unfold State.link
    split
    · dsimp only
      rw [Vector.getElem_ofFn]
      split <;> rfl
    · rfl

theorem raiseHold_link_st (cause who loc : Nat) (x : Ctx) : ((s.raiseHold cause who loc none x).link l).st = (s.link l).st := by
  unfold State.raiseHold
  dsimp only
  rw [holdLinks_link]
  have logged : Records s (if (cause = 6 || s.beat.live.contains { cause, who }) = true then s else s.errLog 2 cause loc x loc []) :=
    .ifElse (.refl s) (errLog_records ..)
  rw [logged.eq]
  rfl

end

/-! ## The codewords of a wire slot (R453, R454) -/

/-- The first codeword that the next wire slot of a link touches. -/
def firstCw (k : Link) : Nat := codewordOf (644 + 262 * k.rxSlot)

/-- The last codeword that the next wire slot of a link touches. -/
def lastCw (k : Link) : Nat := codewordOf (644 + 262 * k.rxSlot + 261)

section
variable {l : Fin 16} {s : State} {fec : Fec}

theorem takeSlotCw_touches : (s.takeSlotCw l fec).1 = true ↔
    (firstCw (s.link l) < (s.link l).cwSeen ∧ (s.link l).cwBad = true) ∨ ((s.link l).cwSeen ≤ lastCw (s.link l) ∧ fec = .uncorrectable) := by
  simp [State.takeSlotCw, firstCw, lastCw]

/-- A link with one more wire slot received, whose codewords have not been counted. -/
def slotTaken (o : Link) (fec : Fec) (k : Link) : Link :=
  { k with rxSlot := k.rxSlot + 1, cwSeen := max k.cwSeen (lastCw o + 1), cwBad := if o.cwSeen ≤ lastCw o then fec == .uncorrectable else k.cwBad }

theorem takeSlotCw_state : (s.takeSlotCw l fec).2 =
    let t := s.modLink l (slotTaken (s.link l) fec)
    if (s.link l).cwSeen ≤ lastCw (s.link l) then t.codeword l fec else t := by
  unfold State.takeSlotCw slotTaken lastCw
  simp only

/-- The codeword that a wire slot is the first to touch does not send the link to RETRAIN. -/
def Bearable (k : Link) (fec : Fec) : Prop := k.cwSeen ≤ lastCw k → fec = .uncorrectable → k.badCw + 1 < 64

/-- A link with one more wire slot received. -/
def slotCounted (fec : Fec) (k : Link) : Link :=
  if k.cwSeen ≤ lastCw k then countedCw fec (slotTaken k fec k) else slotTaken k fec k

theorem takeSlotCw_takes (bearable : Bearable (s.link l) fec) : TakesCodewords l (slotCounted fec (s.link l)) s (s.takeSlotCw l fec).2 := by
  have taken : TakesCodewords l (slotTaken (s.link l) fec (s.link l)) s (s.modLink l (slotTaken (s.link l) fec)) :=
    ⟨(SetsLink.refl s).modLink _, fun _ _ => rfl⟩
  rw [takeSlotCw_state]
  unfold slotCounted
  dsimp only
  split
  · next new => exact taken.codeword (bearable new)
  · exact taken

theorem badCodeword_retrains {t : State} (up : (t.link l).st = .up) (many : 64 ≤ (t.link l).badCw + 1) :
    ((t.codeword l .uncorrectable).link l).st = .retrain := by
  have counted := ((SetsLink.refl (l := l) t).count (0x9080 + l) 2 1).modLink (countedCw .uncorrectable)
  have limit : t.codeword l .uncorrectable = ((t.count (0x9080 + l) 2 1).modLink l (countedCw .uncorrectable)).retrain l := by
    refine if_pos ?_
    exact many.trans_eq (congrArg Link.badCw counted.link).symm
  rw [limit]
  generalize (t.count (0x9080 + l) 2 1).modLink l (countedCw .uncorrectable) = u at counted
  have still : (u.link l).st = .up := by rw [counted.link]; exact up
  unfold State.retrain
  dsimp only
  rw [still, if_pos (by decide)]
  unfold State.holdLink
  dsimp only
  rw [raiseHold_link_st, modLink_link, if_pos ⟨rfl, l.isLt⟩]

theorem takeSlotCw_retrains (new : (s.link l).cwSeen ≤ lastCw (s.link l)) (up : (s.link l).st = .up) (many : 64 ≤ (s.link l).badCw + 1) :
    ((s.takeSlotCw l .uncorrectable).2.link l).st = .retrain := by
  have taken := (SetsLink.refl (l := l) s).modLink (slotTaken (s.link l) .uncorrectable)
  rw [takeSlotCw_state]
  dsimp only
  rw [if_pos new]
  exact badCodeword_retrains (by rw [taken.link]; exact up) (by rw [taken.link]; exact many)

/-- A link that is still UP after a wire slot has not reached its limit. -/
theorem bearable_of_up (up : (s.link l).st = .up) (still : ((s.takeSlotCw l fec).2.link l).st = .up) : Bearable (s.link l) fec := by
  rintro new rfl
  by_contra many
  rw [takeSlotCw_retrains new up (Nat.not_lt.1 many)] at still
  cases still

end

/-! ## A wire slot by its kind (R456, R457) -/

section
variable {l : Fin 16} {s t : State} {head : BitVec 48} {body : Bytes} {fec : Fec} {n : Nat} {take : Bool → State → State}

theorem flit_ignored (ignored : (s.link l).st ≠ .up ∨ bits head.toNat 1 0 ≠ n) : s.flit l n head body fec take = s := by
  unfold State.flit
  rw [if_pos (by simpa using ignored)]

/-- Whether a flit that is received passes its checks. -/
abbrev passes (s : State) (l : Fin 16) (head : BitVec 48) (body : Bytes) (fec : Fec) : Bool := flitOk head body (s.takeSlotCw l fec).1

theorem flit_received (up : (s.link l).st = .up) (still : ((s.takeSlotCw l fec).2.link l).st = .up) (kind : bits head.toNat 1 0 = n) :
    s.flit l n head body fec take = (take (passes s l head body fec) (s.takeSlotCw l fec).2).endSlot l := by
  unfold State.flit
  rw [if_neg (by simp [up, kind])]
  dsimp only
  rw [if_neg (by simp [still])]

/-- A flit inside a frame is what its kind makes of it. -/
theorem flit_inside (up : (s.link l).st = .up) (still : ((s.takeSlotCw l fec).2.link l).st = .up) (kind : bits head.toNat 1 0 = n)
    (inside : ((take (passes s l head body fec) (s.takeSlotCw l fec).2).link l).rxSlot ≠ 488) :
    s.flit l n head body fec take = take (passes s l head body fec) (s.takeSlotCw l fec).2 :=
  (flit_received up still kind).trans (if_neg inside)

theorem endSlot_last (last : (t.link l).rxSlot = 488) : t.endSlot l = t.modLink l Link.listEnd := if_pos last

/-- A link on which HOLD has ended. -/
def holdEnded (k : Link) : Link := { k with holdRx := false }

theorem rxFull_holdEnded (k : Link) : (holdEnded k).rxFull = k.rxFull := rfl

theorem missing_holdEnded (k : Link) : (holdEnded k).missing = k.missing := rfl

theorem holdBit_false (s : State) (l : Nat) : s.holdBit l false = s.modLink l holdEnded := rfl

end

/-! ## A flit that lands (R466) -/

/-- The granules that a flit lands: its plaintext, cut. -/
def flitGranules (l q : Nat) (x : Xfr) (plain : Bytes) : List Landed :=
  (x.places l q).map fun a => { pos := a.1, data := (plain.drop (64 * a.2)).take 64, kd := x.kd }

/-- From `s` to `t` the flit of a sequence lands on a link, which becomes `k`. -/
structure LandsFlit (l : Fin 16) (k : Link) (q : Nat) (x : Xfr) (plain : Bytes) (s t : State) : Prop where
  link : t.link l = k
  others : ∀ m, m ≠ l.val → t.link m = s.link m
  landed : t.landed (l.val / 8) = s.landed (l.val / 8) ++ flitGranules l q x plain
  cl : t.cl = s.cl
  dom : t.dom = s.dom

section
variable {l : Fin 16} {s t u : State} {k : Link} {q : Nat} {x : Xfr} {body plain : Bytes}

theorem modLanded_landed {d : Nat} (hd : d < 2) (s : State) (f : List Landed → List Landed) : (s.modLanded d f).landed d = f (s.landed d) := by
  unfold State.landed State.modLanded
  rw [dif_pos hd, dif_pos hd, vmod_get, if_pos rfl]

theorem LandsFlit.after_sets {k' : Link} (before : SetsLink l k' s t) (h : LandsFlit l k q x plain t u) : LandsFlit l k q x plain s u where
  link := h.link
  others m hm := (h.others m hm).trans (before.others m hm)
  landed := by rw [h.landed, before.landed]
  cl := h.cl.trans before.cl
  dom := h.dom.trans before.dom

theorem LandsFlit.modLink (h : LandsFlit l k q x plain s t) (f : Link → Link) : LandsFlit l (f k) q x plain s (t.modLink l f) where
  link := by rw [modLink_link, if_pos ⟨rfl, l.isLt⟩, h.link]
  others m hm := by rw [modLink_link, if_neg fun e => hm e.1, h.others m hm]
  landed := h.landed
  cl := h.cl
  dom := h.dom

theorem LandsFlit.mem_landed (h : LandsFlit l k q x plain s t) (g : Landed) : g ∈ t.landed (l.val / 8) ↔ g ∈ s.landed (l.val / 8) ∨
    ∃ a ∈ x.places l q, g = { pos := a.1, data := (plain.drop (64 * a.2)).take 64, kd := x.kd } := by
  rw [h.landed, List.mem_append, flitGranules, List.mem_map]
  simp only [eq_comm]

/-- A link without a sequence among the missing ones. -/
def foundSeq (q : Nat) (k : Link) : Link := { k with missing := k.missing.filter (· != q) }

theorem mem_missing_foundSeq {y : Nat} : y ∈ (foundSeq q k).missing ↔ y ∈ k.missing ∧ y ≠ q := by
  simp [foundSeq]

/-- A link with a body kept for its tag, and a transfer of which a flit has landed that is not its last. -/
def bodyKept (l q : Nat) (x : Xfr) (body : Bytes) (k : Link) : Link :=
  { k with bodies := tPut k.bodies q body
           opens := k.opens.map fun y => if y = x then { x with landed := x.landed + (x.places l q).length } else y }

/-- A flit that is announced, and whose places are free, lands. -/
theorem takeFlit_lands (announced : (s.link l).openOf q = some x) (free : s.landable l x q = true)
    (more : x.landed + (x.places l q).length ≠ x.count) :
    LandsFlit l (ackSettled (bodyKept l q x body (foundSeq q (s.link l)))) q x (linkCrypt (s.link l).rxKey q body) s
      ((s.takeFlit l q body).settleAck l) := by
  have found := (SetsLink.refl (l := l) s).modLink (foundSeq q)
  have lands : s.takeFlit l q body = (((s.modLink l (foundSeq q)).modLanded (l / 8) fun g =>
      g ++ flitGranules l q x (linkCrypt ((s.modLink l (foundSeq q)).link l).rxKey q body)).modLink l (bodyKept l q x body)) := by
    have last : (x.landed + (x.places l q).length == x.count) = false := beq_false_of_ne more
    unfold State.takeFlit
    rw [announced]
    dsimp only
    rw [if_pos free]
    unfold State.landFlit
    dsimp only
    rw [last]
    rfl
  have key : ((s.modLink l (foundSeq q)).link l).rxKey = (s.link l).rxKey := by rw [found.link]; rfl
  rw [key] at lands
  have stored : LandsFlit l (foundSeq q (s.link l)) q x (linkCrypt (s.link l).rxKey q body) (s.modLink l (foundSeq q))
      ((s.modLink l (foundSeq q)).modLanded (l / 8) fun g => g ++ flitGranules l q x (linkCrypt (s.link l).rxKey q body)) :=
    ⟨found.link, fun _ _ => rfl, modLanded_landed (by omega) _ _, rfl, rfl⟩
  rw [lands]
  exact ((stored.after_sets found).modLink (bodyKept l q x body)).modLink ackSettled

end

/-! ## DATA flits (R362, R459, R465) -/

/-- A link that has accepted a sequence, with the ALIVE that names it; its highest sequence lies before `v` then. -/
def acceptedAt (v q : Nat) (alive : Byte) (k : Link) : Link := { k.setRx v with rxBase := q + 1, rxLast := alive }

/-- A link that has accepted a sequence and lists those that it skips. -/
def seqAccepted (q : Nat) (alive : Byte) (k : Link) : Link := acceptedAt (max (k.listTo q).rxFull (q + 1)) q alive (k.listTo q)

section
variable {l : Fin 16} {s p t u : State} {k : Link} {q : Nat} {x : Xfr} {head : BitVec 48} {body : Bytes} {fec : Fec}

theorem acceptedAt_fields (v q : Nat) (alive : Byte) (k : Link) :
    (acceptedAt v q alive k).missing = k.missing ∧ (acceptedAt v q alive k).rxSeen = BitVec.ofNat 32 v
      ∧ (acceptedAt v q alive k).rxBase = q + 1 ∧ (acceptedAt v q alive k).rxLast = alive := ⟨rfl, rfl, rfl, rfl⟩

theorem acceptedAt_sees (v q : Nat) (alive : Byte) (k : Link) : SeesSeqs k (acceptedAt v q alive k) := ⟨rfl⟩

theorem seqAccepted_sees (q : Nat) (alive : Byte) (k : Link) : SeesSeqs k (seqAccepted q alive k) :=
  (listTo_sees k q).trans (acceptedAt_sees ..)

theorem mem_missing_seqAccepted {alive : Byte} {y : Nat} : y ∈ (seqAccepted q alive k).missing ↔ y ∈ k.missing ∨ (k.rxFull ≤ y ∧ y < q) := by
  rw [seqAccepted, (acceptedAt_fields ..).1, mem_missing_listTo]

theorem seqAccepted_fields (q : Nat) (alive : Byte) (k : Link) : (seqAccepted q alive k).rxSeen = BitVec.ofNat 32 (max k.rxFull (q + 1))
    ∧ (seqAccepted q alive k).rxBase = q + 1 ∧ (seqAccepted q alive k).rxLast = alive := by
  rw [← max_rxFull_listTo]
  exact (acceptedAt_fields _ q alive (k.listTo q)).2

/-- What a link is after a flit of a transfer has landed. -/
def flitLanded (l q : Nat) (x : Xfr) (body : Bytes) (k : Link) : Link := ackSettled (bodyKept l q x body (foundSeq q k))

theorem mem_missing_flitLanded {l y : Nat} : y ∈ (flitLanded l q x body k).missing ↔ y ∈ k.missing ∧ y ≠ q := mem_missing_foundSeq

/-- A flit that lands leaves what is known of received sequences but for the missing ones. -/
theorem flitLanded_fields (l q : Nat) (x : Xfr) (body : Bytes) (k : Link) : (flitLanded l q x body k).rxSeen = k.rxSeen
    ∧ (flitLanded l q x body k).rxBase = k.rxBase ∧ (flitLanded l q x body k).rxLast = k.rxLast ∧ (flitLanded l q x body k).holdRx = k.holdRx :=
  ⟨rfl, rfl, rfl, rfl⟩

theorem flitLanded_rxSlot (l q : Nat) (x : Xfr) (body : Bytes) (k : Link) : (flitLanded l q x body k).rxSlot = k.rxSlot := rfl

theorem seqAccepted_rxSlot (q : Nat) (alive : Byte) (k : Link) : (seqAccepted q alive k).rxSlot = k.rxSlot := by rw [(seqAccepted_sees q alive k).eq]

/-- What a link is after a DATA flit has landed (R465). -/
theorem dataLanded_spec (l q : Nat) (x : Xfr) (body : Bytes) (alive : Byte) (k : Link) :
    let t := flitLanded l q x body (seqAccepted q alive (holdEnded k))
    (∀ y, y ∈ t.missing ↔ (y ∈ k.missing ∨ (k.rxFull ≤ y ∧ y < q)) ∧ y ≠ q) ∧ t.rxSeen = BitVec.ofNat 32 (max k.rxFull (q + 1))
      ∧ t.rxBase = q + 1 ∧ t.rxLast = alive ∧ t.holdRx = false := by
  obtain ⟨seen, base, last, hold⟩ := flitLanded_fields l q x body (seqAccepted q alive (holdEnded k))
  obtain ⟨seen', base', last'⟩ := seqAccepted_fields q alive (holdEnded k)
  rw [rxFull_holdEnded] at seen'
  refine ⟨fun y => ?_, seen.trans seen', base.trans base', last.trans last', hold.trans ?_⟩
  · rw [mem_missing_flitLanded, mem_missing_seqAccepted, rxFull_holdEnded, missing_holdEnded]
  · rw [(seqAccepted_sees ..).eq]
    rfl

/-- A DATA flit with a new ALIVE whose sequence has not landed lands. -/
theorem takeData_lands (link : p.link l = k) (running : head.getLsbD 2 = false)
    (advances : (aliveCheck k.rxLast (BitVec.ofNat 8 (bits head.toNat 15 8))).1 = false) (seq : k.seqOf (bits head.toNat 15 8) = q)
    (fresh : k.rxFull ≤ q ∨ q ∈ k.missing) (announced : k.openOf q = some x) (free : p.landable l x q = true)
    (more : x.landed + (x.places l q).length ≠ x.count) :
    LandsFlit l (flitLanded l q x body (seqAccepted q (BitVec.ofNat 8 (bits head.toNat 15 8)) (holdEnded k))) q x (linkCrypt k.rxKey q body) p
      (p.takeData l head body true) := by
  have new : ((aliveCheck k.rxLast (BitVec.ofNat 8 (bits head.toNat 15 8))).1 || (decide (q < k.rxFull) && !k.missing.contains q)) = false := by
    rw [advances, Bool.false_or]
    simpa using fun behind => fresh.resolve_left (Nat.not_le.2 behind)
  have accepted := ((SetsLink.refl (l := l) p).modLink holdEnded).modLink (seqAccepted q (BitVec.ofNat 8 (bits head.toNat 15 8)))
  have takes : p.takeData l head body true = ((((p.modLink l holdEnded).modLink l
      (seqAccepted q (BitVec.ofNat 8 (bits head.toNat 15 8)))).takeFlit l q body).settleAck l) := by
    unfold State.takeData
    dsimp only
    rw [link, running, seq, new]
    rfl
  rw [takes]
  generalize (p.modLink l holdEnded).modLink l _ = r at accepted
  rw [link] at accepted
  have same := seqAccepted_sees q (BitVec.ofNat 8 (bits head.toNat 15 8)) (holdEnded k)
  have opens : (r.link l).openOf q = some x := by
    rw [accepted.link, Link.openOf, same.eq]
    exact announced
  have free : r.landable l x q = true := by
    unfold State.landable
    rw [accepted.landed]
    exact free
  have key : (r.link l).rxKey = k.rxKey := by
    rw [accepted.link, same.eq]
    rfl
  have lands := (takeFlit_lands (body := body) opens free more).after_sets accepted
  rw [key, accepted.link] at lands
  exact lands

/-- A DATA flit that repeats the last ALIVE, or whose sequence has landed, is counted. -/
theorem takeData_repeats (link : p.link l = k) (running : head.getLsbD 2 = false)
    (known : (aliveCheck k.rxLast (BitVec.ofNat 8 (bits head.toNat 15 8))).1 = true
      ∨ (k.seqOf (bits head.toNat 15 8) < k.rxFull ∧ k.seqOf (bits head.toNat 15 8) ∉ k.missing)) :
    p.takeData l head body true = (p.modLink l holdEnded).count (0x9080 + l) 4 1 := by
  have old : ((aliveCheck k.rxLast (BitVec.ofNat 8 (bits head.toNat 15 8))).1
      || (decide (k.seqOf (bits head.toNat 15 8) < k.rxFull) && !k.missing.contains (k.seqOf (bits head.toNat 15 8)))) = true := by
    simpa using known
  unfold State.takeData
  dsimp only
  rw [link, running, old]
  rfl

/-- A DATA flit that fails its CRC is counted, and lists the next sequence where its slot is a data slot. -/
theorem takeData_fails (p : State) : p.takeData l head body false =
    if (p.link l).rxSlot % 61 = 0 then p.count (0x9080 + l) 3 1
    else (p.count (0x9080 + l) 3 1).modLink l fun k => k.listTo (k.rxFull + 1) := rfl

/-! ## REPLAY flits (R457, R465) -/

/-- A REPLAY flit whose ALIVE names the lowest missing sequence lands as it. -/
theorem takeReplay_lands (link : p.link l = k) (running : head.getLsbD 2 = false) {rest : List Nat} (missing : k.missing = q :: rest)
    (named : bits head.toNat 15 8 = q % 256) (announced : k.openOf q = some x) (free : p.landable l x q = true)
    (more : x.landed + (x.places l q).length ≠ x.count) :
    LandsFlit l (flitLanded l q x body (holdEnded k)) q x (linkCrypt k.rxKey q body) p (p.takeReplay l head body true) := by
  have counted := ((SetsLink.refl (l := l) p).modLink holdEnded).count (0x9080 + l) 5 1
  rw [link] at counted
  have cleared : (p.modLink l holdEnded).link l = holdEnded k := counted.link
  have lowest : (holdEnded k).missing = q :: rest := missing
  have takes : p.takeReplay l head body true = ((((p.modLink l holdEnded).count (0x9080 + l) 5 1).takeFlit l q body).settleAck l) := by
    unfold State.takeReplay
    dsimp only
    rw [running, if_pos rfl, holdBit_false, cleared, lowest]
    dsimp only
    rw [named, beq_self_eq_true, Bool.and_self, if_pos rfl]
  rw [takes]
  generalize (p.modLink l holdEnded).count (0x9080 + l) 5 1 = r at counted
  have opens : (r.link l).openOf q = some x := by rw [counted.link]; exact announced
  have free : r.landable l x q = true := by
    unfold State.landable
    rw [counted.landed]
    exact free
  have lands := (takeFlit_lands (body := body) opens free more).after_sets counted
  rw [counted.link] at lands
  exact lands

/-- A REPLAY flit that fails its CRC, or names another sequence than the lowest missing one, is rejected and counted. -/
theorem takeReplay_rejected (link : p.link l = k) (running : head.getLsbD 2 = false) {ok : Bool}
    (rejected : ok = false ∨ k.missing = [] ∨ k.missing.head?.any (fun q => bits head.toNat 15 8 != q % 256) = true) :
    p.takeReplay l head body ok = (if ok then p.modLink l holdEnded else p.count (0x9080 + l) 3 1).count (0x9080 + l) 6 1 := by
  have before : ∀ r : State, (r.link l).missing = k.missing → (match (r.link l).missing with
      | seq :: _ =>
        if ok && bits head.toNat 15 8 == seq % 256 then ((r.count (0x9080 + l) 5 1).takeFlit l seq body).settleAck l else r.count (0x9080 + l) 6 1
      | [] => r.count (0x9080 + l) 6 1) = r.count (0x9080 + l) 6 1 := by
    intro r same
    rw [same]
    cases missing : k.missing with
    | nil => rfl
    | cons q rest =>
      refine if_neg ?_
      obtain failed | empty | other := rejected
      · simp [failed]
      · simp [empty] at missing
      · rw [missing] at other
        simp only [List.head?_cons, Option.any_some, bne_iff_ne] at other
        simp [other]
  unfold State.takeReplay
  dsimp only
  rw [running]
  cases ok with
  | false => exact before _ (by rw [← link]; rfl)
  | true => exact before (p.modLink l holdEnded) (by rw [modLink_link, if_pos ⟨rfl, l.isLt⟩, link]; rfl)

/-! ## IDLE flits (R457, R471) -/

/-- HOLD received: every domain stops at its next step boundary, and the link notes it. -/
theorem holdBit_true (p : State) (l : Fin 16) :
    let t := p.holdBit l true
    (t.link l).holdRx = true ∧ (t.link l).rxSlot = (p.link l).rxSlot ∧ (∀ d, d < 10 → (t.domN d).stopPend = true) ∧ t.landing = p.landing := by
  have links : ∀ q : State, q.holdAll.link l =
      { q.link l with holdTx := (q.holdAll.link l).holdTx, holdAt := (q.holdAll.link l).holdAt } := fun q => holdLinks_link _ _
  have noted : (p.modLink l fun k => { k with holdRx := true }).link l = { p.link l with holdRx := true } := by
    rw [modLink_link, if_pos ⟨rfl, l.isLt⟩]
  have held : p.holdBit l true = (p.modLink l fun k => { k with holdRx := true }).holdAll := rfl
  dsimp only
  rw [held, links, noted]
  refine ⟨rfl, rfl, fun d hd => ?_, ?_⟩
  · unfold State.domN
    rw [dif_pos hd, (holdAll_fields _).2.1, Vector.getElem_map]
  · unfold State.holdAll
    rw [holdLinks_eq]
    rfl

end

/-! ## Beat blocks (R459, R471, R472) -/

/-- A link at the beat block of a frame. -/
def blockStarted (fec1 : Fec) (k : Link) : Link := { k with rxSlot := 0, cwSeen := 2, cwBad := fec1 == .uncorrectable }

/-- The state in which the two codewords of a beat block have been received. -/
def blockReceived (s : State) (l : Nat) (fec0 fec1 : Fec) : State :=
  ((s.modLink l fun k => blockStarted fec1 k.listEnd).codeword l fec0).codeword l fec1

/-- Whether a beat block passes its checks, if its codewords are decoded. -/
def blockWhole (b : Bytes) : Bool := b.length == 644 && recField b 0 2 == 0x4C52 && (crc32c (b.take 0x280)).toNat == recField b 0x280 4

/-- A link whose beat block is lost: how far its frame goes is not known. -/
def frameLost (k : Link) : Link := { k with prevEnd := k.rxEnd, rxEnd := none }

/-- A link with the neighbour that a beat block names. -/
def neighbourNoted (n : BitVec 10) (k : Link) : Link := { k with neighbour := n }

/-- A link whose frame ends at a sequence, with the tag of the frame before pending where both its ends are known. -/
def frameOpened (carries : Bool) (e : Nat) (tag : BitVec 128) (k : Link) : Link :=
  { k with tags := (match k.prevEnd, k.rxEnd with
            | some a, some b => k.tags ++ [(a, b, tag)]
            | _, _ => k.tags)
           prevEnd := if carries then k.rxEnd else some e, rxEnd := some e }

/-- A link once a beat block has been taken; a frame that carries nothing ends where it begins. -/
def frameBegun (carries : Bool) (e : Nat) (tag : BitVec 128) (k : Link) : Link :=
  if carries then frameOpened carries e tag k else (frameOpened carries e tag k).listEnd

section
variable {l : Fin 16} {s r : State} {k q : Link} {b : Bytes} {fec fec0 fec1 : Fec} {carries : Bool} {e : Nat} {tag : BitVec 128}

theorem countedCw_decoded (decoded : fec ≠ .uncorrectable) (k : Link) : countedCw fec k = k := by
  unfold countedCw
  rw [if_neg decoded]
  rfl

theorem blockReceived_takes (few0 : fec0 = .uncorrectable → (s.link l).badCw + 1 < 64)
    (few1 : fec1 = .uncorrectable → (countedCw fec0 (s.link l)).badCw + 1 < 64) :
    TakesCodewords l (countedCw fec1 (countedCw fec0 (blockStarted fec1 (s.link l).listEnd))) s (blockReceived s l fec0 fec1) := by
  have started : TakesCodewords l (blockStarted fec1 (s.link l).listEnd) s (s.modLink l fun k => blockStarted fec1 k.listEnd) :=
    ⟨(SetsLink.refl s).modLink fun k => blockStarted fec1 k.listEnd, fun _ _ => rfl⟩
  have same : (s.link l).listEnd.badCw = (s.link l).badCw := by rw [(listEnd_sees (s.link l)).eq]
  generalize (s.link l).listEnd = q at started same
  refine (started.codeword fun bad => ?_).codeword fun bad => ?_
  · exact (congrArg (· + 1) same).trans_lt (few0 bad)
  · have counted : (countedCw fec0 (blockStarted fec1 q)).badCw = (countedCw fec0 (s.link l)).badCw := by
      unfold countedCw
      exact congrArg (· + _) same
    rw [counted]
    exact few1 bad

/-- The checks of a beat block, with whether a codeword of it is lost. -/
theorem blockChecks_eq (lost : Bool) (b : Bytes) : (!lost && b.length == 644 && recField b 0 2 == 0x4C52
    && (crc32c (b.take 0x280)).toNat == recField b 0x280 4) = (!lost && blockWhole b) := by
  simp only [blockWhole, Bool.and_assoc]

theorem beatBlock_ignored (down : (s.link l).st ≠ .up) : s.beatBlock l b fec0 fec1 = s := by
  unfold State.beatBlock
  rw [if_pos (by simpa using down)]

/-- A beat block of which a codeword is lost, or that fails its checks, is discarded. -/
theorem beatBlock_discarded (up : (s.link l).st = .up) (still : ((blockReceived s l fec0 fec1).link l).st = .up)
    (fails : fec0 = .uncorrectable ∨ fec1 = .uncorrectable ∨ blockWhole b = false) :
    s.beatBlock l b fec0 fec1 = ((blockReceived s l fec0 fec1).count (0x9080 + l) 3 1).modLink l frameLost := by
  have ok : (!(fec0 == .uncorrectable || fec1 == .uncorrectable) && blockWhole b) = false := by
    obtain rfl | rfl | fails := fails
    · rfl
    · rw [beq_self_eq_true, Bool.or_true]
      rfl
    · rw [fails, Bool.and_false]
  unfold State.beatBlock
  rw [if_neg (by simp [up])]
  dsimp only
  rw [blockChecks_eq, ok, if_neg (by show ¬ (((blockReceived s l fec0 fec1).link l).st != .up) = true; simp [still])]
  rfl

theorem frameBegun_sees (carries : Bool) (e : Nat) (tag : BitVec 128) (k : Link) :
    SeesSeqs (frameOpened carries e tag k) (frameBegun carries e tag k) := by
  unfold frameBegun
  split
  · exact .refl _
  · exact listEnd_sees _

theorem frameBegun_tags : (frameBegun carries e tag k).tags = match k.prevEnd, k.rxEnd with
    | some a, some b => k.tags ++ [(a, b, tag)]
    | _, _ => k.tags := by
  rw [(frameBegun_sees ..).eq]
  rfl

theorem frameBegun_tags_length : (frameBegun carries e tag k).tags.length ≤ k.tags.length + 1 := by
  rw [frameBegun_tags]
  split <;> simp

theorem mem_missing_frameBegun_of_mem {y : Nat} (mem : y ∈ k.missing) : y ∈ (frameBegun carries e tag k).missing := by
  unfold frameBegun
  split
  · exact mem
  · exact mem_missing_listEnd_of_mem mem

/-- The sequences up to the end of a frame that carries nothing are missing. -/
theorem mem_missing_frameBegun_of_lt {y : Nat} (low : k.rxFull ≤ y) (high : y < e) : y ∈ (frameBegun false e tag k).missing :=
  (mem_missing_listEnd (k := frameOpened false e tag k) rfl).2 (.inr ⟨low, high⟩)

/-- What a link is after a beat block without HOLD that passes its checks. -/
def blockTaken (b : Bytes) (k : Link) : Link :=
  frameBegun ((recField b 2 1).testBit 3) (fullNear k.rxFull (recField b 0x0B 4)) (BitVec.ofNat 128 (leNat ((b.drop 0x270).take 16)))
    (holdEnded (neighbourNoted (BitVec.ofNat 10 (recField b 9 2)) k))

/-- The state in which a beat block without HOLD has been noted. -/
def blockNoted (s : State) (l : Nat) (b : Bytes) (fec0 fec1 : Fec) : State :=
  (((blockReceived s l fec0 fec1).modLink l (neighbourNoted (BitVec.ofNat 10 (recField b 9 2)))).holdBit l false).modLink l
    (frameBegun ((recField b 2 1).testBit 3) (fullNear ((blockReceived s l fec0 fec1).link l).rxFull (recField b 0x0B 4))
      (BitVec.ofNat 128 (leNat ((b.drop 0x270).take 16))))

/-- The words of a beat block. -/
def blockWords (b : Bytes) : List Bytes := (List.range 38).map fun i => (b.drop (16 + 16 * i)).take 16

/-- A word of a beat block, by its kind (R460). -/
def wordTaken (l : Nat) (s : State) (w : Bytes) : State :=
  if recField w 0 1 = 1 then s.ackWord l w else if recField w 0 1 = 2 then s.openWord l w
  else if recField w 0 1 = 3 then s.signalWord l w else s

theorem beatBlock_eq (up : (s.link l).st = .up) (decoded0 : fec0 ≠ .uncorrectable) (decoded1 : fec1 ≠ .uncorrectable)
    (still : ((blockReceived s l fec0 fec1).link l).st = .up) (whole : blockWhole b = true) (running : (recField b 2 1).testBit 0 = false) :
    s.beatBlock l b fec0 fec1 = (blockWords b).foldl (wordTaken l) (if 16 < ((blockNoted s l b fec0 fec1).link l).tags.length then
      (blockNoted s l b fec0 fec1).holdLink l else blockNoted s l b fec0 fec1) := by
  have ok : (!(fec0 == .uncorrectable || fec1 == .uncorrectable) && blockWhole b) = true := by
    rw [beq_false_of_ne decoded0, beq_false_of_ne decoded1, whole]
    rfl
  unfold State.beatBlock
  rw [if_neg (by simp [up])]
  dsimp only
  rw [blockChecks_eq, ok, if_neg (by show ¬ (((blockReceived s l fec0 fec1).link l).st != .up) = true; simp [still]), if_neg (by decide), running]
  rfl

/-- The words of a beat block that are of no known kind change nothing. -/
theorem foldl_wordTaken_idle (idle : ∀ j, j < 38 → recField b (16 + 16 * j) 1 = 0 ∨ 3 < recField b (16 + 16 * j) 1) (t : State) :
    (blockWords b).foldl (wordTaken l) t = t := by
  refine List.foldlRecOn (motive := (· = t)) _ _ rfl fun u same w mem => ?_
  obtain ⟨j, range, rfl⟩ := List.mem_map.1 mem
  have kind : recField ((b.drop (16 + 16 * j)).take 16) 0 1 = recField b (16 + 16 * j) 1 := by
    unfold recField
    rw [List.drop_zero, List.take_take]
    rfl
  have known := idle j (List.mem_range.1 range)
  unfold wordTaken
  rw [kind, if_neg (by omega), if_neg (by omega), if_neg (by omega), same]

/-- A beat block without HOLD and without words that passes its checks is taken. -/
theorem beatBlock_taken (up : (s.link l).st = .up) (decoded0 : fec0 ≠ .uncorrectable) (decoded1 : fec1 ≠ .uncorrectable)
    (received : TakesCodewords l k s (blockReceived s l fec0 fec1)) (still : k.st = .up) (whole : blockWhole b = true)
    (running : (recField b 2 1).testBit 0 = false) (room : k.tags.length < 16)
    (idle : ∀ j, j < 38 → recField b (16 + 16 * j) 1 = 0 ∨ 3 < recField b (16 + 16 * j) 1) :
    SetsLink l (blockTaken b k) s (s.beatBlock l b fec0 fec1) := by
  have noted : SetsLink l (blockTaken b k) s (blockNoted s l b fec0 fec1) := by
    unfold blockNoted
    rw [received.link]
    exact ((received.toSetsLink.modLink _).modLink holdEnded).modLink _
  have few : ¬ 16 < ((blockNoted s l b fec0 fec1).link l).tags.length := by
    rw [noted.link]
    exact Nat.not_lt.2 (frameBegun_tags_length.trans room)
  rw [beatBlock_eq up decoded0 decoded1 (by rw [received.link, still]) whole running, if_neg few, foldl_wordTaken_idle idle]
  exact noted

end

/-! ## The obligation -/

section
variable {l : Fin 16} {s t : State} {k : Link} {q : Nat} {x : Xfr} {head : BitVec 48} {body block : Bytes} {fec fec0 fec1 : Fec}

/-- A link that is UP after a wire slot has received it. -/
theorem slot_takes (up : (s.link l).st = .up) (still : ((s.takeSlotCw l fec).2.link l).st = .up) :
    TakesCodewords l ((s.takeSlotCw l fec).2.link l) s (s.takeSlotCw l fec).2 :=
  { takeSlotCw_takes (bearable_of_up up still) with link := rfl }

theorem exec_flitData (s : State) : exec (.flitData l head body fec) s = .next (s.after (s.flitData l head body fec)) := rfl

theorem exec_flitReplay (s : State) : exec (.flitReplay l head body fec) s = .next (s.after (s.flitReplay l head body fec)) := rfl

theorem exec_flitIdle (s : State) : exec (.flitIdle l head body fec) s = .next (s.after (s.flitIdle l head body fec)) := rfl

theorem exec_beatBlock (s : State) : exec (.beatBlock l block (fec0, fec1)) s = .next (s.after (s.beatBlock l block fec0 fec1)) := rfl

/-- A wire slot counts its codewords, and the 64th of a beat that is lost ends the service of the link (R453, R454, R475). -/
theorem wire_slot_counts (s : State) (l : Fin 16) (fec : Fec) :
    let o := s.link l
    let k := (s.takeSlotCw l fec).2.link l
    ((s.takeSlotCw l fec).1 = true ↔ (firstCw o < o.cwSeen ∧ o.cwBad = true) ∨ (o.cwSeen ≤ lastCw o ∧ fec = .uncorrectable))
      ∧ (o.cwSeen ≤ lastCw o → fec = .uncorrectable → 64 ≤ o.badCw + 1 → o.st = .up → k.st = .retrain)
      ∧ (o.st = .up → fec ≠ .uncorrectable ∨ o.badCw + 1 < 64 →
        k = { o with rxSlot := o.rxSlot + 1, cwSeen := max o.cwSeen (lastCw o + 1), cwBad := k.cwBad, badCw := k.badCw }) := by
  refine ⟨takeSlotCw_touches, ?_, fun _ few => ?_⟩
  · rintro new rfl many up
    exact takeSlotCw_retrains new up many
  · have takes := takeSlotCw_takes (s := s) (l := l) (fec := fec) fun _ lost => few.resolve_left (not_not.2 lost)
    rw [takes.link]
    unfold slotCounted
    split <;> rfl

section
variable (up : (s.link l).st = .up) (still : ((s.takeSlotCw l fec).2.link l).st = .up) (slot : (s.takeSlotCw l fec).2.link l = k)
include up still slot

/-- A DATA flit inside a frame that lands (R362, R465, R466). -/
theorem flitData_lands (inside : k.rxSlot ≠ 488) (kind : bits head.toNat 1 0 = 1) (valid : passes s l head body fec = true)
    (running : head.getLsbD 2 = false) (advances : (aliveCheck k.rxLast (BitVec.ofNat 8 (bits head.toNat 15 8))).1 = false)
    (seq : k.seqOf (bits head.toNat 15 8) = q) (fresh : k.rxFull ≤ q ∨ q ∈ k.missing) (announced : k.openOf q = some x)
    (free : (s.takeSlotCw l fec).2.landable l x q = true) (more : x.landed + (x.places l q).length ≠ x.count) :
    LandsFlit l (flitLanded l q x body (seqAccepted q (BitVec.ofNat 8 (bits head.toNat 15 8)) (holdEnded k))) q x (linkCrypt k.rxKey q body) s
      (s.flitData l head body fec) := by
  have takes := slot_takes up still
  have lands := takeData_lands (body := body) slot running advances seq fresh announced free more
  have acts : s.flitData l head body fec = (s.takeSlotCw l fec).2.takeData l head body true := by
    refine (flit_inside up still kind ?_).trans (by rw [valid])
    rw [valid, lands.link, flitLanded_rxSlot, seqAccepted_rxSlot]
    exact inside
  rw [acts]
  exact lands.after_sets takes.toSetsLink

/-- A DATA flit inside a frame that repeats (R362). -/
theorem flitData_repeats (inside : k.rxSlot ≠ 488) (kind : bits head.toNat 1 0 = 1) (valid : passes s l head body fec = true)
    (running : head.getLsbD 2 = false)
    (known : (aliveCheck k.rxLast (BitVec.ofNat 8 (bits head.toNat 15 8))).1 = true
      ∨ (k.seqOf (bits head.toNat 15 8) < k.rxFull ∧ k.seqOf (bits head.toNat 15 8) ∉ k.missing)) :
    SetsLink l (holdEnded k) s (s.flitData l head body fec) ∧ CountedOne l 4 s (s.flitData l head body fec) := by
  have takes := slot_takes up still
  have repeats := takeData_repeats (body := body) slot running known
  have ended := (takes.toSetsLink.modLink holdEnded).count (0x9080 + l) 4 1
  rw [slot] at ended
  have acts : s.flitData l head body fec = ((s.takeSlotCw l fec).2.modLink l holdEnded).count (0x9080 + l) 4 1 := by
    refine (flit_inside up still kind ?_).trans (by rw [valid, repeats])
    rw [valid, repeats, ended.link]
    exact inside
  rw [acts]
  exact ⟨ended, countedOne_of_count (takes.counters 4 (by decide)) rfl⟩

/-- A DATA flit inside a frame that fails its CRC (R453, R459). -/
theorem flitData_fails (inside : k.rxSlot ≠ 488) (kind : bits head.toNat 1 0 = 1) (invalid : passes s l head body fec = false) :
    SetsLink l (if k.rxSlot % 61 = 0 then k else k.listTo (k.rxFull + 1)) s (s.flitData l head body fec)
      ∧ CountedOne l 3 s (s.flitData l head body fec) := by
  have takes := slot_takes up still
  have counted := takes.toSetsLink.count (0x9080 + l) 3 1
  have fails := takeData_fails (l := l) (head := head) (body := body) (s.takeSlotCw l fec).2
  rw [slot] at counted fails
  have listed : SetsLink l (if k.rxSlot % 61 = 0 then k else k.listTo (k.rxFull + 1)) s ((s.takeSlotCw l fec).2.takeData l head body false) := by
    rw [fails]
    split
    · exact counted
    · exact counted.modLink fun k => k.listTo (k.rxFull + 1)
  have acts : s.flitData l head body fec = (s.takeSlotCw l fec).2.takeData l head body false := by
    refine (flit_inside up still kind ?_).trans (by rw [invalid])
    rw [invalid, listed.link]
    split
    · exact inside
    · rw [(listTo_sees k _).eq]
      exact inside
  rw [acts]
  refine ⟨listed, countedOne_of_count (takes.counters 3 (by decide)) ?_⟩
  rw [fails]
  split <;> rfl

/-- A REPLAY flit inside a frame that lands (R465, R466). -/
theorem flitReplay_lands (inside : k.rxSlot ≠ 488) (kind : bits head.toNat 1 0 = 2) (valid : passes s l head body fec = true)
    (running : head.getLsbD 2 = false) {rest : List Nat} (missing : k.missing = q :: rest) (named : bits head.toNat 15 8 = q % 256)
    (announced : k.openOf q = some x) (free : (s.takeSlotCw l fec).2.landable l x q = true) (more : x.landed + (x.places l q).length ≠ x.count) :
    LandsFlit l (flitLanded l q x body (holdEnded k)) q x (linkCrypt k.rxKey q body) s (s.flitReplay l head body fec) := by
  have takes := slot_takes up still
  have lands := takeReplay_lands (body := body) slot running missing named announced free more
  have acts : s.flitReplay l head body fec = (s.takeSlotCw l fec).2.takeReplay l head body true := by
    refine (flit_inside up still kind ?_).trans (by rw [valid])
    rw [valid, lands.link]
    exact inside
  rw [acts]
  exact lands.after_sets takes.toSetsLink

/-- A REPLAY flit inside a frame that is rejected (R465). -/
theorem flitReplay_rejected (inside : k.rxSlot ≠ 488) (kind : bits head.toNat 1 0 = 2) (running : head.getLsbD 2 = false)
    (rejected : passes s l head body fec = false ∨ k.missing = [] ∨ k.missing.head?.any (fun q => bits head.toNat 15 8 != q % 256) = true) :
    SetsLink l (if passes s l head body fec then holdEnded k else k) s (s.flitReplay l head body fec)
      ∧ CountedOne l 6 s (s.flitReplay l head body fec) := by
  have takes := slot_takes up still
  have acts := takeReplay_rejected (body := body) slot running rejected
  have received := takes.toSetsLink
  rw [slot] at received
  have counted : SetsLink l (if passes s l head body fec then holdEnded k else k) s
      ((s.takeSlotCw l fec).2.takeReplay l head body (passes s l head body fec)) := by
    rw [acts]
    split
    · exact (received.modLink holdEnded).count ..
    · exact (received.count ..).count ..
  have whole : s.flitReplay l head body fec = (s.takeSlotCw l fec).2.takeReplay l head body (passes s l head body fec) := by
    refine flit_inside up still kind ?_
    rw [counted.link]
    split <;> exact inside
  rw [whole]
  refine ⟨counted, countedOne_of_count ?_ (congrArg State.counters acts)⟩
  split
  · exact takes.counters 6 (by decide)
  · exact (tGet_count_linkKey (by decide) _ 1).trans (takes.counters 6 (by decide))

/-- An IDLE flit inside a frame carries nothing but HOLD (R457, R471). -/
theorem flitIdle_inside (inside : k.rxSlot ≠ 488) (kind : bits head.toNat 1 0 = 0) : s.flitIdle l head body fec =
    if passes s l head body fec then (s.takeSlotCw l fec).2.holdBit l (head.getLsbD 2) else (s.takeSlotCw l fec).2.count (0x9080 + l) 3 1 := by
  refine flit_inside up still kind ?_
  split
  · cases head.getLsbD 2 with
    | true => rw [(holdBit_true ..).2.1, slot]; exact inside
    | false => rw [holdBit_false, ((SetsLink.refl (l := l) (s.takeSlotCw l fec).2).modLink holdEnded).link, slot]; exact inside
  · show ((s.takeSlotCw l fec).2.link l).rxSlot ≠ 488
    rw [slot]
    exact inside

/-- An IDLE flit inside a frame: HOLD stops every domain, its absence ends a hold on the link, and a wrong CRC is counted (R457, R471). -/
theorem flitIdle_spec (inside : k.rxSlot ≠ 488) (kind : bits head.toNat 1 0 = 0) :
    let t := s.flitIdle l head body fec
    (passes s l head body fec = true → (t.link l).holdRx = head.getLsbD 2
        ∧ (head.getLsbD 2 = true → ∀ d, d < 10 → (t.domN d).stopPend = true) ∧ (head.getLsbD 2 = false → SetsLink l (holdEnded k) s t))
      ∧ (passes s l head body fec = false → SetsLink l k s t ∧ CountedOne l 3 s t) ∧ t.landing = s.landing := by
  have takes := slot_takes up still
  have received := takes.toSetsLink
  have ended := received.modLink holdEnded
  rw [slot] at received ended
  rw [flitIdle_inside up still slot inside kind]
  cases valid : passes s l head body fec with
  | false =>
    exact ⟨fun h => absurd h (by decide), fun _ => ⟨received.count .., countedOne_of_count (takes.counters 3 (by decide)) rfl⟩, received.landing⟩
  | true =>
    rw [if_pos rfl]
    cases head.getLsbD 2 with
    | true =>
      obtain ⟨hold, -, stops, landing⟩ := holdBit_true (s.takeSlotCw l fec).2 l
      exact ⟨fun _ => ⟨hold, fun _ => stops, fun h => absurd h (by decide)⟩, fun h => absurd h (by decide), landing.trans received.landing⟩
    | false =>
      rw [holdBit_false]
      exact ⟨fun _ => ⟨by rw [ended.link]; rfl, fun h => absurd h (by decide), fun _ => ended⟩, fun h => absurd h (by decide), ended.landing⟩

/-- The last wire slot of a frame, with an IDLE flit without HOLD, ends it (R459). -/
theorem flitIdle_last (last : k.rxSlot = 488) (kind : bits head.toNat 1 0 = 0) (valid : passes s l head body fec = true)
    (running : head.getLsbD 2 = false) : SetsLink l (holdEnded k).listEnd s (s.flitIdle l head body fec) := by
  have ended := (slot_takes up still).toSetsLink.modLink holdEnded
  rw [slot] at ended
  have acts : s.flitIdle l head body fec = ((s.takeSlotCw l fec).2.modLink l holdEnded).modLink l Link.listEnd := by
    refine (flit_received up still kind).trans ?_
    rw [valid, running, if_pos rfl, holdBit_false]
    exact endSlot_last (by rw [ended.link]; exact last)
  rw [acts]
  exact ended.modLink Link.listEnd

end

theorem countedCw_st (fec : Fec) (k : Link) : (countedCw fec k).st = k.st := rfl

theorem blockStarted_st (fec1 : Fec) (k : Link) : (blockStarted fec1 k).st = k.st := rfl

theorem rxFull_blockStarted (fec1 : Fec) (k : Link) : (blockStarted fec1 k).rxFull = k.rxFull := rfl

/-- What is left of a link's frame once its beat block is lost. -/
theorem frameLost_blockStarted (k : Link) : frameLost (blockStarted fec1 k.listEnd) =
    { k.listEnd with rxSlot := 0, cwSeen := 2, cwBad := fec1 == .uncorrectable, prevEnd := k.rxEnd, rxEnd := none } := by
  have ends := (listEnd_fields k).2.1
  generalize k.listEnd = q at ends
  rw [← ends]
  rfl

/-- What a link knows of a frame once its beat block has been taken (R459, R471, R472). -/
theorem blockTaken_spec (b : Bytes) (k : Link) :
    let t := blockTaken b k
    let e := fullNear k.rxFull (recField b 0x0B 4)
    t.neighbour = BitVec.ofNat 10 (recField b 9 2) ∧ t.holdRx = false ∧ t.rxSlot = k.rxSlot ∧ t.rxEnd = some e
      ∧ t.prevEnd = (if (recField b 2 1).testBit 3 then k.rxEnd else some e)
      ∧ t.tags = (match k.prevEnd, k.rxEnd with
          | some a, some z => k.tags ++ [(a, z, BitVec.ofNat 128 (leNat ((b.drop 0x270).take 16)))]
          | _, _ => k.tags)
      ∧ (∀ y ∈ k.missing, y ∈ t.missing)
      ∧ ((recField b 2 1).testBit 3 = false → ∀ y, k.rxFull ≤ y → y < e → y ∈ t.missing) := by
  have begun := frameBegun_sees ((recField b 2 1).testBit 3) (fullNear k.rxFull (recField b 0x0B 4))
    (BitVec.ofNat 128 (leNat ((b.drop 0x270).take 16))) (holdEnded (neighbourNoted (BitVec.ofNat 10 (recField b 9 2)) k))
  unfold blockTaken
  dsimp only
  refine ⟨?neighbour, ?hold, ?slot, ?ends, ?before, frameBegun_tags, fun y mem => mem_missing_frameBegun_of_mem mem,
    fun empty y low high => ?lists⟩
  case lists =>
    rw [empty]
    exact mem_missing_frameBegun_of_lt low high
  all_goals
    rw [begun.eq]
    rfl

/-- What a link in state `o` knows of its frames once a beat block has been taken (R459, R471, R472). -/
theorem blockTaken_reports (b : Bytes) (o : Link) :
    let t := blockTaken b (blockStarted fec1 o.listEnd)
    let e := fullNear o.listEnd.rxFull (recField b 0x0B 4)
    t.neighbour = BitVec.ofNat 10 (recField b 9 2) ∧ t.holdRx = false ∧ t.rxSlot = 0 ∧ t.rxEnd = some e
      ∧ t.prevEnd = (if (recField b 2 1).testBit 3 then o.rxEnd else some e)
      ∧ (∀ a z, o.prevEnd = some a → o.rxEnd = some z → t.tags = o.tags ++ [(a, z, BitVec.ofNat 128 (leNat ((b.drop 0x270).take 16)))])
      ∧ (o.prevEnd = none ∨ o.rxEnd = none → t.tags = o.tags)
      ∧ (∀ z, o.rxEnd = some z → ∀ y, o.rxFull ≤ y → y < z → y ∈ t.missing)
      ∧ ((recField b 2 1).testBit 3 = false → ∀ y, o.listEnd.rxFull ≤ y → y < e → y ∈ t.missing)
      ∧ ∀ y ∈ o.missing, y ∈ t.missing := by
  have earlier := fun z (ends : o.rxEnd = some z) y => mem_missing_listEnd (y := y) ends
  have known := fun y => mem_missing_listEnd_of_mem (k := o) (y := y)
  obtain ⟨tagsBefore, rxEnd, prevEnd, -, -⟩ := listEnd_fields o
  generalize o.listEnd = q at earlier known tagsBefore rxEnd prevEnd ⊢
  rw [← tagsBefore, ← rxEnd, ← prevEnd]
  rw [← rxEnd] at earlier
  obtain ⟨neighbour, hold, slot, ends, before, tags, keeps, lists⟩ := blockTaken_spec b (blockStarted fec1 q)
  rw [rxFull_blockStarted] at ends before lists
  refine ⟨neighbour, hold, slot, ends, before, fun a z first last => ?_, fun lost => ?_, fun z ends y low high => ?_, lists, fun y mem => ?_⟩
  · have first : (blockStarted fec1 q).prevEnd = some a := first
    have last : (blockStarted fec1 q).rxEnd = some z := last
    rw [tags, first, last]
    rfl
  · have lost : (blockStarted fec1 q).prevEnd = none ∨ (blockStarted fec1 q).rxEnd = none := lost
    rw [tags]
    obtain lost | lost := lost
    · rw [lost]
      rfl
    · rw [lost]
      cases (blockStarted fec1 q).prevEnd <;> rfl
  · exact keeps y ((earlier z ends y).2 (.inr ⟨low, high⟩))
  · exact keeps y (known y mem)

/-- What is left of a frame once a codeword of its beat block is lost (R453, R459, R472). -/
theorem frameLost_spec (lost : fec0 = .uncorrectable ∨ fec1 = .uncorrectable) (k : Link) :
    let t := frameLost (countedCw fec1 (countedCw fec0 (blockStarted fec1 k.listEnd)))
    t.rxEnd = none ∧ t.prevEnd = k.rxEnd ∧ k.badCw < t.badCw ∧ t.tags = k.tags := by
  obtain ⟨tags, rxEnd, -, -, badCw⟩ := listEnd_fields k
  generalize k.listEnd = q at tags rxEnd badCw ⊢
  refine ⟨rfl, rxEnd, ?_, tags⟩
  show k.badCw < q.badCw + _ + _
  rw [badCw]
  obtain rfl | rfl := lost
  · rw [if_pos rfl]
    omega
  · rw [if_pos rfl]
    omega

/-- A beat block of which a codeword is lost is discarded (R453, R459). -/
theorem beatBlock_lost (up : (s.link l).st = .up) (lost : fec0 = .uncorrectable ∨ fec1 = .uncorrectable) (few : (s.link l).badCw + 2 < 64) :
    SetsLink l (frameLost (countedCw fec1 (countedCw fec0 (blockStarted fec1 (s.link l).listEnd)))) s (s.beatBlock l block fec0 fec1) := by
  have received := blockReceived_takes (s := s) (l := l) (fec0 := fec0) (fec1 := fec1) (fun _ => by omega) fun _ => by
    unfold countedCw
    dsimp only
    split <;> omega
  have still : ((blockReceived s l fec0 fec1).link l).st = .up := by
    rw [received.link, countedCw_st, countedCw_st, blockStarted_st, (listEnd_sees (s.link l)).eq, up]
  rw [beatBlock_discarded up still (lost.imp_right .inl)]
  exact (received.toSetsLink.count ..).modLink frameLost

section
variable (decoded0 : fec0 ≠ .uncorrectable) (decoded1 : fec1 ≠ .uncorrectable)
include decoded0 decoded1

/-- A beat block whose codewords are decoded. -/
theorem blockReceived_decoded : TakesCodewords l (blockStarted fec1 (s.link l).listEnd) s (blockReceived s l fec0 fec1) := by
  have received := blockReceived_takes (s := s) (l := l) (fun lost => absurd lost decoded0) fun lost => absurd lost decoded1
  rwa [countedCw_decoded decoded0, countedCw_decoded decoded1] at received

/-- A beat block that fails its checks is discarded (R459). -/
theorem beatBlock_fails (up : (s.link l).st = .up) (fails : blockWhole block = false) :
    SetsLink l (frameLost (blockStarted fec1 (s.link l).listEnd)) s (s.beatBlock l block fec0 fec1)
      ∧ CountedOne l 3 s (s.beatBlock l block fec0 fec1) := by
  have received := blockReceived_decoded (s := s) (l := l) decoded0 decoded1
  have still : ((blockReceived s l fec0 fec1).link l).st = .up := by
    rw [received.link, blockStarted_st, (listEnd_sees (s.link l)).eq, up]
  rw [beatBlock_discarded up still (.inr (.inr fails))]
  exact ⟨(received.toSetsLink.count ..).modLink frameLost, countedOne_of_count (received.counters 3 (by decide)) rfl⟩

/-- A beat block without HOLD and without words that passes its checks is taken (R459). -/
theorem beatBlock_taken_decoded (up : (s.link l).st = .up) (whole : blockWhole block = true) (running : (recField block 2 1).testBit 0 = false)
    (room : (s.link l).tags.length < 16) (idle : ∀ j, j < 38 → recField block (16 + 16 * j) 1 = 0 ∨ 3 < recField block (16 + 16 * j) 1) :
    SetsLink l (blockTaken block (blockStarted fec1 (s.link l).listEnd)) s (s.beatBlock l block fec0 fec1) := by
  have received := blockReceived_decoded (s := s) (l := l) decoded0 decoded1
  have same := listEnd_sees (s.link l)
  generalize (s.link l).listEnd = q at received same ⊢
  have st : q.st = .up := by rw [same.eq, up]
  have tags : q.tags = (s.link l).tags := by rw [same.eq]
  rw [← tags] at room
  exact beatBlock_taken up decoded0 decoded1 received st whole running room idle

end
end

/-- Settles O46: a wire slot by `wire_slot_counts`, the flits by kind, the end of a frame by `listEnd`, and beat blocks by what becomes of their
codewords. -/
theorem flitsAndBlocks : Obligations.FlitsAndBlocks := by
  intro s l head body block fec fec0 fec1 kind alive p k ok others lands counted
  refine ⟨?ignored, wire_slot_counts s l fec, fun up still inside => ⟨fun data => ⟨?_, ?_, ?_⟩, fun replay => ⟨?_, ?_⟩, fun idle => ?idle⟩,
    ?last, ?down, fun up decoded0 decoded1 => ⟨?_, ?_⟩, ?lost⟩
  case ignored =>
    rintro i n (⟨rfl, rfl⟩ | ⟨rfl, rfl⟩ | ⟨rfl, rfl⟩) ignored
    all_goals exact congrArg (commit s) (flit_ignored ignored)
  · intro x valid running advances q fresh announced free more
    have landed := flitData_lands up still rfl inside data valid running advances rfl fresh announced free more
    refine ⟨_, exec_flitData s, ⟨landed.mem_landed, landed.others, landed.cl, landed.dom⟩, ?_⟩
    rw [landed.link]
    exact dataLanded_spec ..
  · intro valid running known
    obtain ⟨repeats, counts⟩ := flitData_repeats up still rfl inside data valid running known
    exact ⟨_, exec_flitData s, repeats.link, repeats.others, repeats.landing, counts, repeats.eq⟩
  · intro invalid
    obtain ⟨fails, counts⟩ := flitData_fails up still rfl inside data invalid
    refine ⟨_, exec_flitData s, fun retry => fails.link.trans (if_pos retry), fun loaded => ?_, fails.others, counts, fails.eq⟩
    rw [fails.link, if_neg loaded]
    exact ⟨mem_missing_listTo.2 (.inr ⟨le_rfl, Nat.lt_succ_self _⟩), fun y mem => mem_missing_listTo.2 (.inl mem),
      listTo_rxSeen (Nat.lt_succ_self _), (listTo_fields k _).1, (listTo_fields k _).2⟩
  · intro q rest x missing valid running named announced free more
    have landed := flitReplay_lands up still rfl inside replay valid running missing named announced free more
    refine ⟨_, exec_flitReplay s, ⟨landed.mem_landed, landed.others, landed.cl, landed.dom⟩, ?_⟩
    rw [landed.link]
    exact ⟨fun y => mem_missing_flitLanded, rfl, rfl⟩
  · intro rejected running
    obtain ⟨rejects, counts⟩ := flitReplay_rejected up still rfl inside replay running rejected
    refine ⟨_, exec_flitReplay s, ?_, rejects.landing, rejects.others, counts⟩
    rw [rejects.link]
    split <;> rfl
  case idle =>
    obtain ⟨heard, fails, landing⟩ := flitIdle_spec (body := body) up still rfl inside idle
    refine ⟨_, exec_flitIdle s, fun valid => ?_, fun invalid => ?_, landing⟩
    · obtain ⟨hold, stops, runs⟩ := heard valid
      refine ⟨hold, fun holds d hd _ => stops holds d hd, fun running => ?_⟩
      have ended := runs running
      exact ⟨ended.link, ended.others, ended.dom⟩
    · obtain ⟨keeps, counts⟩ := fails invalid
      exact ⟨keeps.link, counts, keeps.eq⟩
  case last =>
    intro up still last idle valid running
    have ended := flitIdle_last up still rfl last idle valid running
    refine ⟨_, exec_flitIdle s, ?_, ?_, ended.others⟩
    · intro e ends y low high
      rw [ended.link]
      exact (mem_missing_listEnd (k := holdEnded k) ends).2 (.inr ⟨low, high⟩)
    · intro y mem
      rw [ended.link]
      exact mem_missing_listEnd_of_mem mem
  case down => exact fun down => congrArg (commit s) (beatBlock_ignored down)
  · intro fails
    obtain ⟨discards, counts⟩ := beatBlock_fails decoded0 decoded1 up fails
    refine ⟨_, exec_beatBlock s, ?_, discards.others, counts, discards.eq⟩
    rw [discards.link, frameLost_blockStarted, beq_false_of_ne decoded1]
  · intro whole running room words
    have taken := beatBlock_taken_decoded decoded0 decoded1 up whole running room words
    obtain ⟨neighbour, hold, slot, ends, before, tags, untagged, earlier, lists, keeps⟩ := blockTaken_reports block (s.link l)
    refine ⟨_, exec_beatBlock s, ?_⟩
    rw [taken.link]
    exact ⟨neighbour, hold, slot, ends, before, tags, untagged, earlier, lists, keeps, taken.others, taken.eq⟩
  case lost =>
    intro up lost few
    have discards := beatBlock_lost (block := block) up lost few
    obtain ⟨ends, before, more, tags⟩ := frameLost_spec lost (s.link l)
    refine ⟨_, exec_beatBlock s, ?_⟩
    rw [discards.link]
    exact ⟨ends, before, more, tags, discards.others, discards.eq⟩

end Sys2Proof.Proofs.LinkFlits
end
